-- ==== Sys2Proof/Word.lean ====
section
/-! DEFINITION. The word types of the machine and the one sparse-map type that every indexed piece of state uses. -/
namespace Sys2Proof

/-- A byte of memory (R5). -/
abbrev Byte := BitVec 8
/-- A 32-bit word: payloads, local registers, constants (R48, R57). -/
abbrev W32 := BitVec 32
/-- A 64-bit word: management registers, reel registers, relocation entries. -/
abbrev W64 := BitVec 64

/-- A sparse map from numbers to values: keys strictly rising, no entry equal to the default. -/
abbrev FMap (α : Type) := List (Nat × α)

/-- The value at key `a`; `d` where the map lists nothing. -/
def FMap.get {α : Type} (d : α) : FMap α → Nat → α
  | [], _ => d
  | (k, v) :: m, a => if k = a then v else if a < k then d else FMap.get d m a

/-- The map with `v` at key `a`, in canonical form: a default value removes the entry. -/
def FMap.put {α : Type} [DecidableEq α] (d : α) : FMap α → Nat → α → FMap α
  | [], a, v => if v = d then [] else [(a, v)]
  | (k, w) :: m, a, v =>
    if a < k then (if v = d then (k, w) :: m else (a, v) :: (k, w) :: m)
    else if k = a then (if v = d then m.filter (fun p => decide (a < p.1)) else (a, v) :: m)
    else (k, w) :: FMap.put d m a v

/-- The canonical form: keys strictly rising from above `lo`, no default listed. -/
def FMap.wfFrom {α : Type} [DecidableEq α] (d : α) : Option Nat → FMap α → Bool
  | _, [] => true
  | lo, (k, v) :: m =>
    (match lo with | none => true | some l => decide (l < k)) && decide (v ≠ d) && FMap.wfFrom d (some k) m

/-- The map is in canonical form. -/
def FMap.wf {α : Type} [DecidableEq α] (d : α) (m : FMap α) : Bool := FMap.wfFrom d none m

/-- The keys listed, in order. -/
def FMap.keys {α : Type} (m : FMap α) : List Nat := m.map Prod.fst

/-- The least number above every listed key (a fresh key). -/
def FMap.fresh {α : Type} : FMap α → Nat
  | [] => 0
  | (k, _) :: m => max (k + 1) (FMap.fresh m)

/-- The map with the entry at `a` removed. -/
def FMap.del {α : Type} (m : FMap α) (a : Nat) : FMap α := m.filter (fun p => p.1 ≠ a)

end Sys2Proof
end

