-- ==== Sys2Proof/Syntax.lean ====
section
/-! DEFINITION. The syntax: operand forms, the five encoded forms of Narmi (R176 to R186) and the machine's other indivisible steps, one constructor of `Instr` for each row of the opcode table. -/
namespace Sys2Proof

/-- A slot operand selector (Table 8.1): pop or peek the side's queue, a local register, or the constant that CIDX names. -/
inductive Src where
  | pop
  | peek
  | k (i : BitVec 3)
  | c
  deriving DecidableEq, Repr, Inhabited

/-- A target field (Table 8.2). Queues: 0 `qL`, 1 `qR`, 2 `qX`, 3 `qP`. -/
inductive Target where
  | none
  | queue (q : BitVec 2) (e : BitVec 6)
  | kreg (i : BitVec 3)
  | preg (i : BitVec 4)
  | cw (i : BitVec 4)
  | ac (i : BitVec 4)
  | sp (i : BitVec 4)
  | mx (i : BitVec 4)
  deriving DecidableEq, Repr, Inhabited

/-- The fields of an S48 slot word other than its opcode (R176). `cidx` is AUX[9:6]. -/
structure Slot where
  mod : BitVec 4
  pq : Bool
  l : Src
  r : Src
  t1 : Target
  t2 : Target
  sq : Bool
  cidx : BitVec 4
  deriving DecidableEq, Repr, Inhabited

/-- The fields of an M64 matrix word other than MOP (R182). -/
structure MWord where
  fmt : BitVec 4
  pi : BitVec 6
  scsw : BitVec 2
  scsa : BitVec 2
  dtgt : Target
  cnt : BitVec 16
  opx : BitVec 18
  deriving DecidableEq, Repr, Inhabited

/-- A reel operand that is a reel register or an immediate (R321). -/
inductive RegOr (n : Nat) where
  | reg (r : BitVec 4)
  | imm (v : BitVec n)
  deriving DecidableEq, Repr, Inhabited

/-- The operand of `plane` (R322): a plane, or two planes chosen by a predicate line. -/
inductive PlaneSel where
  | direct (p : BitVec 2)
  | pred (line : BitVec 4) (p q : BitVec 2)
  deriving DecidableEq, Repr, Inhabited

/-- The source of `movs` (R322). -/
inductive MovSrc where
  | imm (v : BitVec 44)
  | reg (b : BitVec 4)
  | n (lc : BitVec 2)
  | usr (i : BitVec 4)
  deriving DecidableEq, Repr, Inhabited

/-- The common fields of an X256 request (Table 8.9). -/
structure XHead where
  tag : BitVec 24
  sc : Bool
  cq : Bool
  cring : BitVec 12
  sctr : BitVec 12
  deriving DecidableEq, Repr, Inhabited

/-- Source, destination and length of a copy (Table 13.4, kinds 0, 6 and 8). -/
structure CopyArgs where
  src : BitVec 64
  dst : BitVec 64
  len : BitVec 40
  deriving DecidableEq, Repr, Inhabited

/-- The fields of a tensor request (Table 13.4, kinds 1 and 2). -/
structure TensorArgs where
  lr : BitVec 57
  lsp : Bool
  loc : BitVec 32
  o : BitVec 96
  deriving DecidableEq, Repr, Inhabited

/-- The fields of a gather or scatter (Table 13.4, kinds 3 and 4). -/
structure RowArgs where
  tab : BitVec 57
  log2rsz : BitVec 5
  idx : BitVec 57
  lsp : Bool
  nix : BitVec 32
  loc : BitVec 32
  deriving DecidableEq, Repr, Inhabited

/-- The common fields of a G64 node (Table 8.10). -/
structure GHead where
  prio : BitVec 3
  next : BitVec 32
  deriving DecidableEq, Repr, Inhabited

/-- An agent of the machine that can make the next step on a word of its own (the model's name for "who moves").
`slot` a scalar element's running event handler, `reel` a region's Reel section, `matrix` a matrix element,
`mult` the bank-group multipliers under base-slice program n of stack k (m = 64*k + n), `port` a request in execution, `walk` a graph walk. -/
inductive Agent where
  | slot (el : Nat)
  | reel (rg : Nat)
  | matrix (el : Nat)
  | mult (m : Nat)
  | port (rq : Nat)
  | walk (wk : Nat)
  deriving DecidableEq, Repr, Inhabited

/-- The instructions: one constructor for each row of the opcode table, in the table's order.
A slot, matrix, reel, transfer or node constructor carries the decoded fields of its word; an event carries
the part it happens to (package `pk`, die `mp` = 16*package + memory-port die, `ring` = 64*package + ring,
`st` = 32*ring + stripe, `el` = 128*st + element, `rs` = 32*ring + ring stream, `sk` = 16*package + stack,
`rg` = 64*Figure + region, and the numbers of accesses, waits, requests, walks and tasks in the state). -/
inductive Instr where
  /-- NOP (R207): Fires with no effect while holding the element's issue slot for the cycle -/
  | nop (f : Slot)
  /-- ADD (R207): Adds the lanes of a and b, saturating or wrapping -/
  | add (f : Slot)
  /-- SUB (R207): Subtracts the lanes of b from a, saturating or wrapping -/
  | sub (f : Slot)
  /-- MUL (R207): Multiplies the lanes of a and b and keeps the low part -/
  | mul (f : Slot)
  /-- MULH (R207): Returns the high half of each exact lane product -/
  | mulh (f : Slot)
  /-- MAD (R207): Returns a times b plus x for each lane -/
  | mad (f : Slot)
  /-- ABS (R207): Returns the absolute value of each signed lane -/
  | abs (f : Slot)
  /-- NEG (R207): Returns the negation of each signed lane -/
  | neg (f : Slot)
  /-- MIN (R207): Returns the smaller of a and b for each lane -/
  | min (f : Slot)
  /-- MAX (R207): Returns the larger of a and b for each lane -/
  | max (f : Slot)
  /-- CLZ (R212): Counts the leading zeros of each lane -/
  | clz (f : Slot)
  /-- POPC (R212): Counts the set bits of each lane -/
  | popc (f : Slot)
  /-- BREV (R212): Reverses the bits of each lane -/
  | brev (f : Slot)
  /-- BPERM (R209): Builds each result byte from a byte of a chosen by a selector in b -/
  | bperm (f : Slot)
  /-- ADDC (R208): Adds with carry in and emits the sum and the carry out -/
  | addc (f : Slot)
  /-- SUBB (R208): Subtracts with borrow in and emits the difference and the borrow out -/
  | subb (f : Slot)
  /-- DIV (R210): Divides a by b with truncation and returns defined values for zero and overflow -/
  | div (f : Slot)
  /-- REM (R210): Returns the remainder of a divided by b -/
  | rem (f : Slot)
  /-- SAD (R207): Adds x to the sum of the absolute lane differences -/
  | sad (f : Slot)
  /-- DP4 (R207): Adds x to the dot product of the packed lanes -/
  | dp4 (f : Slot)
  /-- MOV (R207): Emits a unchanged -/
  | mov (f : Slot)
  /-- AND (R212): Returns a and b -/
  | and (f : Slot)
  /-- OR (R212): Returns a or b -/
  | or (f : Slot)
  /-- XOR (R212): Returns a xor b -/
  | xor (f : Slot)
  /-- ANDN (R212): Returns a and not b -/
  | andn (f : Slot)
  /-- NOT (R212): Returns not a -/
  | not (f : Slot)
  /-- LOP3 (R215): Applies a three-input truth table from a constant bitwise -/
  | lop3 (f : Slot)
  /-- SHL (R213): Shifts each lane left -/
  | shl (f : Slot)
  /-- SHR (R213): Shifts each lane right, logically or arithmetically -/
  | shr (f : Slot)
  /-- ROT (R213): Rotates each lane left -/
  | rot (f : Slot)
  /-- FSH (R213): Funnel-shifts the pair a and b by an amount from x -/
  | fsh (f : Slot)
  /-- BFX (R214): Extracts a bit field of a, zero- or sign-extended -/
  | bfx (f : Slot)
  /-- BFI (R214): Inserts bits of x into a field of a -/
  | bfi (f : Slot)
  /-- BSWAP (R212): Reverses the byte order of a -/
  | bswap (f : Slot)
  /-- CMP (R216): Compares integers under a condition and emits 1 or 0 -/
  | cmp (f : Slot)
  /-- FCMP (R216): Compares FP32 values under a condition and emits 1 or 0 -/
  | fcmp (f : Slot)
  /-- SEL (R217): Emits a when x is true and b when it is false -/
  | sel (f : Slot)
  /-- STEER (R218): Sends a to TGT1 or TGT2 according to the decider -/
  | steer (f : Slot)
  /-- MERGE (R219): Pops a decider from qX and forwards the operand that it chooses -/
  | merge (f : Slot)
  /-- GATE (R218): Forwards a when the decider is true and drops it otherwise -/
  | gate (f : Slot)
  /-- INV (R220): Emits the held left value and pops it only when the decider is false -/
  | inv (f : Slot)
  /-- JOIN (R221): Waits for all its operands and forwards the left one, or a null completion -/
  | join (f : Slot)
  /-- CTOK (R222): Creates a barrier, reconfigure or end-of-stream control token -/
  | ctok (f : Slot)
  /-- CTOK_ILAST (R223): Emits an iteration-last token to the slot's own loop context -/
  | ctokIlast (f : Slot)
  /-- PSET (R224): Sets a predicate line from a -/
  | pset (f : Slot)
  /-- PGET (R224): Emits the value of a predicate line -/
  | pget (f : Slot)
  /-- LOOPGEN (R225): Emits the next index and flag for a peeked bound and steps the counter register -/
  | loopgen (f : Slot)
  /-- LOOPGEN2 (R226): Generates a two-level index nest from one bound token -/
  | loopgen2 (f : Slot)
  /-- ITR (R228): Emits the low or high word of the current iteration -/
  | itr (f : Slot)
  /-- COPYID (R228): Emits the copy index or the copy count -/
  | copyid (f : Slot)
  /-- CNT (R227): Counts firings in groups of N and emits 1 at each group's end -/
  | cnt (f : Slot)
  /-- LASTP (R228): Emits whether the local iteration is the first or the last -/
  | lastp (f : Slot)
  /-- STAGEV (R228): Emits stage-valid bits or whether the iteration is live -/
  | stagev (f : Slot)
  /-- FADD (R232): Adds floating-point lanes with one rounding -/
  | fadd (f : Slot)
  /-- FSUB (R232): Subtracts floating-point lanes with one rounding -/
  | fsub (f : Slot)
  /-- FMUL (R232): Multiplies floating-point lanes with one rounding -/
  | fmul (f : Slot)
  /-- FFMA (R232): Forms a times b plus x with one rounding -/
  | ffma (f : Slot)
  /-- FMIN (R233): Returns the IEEE minimum of each lane pair -/
  | fmin (f : Slot)
  /-- FMAX (R233): Returns the IEEE maximum of each lane pair -/
  | fmax (f : Slot)
  /-- FABS (R234): Clears the sign bit of each lane -/
  | fabs (f : Slot)
  /-- FNEG (R234): Inverts the sign bit of each lane -/
  | fneg (f : Slot)
  /-- FCLASS (R235): Returns a one-hot class mask for each lane -/
  | fclass (f : Slot)
  /-- FSCALE (R236): Multiplies each lane by a power of two with one rounding -/
  | fscale (f : Slot)
  /-- FROUND (R237): Rounds each lane to an integral value -/
  | fround (f : Slot)
  /-- FCSGN (R234): Gives each lane of a the sign of the same lane of b -/
  | fcsgn (f : Slot)
  /-- FDOT2 (R238): Adds a two-lane dot product to an FP32 value with one rounding -/
  | fdot2 (f : Slot)
  /-- FRCP (R239): Returns the correctly rounded reciprocal -/
  | frcp (f : Slot)
  /-- FRSQ (R239): Returns the correctly rounded reciprocal square root -/
  | frsq (f : Slot)
  /-- FSQRT (R239): Returns the square root rounded in the given mode -/
  | fsqrt (f : Slot)
  /-- FEXP2 (R239): Returns the correctly rounded 2 to the power a -/
  | fexp2 (f : Slot)
  /-- FLOG2 (R239): Returns the correctly rounded base-2 logarithm -/
  | flog2 (f : Slot)
  /-- FSIN (R239): Returns the correctly rounded sine -/
  | fsin (f : Slot)
  /-- FCOS (R239): Returns the correctly rounded cosine -/
  | fcos (f : Slot)
  /-- FTANH (R239): Returns the correctly rounded hyperbolic tangent -/
  | ftanh (f : Slot)
  /-- FDIV (R239): Divides a by b, rounded in the given mode -/
  | fdiv (f : Slot)
  /-- PHX (R241): Returns one output word of Philox-4x32-10 for the operands and the key in c14 and c15 -/
  | phx (f : Slot)
  /-- RADD (R251): Adds a leaf into an ordered or fast reduction in the stripe's hold store -/
  | radd (f : Slot)
  /-- RMAX (R251): Combines a leaf into a maximum reduction -/
  | rmax (f : Slot)
  /-- RMIN (R251): Combines a leaf into a minimum reduction -/
  | rmin (f : Slot)
  /-- RMAXSC (R258): Updates the running maximum and emits the rescale factor and the new maximum -/
  | rmaxsc (f : Slot)
  /-- CVTF (R242): Converts between FP32 and the 16-bit floating-point formats -/
  | cvtf (f : Slot)
  /-- CVTI (R243): Converts FP32 to saturated integers -/
  | cvti (f : Slot)
  /-- CVTIF (R244): Converts integers to FP32 -/
  | cvtif (f : Slot)
  /-- PACK (R245): Narrows two values into one lane pair of a packed word -/
  | pack (f : Slot)
  /-- UNPACK (R246): Widens one lane pair of a packed word into two results -/
  | unpack (f : Slot)
  /-- BQ (R247): Pops one FP32 value into the quantiser buffer for block quantisation -/
  | bq (f : Slot)
  /-- BQ_BLOCK_EMIT (R248): The quantiser emits a completed block's scale header and data tokens as target space allows -/
  | bqBlockEmit (el : Nat)
  /-- BDQ (R250): Latches any scale headers and dequantises one lane pair to FP32 -/
  | bdq (f : Slot)
  /-- LDB (R264): Reads an aligned word from the ring's banks -/
  | ldb (f : Slot)
  /-- STB (R264): Writes an aligned word to the ring's banks -/
  | stb (f : Slot)
  /-- LNSEND (R265): Places a on a lane and emits it to both targets -/
  | lnsend (f : Slot)
  /-- LNTAP (R266): Takes or copies the lane token standing at the stripe -/
  | lntap (f : Slot)
  /-- SPOP (R267): Pops the head token of an inbound stream port and forwards it whole -/
  | spop (f : Slot)
  /-- SPUSH (R268): Writes a token to an outbound stream port -/
  | spush (f : Slot)
  /-- CBPUT_OPEN (R269): Opens a put of a message to a circular buffer -/
  | cbputOpen (f : Slot)
  /-- CBPUT_WORD (R269): Writes one payload word of the open put, advancing TAIL at the last word -/
  | cbputWord (f : Slot)
  /-- CBGET_OPEN (R270): Claims the next message of a circular buffer -/
  | cbgetOpen (f : Slot)
  /-- CBGET_WORD (R270): Emits the next payload word of the claimed message, advancing HEAD at the last -/
  | cbgetWord (f : Slot)
  /-- AGEN (R271): Writes one configuration field of a ring stream in stream order -/
  | agen (f : Slot)
  /-- LDG (R273): Issues an unindexed load on a ring stream -/
  | ldg (f : Slot)
  /-- STG (R273): Issues an unindexed store on a ring stream at a scope -/
  | stg (f : Slot)
  /-- LDGX (R273): Issues an indexed load on a ring stream -/
  | ldgx (f : Slot)
  /-- STGX (R273): Issues an indexed store on a ring stream at a scope -/
  | stgx (f : Slot)
  /-- PFG (R273): Requests translation and movement of a block without changing a value -/
  | pfg (f : Slot)
  /-- ATOM (R275): Issues an atomic operation that returns the old value -/
  | atom (f : Slot)
  /-- CAS (R276): Issues a bitwise compare-and-swap -/
  | cas (f : Slot)
  /-- RED (R275): Issues an atomic operation that returns no value -/
  | red (f : Slot)
  /-- FENCE (R277): Waits for the element's earlier accesses to be performed at a scope -/
  | fence (f : Slot)
  /-- SBAR (R278): Places a barrier across the named ring streams -/
  | sbar (f : Slot)
  /-- XREQ (R279): Sends one word of an X256 request packet to a transfer port -/
  | xreq (f : Slot)
  /-- LRFLUSH (R282): Drops a layout record from every layout-record cache of the package -/
  | lrflush (f : Slot)
  /-- PUBLISH (R281): Sends a shadow-pair publish handle to its package -/
  | publish (f : Slot)
  /-- SECW_SET (R283): Writes a sector counter -/
  | secwSet (f : Slot)
  /-- SECW (R283): Waits until a sector counter reaches a value -/
  | secw (f : Slot)
  /-- CRD (R284): Waits until a completion ring holds a given record -/
  | crd (f : Slot)
  /-- MSEND (R286): Sends the message buffer as an irrevocable host message -/
  | msend (f : Slot)
  /-- MWORD (R285): Writes one slot of the element's message buffer -/
  | mword (f : Slot)
  /-- RDIN (R287): Emits the open or the sealed interval number -/
  | rdin (f : Slot)
  /-- SEALREQ (R287): Raises a seal request -/
  | sealreq (f : Slot)
  /-- RDCR (R288): Reads an element-visible control register, latching CYCHI on a read of CYCLO -/
  | rdcr (f : Slot)
  /-- WRCR (R288): Writes an element-visible control register for the region -/
  | wrcr (f : Slot)
  /-- EVC (R289): Sets, clears or writes EVMASK and emits its old value -/
  | evc (f : Slot)
  /-- TRAP (R290): Raises a software trap that halts and holds the Figure -/
  | trap (f : Slot)
  /-- BRK (R290): Raises a break when BRKEN.EN is 1 -/
  | brk (f : Slot)
  /-- HALT (R291): Retires the region with an exit word -/
  | halt (f : Slot)
  /-- SLOT_INDEX_ISSUE (R26): A loop context fires every enabled slot of its slot index together once all have operands and space -/
  | slotIndexIssue (rg : Nat) (lc : Nat) (ws : Nat)
  /-- ITERATION_LAST_DELIVERY (R28): An iteration-last token reaches its loop context, which raises the exit and marks squashed stages -/
  | iterationLastDelivery (rg : Nat)
  /-- EVENT_HANDLER_START (R56): An event-mode element starts the highest-priority runnable channel's handler -/
  | eventHandlerStart (el : Nat)
  /-- WAVEFRONT_PASSAGE (R65): An element whose inputs all show a wavefront removes it, forwards copies and may swap plane -/
  | wavefrontPassage (el : Nat)
  /-- PASS_REGISTER_TRANSFER (R73): A pass-register token enters the downstream stripe's queue once it has space -/
  | passRegisterTransfer (st : Nat) (i : Nat)
  /-- STREAM_TOKEN_DELIVERY (R78): A token in transit on a logical stream enters its inbound port in order -/
  | streamTokenDelivery (si : Nat)
  /-- BOUND_LOAD_STREAM_ISSUE (R79): A ring stream bound to an inbound port issues its next load when the port has room -/
  | boundLoadStreamIssue (rs : Nat)
  /-- BOUND_STORE_STREAM_ACCESS (R79): A ring stream bound to an outbound port takes data from the port and stores it -/
  | boundStoreStreamAccess (rs : Nat)
  /-- VIRTUAL_STRIPE_YIELD (R36): A window stripe yields its virtual stripe after the dwell's last iteration -/
  | virtualStripeYield (rg : Nat) (ws : Nat)
  /-- STATEFUL_SAVE (R39): The configuration controller saves a stateful virtual stripe to its save slot -/
  | statefulSave (rg : Nat) (ws : Nat)
  /-- SCROLL_SWAP (R36): A window stripe swaps to its next virtual stripe once the plane is full -/
  | scrollSwap (rg : Nat) (ws : Nat)
  /-- STATEFUL_RESTORE (R39): The controller restores a stateful virtual stripe's state before its first slot fires -/
  | statefulRestore (rg : Nat) (ws : Nat)
  /-- PARK_READ (R36): A parked token is read back into the consuming stripe's queue -/
  | parkRead (rg : Nat) (pr : Nat)
  /-- PLANE_FILL (R71): The ring fills one shadow plane from the configuration cache -/
  | planeFill (ring : Nat)
  /-- LOAD_BOUND (R133): A load's value is fixed and its data token is emitted -/
  | loadBound (ac : Nat)
  /-- STORE_PERFORMED (R134): A store is performed at its scope and emits its completion token -/
  | storePerformed (ac : Nat)
  /-- ATOMIC_AT_HOME (R137): An atomic is performed at the home of its bytes as one step -/
  | atomicAtHome (ac : Nat)
  /-- FENCE_CONDITION_MET (R136): A fence's covered accesses are performed and its completion is emitted -/
  | fenceConditionMet (w : Nat)
  /-- SBAR_RELEASE (R131): Accesses before a stream barrier are performed and the hold is released -/
  | sbarRelease (w : Nat)
  /-- XREQ_PACKET_ACCEPTED (R279): A transfer port accepts an assembled packet and the completion is emitted -/
  | xreqPacketAccepted (w : Nat)
  /-- PUBLISH_PERFORMED (R143): The shadow pair's current backing is exchanged at its home for every observer at once -/
  | publishPerformed (w : Nat)
  /-- CBPUT_PLACEMENT (R122): The buffer controller places a put's message or holds the producer -/
  | cbputPlacement (w : Nat)
  /-- CBPUT_RETRY (R122): A held put is retried after HEAD changes -/
  | cbputRetry (w : Nat)
  /-- CBGET_DELIVERY (R123): The controller delivers the message at the head, stepping over skip markers -/
  | cbgetDelivery (w : Nat)
  /-- SECW_COUNT_REACHED (R283): A waited sector counter reaches its value and the wait emits -/
  | secwCountReached (w : Nat)
  /-- CRD_RECORD_ARRIVAL (R284): A waited completion record is performed and the wait emits -/
  | crdRecordArrival (w : Nat)
  /-- SEALREQ_RECORDED (R287): The seal coordinator records a seal request and sealreq emits -/
  | sealreqRecorded (w : Nat)
  /-- MSEND_ACCEPTED (R286): The staging buffer accepts or seals a host message and the completion is emitted -/
  | msendAccepted (w : Nat)
  /-- STREAM_ACCESS_ISSUE (R129): An address-generator stream forms an address and issues one access in stream order -/
  | streamAccessIssue (rs : Nat)
  /-- PAGE_WALK_COMPLETE (R109): A page walk returns and the parked stream resumes issuing -/
  | pageWalkComplete (rs : Nat)
  /-- MOVED_REPLY_REISSUE (R146): An access that received the moved reply retranslates and reissues -/
  | movedReplyReissue (ac : Nat)
  /-- ACCESS_AT_HOME (R126): An access reaches its home and is performed in the location's coherence order -/
  | accessAtHome (ac : Nat)
  /-- PARITY_DELTA_ARRIVAL (R169): A parity member XORs a delta into its parity line and acknowledges it -/
  | parityDeltaArrival (d : Nat)
  /-- PARITY_DELTA_TIMEOUT (R445): A delta unacknowledged for 2^20 cycles raises 0xE204 -/
  | parityDeltaTimeout (d : Nat)
  /-- IRREVOCABLE_WRITE_ACCEPT (R164): The staging buffer accepts and tags an irrevocable write once it has room -/
  | irrevocableWriteAccept (ac : Nat)
  /-- STAGING_RELEASE (R165): After a seal the staging buffer releases entries in interval and acceptance order -/
  | stagingRelease (pk : Nat)
  /-- HOST_MESSAGE_DELIVERY (R370): A released host message is written to the host ring, HMPROD advances and an interrupt may be sent -/
  | hostMessageDelivery (pk : Nat)
  /-- HOST_READ_COMPLETION (R369): A device load of host memory is bound when its PCI Express completion returns -/
  | hostReadCompletion (ac : Nat)
  /-- SPP_WRITE (R117): A write of SPPn reassigns scratchpad banks, holding new accesses until queued ones finish -/
  | sppWrite (mp : Nat) (n : Nat) (v : BitVec 64)
  /-- PARTITION_ENTRY_RELEASE (R117): Accesses held at a reassigned partition proceed under the new mapping -/
  | partitionEntryRelease (mp : Nat) (n : Nat)
  /-- TLBIV_GO (R110): Starts invalidation of TLB entries and kept translations on every memory-port die -/
  | tlbivGo (pk : Nat) (v : BitVec 64)
  /-- INVALIDATION_COMPLETE (R110): The invalidation completes and BUSY clears, releasing a held TLBIV write -/
  | invalidationComplete (pk : Nat)
  /-- MVF_GO (R145): Starts a page migration, holding accesses to the old frame while it is copied -/
  | mvfGo (pk : Nat) (n : Nat) (v : BitVec 64)
  /-- MIGRATION_COPY_DONE (R145): The frame copy is performed at dom, STATE becomes moved and held accesses get the moved reply -/
  | migrationCopyDone (pk : Nat) (n : Nat)
  /-- HBM_REFRESH (R115): A bank is refreshed in native rotation or pulled forward under compatibility mode -/
  | hbmRefresh (sk : Nat) (bank : Nat)
  /-- ROW_ACTIVATION_REFRESH (R441): An activation count reaching THR or saturating triggers a targeted refresh of neighbouring rows -/
  | rowActivationRefresh (sk : Nat) (bank : Nat) (row : Nat)
  /-- PATROL_SCRUB (R436): The patrol scrub reads and corrects each line once per period -/
  | patrolScrub (sk : Nat) (line : Nat)
  /-- LTAG_SWEEP (R154): The undo-log controller clears line tags older than 2^13 intervals -/
  | ltagSweep (sk : Nat)
  /-- MWLD (R302): Loads a weight block from the operand input -/
  | mwld (w : MWord)
  /-- MWLDT (R302): Loads a weight block in column-major order -/
  | mwldt (w : MWord)
  /-- MZERO (R306): Clears accumulators, partial sums and STEP -/
  | mzero (w : MWord)
  /-- MMA (R306): Multiplies CNT vectors into the partial sums -/
  | mma (w : MWord)
  /-- MMASC (R306): Multiplies vectors with scaled promotion -/
  | mmasc (w : MWord)
  /-- MPROMO (R305): Promotes the partial sums into the accumulators -/
  | mpromo (w : MWord)
  /-- MDRAIN (R306): Promotes and emits the sixteen accumulators, then clears them -/
  | mdrain (w : MWord)
  /-- MPASS (R306): Forwards operand tokens unchanged to the drain target -/
  | mpass (w : MWord)
  /-- SYSTOLIC_BEAT (R308): A systolic run advances every pair and vector by one beat when inputs and drains allow -/
  | systolicBeat (rg : Nat) (ws : Nat)
  /-- BGMV (R315): Bank-group multipliers compute block partial dots of a stored matrix with activation vectors -/
  | bgmv (w : MWord)
  /-- BRED (R316): Reduces each row's partials in aligned segments by the ordered tree -/
  | bred (w : MWord)
  /-- BASE_NODE_STREAM_DELIVERY (R313): A store of a MODE 10 stream delivers data and offset to base node x0 -/
  | baseNodeStreamDelivery (rs : Nat)
  /-- STRIPE (R323): Queues a fill of an image into a plane of a window stripe -/
  | stripe (p : BitVec 2) (img : RegOr 16) (ws : RegOr 7)
  /-- PLANE (R322): Sets the next plane, optionally by predicate -/
  | plane (sel : PlaneSel)
  /-- SWAP (R324): Swaps one window stripe to the next plane -/
  | swap (ws : BitVec 7)
  /-- SWAP_ALL (R324): Swaps every stripe of the window to the next plane in one cycle -/
  | swapAll 
  /-- SWAP_WAVE (R324): Injects a reconfigure wavefront into the region -/
  | swapWave 
  /-- DWELL (R325): Arms a placement of a virtual pipeline for the next arm -/
  | dwell (d v : BitVec 12) (img : BitVec 16)
  /-- LOOP (R330): Pushes a Reel loop frame or skips when the count is zero -/
  | loop (n : RegOr 32) (dist : BitVec 12)
  /-- ENDL (R330): Decrements the top loop frame and branches or pops -/
  | endl 
  /-- BRP (R322): Jumps when a predicate line equals the sense -/
  | brp (line : BitVec 4) (sense : Bool) (target : BitVec 16)
  /-- JMP (R322): Jumps to a word index -/
  | jmp (target : BitVec 16)
  /-- CALL (R322): Pushes a return index and jumps -/
  | call (target : BitVec 16)
  /-- RET (R322): Pops a return index into RPC -/
  | ret 
  /-- ARM (R327): Arms a loop context with a trip count, waiting for every copy of a stamping -/
  | arm (lc : BitVec 2) (n : RegOr 32)
  /-- ARM_MX (R476): Checks systolic runs and sets TCNT in every matrix element of the window -/
  | armMx (n : RegOr 16)
  /-- WAITB_BAR (R328): Injects a barrier and waits until the region is drained -/
  | waitbBar (tag : BitVec 12)
  /-- WAITB_LC (R328): Waits until a loop context has emptied after a start -/
  | waitbLc (lc : BitVec 2)
  /-- WAITB_MX (R328): Waits until every matrix element is idle -/
  | waitbMx 
  /-- SAVE (R329): Writes a window stripe's state to a save slot and empties it -/
  | save (ws : RegOr 7) (addr : RegOr 26)
  /-- REST (R329): Restores a window stripe's state from a save slot -/
  | rest (ws : RegOr 7) (addr : RegOr 26)
  /-- LDS (R322): Loads 8 ring-bank bytes into a reel register -/
  | lds (a : BitVec 4) (off : BitVec 26) (b : Option (BitVec 4))
  /-- STS (R322): Stores a reel register to 8 ring-bank bytes -/
  | sts (a : BitVec 4) (off : BitVec 26) (b : Option (BitVec 4))
  /-- ADDI (R322): Adds a sign-extended immediate to a reel register -/
  | addi (a b : BitVec 4) (imm : BitVec 44)
  /-- MOVS (R322): Moves an immediate, a register, a loop count or a USR register into a reel register -/
  | movs (a : BitVec 4) (src : MovSrc)
  /-- CMPJ (R322): Compares two reel registers and jumps on the condition -/
  | cmpj (cond : BitVec 3) (uns : Bool) (a b : BitVec 4) (target : BitVec 16)
  /-- SEQW (R322): Waits until a given interval is sealed, optionally requesting a seal -/
  | seqw (req : Bool) (abs : Option (BitVec 4))
  /-- MSGR (R331): Sends reel registers as an irrevocable host message -/
  | msgr (sl : Bool) (imm : BitVec 32)
  /-- YLD (R331): Yields the Figure to a waiting task of its own priority -/
  | yld 
  /-- HLT (R327): Waits until the window is idle and retires the region -/
  | hlt (word : RegOr 32)
  /-- TRANSFER_REQUEST_START (R332): A transfer port starts an accepted request in acceptance order and checks it -/
  | transferRequestStart (tp : Nat)
  /-- TRANSFER_COPY (R334): Copies LEN bytes from SRC to DST -/
  | transferCopy (h : XHead) (a : CopyArgs)
  /-- TENSOR_LOAD (R335): Loads a box of a tensor into local SRAM with clipping and swizzle -/
  | tensorLoad (h : XHead) (a : TensorArgs)
  /-- TENSOR_STORE (R335): Stores a box from local SRAM into a tensor -/
  | tensorStore (h : XHead) (a : TensorArgs)
  /-- GATHER (R336): Copies indexed rows of a table into local SRAM -/
  | gather (h : XHead) (a : RowArgs)
  /-- SCATTER (R336): Copies rows from local SRAM to indexed table rows -/
  | scatter (h : XHead) (a : RowArgs)
  /-- FILL (R334): Writes a 4-byte pattern over LEN bytes -/
  | fill (h : XHead) (dst : BitVec 64) (len : BitVec 40) (pat : BitVec 32)
  /-- REMOTE_COPY (R334): Copies data and then adds 1 to a remote flag of the destination package -/
  | remoteCopy (h : XHead) (a : CopyArgs) (flag : BitVec 16)
  /-- SET_REMOTE_FLAG (R334): Applies an atomic operation to a remote flag -/
  | setRemoteFlag (h : XHead) (flag : BitVec 16) (pkg : BitVec 13) (val : BitVec 32) (aop : BitVec 4)
  /-- SHADOW_COPY (R334): Copies data into the non-current backing of a shadow pair -/
  | shadowCopy (h : XHead) (a : CopyArgs)
  /-- REDUCE_COPY (R337): Combines source elements into destination elements at their homes -/
  | reduceCopy (h : XHead) (src dst : BitVec 64) (nel : BitVec 32) (rop : BitVec 4)
  /-- TRANSFER_COMPLETION (R140): After every write is performed at dom the completion record is written and ring COUNT advances -/
  | transferCompletion (rq : Nat)
  /-- SECTOR_COUNTER_INCREMENT (R140): A sector counter is incremented once a sector's writes are performed at dom -/
  | sectorCounterIncrement (rq : Nat)
  /-- LM64_WRITE (R350): A host write to a launch channel is checked and queued, or refused credit when full -/
  | lm64Write (pk : Nat) (off : Nat) (len : Nat) (data : List Byte)
  /-- LM64_TAKE (R350): The launch receiver takes an LM64 once earlier posted writes are performed -/
  | lm64Take (pk : Nat)
  /-- WALK_START (R351): A graph walk starts for an LM64 when a walk slot is free -/
  | walkStart (pk : Nat)
  /-- NODE_END (R348): Ends the walk or returns from a frame after ASYNC tasks complete -/
  | nodeEnd (g : GHead)
  /-- NODE_KERNEL (R343): Creates a KERNEL task and waits for it unless ASYNC -/
  | nodeKernel (g : GHead) (fig : BitVec 64) (async : Bool) (done : BitVec 64) (ua : BitVec 128)
  /-- NODE_COPY (R343): Creates a COPY task that hands a request to a transfer port -/
  | nodeCopy (g : GHead) (async : Bool) (die : BitVec 4) (port : BitVec 2) (done : BitVec 64) (req : BitVec 256)
  /-- NODE_COND (R346): Loads a predicate and goes to NEXT or ALT -/
  | nodeCond (g : GHead) (pred : BitVec 64) (alt : BitVec 32)
  /-- NODE_LOOP (R346): Runs a body repeatedly under a count and a predicate -/
  | nodeLoop (g : GHead) (body count : BitVec 32) (pred : BitVec 64)
  /-- NODE_WAIT (R347): Waits until a counter reaches a threshold -/
  | nodeWait (g : GHead) (ctr thr : BitVec 64)
  /-- NODE_SIGNAL (R347): Adds to a counter as a cumulative atomic at dom -/
  | nodeSignal (g : GHead) (ctr add : BitVec 64)
  /-- NODE_SEAL (R160): Waits for a seal, optionally requesting one first -/
  | nodeSeal (g : GHead) (req : Bool)
  /-- NODE_MSG (R348): Sends an irrevocable host message -/
  | nodeMsg (g : GHead) (w : BitVec 448)
  /-- NODE_SUB (R348): Pushes a frame and runs a called graph -/
  | nodeSub (g : GHead) (graph : BitVec 64) (entry : BitVec 32)
  /-- WAIT_COUNTER_REREAD (R347): The walker re-reads a waited counter on a signal or every 2 µs -/
  | waitCounterReread (wk : Nat)
  /-- TASK_AGING (R47): A waiting task rises one dispatch level per millisecond up to level 6 -/
  | taskAging (pk : Nat)
  /-- TASK_DISPATCH (R352): The scheduler dispatches the head task when its port has room or placement succeeds -/
  | taskDispatch (pk : Nat)
  /-- KERNEL_TASK_COMPLETE (R343): A KERNEL or COPY task completes once its accesses are performed and its DONE counter is incremented -/
  | kernelTaskComplete (tk : Nat)
  /-- PREEMPT_COMMIT (R358): The scheduler commits a prefix of lower-priority Figures as victims and requests their halt -/
  | preemptCommit (pk : Nat)
  /-- REGION_HALTED (R359): A region stops issuing and halts once its pending work has completed -/
  | regionHalted (rg : Nat)
  /-- FIGURE_SAVE (R363): A halted region's state is written into its save record -/
  | figureSave (fg : Nat)
  /-- STRIPE_RELEASE (R364): A victim's stripe is released to the incoming Figure when its save completes -/
  | stripeRelease (st : Nat)
  /-- RESUMPTION (R365): A saved Figure is placed again, restored and its Reel sections released -/
  | resumption (fg : Nat)
  /-- SEAL_PERIOD_EXPIRY (R159): PERIOD elapses since the last CLOSE and the leader starts a Pavane -/
  | sealPeriodExpiry (pk : Nat)
  /-- SEAL_REQUEST (R159): A seal request starts CLOSE at once or sets PVSTAT.REQ -/
  | sealRequest (pk : Nat)
  /-- PAVANE_CLOSE (R157): Every member switches OPEN to n + 1 and the leader broadcasts CLOSE-complete -/
  | pavaneClose (pk : Nat)
  /-- PAVANE_DRAIN (R157): Every access, delta and irrevocable write of interval n is drained and each member reports -/
  | pavaneDrain (pk : Nat)
  /-- PAVANE_VOTE (R157): The leader collects a commit or abort vote from every member -/
  | pavaneVote (pk : Nat)
  /-- PAVANE_SEAL (R157): Members set SEALED, free undo entries and begin staging release -/
  | pavaneSeal (pk : Nat)
  /-- INTERVAL_ENABLE (R149): Setting PVCFG.EN lets the leader begin the first interval once all members report -/
  | intervalEnable (pk : Nat)
  /-- DISABLE_REQUEST (R173): A leader write clearing PVCFG.EN seals the open interval and ends interval operation -/
  | disableRequest (pk : Nat)
  /-- REGISTER_WRITE (R408): A management-window write to a register with no behaviour of its own is accepted or discarded whole -/
  | registerWrite (pk : Nat) (off : Nat) (size : Nat) (v : BitVec 64)
  /-- COLD_RESET (R374): Cold reset starts the boot sequencer, which reads fuses and trains the PCI Express link -/
  | coldReset (pk : Nat)
  /-- BOOTCTL_GO (R374): Starts the boot from step 3, checking and loading the bundle through to READY -/
  | bootctlGo (pk : Nat) (v : BitVec 64)
  /-- ATTCTL_GO (R375): Writes a signed attestation report to host memory -/
  | attctlGo (pk : Nat) (v : BitVec 64)
  /-- HMCONS_WRITE (R370): The host advances HMCONS and a waiting host message may be delivered -/
  | hmconsWrite (pk : Nat) (v : BitVec 64)
  /-- BAR4_LOAD (R368): A host load through the aperture is bound at the home of its bytes -/
  | bar4Load (pk : Nat) (off : Nat) (len : Nat)
  /-- BAR4_STORE (R368): A host store through the aperture is a weak store at pkg -/
  | bar4Store (pk : Nat) (off : Nat) (len : Nat) (data : List Byte)
  /-- POWER_GATE (R376): A compute ring idle for 1 ms is power-gated -/
  | powerGate (ring : Nat)
  /-- HOP_CHECK_FAIL (R412): A receiver rejects a damaged token and requests a replay from the expected LSN -/
  | hopCheckFail (hop : Nat)
  /-- HOP_RESEND (R412): The source resends unaccepted tokens in order from the requested LSN -/
  | hopResend (hop : Nat)
  /-- MISROUTE_RESEND_TIMEOUT (R413): A token unaccepted for 512 cycles is resent, and after nine sends the hop fails -/
  | misrouteResendTimeout (hop : Nat)
  /-- RESULT_RETRY (R416): A firing whose residue check failed is executed again, raising 0xE101 if it fails twice -/
  | resultRetry (el : Nat) (twice : Bool)
  /-- PLANE_REFILL (R417): A plane read with an uncorrectable error is refilled before the slot fires -/
  | planeRefill (st : Nat) (p : Nat)
  /-- COMPARE_POINT (R426): Paired or tripled compare points of redundant instances are compared and performed once or voted -/
  | comparePoint (fg : Nat) (key : Nat)
  /-- REDUNDANT_TIMEOUT (R428): An instance missing a compare point for 2^22 cycles causes a disagreement or is outvoted -/
  | redundantTimeout (fg : Nat) (key : Nat)
  /-- SPARE_REPLACEMENT (R470): At a replacement point each unit replaces one marked part with a spare -/
  | spareReplacement (pk : Nat)
  /-- SPRNOW_GO (R470): Carries out pending replacements while intervals are disabled -/
  | sprnowGo (pk : Nat) (v : BitVec 64)
  /-- FAULT_RECORD_DISPATCH (R404): A detecting unit sends a fault record to the fault handler, which disposes of the work -/
  | faultRecordDispatch (pk : Nat)
  /-- FAULT_RECORD_POST (R405): A queued fault record is posted to the host fault log in NUM order -/
  | faultRecordPost (pk : Nat)
  /-- FLTCONS_WRITE (R405): The host advances FLTCONS, letting waiting records be posted -/
  | fltconsWrite (pk : Nat) (v : BitVec 64)
  /-- FLTCTL_KEEP_CLEAR (R396): Writing KEEP from 1 to 0 frees every kept save record of faulted Figures -/
  | fltctlKeepClear (pk : Nat) (v : BitVec 64)
  /-- ECNT_WRITE (R406): Any write to an error counter clears it -/
  | ecntWrite (pk : Nat) (n : Nat) (v : BitVec 64)
  /-- FLTSTAT_WRITE (R406): A write of 0 clears the lost-record count -/
  | fltstatWrite (pk : Nat) (v : BitVec 64)
  /-- HOSTERR_WRITE (R467): Any write clears the host-link error counts -/
  | hosterrWrite (pk : Nat) (v : BitVec 64)
  /-- LNKST_WRITE (R466): A write clears a port's replay count -/
  | lnkstWrite (pk : Nat) (n : Nat) (v : BitVec 64)
  /-- SUCFG_LINK_DISABLE (R372): A write clearing SUCFG.EN takes the scale-up links out of use -/
  | sucfgLinkDisable (pk : Nat) (v : BitVec 64)
  /-- PSNCLR_GO (R440): Zeroes a frame, clears its line tags and clears its poison bit -/
  | psnclrGo (pk : Nat) (v : BitVec 64)
  /-- PGFRES_RESUME (R443): Returns a Figure held for a translation fault to the order for resumption -/
  | pgfresResume (pk : Nat) (num : Nat)
  /-- PGFRES_END (R443): Ends a Figure held for a translation fault -/
  | pgfresEnd (pk : Nat) (num : Nat)
  /-- DBGRES_RESUME (R460): Resumes a Figure held by a trap or break -/
  | dbgresResume (pk : Nat) (num : Nat)
  /-- DBGRES_END (R460): Ends a Figure held by a trap or break -/
  | dbgresEnd (pk : Nat) (num : Nat)
  /-- DBGRES_STEP (R460): Resumes a held Figure and breaks again at its first firing cycle -/
  | dbgresStep (pk : Nat) (num : Nat)
  /-- ROLLBACK_START (R446): A tier-2 record makes the leader take the rollback target and broadcast ROLLBACK -/
  | rollbackStart (pk : Nat)
  /-- ROLLBACK_HOLD (R447): Members withhold credit, discard Figures, walks, requests and later staging entries -/
  | rollbackHold (pk : Nat)
  /-- ROLLBACK_QUIET (R447): In-flight accesses are dropped and each member reports quiet -/
  | rollbackQuiet (pk : Nat)
  /-- ROLLBACK_APPLY (R448): Each stack applies undo entries newer than s in reverse order and resets interval state -/
  | rollbackApply (pk : Nat)
  /-- ROLLBACK_REPAIR (R454): Lost and unrepaired protected lines are rebuilt from parity -/
  | rollbackRepair (pk : Nat)
  /-- ROLLBACK_RESUME (R447): The leader broadcasts RESUME, held traffic proceeds and 0xE20F is posted -/
  | rollbackResume (pk : Nat)
  /-- MEMBER_LOST (R451): A member silent for 100 µs or unreachable is declared lost and 0xE301 is raised -/
  | memberLost (pk : Nat) (m : Nat)
  /-- LEADER_TAKEOVER (R451): When the leader is silent the lowest surviving member becomes leader -/
  | leaderTakeover (pk : Nat)
  /-- LINK_FLIT_ERROR (R464): A receiver discards a bad flit and requests a replay -/
  | linkFlitError (pk : Nat) (port : Nat)
  /-- LINK_REPLAY (R464): The sender resends unacknowledged flits in order -/
  | linkReplay (pk : Nat) (port : Nat)
  /-- LANE_FAILING (R465): A lane losing lock or exceeding its error threshold is replaced or the port narrows -/
  | laneFailing (pk : Nat) (port : Nat) (lane : Nat) (lockLost : Bool)
  /-- PORT_DOWN (R466): A scale-up port leaves service, raising 0xE401 if flits were unacknowledged -/
  | portDown (pk : Nat) (port : Nat)
  /-- LNKCFG_RETRAIN (R466): Retrains a down port and returns it to the hash -/
  | lnkcfgRetrain (pk : Nat) (v : BitVec 64)
  /-- UNREACHABLE_TIMEOUT (R466): An access waiting 1 ms for an unreachable destination ends with 0x400A or 0x800A -/
  | unreachableTimeout (ac : Nat)
  /-- HOST_LINK_DOWN (R467): The host link goes down and host-bound releases wait -/
  | hostLinkDown (pk : Nat)
  /-- HOST_LINK_UP (R467): The host link returns and waiting releases resume in order -/
  | hostLinkUp (pk : Nat)
  /-- HOT_RESET (R467): A hot or function-level reset resets configuration space and BAR enables only -/
  | hotReset (pk : Nat)
  /-- POISONED_HOST_WRITE (R467): A poisoned host write to BAR2 or BAR4 is discarded with record 0x9009 -/
  | poisonedHostWrite (pk : Nat) (bar : Nat) (off : Nat)
  /-- HOST_COMPLETION_ERROR (R467): A device read of host memory completing with an error or timeout ends its Figure or request -/
  | hostCompletionError (ac : Nat)
  /-- MEMORY_PORT_DOMAIN_RESET (R119): A memory-port die and its four home quadrants are reset or power-gated as one domain, taking the 'dom' reset values of R8 -/
  | memoryPortDomainReset (mp : Nat)
  /-- FABRIC_DIE_RESET (R119): A fabric die is held in reset or power-gated, and the streams of its rings then issue nothing while neighbouring memory-port domains keep serving requests -/
  | fabricDieReset (pk : Nat) (die : Nat)
  deriving DecidableEq, Repr, Inhabited

/-- The operations of S48 slot words (Table 8.4); a MOD bit splits `ctok`, `cbput`, `cbget` and `secw`. -/
inductive SlotOp where
  | nop
  | add
  | sub
  | mul
  | mulh
  | mad
  | abs
  | neg
  | min
  | max
  | clz
  | popc
  | brev
  | bperm
  | addc
  | subb
  | div
  | rem
  | sad
  | dp4
  | mov
  | and
  | or
  | xor
  | andn
  | not
  | lop3
  | shl
  | shr
  | rot
  | fsh
  | bfx
  | bfi
  | bswap
  | cmp
  | fcmp
  | sel
  | steer
  | merge
  | gate
  | inv
  | join
  | ctok
  | ctokIlast
  | pset
  | pget
  | loopgen
  | loopgen2
  | itr
  | copyid
  | cnt
  | lastp
  | stagev
  | fadd
  | fsub
  | fmul
  | ffma
  | fmin
  | fmax
  | fabs
  | fneg
  | fclass
  | fscale
  | fround
  | fcsgn
  | fdot2
  | frcp
  | frsq
  | fsqrt
  | fexp2
  | flog2
  | fsin
  | fcos
  | ftanh
  | fdiv
  | phx
  | radd
  | rmax
  | rmin
  | rmaxsc
  | cvtf
  | cvti
  | cvtif
  | pack
  | unpack
  | bq
  | bdq
  | ldb
  | stb
  | lnsend
  | lntap
  | spop
  | spush
  | cbputOpen
  | cbputWord
  | cbgetOpen
  | cbgetWord
  | agen
  | ldg
  | stg
  | ldgx
  | stgx
  | pfg
  | atom
  | cas
  | red
  | fence
  | sbar
  | xreq
  | lrflush
  | publish
  | secw
  | secwSet
  | crd
  | msend
  | mword
  | rdin
  | sealreq
  | rdcr
  | wrcr
  | evc
  | trap
  | brk
  | halt
  deriving DecidableEq, Repr, Inhabited

/-- The instruction of a slot operation with its fields. -/
def SlotOp.mk : SlotOp → Slot → Instr
  | .nop, f => .nop f
  | .add, f => .add f
  | .sub, f => .sub f
  | .mul, f => .mul f
  | .mulh, f => .mulh f
  | .mad, f => .mad f
  | .abs, f => .abs f
  | .neg, f => .neg f
  | .min, f => .min f
  | .max, f => .max f
  | .clz, f => .clz f
  | .popc, f => .popc f
  | .brev, f => .brev f
  | .bperm, f => .bperm f
  | .addc, f => .addc f
  | .subb, f => .subb f
  | .div, f => .div f
  | .rem, f => .rem f
  | .sad, f => .sad f
  | .dp4, f => .dp4 f
  | .mov, f => .mov f
  | .and, f => .and f
  | .or, f => .or f
  | .xor, f => .xor f
  | .andn, f => .andn f
  | .not, f => .not f
  | .lop3, f => .lop3 f
  | .shl, f => .shl f
  | .shr, f => .shr f
  | .rot, f => .rot f
  | .fsh, f => .fsh f
  | .bfx, f => .bfx f
  | .bfi, f => .bfi f
  | .bswap, f => .bswap f
  | .cmp, f => .cmp f
  | .fcmp, f => .fcmp f
  | .sel, f => .sel f
  | .steer, f => .steer f
  | .merge, f => .merge f
  | .gate, f => .gate f
  | .inv, f => .inv f
  | .join, f => .join f
  | .ctok, f => .ctok f
  | .ctokIlast, f => .ctokIlast f
  | .pset, f => .pset f
  | .pget, f => .pget f
  | .loopgen, f => .loopgen f
  | .loopgen2, f => .loopgen2 f
  | .itr, f => .itr f
  | .copyid, f => .copyid f
  | .cnt, f => .cnt f
  | .lastp, f => .lastp f
  | .stagev, f => .stagev f
  | .fadd, f => .fadd f
  | .fsub, f => .fsub f
  | .fmul, f => .fmul f
  | .ffma, f => .ffma f
  | .fmin, f => .fmin f
  | .fmax, f => .fmax f
  | .fabs, f => .fabs f
  | .fneg, f => .fneg f
  | .fclass, f => .fclass f
  | .fscale, f => .fscale f
  | .fround, f => .fround f
  | .fcsgn, f => .fcsgn f
  | .fdot2, f => .fdot2 f
  | .frcp, f => .frcp f
  | .frsq, f => .frsq f
  | .fsqrt, f => .fsqrt f
  | .fexp2, f => .fexp2 f
  | .flog2, f => .flog2 f
  | .fsin, f => .fsin f
  | .fcos, f => .fcos f
  | .ftanh, f => .ftanh f
  | .fdiv, f => .fdiv f
  | .phx, f => .phx f
  | .radd, f => .radd f
  | .rmax, f => .rmax f
  | .rmin, f => .rmin f
  | .rmaxsc, f => .rmaxsc f
  | .cvtf, f => .cvtf f
  | .cvti, f => .cvti f
  | .cvtif, f => .cvtif f
  | .pack, f => .pack f
  | .unpack, f => .unpack f
  | .bq, f => .bq f
  | .bdq, f => .bdq f
  | .ldb, f => .ldb f
  | .stb, f => .stb f
  | .lnsend, f => .lnsend f
  | .lntap, f => .lntap f
  | .spop, f => .spop f
  | .spush, f => .spush f
  | .cbputOpen, f => .cbputOpen f
  | .cbputWord, f => .cbputWord f
  | .cbgetOpen, f => .cbgetOpen f
  | .cbgetWord, f => .cbgetWord f
  | .agen, f => .agen f
  | .ldg, f => .ldg f
  | .stg, f => .stg f
  | .ldgx, f => .ldgx f
  | .stgx, f => .stgx f
  | .pfg, f => .pfg f
  | .atom, f => .atom f
  | .cas, f => .cas f
  | .red, f => .red f
  | .fence, f => .fence f
  | .sbar, f => .sbar f
  | .xreq, f => .xreq f
  | .lrflush, f => .lrflush f
  | .publish, f => .publish f
  | .secw, f => .secw f
  | .secwSet, f => .secwSet f
  | .crd, f => .crd f
  | .msend, f => .msend f
  | .mword, f => .mword f
  | .rdin, f => .rdin f
  | .sealreq, f => .sealreq f
  | .rdcr, f => .rdcr f
  | .wrcr, f => .wrcr f
  | .evc, f => .evc f
  | .trap, f => .trap f
  | .brk, f => .brk f
  | .halt, f => .halt f

/-- The slot operation and fields of an instruction, where it is a slot instruction. -/
def Instr.slot? : Instr → Option (SlotOp × Slot)
  | .nop f => some (.nop, f)
  | .add f => some (.add, f)
  | .sub f => some (.sub, f)
  | .mul f => some (.mul, f)
  | .mulh f => some (.mulh, f)
  | .mad f => some (.mad, f)
  | .abs f => some (.abs, f)
  | .neg f => some (.neg, f)
  | .min f => some (.min, f)
  | .max f => some (.max, f)
  | .clz f => some (.clz, f)
  | .popc f => some (.popc, f)
  | .brev f => some (.brev, f)
  | .bperm f => some (.bperm, f)
  | .addc f => some (.addc, f)
  | .subb f => some (.subb, f)
  | .div f => some (.div, f)
  | .rem f => some (.rem, f)
  | .sad f => some (.sad, f)
  | .dp4 f => some (.dp4, f)
  | .mov f => some (.mov, f)
  | .and f => some (.and, f)
  | .or f => some (.or, f)
  | .xor f => some (.xor, f)
  | .andn f => some (.andn, f)
  | .not f => some (.not, f)
  | .lop3 f => some (.lop3, f)
  | .shl f => some (.shl, f)
  | .shr f => some (.shr, f)
  | .rot f => some (.rot, f)
  | .fsh f => some (.fsh, f)
  | .bfx f => some (.bfx, f)
  | .bfi f => some (.bfi, f)
  | .bswap f => some (.bswap, f)
  | .cmp f => some (.cmp, f)
  | .fcmp f => some (.fcmp, f)
  | .sel f => some (.sel, f)
  | .steer f => some (.steer, f)
  | .merge f => some (.merge, f)
  | .gate f => some (.gate, f)
  | .inv f => some (.inv, f)
  | .join f => some (.join, f)
  | .ctok f => some (.ctok, f)
  | .ctokIlast f => some (.ctokIlast, f)
  | .pset f => some (.pset, f)
  | .pget f => some (.pget, f)
  | .loopgen f => some (.loopgen, f)
  | .loopgen2 f => some (.loopgen2, f)
  | .itr f => some (.itr, f)
  | .copyid f => some (.copyid, f)
  | .cnt f => some (.cnt, f)
  | .lastp f => some (.lastp, f)
  | .stagev f => some (.stagev, f)
  | .fadd f => some (.fadd, f)
  | .fsub f => some (.fsub, f)
  | .fmul f => some (.fmul, f)
  | .ffma f => some (.ffma, f)
  | .fmin f => some (.fmin, f)
  | .fmax f => some (.fmax, f)
  | .fabs f => some (.fabs, f)
  | .fneg f => some (.fneg, f)
  | .fclass f => some (.fclass, f)
  | .fscale f => some (.fscale, f)
  | .fround f => some (.fround, f)
  | .fcsgn f => some (.fcsgn, f)
  | .fdot2 f => some (.fdot2, f)
  | .frcp f => some (.frcp, f)
  | .frsq f => some (.frsq, f)
  | .fsqrt f => some (.fsqrt, f)
  | .fexp2 f => some (.fexp2, f)
  | .flog2 f => some (.flog2, f)
  | .fsin f => some (.fsin, f)
  | .fcos f => some (.fcos, f)
  | .ftanh f => some (.ftanh, f)
  | .fdiv f => some (.fdiv, f)
  | .phx f => some (.phx, f)
  | .radd f => some (.radd, f)
  | .rmax f => some (.rmax, f)
  | .rmin f => some (.rmin, f)
  | .rmaxsc f => some (.rmaxsc, f)
  | .cvtf f => some (.cvtf, f)
  | .cvti f => some (.cvti, f)
  | .cvtif f => some (.cvtif, f)
  | .pack f => some (.pack, f)
  | .unpack f => some (.unpack, f)
  | .bq f => some (.bq, f)
  | .bdq f => some (.bdq, f)
  | .ldb f => some (.ldb, f)
  | .stb f => some (.stb, f)
  | .lnsend f => some (.lnsend, f)
  | .lntap f => some (.lntap, f)
  | .spop f => some (.spop, f)
  | .spush f => some (.spush, f)
  | .cbputOpen f => some (.cbputOpen, f)
  | .cbputWord f => some (.cbputWord, f)
  | .cbgetOpen f => some (.cbgetOpen, f)
  | .cbgetWord f => some (.cbgetWord, f)
  | .agen f => some (.agen, f)
  | .ldg f => some (.ldg, f)
  | .stg f => some (.stg, f)
  | .ldgx f => some (.ldgx, f)
  | .stgx f => some (.stgx, f)
  | .pfg f => some (.pfg, f)
  | .atom f => some (.atom, f)
  | .cas f => some (.cas, f)
  | .red f => some (.red, f)
  | .fence f => some (.fence, f)
  | .sbar f => some (.sbar, f)
  | .xreq f => some (.xreq, f)
  | .lrflush f => some (.lrflush, f)
  | .publish f => some (.publish, f)
  | .secw f => some (.secw, f)
  | .secwSet f => some (.secwSet, f)
  | .crd f => some (.crd, f)
  | .msend f => some (.msend, f)
  | .mword f => some (.mword, f)
  | .rdin f => some (.rdin, f)
  | .sealreq f => some (.sealreq, f)
  | .rdcr f => some (.rdcr, f)
  | .wrcr f => some (.wrcr, f)
  | .evc f => some (.evc, f)
  | .trap f => some (.trap, f)
  | .brk f => some (.brk, f)
  | .halt f => some (.halt, f)
  | _ => none

/-- The matrix operations (Table 8.7). -/
inductive MOp where
  | mwld
  | mwldt
  | mzero
  | mma
  | mmasc
  | mpromo
  | mdrain
  | mpass
  | bgmv
  | bred
  deriving DecidableEq, Repr, Inhabited

/-- The instruction of a matrix operation with its fields. -/
def MOp.mk : MOp → MWord → Instr
  | .mwld, w => .mwld w
  | .mwldt, w => .mwldt w
  | .mzero, w => .mzero w
  | .mma, w => .mma w
  | .mmasc, w => .mmasc w
  | .mpromo, w => .mpromo w
  | .mdrain, w => .mdrain w
  | .mpass, w => .mpass w
  | .bgmv, w => .bgmv w
  | .bred, w => .bred w

/-- The matrix operation and fields of an instruction, where it is a matrix word. -/
def Instr.mword? : Instr → Option (MOp × MWord)
  | .mwld w => some (.mwld, w)
  | .mwldt w => some (.mwldt, w)
  | .mzero w => some (.mzero, w)
  | .mma w => some (.mma, w)
  | .mmasc w => some (.mmasc, w)
  | .mpromo w => some (.mpromo, w)
  | .mdrain w => some (.mdrain, w)
  | .mpass w => some (.mpass, w)
  | .bgmv w => some (.bgmv, w)
  | .bred w => some (.bred, w)
  | _ => none

/-- A place in which a storage error arises (R414, R417, R435, R436): an 8-byte unit of memory, the tag of an HBM line, entry `i` of a
queue, an operand input, a stream port, a hold store or a block being collected, a local or pass register, a lane position, a line
of a configuration cache. -/
inductive Damage where
  | unit (u : Nat)
  | ltag (line : Nat)
  | queue (el : Nat) (q : BitVec 2) (i : Nat)
  | opq (el i : Nat)
  | port (p i : Nat)
  | hold (st i : Nat)
  | quant (el i : Nat)
  | kreg (el : Nat) (i : BitVec 3)
  | pass (st i : Nat)
  | lane (st i : Nat)
  | cache (ring : Nat)
  deriving DecidableEq, Repr, Inhabited

/-- Who moves next: an agent fetching its own next word, one of the machine's other steps, or an error that arises in storage,
correctable or uncorrectable (DESIGN CHOICE, log 28). -/
inductive Mover where
  | agent (a : Agent)
  | event (i : Instr)
  | damage (d : Damage) (uncorrectable : Bool)
  deriving DecidableEq, Repr, Inhabited

/-- What may move next: an agent fetching its own next word, or one of the machine's other steps.
`dt` fabric cycles pass first. -/
structure Sel where
  dt : Nat
  who : Mover
  deriving DecidableEq, Repr, Inhabited

end Sys2Proof
end

