-- ==== Sys2Proof/Config.lean ====
section
/-! DEFINITION. What the specification leaves to the implementation or leaves open: the free values of the model, none of which has a body. -/
namespace Sys2Proof.Config

/-- FREE VALUE (DESIGN CHOICE, log 2): which agent or step moves next, and after how many cycles, when the state's agenda is empty. -/
opaque freeSel : Nat → Sel

/-- FREE VALUE (DESIGN CHOICE, log 3): the result of a correctly rounded special function that the precision ladder of the model does not decide (R97). Arguments: function number, operand. -/
opaque freeFn : Nat → W32 → W32

/-- FREE VALUE (DESIGN CHOICE, log 4): whether an 8-byte part of an overlapping transfer reads its source before the request's own writes (R332). Argument: a counter. -/
opaque freeBefore : Nat → Bool

/-- FREE VALUE (DESIGN CHOICE, log 5): whether a later row of a scatter replaces an 8-byte part an earlier row of the same request wrote (R336). Argument: a counter. -/
opaque freeScatter : Nat → Bool

/-- FREE VALUE (DESIGN CHOICE, log 6): fused secrets of the package (R373, R375): the SHA-256 of the root key, as a number. -/
opaque rootKeyDigest : Nat → BitVec 256

/-- FREE VALUE (DESIGN CHOICE, log 6): the modulus of the package's identity key, as 48 words of 8 bytes (R375, IDPUB). -/
opaque idPub : Nat → Nat → BitVec 64

/-- FREE VALUE (DESIGN CHOICE, log 6): the fused serial number of a package (R375). -/
opaque serial : Nat → BitVec 64

/-- FREE VALUE (DESIGN CHOICE, log 6): the private exponent of the package's identity key, which never leaves the attestation unit (R375). -/
opaque idKey : Nat → BitVec 3072

/-- FREE VALUE (DESIGN CHOICE, log 6): the 32-byte salt of the signature over a report (R373, R375). Arguments: package, bytes 0x000 to 0x08F of the report. -/
opaque attSalt : Nat → BitVec 1152 → BitVec 256

/-- FREE VALUE (DESIGN CHOICE, log 7): the bytes that an uncorrectable line reads as (Table 20.1). Arguments: a counter, the address. -/
opaque damagedByte : Nat → Nat → Byte

/-- FREE VALUE (DESIGN CHOICE, log 8): the port a requester's traffic to a destination takes among the ports of a mask (R371). Arguments: requester, destination, mask. -/
opaque portHash : Nat → Nat → W32 → Nat

/-- FREE VALUE (DESIGN CHOICE, log 9): where an instruction with two distinct results names one local register in both targets, whether the register, which R51 says is written once, takes the first result. Argument: a counter. -/
opaque freeFirst : Nat → Bool

/-- FREE VALUE (DESIGN CHOICE, log 11): whether the power cap withholds an issue cycle of a ring while PWRCAP.W is not zero (R377); the draw of a ring is not stated. Argument: a counter. -/
opaque freeThrottle : Nat → Bool

/-- FREE VALUE (DESIGN CHOICE, log 11): the average draw of a package over the last millisecond, in watts (PWRSTAT). Arguments: package, cycle. -/
opaque freeAverage : Nat → Nat → BitVec 14

/-- FREE VALUE (DESIGN CHOICE, log 11): the energy that a package takes in a cycle, in millijoules (ENERGY). Arguments: package, cycle. -/
opaque freeEnergy : Nat → Nat → BitVec 64

/-- FREE VALUE (DESIGN CHOICE, log 12): SEQ of a data token that a matrix drain, a systolic drain or a bank-group multiplier emits; R61 gives SEQ for slots only. Argument: a counter. -/
opaque freeSeq : Nat → BitVec 8

/-- FREE VALUE (DESIGN CHOICE, log 35): a byte of a part of a save record whose inner layout the specification does not state (Tables 14.5 and 14.6). Arguments: a counter, the offset. -/
opaque saveByte : Nat → Nat → Byte

/-- FREE VALUE (DESIGN CHOICE, log 42): whether a training succeeds: HBM, a link, a retraining port, a load of the control rings. Argument: a counter. -/
opaque freeTrain : Nat → Bool

/-- FREE VALUE (DESIGN CHOICE, log 45): whether an access on its way through a port that goes down is lost; the specification calls the fate of its flits unknown (R466). Argument: a counter. -/
opaque freeFate : Nat → Bool

/-- FREE VALUE (DESIGN CHOICE, log 46): the lane on which a flit error lay (R465). Argument: a counter. -/
opaque freeLane : Nat → BitVec 3

/-- FREE VALUE (DESIGN CHOICE, log 6): the SHA-256 of the published logical map of a package (Table 15.4); the layout of the map is not stated. -/
opaque mapDigest : Nat → BitVec 256

end Sys2Proof.Config
end

