-- ==== Sys2Proof/WellFormed.lean ====
section
/-! DEFINITION. Well-formedness of instructions: the field limits of the encoded forms (R177 to R186, R207, R211 to R229, R231 to R260, R262, R300, R314, R322, R333, R344) and the ranges of the parts that events name (R17). -/
namespace Sys2Proof

/-- The bits [1:0] of a modifier. -/
def mlo (m : BitVec 4) : BitVec 2 := m.extractLsb' 0 2
/-- The bits [3:2] of a modifier. -/
def mhi (m : BitVec 4) : BitVec 2 := m.extractLsb' 2 2

/-- OPC of a slot operation (Table 8.4). -/
def SlotOp.opc : SlotOp → BitVec 8
  | .nop => 0x00
  | .add => 0x01
  | .sub => 0x02
  | .mul => 0x03
  | .mulh => 0x04
  | .mad => 0x05
  | .abs => 0x06
  | .neg => 0x07
  | .min => 0x08
  | .max => 0x09
  | .clz => 0x0A
  | .popc => 0x0B
  | .brev => 0x0C
  | .bperm => 0x0D
  | .addc => 0x0E
  | .subb => 0x0F
  | .div => 0x10
  | .rem => 0x11
  | .sad => 0x12
  | .dp4 => 0x13
  | .mov => 0x14
  | .and => 0x20
  | .or => 0x21
  | .xor => 0x22
  | .andn => 0x23
  | .not => 0x24
  | .lop3 => 0x25
  | .shl => 0x26
  | .shr => 0x27
  | .rot => 0x28
  | .fsh => 0x29
  | .bfx => 0x2A
  | .bfi => 0x2B
  | .bswap => 0x2C
  | .cmp => 0x30
  | .fcmp => 0x31
  | .sel => 0x32
  | .steer => 0x33
  | .merge => 0x34
  | .gate => 0x35
  | .inv => 0x36
  | .join => 0x37
  | .ctok => 0x38
  | .ctokIlast => 0x38
  | .pset => 0x39
  | .pget => 0x3A
  | .loopgen => 0x40
  | .loopgen2 => 0x41
  | .itr => 0x42
  | .copyid => 0x43
  | .cnt => 0x44
  | .lastp => 0x45
  | .stagev => 0x46
  | .fadd => 0x50
  | .fsub => 0x51
  | .fmul => 0x52
  | .ffma => 0x53
  | .fmin => 0x54
  | .fmax => 0x55
  | .fabs => 0x56
  | .fneg => 0x57
  | .fclass => 0x58
  | .fscale => 0x59
  | .fround => 0x5A
  | .fcsgn => 0x5B
  | .fdot2 => 0x5C
  | .frcp => 0x60
  | .frsq => 0x61
  | .fsqrt => 0x62
  | .fexp2 => 0x63
  | .flog2 => 0x64
  | .fsin => 0x65
  | .fcos => 0x66
  | .ftanh => 0x67
  | .fdiv => 0x68
  | .phx => 0x69
  | .radd => 0x6A
  | .rmax => 0x6B
  | .rmin => 0x6C
  | .rmaxsc => 0x6D
  | .cvtf => 0x70
  | .cvti => 0x71
  | .cvtif => 0x72
  | .pack => 0x73
  | .unpack => 0x74
  | .bq => 0x75
  | .bdq => 0x76
  | .ldb => 0x80
  | .stb => 0x81
  | .lnsend => 0x82
  | .lntap => 0x83
  | .spop => 0x84
  | .spush => 0x85
  | .cbputOpen => 0x86
  | .cbputWord => 0x86
  | .cbgetOpen => 0x87
  | .cbgetWord => 0x87
  | .agen => 0x90
  | .ldg => 0x91
  | .stg => 0x92
  | .ldgx => 0x93
  | .stgx => 0x94
  | .pfg => 0x95
  | .atom => 0xA0
  | .cas => 0xA1
  | .red => 0xA2
  | .fence => 0xA3
  | .sbar => 0xA4
  | .xreq => 0xA5
  | .lrflush => 0xA6
  | .publish => 0xA7
  | .secw => 0xA8
  | .secwSet => 0xA8
  | .crd => 0xA9
  | .msend => 0xB0
  | .mword => 0xB1
  | .rdin => 0xB2
  | .sealreq => 0xB3
  | .rdcr => 0xB4
  | .wrcr => 0xB5
  | .evc => 0xB6
  | .trap => 0xF0
  | .brk => 0xF1
  | .halt => 0xF2

/-- The modifier values an operation admits (Table 8.5 and each operation's own table). -/
def SlotOp.modOk (op : SlotOp) (m : BitVec 4) : Bool :=
  match op with
  | .nop => decide (m = 0)
  | .add => decide (mlo m ≠ 3)
  | .sub => decide (mlo m ≠ 3)
  | .mul => decide (mlo m ≠ 3)
  | .mulh => decide (mlo m ≠ 3 ∧ m.getLsbD 3 = false)
  | .mad => decide (mlo m ≠ 3)
  | .abs => decide (mlo m ≠ 3 ∧ m.getLsbD 2 = false)
  | .neg => decide (mlo m ≠ 3 ∧ m.getLsbD 2 = false)
  | .min => decide (mlo m ≠ 3 ∧ m.getLsbD 3 = false)
  | .max => decide (mlo m ≠ 3 ∧ m.getLsbD 3 = false)
  | .clz => decide (mlo m ≠ 3 ∧ mhi m = 0)
  | .popc => decide (mlo m ≠ 3 ∧ mhi m = 0)
  | .brev => decide (mlo m ≠ 3 ∧ mhi m = 0)
  | .bperm => decide (m = 0)
  | .addc => decide (m = 0)
  | .subb => decide (m = 0)
  | .div => decide (mlo m = 0)
  | .rem => decide (mlo m = 0 ∧ m.getLsbD 3 = false)
  | .sad => decide (mlo m ≠ 3)
  | .dp4 => decide (mlo m = 1 ∨ mlo m = 2)
  | .mov => decide (m = 0)
  | .and => decide (m = 0)
  | .or => decide (m = 0)
  | .xor => decide (m = 0)
  | .andn => decide (m = 0)
  | .not => decide (m = 0)
  | .lop3 => decide (m = 0)
  | .shl => decide (mlo m ≠ 3 ∧ mhi m = 0)
  | .shr => decide (mlo m ≠ 3 ∧ m.getLsbD 3 = false)
  | .rot => decide (mlo m ≠ 3 ∧ mhi m = 0)
  | .fsh => decide (mlo m = 0 ∧ m.getLsbD 3 = false)
  | .bfx => decide (mlo m = 0 ∧ m.getLsbD 3 = false)
  | .bfi => decide (m = 0)
  | .bswap => decide (m = 0)
  | .cmp => true
  | .fcmp => decide (m.getLsbD 3 = false)
  | .sel => decide (m = 0)
  | .steer => decide (m = 0)
  | .merge => decide (m = 0)
  | .gate => decide (m = 0)
  | .inv => decide (m = 0)
  | .join => decide (m.toNat ≤ 1)
  | .ctok => decide (m = 0 ∨ m = 1 ∨ m = 2)
  | .ctokIlast => decide (m = 4)
  | .pset => true
  | .pget => true
  | .loopgen => decide (mlo m = 0 ∧ m.getLsbD 3 = false)
  | .loopgen2 => decide (m = 0)
  | .itr => decide (m.toNat ≤ 1)
  | .copyid => decide (m.toNat ≤ 1)
  | .cnt => decide (m.toNat ≤ 1)
  | .lastp => decide (m.toNat ≤ 1)
  | .stagev => decide (m.toNat ≤ 2)
  | .fadd => decide (mhi m ≠ 3)
  | .fsub => decide (mhi m ≠ 3)
  | .fmul => decide (mhi m ≠ 3)
  | .ffma => decide (mhi m ≠ 3)
  | .fmin => decide (mhi m ≠ 3 ∧ mlo m = 0)
  | .fmax => decide (mhi m ≠ 3 ∧ mlo m = 0)
  | .fabs => decide (mhi m ≠ 3 ∧ mlo m = 0)
  | .fneg => decide (mhi m ≠ 3 ∧ mlo m = 0)
  | .fclass => decide (mhi m ≠ 3 ∧ mlo m = 0)
  | .fscale => decide (mhi m ≠ 3)
  | .fround => decide (mhi m ≠ 3)
  | .fcsgn => decide (mhi m ≠ 3 ∧ mlo m = 0)
  | .fdot2 => decide (mhi m = 1 ∨ mhi m = 2)
  | .frcp => decide (m = 0)
  | .frsq => decide (m = 0)
  | .fsqrt => decide (mhi m = 0)
  | .fexp2 => decide (m = 0)
  | .flog2 => decide (m = 0)
  | .fsin => decide (m = 0)
  | .fcos => decide (m = 0)
  | .ftanh => decide (m = 0)
  | .fdiv => decide (mhi m = 0)
  | .phx => decide (mhi m = 0)
  | .radd => decide (m.getLsbD 2 = false ∨ mlo m = 0)
  | .rmax => decide (mlo m = 0)
  | .rmin => decide (mlo m = 0)
  | .rmaxsc => decide (m = 0)
  | .cvtf => decide (m.getLsbD 3 = false ∨ mlo m = 0)
  | .cvti => true
  | .cvtif => decide (m.getLsbD 3 = false ∨ mlo m = 0)
  | .pack => decide (mhi m = 2 ∨ m.getLsbD 1 = false)
  | .unpack => decide (mhi m = 2 ∨ m.getLsbD 1 = false)
  | .bq => decide (mlo m = 0 ∧ mhi m ≠ 3)
  | .bdq => decide (mhi m ≠ 3 ∧ (mhi m = 2 ∨ m.getLsbD 1 = false))
  | .ldb => decide (m = 0)
  | .stb => decide (m = 0)
  | .lnsend => decide (m.toNat ≤ 1)
  | .lntap => decide (m.toNat ≤ 3)
  | .spop => true
  | .spush => true
  | .cbputOpen => decide (m.extractLsb' 0 3 = 0)
  | .cbputWord => decide (m.extractLsb' 0 3 = 1)
  | .cbgetOpen => decide (m.extractLsb' 0 3 = 0)
  | .cbgetWord => decide (m.extractLsb' 0 3 = 1)
  | .agen => decide (m.toNat ≤ 8)
  | .ldg => decide (m.toNat ≤ 1)
  | .stg => true
  | .ldgx => decide (m.toNat ≤ 1)
  | .stgx => true
  | .pfg => decide (m = 0)
  | .atom => decide (m.getLsbD 3 = false)
  | .cas => decide (m.getLsbD 3 = false)
  | .red => decide (m.getLsbD 3 = false)
  | .fence => decide (m.getLsbD 3 = false)
  | .sbar => decide (m.getLsbD 3 = false)
  | .xreq => decide (m.getLsbD 3 = false)
  | .lrflush => decide (m = 0)
  | .publish => decide (m = 0)
  | .secw => decide (m = 0)
  | .secwSet => decide (m = 1)
  | .crd => decide (m = 0)
  | .msend => decide (m.extractLsb' 0 3 = 0)
  | .mword => decide (m.toNat ≤ 13)
  | .rdin => decide (m.toNat ≤ 1)
  | .sealreq => decide (m = 0)
  | .rdcr => decide (m = 0)
  | .wrcr => decide (m = 0)
  | .evc => decide (m.toNat ≤ 2)
  | .trap => decide (m = 0)
  | .brk => decide (m = 0)
  | .halt => decide (m = 0)

/-- The operation reads its left operand. -/
def SlotOp.readsL (op : SlotOp) (_m : BitVec 4) : Bool :=
  match op with
  | .nop => false
  | .add => true
  | .sub => true
  | .mul => true
  | .mulh => true
  | .mad => true
  | .abs => true
  | .neg => true
  | .min => true
  | .max => true
  | .clz => true
  | .popc => true
  | .brev => true
  | .bperm => true
  | .addc => true
  | .subb => true
  | .div => true
  | .rem => true
  | .sad => true
  | .dp4 => true
  | .mov => true
  | .and => true
  | .or => true
  | .xor => true
  | .andn => true
  | .not => true
  | .lop3 => true
  | .shl => true
  | .shr => true
  | .rot => true
  | .fsh => true
  | .bfx => true
  | .bfi => true
  | .bswap => true
  | .cmp => true
  | .fcmp => true
  | .sel => true
  | .steer => true
  | .merge => true
  | .gate => true
  | .inv => true
  | .join => true
  | .ctok => true
  | .ctokIlast => false
  | .pset => true
  | .pget => false
  | .loopgen => true
  | .loopgen2 => true
  | .itr => false
  | .copyid => false
  | .cnt => true
  | .lastp => false
  | .stagev => false
  | .fadd => true
  | .fsub => true
  | .fmul => true
  | .ffma => true
  | .fmin => true
  | .fmax => true
  | .fabs => true
  | .fneg => true
  | .fclass => true
  | .fscale => true
  | .fround => true
  | .fcsgn => true
  | .fdot2 => true
  | .frcp => true
  | .frsq => true
  | .fsqrt => true
  | .fexp2 => true
  | .flog2 => true
  | .fsin => true
  | .fcos => true
  | .ftanh => true
  | .fdiv => true
  | .phx => true
  | .radd => true
  | .rmax => true
  | .rmin => true
  | .rmaxsc => true
  | .cvtf => true
  | .cvti => true
  | .cvtif => true
  | .pack => true
  | .unpack => true
  | .bq => true
  | .bdq => true
  | .ldb => true
  | .stb => true
  | .lnsend => true
  | .lntap => false
  | .spop => false
  | .spush => true
  | .cbputOpen => true
  | .cbputWord => true
  | .cbgetOpen => true
  | .cbgetWord => false
  | .agen => true
  | .ldg => false
  | .stg => true
  | .ldgx => true
  | .stgx => true
  | .pfg => true
  | .atom => true
  | .cas => true
  | .red => true
  | .fence => true
  | .sbar => true
  | .xreq => true
  | .lrflush => true
  | .publish => true
  | .secw => true
  | .secwSet => true
  | .crd => true
  | .msend => true
  | .mword => true
  | .rdin => false
  | .sealreq => false
  | .rdcr => true
  | .wrcr => true
  | .evc => true
  | .trap => true
  | .brk => false
  | .halt => true

/-- The operation reads its right operand. -/
def SlotOp.readsR (op : SlotOp) (m : BitVec 4) : Bool :=
  match op with
  | .nop => false
  | .add => true
  | .sub => true
  | .mul => true
  | .mulh => true
  | .mad => true
  | .abs => false
  | .neg => false
  | .min => true
  | .max => true
  | .clz => false
  | .popc => false
  | .brev => false
  | .bperm => true
  | .addc => true
  | .subb => true
  | .div => true
  | .rem => true
  | .sad => true
  | .dp4 => true
  | .mov => false
  | .and => true
  | .or => true
  | .xor => true
  | .andn => true
  | .not => false
  | .lop3 => true
  | .shl => true
  | .shr => true
  | .rot => true
  | .fsh => true
  | .bfx => true
  | .bfi => true
  | .bswap => false
  | .cmp => true
  | .fcmp => true
  | .sel => true
  | .steer => true
  | .merge => true
  | .gate => true
  | .inv => true
  | .join => true
  | .ctok => false
  | .ctokIlast => false
  | .pset => false
  | .pget => false
  | .loopgen => true
  | .loopgen2 => true
  | .itr => false
  | .copyid => false
  | .cnt => true
  | .lastp => false
  | .stagev => false
  | .fadd => true
  | .fsub => true
  | .fmul => true
  | .ffma => true
  | .fmin => true
  | .fmax => true
  | .fabs => false
  | .fneg => false
  | .fclass => false
  | .fscale => true
  | .fround => false
  | .fcsgn => true
  | .fdot2 => true
  | .frcp => false
  | .frsq => false
  | .fsqrt => false
  | .fexp2 => false
  | .flog2 => false
  | .fsin => false
  | .fcos => false
  | .ftanh => false
  | .fdiv => true
  | .phx => true
  | .radd => true
  | .rmax => true
  | .rmin => true
  | .rmaxsc => true
  | .cvtf => !m.getLsbD 3
  | .cvti => m.getLsbD 3
  | .cvtif => false
  | .pack => true
  | .unpack => false
  | .bq => true
  | .bdq => true
  | .ldb => true
  | .stb => true
  | .lnsend => false
  | .lntap => false
  | .spop => false
  | .spush => false
  | .cbputOpen => true
  | .cbputWord => false
  | .cbgetOpen => false
  | .cbgetWord => false
  | .agen => true
  | .ldg => true
  | .stg => true
  | .ldgx => true
  | .stgx => true
  | .pfg => true
  | .atom => true
  | .cas => true
  | .red => true
  | .fence => false
  | .sbar => false
  | .xreq => false
  | .lrflush => true
  | .publish => false
  | .secw => true
  | .secwSet => true
  | .crd => true
  | .msend => false
  | .mword => false
  | .rdin => false
  | .sealreq => false
  | .rdcr => false
  | .wrcr => true
  | .evc => false
  | .trap => false
  | .brk => false
  | .halt => false

/-- The operation pops its third operand from `qX` in every firing (`atom` and `red` pop it when the access word sets XO, R275). -/
def SlotOp.readsX (op : SlotOp) (m : BitVec 4) : Bool :=
  match op with
  | .nop => false
  | .add => false
  | .sub => false
  | .mul => false
  | .mulh => false
  | .mad => true
  | .abs => false
  | .neg => false
  | .min => false
  | .max => false
  | .clz => false
  | .popc => false
  | .brev => false
  | .bperm => false
  | .addc => true
  | .subb => true
  | .div => false
  | .rem => false
  | .sad => true
  | .dp4 => true
  | .mov => false
  | .and => false
  | .or => false
  | .xor => false
  | .andn => false
  | .not => false
  | .lop3 => true
  | .shl => false
  | .shr => false
  | .rot => false
  | .fsh => true
  | .bfx => false
  | .bfi => true
  | .bswap => false
  | .cmp => false
  | .fcmp => false
  | .sel => true
  | .steer => false
  | .merge => true
  | .gate => false
  | .inv => false
  | .join => m.getLsbD 0
  | .ctok => false
  | .ctokIlast => false
  | .pset => false
  | .pget => false
  | .loopgen => false
  | .loopgen2 => false
  | .itr => false
  | .copyid => false
  | .cnt => m.getLsbD 0
  | .lastp => false
  | .stagev => false
  | .fadd => false
  | .fsub => false
  | .fmul => false
  | .ffma => true
  | .fmin => false
  | .fmax => false
  | .fabs => false
  | .fneg => false
  | .fclass => false
  | .fscale => false
  | .fround => false
  | .fcsgn => false
  | .fdot2 => true
  | .frcp => false
  | .frsq => false
  | .fsqrt => false
  | .fexp2 => false
  | .flog2 => false
  | .fsin => false
  | .fcos => false
  | .ftanh => false
  | .fdiv => false
  | .phx => true
  | .radd => false
  | .rmax => false
  | .rmin => false
  | .rmaxsc => false
  | .cvtf => false
  | .cvti => false
  | .cvtif => false
  | .pack => decide (mlo m ≠ 0)
  | .unpack => false
  | .bq => false
  | .bdq => false
  | .ldb => false
  | .stb => true
  | .lnsend => false
  | .lntap => false
  | .spop => false
  | .spush => false
  | .cbputOpen => true
  | .cbputWord => false
  | .cbgetOpen => false
  | .cbgetWord => false
  | .agen => false
  | .ldg => false
  | .stg => false
  | .ldgx => false
  | .stgx => true
  | .pfg => false
  | .atom => false
  | .cas => true
  | .red => false
  | .fence => false
  | .sbar => false
  | .xreq => false
  | .lrflush => false
  | .publish => false
  | .secw => false
  | .secwSet => false
  | .crd => false
  | .msend => false
  | .mword => false
  | .rdin => false
  | .sealreq => false
  | .rdcr => false
  | .wrcr => false
  | .evc => false
  | .trap => false
  | .brk => false
  | .halt => false

/-- The operation produces a result, so its target fields may be used (R179, Tables 9.1 to 11.1). -/
def SlotOp.hasResult : SlotOp → Bool
  | .nop => false
  | .pset => false
  | .ctokIlast => false
  | .agen => false
  | .brk => false
  | .halt => false
  | .trap => false
  | .mword => false
  | .spush => false
  | _ => true

/-- The source is a local register. -/
def Src.isK : Src → Bool
  | .k _ => true
  | _ => false

/-- The left selector suits the operation (R177, R220, R225 to R227, R247, R250, R263). -/
def SlotOp.lOk (op : SlotOp) (f : Slot) : Bool :=
  match op with
  | .inv => decide (f.l ≠ .peek)
  | .loopgen | .loopgen2 => decide (f.l = .peek)
  | .bq => decide (f.l = .pop)
  | .bdq => decide (f.l = .pop ∨ f.l = .peek)
  | .lnsend => decide (f.l ≠ .c)
  | _ => op.readsL f.mod || decide (f.l = .pop)

/-- The right selector suits the operation (R177, R225 to R227, R250, R258). -/
def SlotOp.rOk (op : SlotOp) (f : Slot) : Bool :=
  match op with
  | .loopgen | .loopgen2 | .cnt | .bdq | .rmaxsc => f.r.isK
  | _ => op.readsR f.mod || decide (f.r = .pop)

/-- CIDX is in use (R176, R215, R241, R263). -/
def SlotOp.usesC (op : SlotOp) (f : Slot) : Bool :=
  decide (f.l = .c) || decide (f.r = .c) || (match op with | .lop3 | .phx | .lnsend | .lntap => true | _ => false)

/-- A target that R247 allows for `bq`: kind 00 is none of the three that it names (DEDUCED, log 16). -/
def Target.bqOk : Target → Bool
  | .queue _ _ | .preg _ | .sp _ => true
  | _ => false

/-- The target is a pass register or a lane: two fields that name one of them are reserved (R179). -/
def Target.single : Target → Bool
  | .preg _ | .cw _ | .ac _ => true
  | _ => false

/-- The target names the register that the right selector names (R225, R227, R258). -/
def Target.isCounter (t : Target) (r : Src) : Bool :=
  match t, r with
  | .kreg i, .k j => decide (i = j)
  | _, _ => false

/-- The target fields suit the operation. -/
def SlotOp.tOk (op : SlotOp) (f : Slot) : Bool :=
  (op.hasResult || (decide (f.t1 = .none) && decide (f.t2 = .none)))
  && !(decide (f.t1 = f.t2) && f.t1.single)
  && (match op with
    | .loopgen | .loopgen2 | .cnt | .rmaxsc => !(f.t1.isCounter f.r) && !(f.t2.isCounter f.r)
    | .bq => f.t1.bqOk && f.t2.bqOk
    | _ => true)

/-- The sequence check is used only where a queue that R62 compares is popped, and `nop` has no predicate. -/
def SlotOp.flagsOk (op : SlotOp) (f : Slot) : Bool :=
  (!f.sq || (op.readsL f.mod && decide (f.l = .pop)) || (op.readsR f.mod && decide (f.r = .pop)))
  && (match op with | .nop => !f.pq | _ => true)

/-- A slot word's fields are well formed for its operation (R177 to R180 and the operation's chapter). -/
def SlotOp.wf (op : SlotOp) (f : Slot) : Bool :=
  op.modOk f.mod && op.lOk f && op.rOk f && (op.usesC f || decide (f.cidx = 0)) && op.tOk f && op.flagsOk f

/-- The operation is valid in modulo-mode planes only (R223, R228, R266). -/
def SlotOp.moduloOnly : SlotOp → Bool
  | .ctokIlast | .itr | .lastp | .stagev | .lnsend | .lntap => true
  | _ => false

/-- MOP of a matrix operation (Table 8.7). -/
def MOp.code : MOp → BitVec 6
  | .mwld => 0x01
  | .mwldt => 0x02
  | .mzero => 0x03
  | .mma => 0x04
  | .mmasc => 0x05
  | .mpromo => 0x06
  | .mdrain => 0x07
  | .mpass => 0x08
  | .bgmv => 0x10
  | .bred => 0x11

/-- A matrix word's fields are within Table 12.3 or Table 12.7, whatever the SYS bit of its image. -/
def MOp.wf (op : MOp) (w : MWord) : Bool :=
  match op with
  | .mwld | .mwldt => decide (w.fmt.toNat ≤ 5 ∧ w.pi = 0 ∧ w.scsw ≠ 3 ∧ w.scsa = 0 ∧ w.cnt = 1 ∧ w.dtgt = .none ∧ w.opx = 0)
      && (decide (w.fmt ≠ 4) || decide (w.scsw = 0))
  | .mzero | .mpromo => decide (w.fmt = 0 ∧ w.pi = 0 ∧ w.scsw = 0 ∧ w.scsa = 0 ∧ w.cnt = 1 ∧ w.dtgt = .none ∧ w.opx = 0)
  | .mma => decide (w.fmt.toNat ≤ 5 ∧ w.scsw = 0 ∧ w.scsa = 0 ∧ w.opx = 0)
  | .mmasc => decide ((w.fmt = 0 ∨ w.fmt = 1 ∨ w.fmt = 5) ∧ w.pi = 8 ∧ w.scsw ≠ 3 ∧ w.scsa ≠ 3 ∧ ¬ (w.scsw = 0 ∧ w.scsa = 0) ∧ w.opx = 0)
      && !(decide (w.fmt = 5) && (decide (w.scsw = 1) || decide (w.scsa = 1)))
  | .mdrain => decide (w.fmt = 0 ∧ w.pi = 0 ∧ w.scsw = 0 ∧ w.scsa = 0 ∧ w.cnt = 1 ∧ w.dtgt ≠ .none ∧ w.opx = 0)
  | .mpass => decide (w.fmt = 0 ∧ w.pi = 0 ∧ w.scsw = 0 ∧ w.scsa = 0 ∧ w.opx = 0)
  | .bgmv => decide (w.fmt.toNat ≤ 4 ∧ w.pi = 0 ∧ w.scsw = 0 ∧ w.scsa = 0 ∧ w.cnt ≠ 0 ∧ w.opx.toNat < 64)
  | .bred => decide (w.fmt.toNat ≤ 4 ∧ w.pi = 0 ∧ w.scsw = 0 ∧ w.scsa = 0 ∧ w.cnt = 0 ∧ w.opx.toNat ≤ 11)

/-- A well-formed instruction. Slot and matrix words: their tables; reel words, requests and nodes: the ranges
their tables give; events: the numbers name parts that exist (R13, R17). -/
def Instr.wf (i : Instr) : Bool :=
  match i.slot?, i.mword? with
  | some (op, f), _ => op.wf f
  | none, some (op, w) => op.wf w
  | none, none =>
    match i with
    | .loop _ d => decide (d ≠ 0)
    | .cmpj c _ _ _ _ => decide (c.toNat ≤ 5)
    | .tensorLoad _ a | .tensorStore _ a => decide (a.lr.toNat % 64 = 0)
    | .gather _ a | .scatter _ a => decide (a.log2rsz.toNat ≤ 20)
    | .setRemoteFlag _ _ _ _ aop => decide (aop = 0 ∨ aop = 2 ∨ aop = 8)
    | .reduceCopy _ s d _ r => decide (r.toNat ≤ 4 ∧ s.toNat % 4 = 0 ∧ d.toNat % 4 = 0)
    | .nodeEnd g | .nodeSeal g _ | .nodeMsg g _ => decide (g.prio ≠ 7)
    | .nodeSub g a _ => decide (g.prio ≠ 7 ∧ a.toNat % 64 = 0)
    | .nodeKernel g fig _ done _ => decide (g.prio ≠ 7 ∧ fig.toNat % 64 = 0 ∧ done.toNat % 8 = 0)
    | .nodeCopy g _ _ _ done _ => decide (g.prio ≠ 7 ∧ done.toNat % 8 = 0)
    | .nodeCond g p _ => decide (g.prio ≠ 7 ∧ p.toNat % 4 = 0)
    | .nodeLoop g _ _ p => decide (g.prio ≠ 7 ∧ p.toNat % 4 = 0)
    | .nodeWait g c _ | .nodeSignal g c _ => decide (g.prio ≠ 7 ∧ c.toNat % 8 = 0)
    | .slotIndexIssue _ lc ws => decide (lc < 4 ∧ ws < 128)
    | .bqBlockEmit el => decide (el < 2147483648)
    | .eventHandlerStart el => decide (el < 36507222016)
    | .wavefrontPassage el => decide (el < 36507222016)
    | .passRegisterTransfer st i => decide (st < 16777216 ∧ i < 16)
    | .boundLoadStreamIssue rs => decide (rs < 16777216)
    | .boundStoreStreamAccess rs => decide (rs < 16777216)
    | .virtualStripeYield _ ws => decide (ws < 128)
    | .statefulSave _ ws => decide (ws < 128)
    | .scrollSwap _ ws => decide (ws < 128)
    | .statefulRestore _ ws => decide (ws < 128)
    | .parkRead _ pr => decide (pr < 16)
    | .planeFill ring => decide (ring < 524288)
    | .streamAccessIssue rs => decide (rs < 16777216)
    | .pageWalkComplete rs => decide (rs < 16777216)
    | .stagingRelease pk => decide (pk < 8192)
    | .hostMessageDelivery pk => decide (pk < 8192)
    | .sppWrite mp n _ => decide (mp < 131072 ∧ n < 8)
    | .partitionEntryRelease mp n => decide (mp < 131072 ∧ n < 8)
    | .tlbivGo pk _ => decide (pk < 8192)
    | .invalidationComplete pk => decide (pk < 8192)
    | .mvfGo pk n _ => decide (pk < 8192 ∧ n < 16)
    | .migrationCopyDone pk n => decide (pk < 8192 ∧ n < 16)
    | .hbmRefresh sk bank => decide (sk < 131072 ∧ bank < 1024)
    | .rowActivationRefresh sk bank row => decide (sk < 131072 ∧ bank < 1024 ∧ row < 65536)
    | .patrolScrub sk line => decide (sk < 131072 ∧ line < 1073741824)
    | .ltagSweep sk => decide (sk < 131072)
    | .systolicBeat _ ws => decide (ws < 128)
    | .baseNodeStreamDelivery rs => decide (rs < 16777216)
    | .transferRequestStart tp => decide (tp < 524288)
    | .lm64Write pk off _ _ => decide (pk < 8192 ∧ off < 16384)
    | .lm64Take pk => decide (pk < 8192)
    | .walkStart pk => decide (pk < 8192)
    | .taskAging pk => decide (pk < 8192)
    | .taskDispatch pk => decide (pk < 8192)
    | .preemptCommit pk => decide (pk < 8192)
    | .stripeRelease st => decide (st < 16777216)
    | .sealPeriodExpiry pk => decide (pk < 8192)
    | .sealRequest pk => decide (pk < 8192)
    | .pavaneClose pk => decide (pk < 8192)
    | .pavaneDrain pk => decide (pk < 8192)
    | .pavaneVote pk => decide (pk < 8192)
    | .pavaneSeal pk => decide (pk < 8192)
    | .intervalEnable pk => decide (pk < 8192)
    | .disableRequest pk => decide (pk < 8192)
    | .registerWrite pk off _ _ => decide (pk < 8192 ∧ off < 1048576)
    | .coldReset pk => decide (pk < 8192)
    | .bootctlGo pk _ => decide (pk < 8192)
    | .attctlGo pk _ => decide (pk < 8192)
    | .hmconsWrite pk _ => decide (pk < 8192)
    | .bar4Load pk off _ => decide (pk < 8192 ∧ off < 68719476736)
    | .bar4Store pk off _ _ => decide (pk < 8192 ∧ off < 68719476736)
    | .powerGate ring => decide (ring < 524288)
    | .resultRetry el _ => decide (el < 2147483648)
    | .planeRefill st p => decide (st < 16777216 ∧ p < 4)
    | .spareReplacement pk => decide (pk < 8192)
    | .sprnowGo pk _ => decide (pk < 8192)
    | .faultRecordDispatch pk => decide (pk < 8192)
    | .faultRecordPost pk => decide (pk < 8192)
    | .fltconsWrite pk _ => decide (pk < 8192)
    | .fltctlKeepClear pk _ => decide (pk < 8192)
    | .ecntWrite pk n _ => decide (pk < 8192 ∧ n < 16)
    | .fltstatWrite pk _ => decide (pk < 8192)
    | .hosterrWrite pk _ => decide (pk < 8192)
    | .lnkstWrite pk n _ => decide (pk < 8192 ∧ n < 32)
    | .sucfgLinkDisable pk _ => decide (pk < 8192)
    | .psnclrGo pk _ => decide (pk < 8192)
    | .pgfresResume pk _ => decide (pk < 8192)
    | .pgfresEnd pk _ => decide (pk < 8192)
    | .dbgresResume pk _ => decide (pk < 8192)
    | .dbgresEnd pk _ => decide (pk < 8192)
    | .dbgresStep pk _ => decide (pk < 8192)
    | .rollbackStart pk => decide (pk < 8192)
    | .rollbackHold pk => decide (pk < 8192)
    | .rollbackQuiet pk => decide (pk < 8192)
    | .rollbackApply pk => decide (pk < 8192)
    | .rollbackRepair pk => decide (pk < 8192)
    | .rollbackResume pk => decide (pk < 8192)
    | .memberLost pk m => decide (pk < 8192 ∧ m < 8192)
    | .leaderTakeover pk => decide (pk < 8192)
    | .linkFlitError pk port => decide (pk < 8192 ∧ port < 32)
    | .linkReplay pk port => decide (pk < 8192 ∧ port < 32)
    | .laneFailing pk port lane _ => decide (pk < 8192 ∧ port < 32 ∧ lane < 8)
    | .portDown pk port => decide (pk < 8192 ∧ port < 32)
    | .lnkcfgRetrain pk _ => decide (pk < 8192)
    | .hostLinkDown pk => decide (pk < 8192)
    | .hostLinkUp pk => decide (pk < 8192)
    | .hotReset pk => decide (pk < 8192)
    | .poisonedHostWrite pk _ off => decide (pk < 8192 ∧ off < 68719476736)
    | .memoryPortDomainReset mp => decide (mp < 131072)
    | .fabricDieReset pk die => decide (pk < 8192 ∧ die < 16)
    | _ => true

end Sys2Proof
end

