-- ==== Sys2Proof/Decode.lean ====
section
/-! DEFINITION. The decoder of the five encoded forms (R176 to R186, R322, R333, R344), total and rejecting by name, and after it the encoder written from the same tables. -/
namespace Sys2Proof

/-- Why a word is no instruction. -/
inductive Reject where
  | reservedOpc | slotField | slotTarget | slotAux
  | reservedMop | matrixField
  | reservedRop | reelField
  | reservedKind | requestField
  | nodeKind | nodeField
  deriving DecidableEq, Repr

/-- Bits [lo+n-1:lo] of a word. -/
def field {w : Nat} (v : BitVec w) (lo n : Nat) : BitVec n := v.extractLsb' lo n

/-- A target field (Table 8.2); `none` where it breaks the table. -/
def decodeTarget (t : BitVec 10) : Option Target :=
  let k := field t 8 2
  let b := field t 0 8
  if k = 0 then (if b = 0 then some .none else none)
  else if k = 1 then some (.queue (field t 6 2) (field t 0 6))
  else if k = 2 then
    if b.getLsbD 7 then (if field t 4 3 = 0 then some (.preg (field t 0 4)) else none)
    else (if field t 3 4 = 0 then some (.kreg (field t 0 3)) else none)
  else if field t 4 2 ≠ 0 then none
  else
    let i := field t 0 4
    let q := field t 6 2
    some (if q = 0 then .cw i else if q = 1 then .ac i else if q = 2 then .sp i else .mx i)

/-- An operand selector (Table 8.1) with its local-register index. -/
def decodeSrc (s : BitVec 2) (i : BitVec 3) : Src :=
  if s = 0 then .pop else if s = 1 then .peek else if s = 2 then .k i else .c

/-- The slot operation of OPC and MOD (Table 8.4); `none` for a reserved OPC. -/
def decodeSlotOp (opc : BitVec 8) (m : BitVec 4) : Option SlotOp :=
  match opc.toNat with
  | 0x00 => some (.nop)
  | 0x01 => some (.add)
  | 0x02 => some (.sub)
  | 0x03 => some (.mul)
  | 0x04 => some (.mulh)
  | 0x05 => some (.mad)
  | 0x06 => some (.abs)
  | 0x07 => some (.neg)
  | 0x08 => some (.min)
  | 0x09 => some (.max)
  | 0x0A => some (.clz)
  | 0x0B => some (.popc)
  | 0x0C => some (.brev)
  | 0x0D => some (.bperm)
  | 0x0E => some (.addc)
  | 0x0F => some (.subb)
  | 0x10 => some (.div)
  | 0x11 => some (.rem)
  | 0x12 => some (.sad)
  | 0x13 => some (.dp4)
  | 0x14 => some (.mov)
  | 0x20 => some (.and)
  | 0x21 => some (.or)
  | 0x22 => some (.xor)
  | 0x23 => some (.andn)
  | 0x24 => some (.not)
  | 0x25 => some (.lop3)
  | 0x26 => some (.shl)
  | 0x27 => some (.shr)
  | 0x28 => some (.rot)
  | 0x29 => some (.fsh)
  | 0x2A => some (.bfx)
  | 0x2B => some (.bfi)
  | 0x2C => some (.bswap)
  | 0x30 => some (.cmp)
  | 0x31 => some (.fcmp)
  | 0x32 => some (.sel)
  | 0x33 => some (.steer)
  | 0x34 => some (.merge)
  | 0x35 => some (.gate)
  | 0x36 => some (.inv)
  | 0x37 => some (.join)
  | 0x38 => some (if m = 4 then .ctokIlast else .ctok)
  | 0x39 => some (.pset)
  | 0x3A => some (.pget)
  | 0x40 => some (.loopgen)
  | 0x41 => some (.loopgen2)
  | 0x42 => some (.itr)
  | 0x43 => some (.copyid)
  | 0x44 => some (.cnt)
  | 0x45 => some (.lastp)
  | 0x46 => some (.stagev)
  | 0x50 => some (.fadd)
  | 0x51 => some (.fsub)
  | 0x52 => some (.fmul)
  | 0x53 => some (.ffma)
  | 0x54 => some (.fmin)
  | 0x55 => some (.fmax)
  | 0x56 => some (.fabs)
  | 0x57 => some (.fneg)
  | 0x58 => some (.fclass)
  | 0x59 => some (.fscale)
  | 0x5A => some (.fround)
  | 0x5B => some (.fcsgn)
  | 0x5C => some (.fdot2)
  | 0x60 => some (.frcp)
  | 0x61 => some (.frsq)
  | 0x62 => some (.fsqrt)
  | 0x63 => some (.fexp2)
  | 0x64 => some (.flog2)
  | 0x65 => some (.fsin)
  | 0x66 => some (.fcos)
  | 0x67 => some (.ftanh)
  | 0x68 => some (.fdiv)
  | 0x69 => some (.phx)
  | 0x6A => some (.radd)
  | 0x6B => some (.rmax)
  | 0x6C => some (.rmin)
  | 0x6D => some (.rmaxsc)
  | 0x70 => some (.cvtf)
  | 0x71 => some (.cvti)
  | 0x72 => some (.cvtif)
  | 0x73 => some (.pack)
  | 0x74 => some (.unpack)
  | 0x75 => some (.bq)
  | 0x76 => some (.bdq)
  | 0x80 => some (.ldb)
  | 0x81 => some (.stb)
  | 0x82 => some (.lnsend)
  | 0x83 => some (.lntap)
  | 0x84 => some (.spop)
  | 0x85 => some (.spush)
  | 0x86 => some (if m.getLsbD 0 then .cbputWord else .cbputOpen)
  | 0x87 => some (if m.getLsbD 0 then .cbgetWord else .cbgetOpen)
  | 0x90 => some (.agen)
  | 0x91 => some (.ldg)
  | 0x92 => some (.stg)
  | 0x93 => some (.ldgx)
  | 0x94 => some (.stgx)
  | 0x95 => some (.pfg)
  | 0xA0 => some (.atom)
  | 0xA1 => some (.cas)
  | 0xA2 => some (.red)
  | 0xA3 => some (.fence)
  | 0xA4 => some (.sbar)
  | 0xA5 => some (.xreq)
  | 0xA6 => some (.lrflush)
  | 0xA7 => some (.publish)
  | 0xA8 => some (if m.getLsbD 0 then .secwSet else .secw)
  | 0xA9 => some (.crd)
  | 0xB0 => some (.msend)
  | 0xB1 => some (.mword)
  | 0xB2 => some (.rdin)
  | 0xB3 => some (.sealreq)
  | 0xB4 => some (.rdcr)
  | 0xB5 => some (.wrcr)
  | 0xB6 => some (.evc)
  | 0xF0 => some (.trap)
  | 0xF1 => some (.brk)
  | 0xF2 => some (.halt)
  | _ => none

/-- An S48 slot word (R176 to R181). -/
def decodeSlot (w : BitVec 48) : Except Reject Instr :=
  let mod := field w 36 4
  match decodeSlotOp (field w 40 8) mod with
  | none => .error .reservedOpc
  | some op =>
    match decodeTarget (field w 21 10), decodeTarget (field w 11 10) with
    | some t1, some t2 =>
      let lidx : BitVec 3 := field w 0 3
      let ridx : BitVec 3 := field w 3 3
      let ls : BitVec 2 := field w 33 2
      let rs : BitVec 2 := field w 31 2
      let f : Slot :=
        { mod := mod, pq := w.getLsbD 35, l := decodeSrc ls lidx, r := decodeSrc rs ridx,
          t1 := t1, t2 := t2, sq := w.getLsbD 10, cidx := field w 6 4 }
      if ls ≠ 2 ∧ lidx ≠ 0 then .error .slotAux
      else if rs ≠ 2 ∧ ridx ≠ 0 then .error .slotAux
      else if op.wf f then .ok (op.mk f) else .error .slotField
    | _, _ => .error .slotTarget

/-- The matrix operation of MOP (Table 8.7). -/
def decodeMOp (mop : BitVec 6) : Option MOp :=
  match mop.toNat with
  | 0x01 => some .mwld
  | 0x02 => some .mwldt
  | 0x03 => some .mzero
  | 0x04 => some .mma
  | 0x05 => some .mmasc
  | 0x06 => some .mpromo
  | 0x07 => some .mdrain
  | 0x08 => some .mpass
  | 0x10 => some .bgmv
  | 0x11 => some .bred
  | _ => none

/-- An M64 matrix word (R182, R183, Tables 12.3 and 12.7). -/
def decodeMatrix (w : BitVec 64) : Except Reject Instr :=
  match decodeMOp (field w 58 6) with
  | none => .error .reservedMop
  | some op =>
    match decodeTarget (field w 34 10) with
    | none => .error .matrixField
    | some t =>
      let m : MWord :=
        { fmt := field w 54 4, pi := field w 48 6, scsw := field w 46 2, scsa := field w 44 2,
          dtgt := t, cnt := field w 18 16, opx := field w 0 18 }
      if op.wf m then .ok (op.mk m) else .error .matrixField

/-- The instruction, where its unused fields are zero. -/
def reelIf (ok : Bool) (i : Instr) : Except Reject Instr := if ok then .ok i else .error .reelField

/-- A reel operand: register `r` where the bit is set (its immediate then zero), else the immediate (`r` then zero). -/
def decodeRegOr {n : Nat} (b : Bool) (r : BitVec 4) (v : BitVec n) : Option (RegOr n) :=
  if b then (if v = 0 then some (.reg r) else none) else (if r = 0 then some (.imm v) else none)

/-- A W64 reel word (R184, Table 13.2). -/
def decodeReel (w : BitVec 64) : Except Reject Instr :=
  let cnd : BitVec 4 := field w 52 4
  let ra : BitVec 4 := field w 48 4
  let rb : BitVec 4 := field w 44 4
  let imm : BitVec 44 := field w 0 44
  let c0 := cnd.getLsbD 0
  let c1 := cnd.getLsbD 1
  let c2 := cnd.getLsbD 2
  let c3 := cnd.getLsbD 3
  let noR := decide (ra = 0 ∧ rb = 0)
  let t16 : BitVec 16 := field imm 0 16
  let only (n : Nat) : Bool := decide (imm.toNat < 2 ^ n)
  match (field w 56 8).toNat with
  | 0x01 =>
    match decodeRegOr c2 ra (field imm 0 16), decodeRegOr c3 rb (field imm 16 7) with
    | some img, some ws => reelIf (only 23) (.stripe (field cnd 0 2) img ws)
    | _, _ => .error .reelField
  | 0x02 =>
    if c3 then reelIf (decide (cnd = 8) && noR && only 10 && decide (field imm 2 2 = (0 : BitVec 2)))
      (.plane (.pred (field imm 4 4) (field imm 0 2) (field imm 8 2)))
    else reelIf (decide (cnd = 0) && noR && only 2) (.plane (.direct (field imm 0 2)))
  | 0x03 =>
    if cnd = 0 then reelIf (noR && only 7) (.swap (field imm 0 7))
    else if cnd = 1 then reelIf (noR && only 0) .swapAll
    else if cnd = 2 then reelIf (noR && only 0) .swapWave
    else .error .reelField
  | 0x04 => reelIf (decide (cnd = 0) && noR && only 40) (.dwell (field imm 0 12) (field imm 12 12) (field imm 24 16))
  | 0x05 =>
    match decodeRegOr c0 ra (field imm 0 32) with
    | some n => reelIf (!c1 && !c2 && !c3 && decide (rb = 0) && decide (field imm 32 12 ≠ (0 : BitVec 12))) (.loop n (field imm 32 12))
    | none => .error .reelField
  | 0x06 => reelIf (decide (cnd = 0) && noR && only 0) .endl
  | 0x07 => reelIf (noR && only 17) (.brp cnd (imm.getLsbD 16) t16)
  | 0x08 => reelIf (decide (cnd = 0) && noR && only 16) (.jmp t16)
  | 0x09 => reelIf (decide (cnd = 0) && noR && only 16) (.call t16)
  | 0x0A => reelIf (decide (cnd = 0) && noR && only 0) .ret
  | 0x0B =>
    if c2 then
      match decodeRegOr c3 ra t16 with
      | some n => reelIf (!c0 && !c1 && decide (rb = 0) && only 16) (.armMx n)
      | none => .error .reelField
    else
      match decodeRegOr c3 ra (field imm 0 32) with
      | some n => reelIf (decide (rb = 0) && only 32) (.arm (field cnd 0 2) n)
      | none => .error .reelField
  | 0x0C =>
    if cnd = 0 then reelIf (noR && only 12) (.waitbBar (field imm 0 12))
    else if cnd = 1 then reelIf (noR && only 2) (.waitbLc (field imm 0 2))
    else if cnd = 2 then reelIf (noR && only 0) .waitbMx
    else .error .reelField
  | 0x0D =>
    match decodeRegOr c0 rb (field imm 0 7), decodeRegOr c1 ra (field imm 8 26) with
    | some ws, some ad => reelIf (!c2 && !c3 && only 34 && !(imm.getLsbD 7)) (.save ws ad)
    | _, _ => .error .reelField
  | 0x0E =>
    match decodeRegOr c0 rb (field imm 0 7), decodeRegOr c1 ra (field imm 8 26) with
    | some ws, some ad => reelIf (!c2 && !c3 && only 34 && !(imm.getLsbD 7)) (.rest ws ad)
    | _, _ => .error .reelField
  | 0x0F => reelIf (!c1 && !c2 && !c3 && (c0 || decide (rb = 0)) && only 26) (.lds ra (field imm 0 26) (if c0 then some rb else none))
  | 0x10 => reelIf (!c1 && !c2 && !c3 && (c0 || decide (rb = 0)) && only 26) (.sts ra (field imm 0 26) (if c0 then some rb else none))
  | 0x11 => reelIf (decide (cnd = 0)) (.addi ra rb imm)
  | 0x12 =>
    if cnd = 0 then reelIf (decide (rb = 0)) (.movs ra (.imm imm))
    else if cnd = 1 then reelIf (only 0) (.movs ra (.reg rb))
    else if cnd = 2 then reelIf (decide (rb = 0) && only 2) (.movs ra (.n (field imm 0 2)))
    else if cnd = 3 then reelIf (decide (rb = 0) && only 4) (.movs ra (.usr (field imm 0 4)))
    else .error .reelField
  | 0x13 => reelIf (only 16 && decide ((field cnd 0 3).toNat ≤ 5)) (.cmpj (field cnd 0 3) c3 ra rb t16)
  | 0x14 => reelIf (!c2 && !c3 && (c1 || decide (ra = 0)) && decide (rb = 0) && only 0) (.seqw c0 (if c1 then some ra else none))
  | 0x15 => reelIf (!c1 && !c2 && !c3 && noR && only 32) (.msgr c0 (field imm 0 32))
  | 0x16 => reelIf (decide (cnd = 0) && noR && only 0) .yld
  | 0x17 =>
    match decodeRegOr c0 ra (field imm 0 32) with
    | some n => reelIf (!c1 && !c2 && !c3 && decide (rb = 0) && only 32) (.hlt n)
    | none => .error .reelField
  | _ => .error .reservedRop

/-- Word `i` of a request (R185). -/
def xword (x : BitVec 256) (i : Nat) : BitVec 32 := field x (32 * i) 32

/-- The 64-bit value of words `i` and `i+1`, low word first (R333). -/
def xpair (x : BitVec 256) (i : Nat) : BitVec 64 := field x (32 * i) 64

/-- The request, where the bits its kind does not name are zero. -/
def reqIf (ok : Bool) (i : Instr) : Except Reject Instr := if ok then .ok i else .error .requestField

/-- An X256 transfer request (R185, R333). -/
def decodeRequest (x : BitVec 256) : Except Reject Instr :=
  let h : XHead := { tag := field x 0 24, sc := x.getLsbD 26, cq := x.getLsbD 27, cring := field x 224 12, sctr := field x 236 12 }
  let common := decide (field x 24 2 = (0 : BitVec 2) ∧ field x 248 8 = (0 : BitVec 8))
  let w2 := xword x 2
  let w4 := xword x 4
  let w6 := xword x 6
  let copy : CopyArgs := { src := xpair x 1, dst := xpair x 3, len := field x 160 40 }
  let tensor : TensorArgs := { lr := field x 32 57, lsp := w2.getLsbD 25, loc := xword x 3, o := field x 128 96 }
  let row : RowArgs := { tab := field x 32 57, log2rsz := field w2 25 5, idx := field x 96 57, lsp := w4.getLsbD 25, nix := xword x 5, loc := w6 }
  let tOk := decide (field x 32 6 = (0 : BitVec 6) ∧ field w2 26 6 = (0 : BitVec 6))
  let rOk := decide (field w2 30 2 = (0 : BitVec 2) ∧ field w4 26 6 = (0 : BitVec 6))
  match (field x 28 4).toNat with
  | 0 => reqIf (common && decide (w6.toNat < 256)) (.transferCopy h copy)
  | 1 => reqIf (common && tOk) (.tensorLoad h tensor)
  | 2 => reqIf (common && tOk) (.tensorStore h tensor)
  | 3 => reqIf (common && rOk) (.gather h row)
  | 4 => reqIf (common && rOk) (.scatter h row)
  | 5 => reqIf (common && decide (w4.toNat < 256) && decide (w6 = 0)) (.fill h (xpair x 1) (field x 96 40) (xword x 5))
  | 6 => reqIf (common && decide (w6.toNat < 2 ^ 24)) (.remoteCopy h copy (field w6 8 16))
  | 7 => reqIf (common && decide ((xword x 1).toNat < 65536 ∧ w2.toNat < 8192 ∧ w4.toNat < 16 ∧ xword x 5 = 0 ∧ w6 = 0))
      (.setRemoteFlag h (field x 32 16) (field w2 0 13) (xword x 3) (field w4 0 4))
  | 8 => reqIf (common && decide (w6.toNat < 256)) (.shadowCopy h copy)
  | 9 => reqIf (common && decide (w6.toNat < 16)) (.reduceCopy h (xpair x 1) (xpair x 3) (xword x 5) (field w6 0 4))
  | _ => .error .reservedKind

/-- The node, where its reserved bits are zero, its priority is legal and its addresses aligned. -/
def nodeIf (ok : Bool) (i : Instr) : Except Reject Instr := if ok then .ok i else .error .nodeField

/-- A G64 task-graph node (R186, R344). -/
def decodeNode (x : BitVec 512) : Except Reject Instr :=
  let g : GHead := { prio := field x 4 3, next := field x 32 32 }
  let hd := decide (g.prio ≠ 7 ∧ field x 7 25 = (0 : BitVec 25))
  let a1 : BitVec 64 := field x 64 64
  let a2 : BitVec 64 := field x 128 64
  let a3 : BitVec 64 := field x 192 64
  match (field x 0 4).toNat with
  | 0 => nodeIf (hd && decide (field x 64 448 = (0 : BitVec 448))) (.nodeEnd g)
  | 1 => nodeIf (hd && decide (field a2 1 63 = (0 : BitVec 63) ∧ field x 384 128 = (0 : BitVec 128) ∧ field a1 0 6 = (0 : BitVec 6) ∧ field a3 0 3 = (0 : BitVec 3)))
      (.nodeKernel g a1 (a2.getLsbD 0) a3 (field x 256 128))
  | 2 => nodeIf (hd && decide (field a1 7 57 = (0 : BitVec 57) ∧ a3 = 0 ∧ field a2 0 3 = (0 : BitVec 3)))
      (.nodeCopy g (a1.getLsbD 0) (field a1 1 4) (field a1 5 2) a2 (field x 256 256))
  | 3 => nodeIf (hd && decide (field x 160 352 = (0 : BitVec 352) ∧ field a1 0 2 = (0 : BitVec 2))) (.nodeCond g a1 (field x 128 32))
  | 4 => nodeIf (hd && decide (field x 192 320 = (0 : BitVec 320) ∧ field a2 0 2 = (0 : BitVec 2))) (.nodeLoop g (field x 64 32) (field x 96 32) a2)
  | 5 => nodeIf (hd && decide (field x 192 320 = (0 : BitVec 320) ∧ field a1 0 3 = (0 : BitVec 3))) (.nodeWait g a1 a2)
  | 6 => nodeIf (hd && decide (field x 192 320 = (0 : BitVec 320) ∧ field a1 0 3 = (0 : BitVec 3))) (.nodeSignal g a1 a2)
  | 7 => nodeIf (hd && decide (field x 65 447 = (0 : BitVec 447))) (.nodeSeal g (x.getLsbD 64))
  | 8 => nodeIf hd (.nodeMsg g (field x 64 448))
  | 9 => nodeIf (hd && decide (field x 160 352 = (0 : BitVec 352) ∧ field a1 0 6 = (0 : BitVec 6))) (.nodeSub g a1 (field x 128 32))
  | _ => .error .nodeKind

/-- The result of a decoder as an option. -/
def okOf (r : Except Reject Instr) : Option Instr :=
  match r with
  | .ok i => some i
  | .error _ => none

/-- The instruction the decoder reads from `nbits` bits: an S48 word, a W64 reel word (or, where it is none, an M64
matrix word), an X256 request or a G64 node by the length of the form. -/
def decodeTableWord (nbits w : Nat) : Option Instr :=
  if nbits ≤ 48 then okOf (decodeSlot (BitVec.ofNat 48 w))
  else if nbits ≤ 64 then
    match decodeReel (BitVec.ofNat 64 w) with
    | .ok i => some i
    | .error _ => okOf (decodeMatrix (BitVec.ofNat 64 w))
  else if nbits ≤ 256 then okOf (decodeRequest (BitVec.ofNat 256 w))
  else okOf (decodeNode (BitVec.ofNat 512 w))

/-! The encoder, from the same tables. -/

/-- The 10-bit field of a target (Table 8.2). -/
def encodeTarget : Target → BitVec 10
  | .none => 0
  | .queue q e => (1 : BitVec 2) ++ q ++ e
  | .kreg i => (2 : BitVec 2) ++ (0 : BitVec 5) ++ i
  | .preg i => (2 : BitVec 2) ++ (1 : BitVec 1) ++ (0 : BitVec 3) ++ i
  | .cw i => (3 : BitVec 2) ++ (0 : BitVec 2) ++ (0 : BitVec 2) ++ i
  | .ac i => (3 : BitVec 2) ++ (1 : BitVec 2) ++ (0 : BitVec 2) ++ i
  | .sp i => (3 : BitVec 2) ++ (2 : BitVec 2) ++ (0 : BitVec 2) ++ i
  | .mx i => (3 : BitVec 2) ++ (3 : BitVec 2) ++ (0 : BitVec 2) ++ i

/-- The selector bits of a source (Table 8.1). -/
def encodeSrc : Src → BitVec 2
  | .pop => 0
  | .peek => 1
  | .k _ => 2
  | .c => 3

/-- The local-register index a source puts in AUX; zero where it names none. -/
def srcIdx : Src → BitVec 3
  | .k i => i
  | _ => 0

/-- The S48 word of a slot operation (Table 8.1). -/
def encodeSlot (op : SlotOp) (f : Slot) : BitVec 48 :=
  op.opc ++ f.mod ++ BitVec.ofBool f.pq ++ encodeSrc f.l ++ encodeSrc f.r ++ encodeTarget f.t1 ++ encodeTarget f.t2
    ++ BitVec.ofBool f.sq ++ f.cidx ++ srcIdx f.r ++ srcIdx f.l

/-- The M64 word of a matrix operation (Table 8.6). -/
def encodeMatrix (op : MOp) (w : MWord) : BitVec 64 :=
  op.code ++ w.fmt ++ w.pi ++ w.scsw ++ w.scsa ++ encodeTarget w.dtgt ++ w.cnt ++ w.opx

/-- A W64 word from its fields (R184). -/
def reelWord (rop : BitVec 8) (cnd ra rb : BitVec 4) (imm : BitVec 44) : BitVec 64 := rop ++ cnd ++ ra ++ rb ++ imm

/-- The register index of a reel operand; zero for an immediate. -/
def RegOr.ridx {n : Nat} : RegOr n → BitVec 4
  | .reg r => r
  | .imm _ => 0
/-- The immediate of a reel operand; zero for a register. -/
def RegOr.val {n : Nat} : RegOr n → BitVec n
  | .reg _ => 0
  | .imm v => v
/-- Whether a reel operand is a register. -/
def RegOr.isReg {n : Nat} : RegOr n → BitVec 1
  | .reg _ => 1
  | .imm _ => 0

/-- The register index of an optional reel register; zero where absent. -/
def optReg : Option (BitVec 4) → BitVec 4
  | some r => r
  | none => 0
/-- The bit that says an optional reel register is present. -/
def optBit : Option (BitVec 4) → BitVec 1
  | some _ => 1
  | none => 0

/-- The W64 word of a reel instruction (Table 13.2); none for another instruction. -/
def encodeReel : Instr → Option (BitVec 64)
  | .stripe p img ws => some (reelWord 0x01 (ws.isReg ++ img.isReg ++ p) img.ridx ws.ridx ((0 : BitVec 21) ++ ws.val ++ img.val))
  | .plane (.direct p) => some (reelWord 0x02 0 0 0 ((0 : BitVec 42) ++ p))
  | .plane (.pred l p q) => some (reelWord 0x02 8 0 0 ((0 : BitVec 34) ++ q ++ l ++ (0 : BitVec 2) ++ p))
  | .swap ws => some (reelWord 0x03 0 0 0 ((0 : BitVec 37) ++ ws))
  | .swapAll => some (reelWord 0x03 1 0 0 0)
  | .swapWave => some (reelWord 0x03 2 0 0 0)
  | .dwell d v img => some (reelWord 0x04 0 0 0 ((0 : BitVec 4) ++ img ++ v ++ d))
  | .loop n d => some (reelWord 0x05 ((0 : BitVec 3) ++ n.isReg) n.ridx 0 (d ++ n.val))
  | .endl => some (reelWord 0x06 0 0 0 0)
  | .brp l s t => some (reelWord 0x07 l 0 0 ((0 : BitVec 27) ++ BitVec.ofBool s ++ t))
  | .jmp t => some (reelWord 0x08 0 0 0 ((0 : BitVec 28) ++ t))
  | .call t => some (reelWord 0x09 0 0 0 ((0 : BitVec 28) ++ t))
  | .ret => some (reelWord 0x0A 0 0 0 0)
  | .arm l n => some (reelWord 0x0B (n.isReg ++ (0 : BitVec 1) ++ l) n.ridx 0 ((0 : BitVec 12) ++ n.val))
  | .armMx n => some (reelWord 0x0B (n.isReg ++ (4 : BitVec 3)) n.ridx 0 ((0 : BitVec 28) ++ n.val))
  | .waitbBar t => some (reelWord 0x0C 0 0 0 ((0 : BitVec 32) ++ t))
  | .waitbLc l => some (reelWord 0x0C 1 0 0 ((0 : BitVec 42) ++ l))
  | .waitbMx => some (reelWord 0x0C 2 0 0 0)
  | .save ws ad => some (reelWord 0x0D ((0 : BitVec 2) ++ ad.isReg ++ ws.isReg) ad.ridx ws.ridx ((0 : BitVec 10) ++ ad.val ++ (0 : BitVec 1) ++ ws.val))
  | .rest ws ad => some (reelWord 0x0E ((0 : BitVec 2) ++ ad.isReg ++ ws.isReg) ad.ridx ws.ridx ((0 : BitVec 10) ++ ad.val ++ (0 : BitVec 1) ++ ws.val))
  | .lds a off b => some (reelWord 0x0F ((0 : BitVec 3) ++ optBit b) a (optReg b) ((0 : BitVec 18) ++ off))
  | .sts a off b => some (reelWord 0x10 ((0 : BitVec 3) ++ optBit b) a (optReg b) ((0 : BitVec 18) ++ off))
  | .addi a b imm => some (reelWord 0x11 0 a b imm)
  | .movs a (.imm v) => some (reelWord 0x12 0 a 0 v)
  | .movs a (.reg b) => some (reelWord 0x12 1 a b 0)
  | .movs a (.n l) => some (reelWord 0x12 2 a 0 ((0 : BitVec 42) ++ l))
  | .movs a (.usr i) => some (reelWord 0x12 3 a 0 ((0 : BitVec 40) ++ i))
  | .cmpj c u a b t => some (reelWord 0x13 (BitVec.ofBool u ++ c) a b ((0 : BitVec 28) ++ t))
  | .seqw q ab => some (reelWord 0x14 ((0 : BitVec 2) ++ optBit ab ++ BitVec.ofBool q) (optReg ab) 0 0)
  | .msgr sl imm => some (reelWord 0x15 ((0 : BitVec 3) ++ BitVec.ofBool sl) 0 0 ((0 : BitVec 12) ++ imm))
  | .yld => some (reelWord 0x16 0 0 0 0)
  | .hlt n => some (reelWord 0x17 ((0 : BitVec 3) ++ n.isReg) n.ridx 0 ((0 : BitVec 12) ++ n.val))
  | _ => none

/-- Words 0 and 7 around words 1 to 6 (Table 8.9). -/
def reqWord (kind : BitVec 4) (h : XHead) (mid : BitVec 192) : BitVec 256 :=
  (0 : BitVec 8) ++ h.sctr ++ h.cring ++ mid ++ kind ++ BitVec.ofBool h.cq ++ BitVec.ofBool h.sc ++ (0 : BitVec 2) ++ h.tag

/-- Words 1 to 6 of a copy (Table 13.4). -/
def copyMid (a : CopyArgs) : BitVec 192 := (0 : BitVec 24) ++ a.len ++ a.dst ++ a.src
/-- Words 1 to 6 of a tensor request (Table 13.4). -/
def tensorMid (a : TensorArgs) : BitVec 192 := a.o ++ a.loc ++ (0 : BitVec 6) ++ BitVec.ofBool a.lsp ++ a.lr
/-- Words 1 to 6 of a gather or scatter (Table 13.4). -/
def rowMid (a : RowArgs) : BitVec 192 :=
  a.loc ++ a.nix ++ (0 : BitVec 6) ++ BitVec.ofBool a.lsp ++ a.idx ++ (0 : BitVec 2) ++ a.log2rsz ++ a.tab

/-- The X256 words of a transfer (Table 13.4); none for another instruction. -/
def encodeRequest : Instr → Option (BitVec 256)
  | .transferCopy h a => some (reqWord 0 h (copyMid a))
  | .tensorLoad h a => some (reqWord 1 h (tensorMid a))
  | .tensorStore h a => some (reqWord 2 h (tensorMid a))
  | .gather h a => some (reqWord 3 h (rowMid a))
  | .scatter h a => some (reqWord 4 h (rowMid a))
  | .fill h d len p => some (reqWord 5 h ((0 : BitVec 32) ++ p ++ (0 : BitVec 24) ++ len ++ d))
  | .remoteCopy h a fl => some (reqWord 6 h ((0 : BitVec 8) ++ fl ++ a.len ++ a.dst ++ a.src))
  | .setRemoteFlag h fl pk v aop => some (reqWord 7 h ((0 : BitVec 64) ++ (0 : BitVec 28) ++ aop ++ v ++ (0 : BitVec 19) ++ pk ++ (0 : BitVec 16) ++ fl))
  | .shadowCopy h a => some (reqWord 8 h (copyMid a))
  | .reduceCopy h s d nel rop => some (reqWord 9 h ((0 : BitVec 28) ++ rop ++ nel ++ d ++ s))
  | _ => none

/-- The header of a node (Table 8.10). -/
def nodeHead (kind : BitVec 4) (g : GHead) : BitVec 64 := g.next ++ (0 : BitVec 25) ++ g.prio ++ kind

/-- The G64 bytes of a node (Table 13.7); none for another instruction. -/
def encodeNode : Instr → Option (BitVec 512)
  | .nodeEnd g => some ((0 : BitVec 448) ++ nodeHead 0 g)
  | .nodeKernel g fig as done ua => some ((0 : BitVec 128) ++ ua ++ done ++ (0 : BitVec 63) ++ BitVec.ofBool as ++ fig ++ nodeHead 1 g)
  | .nodeCopy g as die port done req => some (req ++ (0 : BitVec 64) ++ done ++ (0 : BitVec 57) ++ port ++ die ++ BitVec.ofBool as ++ nodeHead 2 g)
  | .nodeCond g pred alt => some ((0 : BitVec 352) ++ alt ++ pred ++ nodeHead 3 g)
  | .nodeLoop g body count pred => some ((0 : BitVec 320) ++ pred ++ count ++ body ++ nodeHead 4 g)
  | .nodeWait g ctr thr => some ((0 : BitVec 320) ++ thr ++ ctr ++ nodeHead 5 g)
  | .nodeSignal g ctr add => some ((0 : BitVec 320) ++ add ++ ctr ++ nodeHead 6 g)
  | .nodeSeal g req => some ((0 : BitVec 447) ++ BitVec.ofBool req ++ nodeHead 7 g)
  | .nodeMsg g w => some (w ++ nodeHead 8 g)
  | .nodeSub g gr entry => some ((0 : BitVec 352) ++ entry ++ gr ++ nodeHead 9 g)
  | _ => none

/-- An encoded instruction: its form's length in bits and its bits. -/
structure Encoded where
  bits : Nat
  word : Nat
  deriving DecidableEq, Repr

/-- The words of an instruction in its form; none for a step that is no encoded instruction. -/
def encode (i : Instr) : Option Encoded :=
  match i.slot?, i.mword? with
  | some (op, f), _ => some ⟨48, (encodeSlot op f).toNat⟩
  | none, some (op, w) => some ⟨64, (encodeMatrix op w).toNat⟩
  | none, none =>
    match encodeReel i, encodeRequest i, encodeNode i with
    | some w, _, _ => some ⟨64, w.toNat⟩
    | none, some w, _ => some ⟨256, w.toNat⟩
    | none, none, some w => some ⟨512, w.toNat⟩
    | none, none, none => none

end Sys2Proof
end

