-- ==== Sys2Proof/Machine/State.lean ====
section
/-! DEFINITION. The state of the machine as plain data, grouped as the specification groups it, the reasons a step can stop, and the machine right after a cold reset. -/
namespace Sys2Proof.Machine
open Sys2Proof

/-! ### Tokens and where they go -/

/-- A token (Table 3.3). -/
structure Token where
  payload : W32 := 0
  seq : BitVec 8 := 0
  res : BitVec 4 := 0
  rid : BitVec 6 := 0
  et : Bool := false
  k : Bool := false
  deriving DecidableEq, Repr, Inhabited

/-- A place that an emit writes. `el`, `st`, `rg` number elements, stripes and regions over the whole domain. -/
inductive Dest where
  /-- Queue `q` of element `el`: 0 `qL`, 1 `qR`, 2 `qX`, 3 `qP`. -/
  | queue (el : Nat) (q : BitVec 2)
  /-- The operand input of matrix element `el` (R80). -/
  | opq (el : Nat)
  /-- Local register `i` of element `el`. -/
  | kreg (el : Nat) (i : BitVec 3)
  /-- Pass register `i` of stripe `st`. -/
  | pass (st : Nat) (i : BitVec 4)
  /-- Lane `i` at stripe `st`: 0-15 `cw`, 16-31 `ac`. -/
  | lane (st : Nat) (i : BitVec 5)
  /-- Stream port `p` = 16*ring + n. -/
  | port (p : Nat)
  /-- Predicate line of a region. -/
  | pn (rg : Nat) (i : BitVec 4)
  /-- Element-visible control register of a region. -/
  | cr (rg : Nat) (i : BitVec 12)
  /-- EVMASK of an element. -/
  | evmask (el : Nat)
  deriving DecidableEq, Repr, Inhabited

/-- A token on its way: it enters `dst` at the end of cycle `due`, in the order of R50 and R261: `ord` ranks its emitter, `f` is
the cycle of the firing that emits it, and `k` tells TGT1 from TGT2. -/
structure Emit where
  due : Nat
  ord : Nat
  src : Nat
  dst : Dest
  tok : Token
  f : Nat := 0
  k : Nat := 0
  /-- the cycle of its firing, and how often its hop has sent it (R413) -/
  born : Nat := 0
  sends : Nat := 1
  deriving DecidableEq, Repr, Inhabited

/-- A hop under recovery (R412, R413): the unaccepted tokens of its replay window, oldest first, and the first cycle in
which it sends again. -/
structure Hop where
  src : Nat
  dst : Dest
  win : List Emit
  from_ : Nat
  /-- it resends for want of acceptance: cycles in which the receiver has no space are not counted (R413) -/
  slow : Bool := false
  deriving DecidableEq, Repr, Inhabited

/-- Where an operation's tokens go once its moment comes: the issuing element, its targets with their route
identifiers, the sequence tag, the cycle of the firing, and whether it was squashed or tainted. -/
structure Ret where
  el : Nat := 0
  f : Nat := 0
  t1 : Target := .none
  t2 : Target := .none
  r1 : BitVec 6 := 0
  r2 : BitVec 6 := 0
  seq : BitVec 8 := 0
  taint : Bool := false
  squash : Bool := false
  deriving DecidableEq, Repr, Inhabited

/-! ### Planes (R190 to R192) -/

/-- An element record of a plane. -/
structure ElPlane where
  words : FMap (BitVec 48) := []
  consts : FMap W32 := []
  seqb : BitVec 256 := 0
  route : BitVec 192 := 0
  sqd : BitVec 8 := 0
  deriving DecidableEq, Repr, Inhabited

/-- A matrix record of a plane. -/
structure MxPlane where
  words : FMap W64 := []
  rids : BitVec 64 := 0
  deriving DecidableEq, Repr, Inhabited

/-- A plane of a stripe, loaded from an image. -/
structure Plane where
  valid : Bool := false
  img : Nat := 0
  event : Bool := false
  sys : Bool := false
  stf : Bool := false
  lcs : FMap W32 := []
  dlc : BitVec 2 := 0
  lanev : W32 := 0
  laneo : W64 := 0
  emask : W64 := 0
  els : FMap ElPlane := []
  mxs : FMap MxPlane := []
  pimask : BitVec 16 := 0
  passin : FMap Byte := []
  deriving DecidableEq, Repr, Inhabited

/-! ### Elements, stripes, ports -/

/-- A running event handler: its next slot and its last (R56), and the operation under which the entries that its emits will
take are reserved. -/
structure Handler where
  pos : Nat
  last : Nat
  chan : Nat := 0
  op : Nat := 0
  deriving DecidableEq, Repr, Inhabited

/-- An open put or get of an element (R269, R270). -/
structure OpenBuf where
  /-- the wait that the controller holds for it -/
  wait : Nat
  desc : Nat
  scr : Bool
  len : Nat
  /-- words handled so far -/
  done : Nat
  /-- byte address of the payload's next word, once placed or delivered -/
  addr : Nat
  need : Nat
  placed : Bool
  squash : Bool := false
  taint : Bool := false
  deriving DecidableEq, Repr, Inhabited

/-- A token of a completed block (R248): the buffer entries it frees, its targets, and the first cycle in which it may be
emitted. -/
structure QTok where
  tok : Token
  frees : Nat := 0
  ret : Ret := {}
  from_ : Nat := 0
  deriving DecidableEq, Repr, Inhabited

/-- The quantiser of an element (R247 to R249): the block being collected with its length n and tile length T, and the
firing of its newest value; the tokens of completed blocks; the tile count and the first cycle in which the next token may
be emitted. -/
structure Quant where
  n : Nat := 0
  tile : Nat := 0
  fmt : BitVec 2 := 0
  vals : List (W32 × Bool) := []
  ret : Ret := {}
  out : List QTok := []
  count : Nat := 0
  ready : Nat := 0
  deriving DecidableEq, Repr, Inhabited

/-- The state of a scalar element (Table 3.1) with what its instructions keep in it. -/
structure Elem where
  k : FMap W32 := []
  kTaint : BitVec 8 := 0
  q : FMap (List Token) := []
  act : BitVec 2 := 0
  av : Bool := false
  evmask : BitVec 16 := 0
  run : Option Handler := none
  /-- one more than the cycle of the newest firing; 0 for none -/
  fired : Nat := 0
  /-- the cycle before which the element fires nothing: a retry (R416) -/
  hold : Nat := 0
  /-- message buffer (R285) -/
  msg : FMap W32 := []
  /-- partly collected store words by ring stream (R273), oldest first -/
  part : FMap (List W32) := []
  partSquash : FMap Bool := []
  /-- partly assembled packets, by port 0-3 `next`, 4-7 `prev` (R279) -/
  pkt : FMap (List W32) := []
  pktSquash : FMap Bool := []
  put : Option OpenBuf := none
  get : Option OpenBuf := none
  /-- words of a suppressed put still to come (R292) -/
  noPut : Option Nat := none
  /-- operands of the newest firing, retained until its emits complete (R416): queue and token -/
  kept : List (BitVec 2 × Token) := []
  /-- slot position and iteration of the newest firing (R404, R416) -/
  firing : Nat × W64 := (0, 0)
  /-- wavefronts delivered by the Reel to an element without inputs, not yet passed on, oldest first (R65, R324) -/
  waves : List Token := []
  /-- latched CYCHI (R288) -/
  cychi : W32 := 0
  quant : Quant := {}
  /-- the cycle before which no reduction slot fires (R254) -/
  redHold : Nat := 0
  deriving DecidableEq, Repr, Inhabited

/-- What a matrix element of a systolic run holds between beats (R307, R308): the vector it stepped, the activation
scale that travels with it, the pair with its STEP and taint, and the format, scale sources and weight scale of the word that
stepped the pair last. -/
structure Pipe where
  v : Nat
  vec : List W32
  /-- the activation scale that travels with the vector, and whether an FP32 scale token was popped with it -/
  lsa : W32 := 0
  saV : Bool := false
  /-- the scale of the pair's last step -/
  sa : W32 := 0
  p : FMap W32 := []
  a : FMap W32 := []
  step : Nat := 0
  taint : Bool := false
  fmt : BitVec 4 := 0
  scsa : BitVec 2 := 0
  scsw : BitVec 2 := 0
  sw : W32 := 0
  deriving DecidableEq, Repr, Inhabited

/-- The state of a matrix element (Table 12.1). -/
structure MxElem where
  acc : FMap W32 := []
  afmt : BitVec 3 := 0
  lsa : W32 := 0
  lsw : W32 := 0
  opq : List Token := []
  p : FMap W32 := []
  step : BitVec 6 := 0
  tcnt : BitVec 16 := 0
  wb : BitVec 2048 := 0
  wpos : BitVec 3 := 0
  act : BitVec 2 := 0
  av : Bool := false
  /-- vectors, or weight tokens, taken by the word at WPOS -/
  vec : Nat := 0
  /-- accumulators of a drain already emitted -/
  drained : Nat := 0
  /-- the scale token of the open promotion group has been popped (R303) -/
  saV : Bool := false
  /-- taint bits of WB, and of ACC and P (R419) -/
  wTaint : Bool := false
  aTaint : Bool := false
  /-- the first cycle in which the word goes on: a step, a drain's first token, a beat of the run (R308, R311) -/
  ready : Nat := 0
  /-- the element's stage of a systolic run, and its drains still to be emitted, each with its beat -/
  pipe : Option Pipe := none
  outs : List (Nat × Pipe) := []
  /-- beats of the run made, and the vector count that a wavefront has fixed, kept at `mx0` of its first stripe -/
  beat : Nat := 0
  cnt : Option Nat := none
  /-- corrections at its operand input, and tokens resent to it, in this interval (R431) -/
  corr : Nat := 0
  resent : Nat := 0
  deriving DecidableEq, Repr, Inhabited

/-- A hold-store entry (R253, R255): the element, whether it is the entry of a fast reduction, the position (level,
index), LAST, the value and its taint. -/
structure HoldEnt where
  el : Nat
  fast : Bool := false
  l : Nat := 0
  j : Nat := 0
  last : Bool := false
  val : W32
  taint : Bool := false
  deriving DecidableEq, Repr, Inhabited

/-- A physical stripe in its logical place. -/
structure Stripe where
  /-- the region that holds it and its window index -/
  rg : Option Nat := none
  ws : Nat := 0
  /-- the plane that the Reel last made active in the whole stripe -/
  act : BitVec 2 := 0
  planes : FMap Plane := []
  pass : FMap (Option Token) := []
  /-- per pass register, one more than the cycle in which its token last left (R56) -/
  passLeft : FMap Nat := []
  /-- map in force per pass register: plane of the last wavefront with SWP = 1; without one, the downstream stripe's plane at
  arming, which that stripe keeps (R74) -/
  pmap : FMap (Option (BitVec 2)) := []
  armAct : BitVec 2 := 0
  /-- lane positions 0-31, each with whether its token was taken in this issuing cycle -/
  lanes : FMap (Option (Token × Bool)) := []
  hold : List HoldEnt := []
  /-- corrections and resent tokens of this interval (R431) -/
  corr : Nat := 0
  resent : Nat := 0
  /-- the stripe has an active plane: set by every swap of the Reel, cleared by a yield, a save's release and reset -/
  av : Bool := false
  deriving DecidableEq, Repr, Inhabited

/-- A stream port of a ring (R77). -/
structure Port where
  cfg : W32 := 0
  fifo : List Token := []
  rg : Option Nat := none
  /-- ring stream bound to it (R79) -/
  mem : Option Nat := none
  deriving DecidableEq, Repr, Inhabited

/-- A queued plane fill (R71, R323): its number, the section's region, stripe, plane and image; whether it holds an FQ
entry (one queued by `stripe`) or belongs to a placement (R325). -/
structure FillReq where
  ord : Nat
  rg : Nat
  st : Nat
  p : BitVec 2
  img : Nat
  fq : Bool := false
  place : Bool := false
  /-- the fill has begun: the plane is invalid until it ends -/
  begun : Bool := false
  /-- index of the reel word that queued it -/
  word : Nat := 0
  deriving DecidableEq, Repr, Inhabited

/-- A compute ring. -/
structure Ring where
  /-- plane fills not yet made, oldest first -/
  fills : List FillReq := []
  /-- the configuration cache (R14, R323): images by address space, address of their object and index, oldest first -/
  cache : List ((Nat × Nat × Nat) × Plane) := []
  gated : Bool := false
  /-- the cycle in which the ring last gave up a region -/
  busyAt : Nat := 0
  inReset : Bool := false
  throt : W32 := 0
  /-- the power cap: one more than the cycle of the newest decision on the ring's issue, whether it was withheld, and how many
  cycles in a row were by then (R377) -/
  powerAt : Nat := 0
  held : Bool := false
  heldRun : Nat := 0
  /-- the Reel: one more than the cycle of its newest word, and the section that it chose (R320) -/
  chose : Nat := 0
  chosen : Nat := 0
  deriving DecidableEq, Repr, Inhabited

/-! ### Address-generator streams and accesses in flight -/

/-- What an access does (R273, R275, R276). -/
inductive AKind where
  | load (sx : Bool)
  | store (strong : Bool)
  | atom (aop : BitVec 4) (old : Bool)
  | cas
  | pfg
  deriving DecidableEq, Repr, Inhabited

/-- A translation of one page (R107, R108). -/
structure Xlat where
  asid : BitVec 12 := 0
  log2 : Nat := 12
  va : Nat := 0
  pa : Nat := 0
  rd : Bool := false
  wr : Bool := false
  prot : Bool := false
  irv : Bool := false
  pgrp : BitVec 7 := 0
  deriving DecidableEq, Repr, Inhabited

/-- Where an access stands. -/
inductive APhase where
  /-- issued, on its way to its home -/
  | sent
  /-- at its home, not yet bound or performed -/
  | home
  /-- held at a migrating frame (R145) -/
  | held
  /-- the moved reply was given (R146) -/
  | moved
  /-- performed at its home; its completion is still to come -/
  | performed
  /-- accepted by the staging buffer (R164) -/
  | staged
  /-- held at its home for ever: its capture failed (R444) -/
  | barred
  deriving DecidableEq, Repr, Inhabited

/-- An access in flight. -/
structure Access where
  /-- the ring stream that issued it, or none: an element's ring-bank port -/
  rs : Option Nat := none
  /-- the earliest cycle of its data or completion token (R264, R274) -/
  minAt : Nat := 0
  rg : Nat := 0
  kind : AKind := .load false
  scope : BitVec 3 := 0
  va : W64 := 0
  pa : Nat := 0
  size : Nat := 4
  data : List Byte := []
  cmp : W32 := 0
  ret : Ret := {}
  asid : BitVec 12 := 0
  /-- scratchpad mode: memory-port die, partition, partition address, in place at issue (R402) -/
  scr : Option (Nat × Nat × Nat × Bool) := none
  prot : Bool := false
  irv : Bool := false
  pgrp : BitVec 7 := 0
  /-- the page size of its translation (R167) -/
  log2 : Nat := 12
  /-- the memory-port die that takes its request to HBM, and the quadrant's home die (R19, R112) -/
  via : Nat := 0
  home : Nat := 0
  /-- its place in its stream's order of issue (R129), and the order of its arrival at its home (R137) -/
  iss : Nat := 0
  arr : Nat := 0
  tag : Option W32 := none
  phase : APhase := .sent
  fired : Nat := 0
  at_ : Nat := 0
  /-- tokens of a wide load already emitted -/
  emitted : Nat := 0
  value : List Byte := []
  toPort : Option Nat := none
  /-- a base-slice program that serves it: stack and program, with the low 32 bits of its offset (R118, R313) -/
  base : Option (Nat × Nat) := none
  off : W32 := 0
  /-- a home other than its package's: the scale-up port that carries it, and since when its destination cannot be reached (R371,
  R466) -/
  link : Option Nat := none
  since : Option Nat := none
  deriving DecidableEq, Repr, Inhabited

/-- An entry of a stream's order: a configuration write, an access not yet issued, or a barrier (R129, R131, R271), each
with the cycle `f` of its firing and its element (R274). -/
inductive SOp where
  | cfg (field : BitVec 4) (v : W32) (f el : Nat)
  | acc (id : Nat) (kind : AKind) (scope : BitVec 3) (word : W32) (idx : Option W32) (data : List W32) (cmp : W32)
      (ret : Ret) (f : Nat) (rg : Nat)
  | bar (w f : Nat)
  /-- an access whose retranslation failed, held for resumption (R146, R442) -/
  | again (id : Nat) (a : Access)
  deriving DecidableEq, Repr, Inhabited

/-- A ring stream: its configuration (Table 11.3), pattern position (R272) and order. -/
structure Strm where
  base : W64 := 0
  ext : FMap W32 := []
  str : FMap W32 := []
  ctl : W32 := 0
  i0 : Nat := 0
  i1 : Nat := 0
  i2 : Nat := 0
  q : List SOp := []
  /-- the page whose walk the stream waits for (R109) -/
  parked : Option Nat := none
  kept : Option Xlat := none
  port : Option Nat := none
  /-- loads still to issue for a bound inbound port; its end-of-stream token is due -/
  left : Nat := 0
  eos : Bool := false
  rg : Option Nat := none
  /-- one more than the cycle of the newest issue (R79, R274) -/
  issued : Nat := 0
  /-- words of a bound store access collected from its port (R79) -/
  words : List (W32 × Bool) := []
  /-- the stream stopped at a fault condition (R395, R442) -/
  fault : Bool := false
  deriving DecidableEq, Repr, Inhabited

/-- An operation that waits outside the element (R131, R136, R143, R279, R281 to R287). -/
inductive WKind where
  | fence (scope : BitVec 3) (el : Nat) (last : Option W32)
  | sbar (scope : BitVec 3) (ring : Nat) (mask : W32) (last : Option W32)
  | packet (tp : Nat) (el : Nat) (words : List W32)
  | publish (pk : Nat) (entry : BitVec 6)
  | cbput (desc : Nat) (scr : Bool) (len : Nat) (tag : W32) (el : Nat)
  | cbget (desc : Nat) (scr : Bool) (el : Nat)
  /-- a placed message whose words are written: TAIL has not passed placement `n` (R269) -/
  | cbtail (desc n : Nat)
  | secw (ctr : Nat) (v : W32)
  | crd (cring : Nat) (idx : W32)
  | sealreq (pk : Nat)
  | msend (pk : Nat) (words : List W32) (sl : Bool) (tag : Option W32)
  /-- operations of a redundant Figure that are performed at their compare point (R426) -/
  | lrflush (pk va : Nat)
  | secset (ctr : Nat) (v : W32)
  | halt (reel : Bool) (w : W32)
  deriving DecidableEq, Repr, Inhabited

/-- A waiting operation. -/
structure Wait where
  kind : WKind
  ret : Ret := {}
  rg : Nat := 0
  /-- arrival order at its controller -/
  ord : Nat := 0
  f : Nat := 0
  /-- the controller holds it after a failed attempt (R122) -/
  held : Bool := false
  deriving DecidableEq, Repr, Inhabited

/-! ### Regions and Figures -/

/-- The state of a loop context (Table 2.2) with its arming. -/
structure LoopCtx where
  ii : Nat := 1
  stg : Nat := 1
  n : W64 := 0
  slot : Nat := 0
  sm : W64 := 0
  sv : W64 := 0
  tc : W64 := 0
  xs : Bool := false
  /-- armed and not yet done -/
  live : Bool := false
  /-- the cycle before which it issues nothing (SKEW, R32) -/
  start : Nat := 0
  /-- virtual stripe, first local iteration of the occupancy, and starts made (R474) -/
  vs : Nat := 0
  occ : Nat := 0
  starts : Nat := 0
  /-- one more than the cycle of the newest slot index issued (R26) -/
  issued : Nat := 0
  deriving DecidableEq, Repr, Inhabited

/-- An allotment of ring-bank bytes: its ring, first address and length (R104). -/
structure Allot where
  ring : Nat := 0
  base : Nat
  len : Nat
  deriving DecidableEq, Repr, Inhabited

/-- The Reel section of a region (Table 13.1). -/
structure Reel where
  words : FMap W64 := []
  count : Nat := 0
  rpc : BitVec 16 := 0
  cstk : List (BitVec 16) := []
  lstk : List (BitVec 16 × W32) := []
  s : FMap W64 := []
  pnx : BitVec 2 := 0
  plc : Bool := false
  scd : BitVec 13 := 0
  scv : BitVec 13 := 0
  sci : BitVec 16 := 0
  /-- released by the loader and not stopped -/
  live : Bool := false
  /-- the phase of a word that takes several steps; the threshold of `seqw` -/
  phase : Nat := 0
  thr : Option W32 := none
  /-- a barrier of `waitb` was injected -/
  barred : Bool := false
  /-- the first cycle in which the next word can be chosen (R320) -/
  ready : Nat := 0
  deriving DecidableEq, Repr, Inhabited

/-- A scrolled placement in progress (R36, R325, R474). -/
structure Scroll where
  v : Nat
  d : Nat
  img : Nat
  lc : Nat
  tc : W64
  /-- exits: the last iteration of each, and the first cycle in which it holds (R475) -/
  exits : List (Nat × Nat) := []
  /-- by virtual stripe: one more than the newest local iteration it has started (R475) -/
  made : FMap Nat := []
  /-- virtual stripe V − 1 has processed the last iteration that reaches it -/
  ended : Bool := false
  /-- park buffers: by group boundary, the pass-register number, cycle of entry and place in the buffer of each token; the
  tokens stand in the ring bank -/
  park : FMap (List (Nat × Nat × Nat)) := []
  /-- by group boundary, the tokens ever parked there -/
  parked : FMap Nat := []
  /-- what each window stripe does: 0 fires, 1 yielded and to be saved, 2 without a plane, 3 swapped and waiting for a restore,
  4 holds a virtual stripe of a tile that does not start -/
  phase : FMap Nat := []
  /-- virtual stripes whose state stands in their save slots -/
  saved : List Nat := []
  /-- tiles that virtual stripe V − 1 has completed -/
  tiles : Nat := 0
  deriving DecidableEq, Repr, Inhabited

/-- A logical region of a resident Figure. -/
structure Region where
  pk : Nat := 0
  ring : Nat := 0
  first : Nat := 0
  count : Nat := 0
  link : Bool := false
  copy : Nat := 0
  copies : Nat := 1
  skew : Nat := 0
  /-- the first logical region of its stamping -/
  stamp : Nat := 0
  obj : Nat := 0
  ioff : W64 := 0
  dlc : BitVec 2 := 0
  rsmask : W32 := 0
  allot : List Allot := []
  saveAllot : List Allot := []
  /-- save slots in use: by address, the stripe state held -/
  lcs : FMap LoopCtx := []
  wlcs : FMap LoopCtx := []
  pn : BitVec 16 := 0
  usr : FMap W32 := []
  sperr : W32 := 0
  brken : Bool := false
  reel : Reel := {}
  scroll : Option Scroll := none
  /-- no slot fires after this cycle (R395, R290, R291) -/
  stop : Option Nat := none
  exitWord : Option W32 := none
  /-- the element order of the `halt` that gave it (R291) -/
  exitOrd : Nat := 0
  /-- the section stands at the `arm` of its stamping's distributed loop, and the cycle in which every copy did (R327) -/
  armed : Bool := false
  armAt : Option Nat := none
  /-- an arming that waits for its placement: loop context, trip count, and D, V and the first image (R325) -/
  placing : Option (Nat × W64 × Nat × Nat × Nat) := none
  /-- by wavefront (subtype, tag and swap): the elements and outbound ports that it has not reached; no sink among them left, the
  region is drained (R68, R70) -/
  sinks : FMap (List Dest) := []
  /-- iteration-last tokens on their way: loop context, stage, window stripe, iteration, cycle -/
  ilast : List (Nat × Nat × Nat × W64 × Nat) := []
  live : Bool := false
  /-- park buffers and port extensions in the ring banks (R36, R77) -/
  parkAllot : List Allot := []
  /-- a halt was asked for without a condition of this region: a running handler finishes (R359) -/
  drain : Bool := false
  halted : Bool := false
  /-- its state stands in the save record -/
  saved : Bool := false
  /-- fills abandoned at a halt, made again at resumption (R331) -/
  redo : List FillReq := []
  /-- V of the region's `dwell`, and whether R354 lets it shrink -/
  vlen : Nat := 0
  shrinkable : Bool := false
  template : Nat := 0
  deriving DecidableEq, Repr, Inhabited

/-- A circular buffer's controller state (R122, R123, R269, R270): placements whose TAIL has not advanced and claims
whose HEAD has not advanced, oldest first, each with its operation number, its amount and whether it is finished. -/
structure CBuf where
  puts : List (Nat × Nat × Bool) := []
  gets : List (Nat × Nat × Bool) := []
  deriving DecidableEq, Repr, Inhabited

/-- An instance of a logical stream (R473): the outbound port it leaves and the inbound port it enters. -/
structure SInst where
  wport : Option Nat := none
  rport : Option Nat := none
  deriving DecidableEq, Repr, Inhabited

/-- A fault record with what its disposition needs (Table 18.9, R400). -/
structure FaultRec where
  fcode : BitVec 16 := 0
  tier : BitVec 4 := 4
  point : BitVec 3 := 0
  pkg : BitVec 13 := 0
  place : BitVec 17 := 0
  region : BitVec 6 := 0
  pos : BitVec 4 := 0
  plane : BitVec 2 := 0
  asid : BitVec 12 := 0
  cyc : W64 := 0
  open_ : W32 := 0
  detail : W32 := 0
  addr : W64 := 0
  iter : W64 := 0
  save : W64 := 0
  tag : W32 := 0
  num : W32 := 0
  deriving DecidableEq, Repr, Inhabited

/-- Where a Figure stands: on its stripes; asked to halt (R359); every region halted; its state in a save record, or
none of it left where the Figure has ended (R363, R396). -/
inductive FPhase where
  | placed
  | halting
  | halted
  | saved
  deriving DecidableEq, Repr, Inhabited

/-- A resident or held Figure, one instance of it where it runs redundantly (R425). -/
structure Fig where
  pk : Nat := 0
  asid : BitVec 12 := 0
  /-- TAG of the LM64 whose graph launched it -/
  tag : W32 := 0
  /-- the newest interval tag of any of its stores -/
  lastTag : Option W32 := none
  /-- stream instances by relocation entry, 64 to 255 -/
  streams : FMap SInst := []
  /-- images of the object, as planes (R190) -/
  imgs : FMap Plane := []
  nimg : Nat := 0
  /-- every region has retired -/
  retired : Bool := false
  /-- its task, the virtual address of its object, its base priority, the number of its placement -/
  task : Nat := 0
  obj : W64 := 0
  prio : BitVec 3 := 0
  placedAt : Nat := 0
  phase : FPhase := .placed
  /-- the rank of its disposition (Table 21.2); 0 for none -/
  rank : Nat := 0
  /-- the task that its stripes are reserved for (R358) -/
  forTask : Option Nat := none
  /-- the address and length of its save record (R361) -/
  save : Option (Nat × Nat) := none
  /-- INSTAT.OPEN at the commit (Table 14.4) -/
  openAt : W32 := 0
  /-- the record of a hold, queued when the save completes (R405) -/
  recs : List FaultRec := []
  /-- record numbers of a trap hold and of a translation hold that are not released (R460, R443, R462) -/
  trapNum : Option W32 := none
  pageNum : Option W32 := none
  /-- the first firing cycle breaks (R460): 0 until a slot fires, then one more than that cycle -/
  stepping : Option Nat := none
  /-- the Figure has ended faulted; its save record is kept (R396) -/
  ended : Bool := false
  kept : Bool := false
  /-- instance number, instances, and the first instance (R425, R429) -/
  inst : Nat := 0
  insts : Nat := 1
  lead : Nat := 0
  /-- logical regions of the object, and the KINDs of the relocation table that its save record holds (R459) -/
  nreg : Nat := 0
  kinds : List Nat := []
  /-- by compare-point key: the cycle in which one instance first waits for another (R428) -/
  late : FMap (Option Nat) := []
  /-- the cycle in which its last halt was requested (R428) -/
  pausedAt : Nat := 0
  /-- by key: operations performed without this late instance, oldest first (R429) -/
  owed : FMap (List Nat) := []
  deriving DecidableEq, Repr, Inhabited

/-- Whose work a fault condition meets. -/
inductive Owner where
  | figure (fg : Nat)
  | request (rq : Nat)
  | walk (wk : Nat)
  | none
  deriving DecidableEq, Repr, Inhabited

/-- A detected condition that the fault handler has not yet taken. `ord` is the element order of R400. -/
structure Detected where
  own : Owner
  ord : Nat
  info : FaultRec
  deriving DecidableEq, Repr, Inhabited

/-! ### Recovery intervals (R149 to R174) -/

/-- What the seal coordinator of a package holds beside INSTAT and PVSTAT: a raised request not yet taken, the cycle of
the last CLOSE, the close window, a disable request, what the members have reported. -/
structure Pav where
  req : Bool := false
  begun : Nat := 0
  window : Bool := false
  disable : Bool := false
  /-- the Pavane that runs is the one of a disable request (R173) -/
  quitting : Bool := false
  drained : Bool := false
  /-- a condition recorded against the closing interval: its members vote against it (R157) -/
  cond : Bool := false
  started : Bool := false
  deriving DecidableEq, Repr, Inhabited

/-! ### The memory side -/

/-- What the code over an 8-byte unit of storage finds (R435 to R437): a correctable error, an uncorrectable one, the hidden taint of an
SRAM unit partly rewritten after one, or an HBM unit of which the bytes `good` have been written since. -/
inductive Mark where
  | single
  | double
  | hidden
  | part (good : Byte)
  deriving DecidableEq, Repr, Inhabited

/-- An engine write outside a request that met a full log: the tag of its dispatch, which it keeps (R161), or barred for good (R444). -/
inductive Kept where
  | tag (t : W32)
  | barred
  deriving DecidableEq, Repr, Inhabited

/-- What an HBM stack holds beside its bytes: the undo log's positions (R156), the line tags (R154), the close-window
table (R155), the damage list (R437), the row activation counts (R441) and the refreshes pulled forward (R115). -/
structure Stack where
  head : Nat := 0
  tail : Nat := 0
  ltag : FMap (BitVec 16) := []
  cwt : List Nat := []
  damage : List Nat := []
  rows : FMap (BitVec 12) := []
  /-- a full sweep of LTAG is due (R173) -/
  sweep : Bool := false
  pulled : FMap Nat := []
  /-- banks that have taken their allowance and repay it (R115) -/
  repay : FMap Bool := []
  deriving DecidableEq, Repr, Inhabited

/-- A parity delta on its way (R169): one 32-byte sector for a parity member. -/
structure Delta where
  src : Nat := 0
  dst : Nat := 0
  grp : Nat := 0
  off : Nat := 0
  data : List Byte := []
  tag : Option W32 := none
  sent : Nat := 0
  /-- the access or request, and the Figure, whose write formed it -/
  op : Nat := 0
  fg : Nat := 0
  /-- 0xE204 has been raised for it (R445); its capture failed for good (R444) -/
  late : Bool := false
  barred : Bool := false
  deriving DecidableEq, Repr, Inhabited

/-- An entry of the staging buffer (R164): a write or a host message, with its tag; none for one released at once. -/
structure Staged where
  tag : Option W32 := none
  pa : Nat := 0
  bytes : List Byte := []
  msg : List W32 := []
  /-- a shadow write (R142); the stream and Figure whose store it is (R129) -/
  shadow : Bool := false
  src : Option (Nat × Nat) := none
  /-- the transfer request whose data it is (R140) -/
  op : Option Nat := none
  deriving DecidableEq, Repr, Inhabited

/-- The multipliers of a stack running a base-slice program (R314 to R317): the word, vectors done, the activation
words of the vector at hand, the cycle of its last word, the next row and block, and the partials of the row. -/
structure Mult where
  /-- the program's image: 0 not read since BSPn was written, 1 validated, 2 rejected (0x100A) -/
  img : Nat := 0
  wpos : Nat := 0
  vec : Nat := 0
  buf : List (W32 × Bool) := []
  full : Nat := 0
  row : Nat := 0
  blk : Nat := 0
  parts : List (W32 × Bool) := []
  deriving DecidableEq, Repr, Inhabited

/-- The memory side of the machine: translation caches of the units and of the memory-port dies (R108), the stacks, the
errors standing in storage, deltas, the staging buffers by package, partitions being reassigned with the old and new
banks and the operation number of the write (R117), the multipliers by 64·stack + program, and the layout records cached
by memory-port die (R282, R341). -/
structure MemSide where
  tlb1 : FMap (List Xlat) := []
  tlb2 : FMap (List Xlat) := []
  stks : FMap Stack := []
  errs : FMap (Option Mark) := []
  deltas : FMap Delta := []
  staged : FMap (List Staged) := []
  parts : FMap (Option (List (Nat × Nat) × Nat)) := []
  mults : FMap Mult := []
  layouts : FMap (List (BitVec 12 × Nat × List Byte)) := []
  /-- the page address of a package's invalidation in progress (R110) -/
  inval : FMap (Option Nat) := []
  /-- INSTAT as it stood before the newest change of a package's, with one more than the cycle of the change (R287) -/
  instat : FMap (Nat × W64) := []
  /-- corrections and uncorrectable reads of this interval, by SRAM bank (R468) -/
  bankCnt : FMap (Nat × Nat) := []
  /-- scrub period and its corrections, by HBM row; spare rows used, by bank -/
  rowCnt : FMap (Nat × Nat) := []
  rowUsed : FMap Nat := []
  /-- parts marked failing and not yet replaced, as kind and number; by package, the replacements that a replacement point
  has begun (R470) -/
  pend : List (Nat × Nat) := []
  due : FMap (List (Nat × Nat)) := []
  /-- engine writes held for undo capacity: the copy of migration n of a package at 2·(16·package + n), the counter of a walk at
  2·walk + 1 (R161) -/
  kept : FMap (Option Kept) := []
  deriving DecidableEq, Repr, Inhabited

/-- A request packet at a transfer port (R279, R332): its words, the address space, and who sent it: a Figure's element
or the COPY task of a graph. -/
structure Packet where
  bits : BitVec 256 := 0
  asid : BitVec 12 := 0
  fg : Option Nat := none
  el : Nat := 0
  rg : Nat := 0
  task : Option Nat := none
  deriving DecidableEq, Repr, Inhabited

/-- A part of a transfer request that is held for undo capacity (R161): where its first bytes go, the tag of its dispatch, and the
source value read by then; none once those bytes are written. -/
structure HeldPart where
  pa : Nat := 0
  tag : W32 := 0
  val : Option (List Byte) := none
  deriving DecidableEq, Repr, Inhabited

/-- A request in execution (R332 to R340). -/
structure Req where
  tp : Nat := 0
  pkt : Packet := {}
  /-- the layout record that a tensor request uses -/
  lr : List Byte := []
  /-- parts done, and what the bytes it has written held before -/
  done : Nat := 0
  old : FMap (Option Byte) := []
  /-- every write is performed, or a condition ended it; the completion record is written -/
  isOver : Bool := false
  told : Bool := false
  bytes : Nat := 0
  sects : List Nat := []
  clipped : Bool := false
  fcode : BitVec 16 := 0
  counted : Nat := 0
  tag : Option W32 := none
  /-- the part held for undo capacity, and whether its capture failed for good (R444) -/
  held : Option HeldPart := none
  barred : Bool := false
  /-- the destination of the newest move, and whether the sources of its aligned 8-byte part are read before the request's own
  writes (R332) -/
  at_ : Nat := 0
  pick : Bool := false
  /-- the row at hand and its index (R336) -/
  idx : Option (Nat × W32) := none
  /-- the bytes written last, first and behind the last (R139), and the cycle in which the request was over (R340) -/
  span : Nat × Nat := (0, 0)
  overAt : Nat := 0
  /-- its destination cannot be reached since this cycle (R466) -/
  since : Option Nat := none
  deriving DecidableEq, Repr, Inhabited

/-- The Transfer Engine: packets queued by port, and the requests in execution by number. -/
structure Engine where
  queues : FMap (List Packet) := []
  reqs : FMap Req := []
  deriving DecidableEq, Repr, Inhabited

/-- A frame of a walker (R342, R346, R348): the caller's graph, node and NEXT; BODY, COUNT and PRED of a LOOP with its
iterations made; the first operation number after the push. -/
structure Frame where
  graph : W64 := 0
  node : Nat := 0
  next : Nat := 0
  loop : Option (Nat × Nat × W64) := none
  k : Nat := 0
  mark : Nat := 0
  deriving DecidableEq, Repr, Inhabited

/-- A graph walk (R342, R351). -/
structure Walk where
  pk : Nat := 0
  asid : BitVec 12 := 0
  graph : W64 := 0
  idx : Nat := 0
  /-- the node being processed, as loaded -/
  node : Option (BitVec 512) := none
  ceil : BitVec 3 := 0
  tag : W32 := 0
  args : BitVec 256 := 0
  frames : List Frame := []
  /-- the task or message waited for; the threshold of a SEAL -/
  task : Option Nat := none
  msg : Option Nat := none
  thr : Option W32 := none
  /-- a WAIT found its counter short and waits for its next reading (R347) -/
  short : Bool := false
  /-- the walk executes no further node; it ended at a fault condition -/
  isOver : Bool := false
  faulted : Bool := false
  deriving DecidableEq, Repr, Inhabited

/-- Where a task stands: in the scheduler's order, running, or held (R366, R442). -/
inductive TPhase where
  | ready
  | running
  | held
  deriving DecidableEq, Repr, Inhabited

/-- A KERNEL or COPY task (R343, R352) with the index of the node that created it. -/
structure Task where
  pk : Nat := 0
  walk : Nat := 0
  node : Nat := 0
  kernel : Bool := true
  obj : W64 := 0
  ua : BitVec 128 := 0
  tp : Nat := 0
  req : BitVec 256 := 0
  done : W64 := 0
  prio : BitVec 3 := 0
  /-- the cycle of its readiness, the cycle since which it waits, and the levels it has risen since (R47) -/
  ready : Nat := 0
  since : Nat := 0
  aged : Nat := 0
  phase : TPhase := .ready
  /-- the Figure, first instance, once placed -/
  fg : Option Nat := none
  faulted : Bool := false
  deriving DecidableEq, Repr, Inhabited

/-- An LM64 held in its channel: the cycle of its acceptance, its bytes, and whether the receiver took it. -/
structure Lm where
  cyc : Nat := 0
  bits : BitVec 512 := 0
  taken : Bool := false
  deriving DecidableEq, Repr, Inhabited

/-- Resources of compute rings: stripes, stream ports, ring-stream masks and ring-bank ranges (R353, R358). -/
structure Occ where
  stripes : List Nat := []
  ports : List Nat := []
  masks : List (Nat × W32) := []
  banks : List Allot := []
  deriving DecidableEq, Repr, Inhabited

/-- What the scheduler and the fault handler of a package hold: LM64s by channel, the task that a pre-emption is in
progress for with the resources reserved for it (R358), fault records waiting for the log and the next NUM (R405), the tie-break list (R428), the schedule
faults seen before a rollback (R423). -/
structure Sched where
  chans : FMap (List Lm) := []
  victim : Option Nat := none
  held : Occ := {}
  log : List FaultRec := []
  num : Nat := 0
  ties : List (BitVec 12 × W64) := []
  seen : List (Nat × Nat × W64) := []
  deriving DecidableEq, Repr, Inhabited

/-- A stripe of a saved region. -/
structure SavedStripe where
  stripe : Stripe := {}
  elems : FMap Elem := []
  mxs : FMap MxElem := []
  deriving DecidableEq, Repr, Inhabited

/-- What a save record holds of a region (Tables 14.5 and 14.6) besides the bytes that software may change: the region,
its stripes in window order, its ports and ring streams, and its waiting operations. -/
structure SavedRegion where
  region : Region := {}
  stripes : List SavedStripe := []
  ports : FMap Port := []
  strms : FMap Strm := []
  waits : FMap Wait := []
  bufs : FMap CBuf := []
  /-- the entries that its waiting operations have reserved -/
  resv : List (Nat × Dest) := []
  /-- its ring banks' program data and save slots, with the errors standing in them: by 2^27·allotment + offset -/
  bytes : FMap Byte := []
  marks : FMap (Option Mark) := []
  /-- the offset of its header in the record -/
  off : Nat := 0
  deriving DecidableEq, Repr, Inhabited

/-- Work (R342 to R366): walks, tasks, the packages' schedulers, saved regions. -/
structure Work where
  walks : FMap Walk := []
  tasks : FMap Task := []
  scheds : FMap Sched := []
  saved : FMap SavedRegion := []
  deriving DecidableEq, Repr, Inhabited

/-- What a package is to its recovery domain (R446 to R455): the rollback step it has completed (0 while none runs), the
target, whether it was declared lost, and whether no spare took its place. -/
structure Member where
  step : Nat := 0
  target : W32 := 0
  lost : Bool := false
  noSpare : Bool := false
  /-- a tier-2 record waits for a rollback (R446) -/
  report : Bool := false
  deriving DecidableEq, Repr, Inhabited

/-- The outside of a package: its host link is down (R467), and the MSI-X messages sent, by 64·package + vector. -/
structure Outside where
  hostDown : FMap Bool := []
  msix : FMap Nat := []
  /-- what the last host load of a package returned -/
  readData : FMap (List Byte) := []
  /-- the configuration space and the BAR enables stand reset (R467) -/
  barsOff : FMap Bool := []
  /-- flit errors of this interval, by 16·(32·package + port) + lane (R465) -/
  laneErrs : FMap Nat := []
  /-- replays asked for and not yet made (R464), and the failing lanes as a mask (R465), by 32·package + port -/
  replays : FMap Nat := []
  /-- the ports that a package's memory-port dies hash among, as of the newest request that left (R466) -/
  hash : FMap W32 := []
  badLanes : FMap Nat := []
  /-- digests of the boot bundle's header and of its entry digests (R375), and the cycle of the cold reset, by package -/
  bundle : FMap (BitVec 256 × BitVec 256) := []
  clock0 : FMap Nat := []
  deriving DecidableEq, Repr, Inhabited

/-! ### Who is firing -/

/-- The firing that the step performs: the model's own record of the element, its region, plane, slot position,
loop context, stage and iteration. `granted`: the region-wide issue of R26 has been decided. -/
structure Act where
  el : Nat := 0
  rg : Nat := 0
  plane : BitVec 2 := 0
  pos : Nat := 0
  event : Bool := false
  lc : Nat := 0
  ws : Option Nat := none
  stage : Nat := 0
  /-- the iteration of R61 and the local iteration -/
  iter : W64 := 0
  loc : W64 := 0
  squash : Bool := false
  granted : Bool := false
  deriving DecidableEq, Repr, Inhabited

/-! ### The whole machine -/

/-- The fabric: elements, matrix elements, stripes, stream ports, ring streams and rings, by number. -/
structure Fabric where
  elems : FMap Elem := []
  mxs : FMap MxElem := []
  stripes : FMap Stripe := []
  ports : FMap Port := []
  strms : FMap Strm := []
  rings : FMap Ring := []
  deriving DecidableEq, Repr, Inhabited

/-- What is on its way: emits, reserved entries, accesses, waits; the next operation number. -/
structure Flight where
  emits : List Emit := []
  resv : List (Nat × Dest) := []
  accs : FMap Access := []
  waits : FMap Wait := []
  /-- hops under recovery, and the link sequence number that each hop's receiver expects (R410) -/
  hops : List Hop := []
  lsn : FMap Nat := []
  /-- operations of redundant Figures whose compare point agreed; the operations of the other instances that an
  operation stands for, with their regions and where their tokens go (R426) -/
  agreed : List Nat := []
  twins : FMap (List (Nat × Nat × Ret)) := []
  /-- tokens of an operation that an outvoted, late instance has still to be given: target choice and token (R429) -/
  results : FMap (List (Nat × Token)) := []
  next : Nat := 0
  deriving DecidableEq, Repr, Inhabited

/-- The machine. -/
structure State where
  fab : Fabric := {}
  fl : Flight := {}
  figs : FMap Fig := []
  regions : FMap Region := []
  bufs : FMap CBuf := []
  secs : FMap W32 := []
  iv : FMap Pav := []
  mem : FMap Byte := []
  ms : MemSide := {}
  eng : Engine := {}
  work : Work := {}
  out : Outside := {}
  members : FMap Member := []
  regs : FMap (Option W64) := []
  det : List Detected := []
  cyc : Nat := 0
  agenda : List Sel := []
  free : Nat := 0
  act : Act := {}
  deriving DecidableEq, Repr, Inhabited

/-- Why the machine stops with a fault. -/
inductive Fault where
  /-- Raised by no step: an address that does not exist meets the fault condition that the specification gives (0x4006,
  0x8002), which is taken as a next state. Safe. -/
  | noSuchAddress (a : Nat)
  deriving DecidableEq, Repr

/-- Why a step has no meaning. -/
inductive Refusal where
  /-- Raised by an instruction whose meaning is not written. Safe. -/
  | notModelled (mnemonic : String)
  deriving DecidableEq, Repr

/-- The canonical form of memory: addresses strictly rising, no byte equal to 0, which is what an unlisted address reads as
(DESIGN CHOICE, log 10). -/
def Memory.wf (m : List Host.Cell) : Bool := FMap.wf 0 m

/-- The machine right after reset, before step 0 of the boot (R8, R374): every register at its reset value, nothing placed, nothing on its way (DESIGN CHOICE, log 1). -/
def State.reset : State := {}

end Sys2Proof.Machine
end

