-- ==== Sys2Proof/Machine/Flags.lean ====
section
/-! DEFINITION. Integer and bit computations and the conditions: lanes (R84, R206), saturation and wrapping (R85, R205), carries (R208), division corners (R210), shifts and fields (R212 to R215), conditions (R216) and the generator (R101). The device keeps no flags: a condition is a result. -/
namespace Sys2Proof.Machine
open Sys2Proof

/-! ### Lanes -/

/-- The lane width of MOD[1:0]: 32, 16 or 8. -/
def laneW (m : BitVec 4) : Nat := if mlo m = 0 then 32 else if mlo m = 1 then 16 else 8
/-- Lane `i` of width `n` of a word, as a number. -/
def laneN (v : W32) (n i : Nat) : Nat := v.toNat / 2 ^ (n * i) % 2 ^ n
/-- A number of `n` bits read as two's complement. -/
def signed (n v : Nat) : Int := if v < 2 ^ (n - 1) then (v : Int) else (v : Int) - (2 ^ n : Nat)
/-- Lane `i` in the lane format: INTn, or Nn where `uns` (R205). -/
def laneV (uns : Bool) (n : Nat) (v : W32) (i : Nat) : Int :=
  if uns then (laneN v n i : Int) else signed n (laneN v n i)
/-- The limits of the lane format (R205). -/
def loLim (uns : Bool) (n : Nat) : Int := if uns then 0 else -((2 ^ (n - 1) : Nat) : Int)
def hiLim (uns : Bool) (n : Nat) : Int := if uns then (2 ^ n : Nat) - 1 else (2 ^ (n - 1) : Nat) - 1
/-- Saturation (R85). -/
def clampI (x lo hi : Int) : Int := if x < lo then lo else if hi < x then hi else x
/-- Wrapping to `n` bits, as a number (R85). -/
def wrapN (x : Int) (n : Nat) : Nat := (x % ((2 ^ n : Nat) : Int)).toNat
/-- The low 32 bits of an integer. -/
def w32 (x : Int) : W32 := BitVec.ofInt 32 x

/-- A word assembled from its lanes, lane 0 first. -/
def packLanes (n : Nat) : List Nat → Nat
  | [] => 0
  | v :: vs => v % 2 ^ n + 2 ^ n * packLanes n vs
/-- The lane numbers of a word. -/
def lanes (n : Nat) : List Nat := List.range (32 / n)
/-- A word computed lane by lane. -/
def mapLanes (n : Nat) (g : Nat → Nat) : W32 := BitVec.ofNat 32 (packLanes n ((lanes n).map g))

/-- The integer class (R206): exact per lane, then saturated or wrapped. -/
def intLanes (m : BitVec 4) (g : Int → Int → Int → Int) (a b x : W32) : W32 :=
  let n := laneW m
  let u := m.getLsbD 2
  mapLanes n fun i =>
    let e := g (laneV u n a i) (laneV u n b i) (laneV u n x i)
    wrapN (if m.getLsbD 3 then clampI e (loLim u n) (hiLim u n) else e) n

/-- A 32-bit sum over the lanes added to x (`sad`, `dp4`). -/
def intSum (m : BitVec 4) (g : Int → Int → Int) (a b x : W32) : W32 :=
  let n := laneW m
  let u := m.getLsbD 2
  let e := (lanes n).foldl (fun acc i => acc + g (laneV u n a i) (laneV u n b i)) (laneV u 32 x 0)
  w32 (if m.getLsbD 3 then clampI e (loLim u 32) (hiLim u 32) else e)

/-- The high half of the exact product (`mulh`). -/
def mulhW (m : BitVec 4) (a b : W32) : W32 :=
  let n := laneW m
  let u := m.getLsbD 2
  mapLanes n fun i => wrapN ((laneV u n a i * laneV u n b i) / ((2 ^ n : Nat) : Int)) n

/-- `addc` (R208): sum and carry out. -/
def addcW (a b x : W32) : W32 × W32 :=
  let e := a.toNat + b.toNat + x.toNat % 2
  (BitVec.ofNat 32 e, if e ≥ 2 ^ 32 then 1 else 0)
/-- `subb` (R208): difference and borrow out. -/
def subbW (a b x : W32) : W32 × W32 :=
  let e : Int := (a.toNat : Int) - b.toNat - (x.toNat % 2 : Nat)
  (w32 e, if e < 0 then 1 else 0)

/-- `bperm` (R209). -/
def bpermW (a b : W32) : W32 :=
  mapLanes 8 fun i =>
    let s := laneN b 4 i
    if s ≥ 8 then 0
    else
      let v := laneN a 8 (s % 4)
      if s % 8 ≥ 4 then (if v ≥ 128 then 0xFF else 0) else v

/-- `div` and `rem` (R210): quotient and remainder. -/
def divW (m : BitVec 4) (a b : W32) : W32 × W32 :=
  let u := m.getLsbD 2
  let A := laneV u 32 a 0
  let B := laneV u 32 b 0
  let q := if B = 0 then (if m.getLsbD 3 then (if A ≥ 0 then hiLim u 32 else loLim u 32) else -1)
    else
      let q := A.tdiv B
      if m.getLsbD 3 then clampI q (loLim u 32) (hiLim u 32) else q
  let r := if B = 0 then A else A.tmod B
  (w32 q, w32 r)

/-! ### Bits, shifts and fields -/

/-- Leading zeros of an `n`-bit number. -/
def clzN : Nat → Nat → Nat
  | 0, _ => 0
  | n + 1, v => if v ≥ 2 ^ n then 0 else 1 + clzN n v
/-- Set bits of an `n`-bit number. -/
def popcN : Nat → Nat → Nat
  | 0, _ => 0
  | n + 1, v => v % 2 + popcN n (v / 2)
/-- The `n` bits of a number reversed. -/
def revN : Nat → Nat → Nat
  | 0, _ => 0
  | n + 1, v => v % 2 * 2 ^ n + revN n (v / 2)

/-- A lane operation of the bit class. -/
def bitLanes (m : BitVec 4) (g : Nat → Nat → Nat → Nat) (a b : W32) : W32 :=
  let n := laneW m
  mapLanes n fun i => g n (laneN a n i) (laneN b n i)

def shlN (n a s : Nat) : Nat := if s < n then a * 2 ^ s % 2 ^ n else 0
def shrN (n a s : Nat) : Nat := if s < n then a / 2 ^ s else 0
def sarN (n a s : Nat) : Nat := wrapN (signed n a / ((2 ^ min s (n - 1) : Nat) : Int)) n
def rotN (n a s : Nat) : Nat := let k := s % n; (a * 2 ^ k + a / 2 ^ (n - k)) % 2 ^ n

/-- `fsh` (R213). -/
def fshW (m : BitVec 4) (a b x : W32) : W32 :=
  let s := x.toNat % 32
  let w : BitVec 64 := a ++ b
  if m.getLsbD 2 then (w >>> s).extractLsb' 0 32 else (w <<< s).extractLsb' 32 32

/-- `bfx` (R214). -/
def bfxW (m : BitVec 4) (a b : W32) : W32 :=
  let p := b.toNat % 32
  let len := min (b.toNat / 256 % 64) 32
  let f := a.toNat / 2 ^ p % 2 ^ len
  if m.getLsbD 2 ∧ len > 0 then w32 (signed len f) else BitVec.ofNat 32 f
/-- `bfi` (R214). -/
def bfiW (a b x : W32) : W32 :=
  let p := b.toNat % 32
  let len := min (b.toNat / 256 % 64) 32
  let mask : W32 := BitVec.ofNat 32 ((2 ^ len - 1) * 2 ^ p)
  (a &&& ~~~mask) ||| ((x <<< p) &&& mask)

/-- `lop3` (R215): one bit of the truth table per position. -/
def lop3W (t a b x : W32) : W32 :=
  BitVec.ofNat 32 (packLanes 1 ((List.range 32).map fun j =>
    t.toNat / 2 ^ (laneN a 1 j + 2 * laneN b 1 j + 4 * laneN x 1 j) % 2))

/-- `bswap` (R212). -/
def bswapW (a : W32) : W32 := mapLanes 8 fun i => laneN a 8 (3 - i)

/-! ### Conditions -/

/-- `cmp` (Table 9.4). -/
def cmpCond (m : BitVec 4) (a b : W32) : Bool :=
  let u := m.getLsbD 3
  let A := laneV u 32 a 0
  let B := laneV u 32 b 0
  match (field m 0 3 : BitVec 3).toNat with
  | 0 => decide (a = b)
  | 1 => decide (a ≠ b)
  | 2 => decide (A < B)
  | 3 => decide (A ≤ B)
  | 4 => decide (B < A)
  | 5 => decide (B ≤ A)
  | 6 => decide (a &&& b ≠ 0)
  | _ => decide (a &&& b = 0)

/-- 1 or 0. -/
def bit01 (b : Bool) : W32 := if b then 1 else 0

/-! ### Loop generators (R225 to R227) -/

/-- One firing of `loopgen`: index (none at an empty bound), flag, next counter, whether the bound is released. -/
def loopgenStep (uns : Bool) (nb k : W32) : Option W32 × W32 × W32 × Bool :=
  let n := laneV uns 32 nb 0
  let j : Int := k.toNat
  if n ≤ 0 then (none, 2, 0, true)
  else if j + 1 ≥ n then (some k, 1, 0, true)
  else (some k, 0, k + 1, false)

/-- One firing of `loopgen2`. -/
def loopgen2Step (nb k : W32) : Option W32 × W32 × W32 × Bool :=
  let ni := nb.toNat % 65536
  let no := nb.toNat / 65536
  let i := k.toNat / 65536
  let j := k.toNat % 65536
  if ni = 0 ∨ no = 0 then (none, 2, 0, true)
  else if j + 1 < ni then (some k, 0, BitVec.ofNat 32 (i * 65536 + (j + 1) % 65536), false)
  else if i + 1 < no then (some k, 1, BitVec.ofNat 32 ((i + 1) % 65536 * 65536), false)
  else (some k, 3, 0, true)

/-- One firing of `cnt`: flag and next counter. -/
def cntStep (n k : W32) : W32 × W32 :=
  let N := if n = 0 then 2 ^ 32 else n.toNat
  let j := k.toNat + 1
  if j ≥ N then (1, 0) else (0, BitVec.ofNat 32 j)

/-! ### Philox-4x32-10 (R101) -/

/-- The rounds still to run, on counter words and key. -/
def philoxRounds : Nat → W32 → W32 → W32 → W32 → W32 → W32 → W32 × W32 × W32 × W32
  | 0, v0, v1, v2, v3, _, _ => (v0, v1, v2, v3)
  | r + 1, v0, v1, v2, v3, k0, k1 =>
    let pa := BitVec.ofNat 64 (0xD2511F53 * v0.toNat)
    let pb := BitVec.ofNat 64 (0xCD9E8D57 * v2.toNat)
    philoxRounds r (field pb 32 32 ^^^ v1 ^^^ k0) (field pb 0 32) (field pa 32 32 ^^^ v3 ^^^ k1) (field pa 0 32)
      (k0 + 0x9E3779B9) (k1 + 0xBB67AE85)

/-- Output word `k` of a block. -/
def philox (v0 v1 v2 v3 key0 key1 : W32) (k : Nat) : W32 :=
  let (a, b, c, d) := philoxRounds 10 v0 v1 v2 v3 key0 key1
  if k = 0 then a else if k = 1 then b else if k = 2 then c else d

end Sys2Proof.Machine
end

