-- ==== Sys2Proof/Machine/Float.lean ====
section
/-! DEFINITION. Floating-point formats (R82, R83), rounding and overflow (R86, R87), exact sums and products with the sign of zero (R88, R89, R232), conversions (R90), scales and block quantisation (R91 to R94) and the K-step sum of a matrix element (R95, R96). -/
namespace Sys2Proof.Machine
open Sys2Proof

/-- What a floating-point encoding denotes: a NaN, an infinity, or the exact value ±m·2^e (a zero keeps its sign). -/
inductive FV where
  | nan
  | inf (neg : Bool)
  | fin (neg : Bool) (m : Nat) (e : Int)
  deriving DecidableEq, Repr, Inhabited

/-- A format of Table 4.1: width, mantissa bits, bias, the largest finite magnitude code, the infinity code (where there is one), the canonical NaN (R89; 0 where the format has no NaN). -/
structure Fmt where
  w : Nat
  mw : Nat
  bias : Nat
  maxc : Nat
  inf : Option Nat
  nan : Nat
  deriving DecidableEq, Repr, Inhabited

def fp32 : Fmt := { w := 32, mw := 23, bias := 127, maxc := 0x7F7FFFFF, inf := some 0x7F800000, nan := 0x7FC00000 }
def bf16 : Fmt := { w := 16, mw := 7, bias := 127, maxc := 0x7F7F, inf := some 0x7F80, nan := 0x7FC0 }
def fp16 : Fmt := { w := 16, mw := 10, bias := 15, maxc := 0x7BFF, inf := some 0x7C00, nan := 0x7E00 }
def e5m2 : Fmt := { w := 8, mw := 2, bias := 15, maxc := 0x7B, inf := some 0x7C, nan := 0x7E }
def e4m3 : Fmt := { w := 8, mw := 3, bias := 7, maxc := 0x7E, inf := none, nan := 0x7F }
def e2m1 : Fmt := { w := 4, mw := 1, bias := 1, maxc := 7, inf := none, nan := 0 }

/-- The value of an encoding (R83). -/
def fdecode (f : Fmt) (v : Nat) : FV :=
  let neg := decide (v / 2 ^ (f.w - 1) % 2 = 1)
  let c := v % 2 ^ (f.w - 1)
  if c ≤ f.maxc then
    let e := c / 2 ^ f.mw
    let m := c % 2 ^ f.mw
    if e = 0 then .fin neg m (1 - (f.bias : Int) - f.mw)
    else .fin neg (m + 2 ^ f.mw) ((e : Int) - f.bias - f.mw)
  else if f.inf = some c then .inf neg else .nan

/-- A sign placed on a magnitude code. -/
def withSign (f : Fmt) (neg : Bool) (c : Nat) : Nat := if neg then c + 2 ^ (f.w - 1) else c

/-- The code of an infinity, or of an infinite input narrowed into the format (R87). -/
def infCode (f : Fmt) (sat neg : Bool) : Nat :=
  if sat then withSign f neg f.maxc
  else match f.inf with
    | some c => withSign f neg c
    | none => if f.nan = 0 then withSign f neg f.maxc else f.nan

/-- Rounding modes of MOD[1:0]: 0 RNE, 1 RTZ, 2 RDN, 3 RUP. `up` of a magnitude with quotient `q` and a remainder
compared to one half. -/
def roundsUp (mode : Nat) (neg odd : Bool) (rem half : Nat) : Bool :=
  match mode with
  | 0 => decide (half < rem) || (decide (rem = half) && odd)
  | 1 => false
  | 2 => neg && decide (0 < rem)
  | _ => !neg && decide (0 < rem)

/-- The overflow result (Table 4.2). -/
def overflowCode (f : Fmt) (mode : Nat) (sat neg : Bool) : Nat :=
  if sat then withSign f neg f.maxc
  else match mode with
    | 0 => infCode f false neg
    | 1 => withSign f neg f.maxc
    | 2 => if neg then infCode f false true else f.maxc
    | _ => if neg then withSign f true f.maxc else infCode f false false

/-- `round` of ±m·2^e (R86, R87). -/
def fround (f : Fmt) (mode : Nat) (sat neg : Bool) (m : Nat) (e : Int) : Nat :=
  if m = 0 then withSign f neg 0
  else
    let len := Nat.log2 m + 1
    let qe := max (e + len - 1 - f.mw) (1 - (f.bias : Int) - f.mw)
    let sh := qe - e
    let y := if sh ≤ 0 then m * 2 ^ (-sh).toNat
      else
        let k := min sh.toNat (len + 2)
        let q := m / 2 ^ k
        if roundsUp mode neg (decide (q % 2 = 1)) (m % 2 ^ k) (2 ^ (k - 1)) then q + 1 else q
    -- the code of y·2^qe: exponent field and mantissa run on, so a carry is right
    let code : Int := (qe + f.bias + f.mw - 1) * (2 ^ f.mw : Nat) + y
    if code ≤ f.maxc then withSign f neg code.toNat else overflowCode f mode sat neg

/-- A value rounded into a format; every NaN is the canonical one (R89). -/
def fencode (f : Fmt) (mode : Nat) (sat : Bool) : FV → Nat
  | .nan => f.nan
  | .inf neg => infCode f sat neg
  | .fin neg m e => fround f mode sat neg m e

def FV.isNan : FV → Bool
  | .nan => true
  | _ => false
def FV.isInf : FV → Bool
  | .inf _ => true
  | _ => false
def FV.neg : FV → Bool
  | .nan => false
  | .inf n => n
  | .fin n _ _ => n
def FV.isZero : FV → Bool
  | .fin _ m _ => decide (m = 0)
  | _ => false

/-- The exact product (R89). -/
def FV.mul : FV → FV → FV
  | .nan, _ => .nan
  | _, .nan => .nan
  | .inf n, v => if v.isZero then .nan else .inf (n != v.neg)
  | v, .inf n => if v.isZero then .nan else .inf (n != v.neg)
  | .fin n m e, .fin n' m' e' => .fin (n != n') (m * m') (e + e')

/-- A finite value as an integer multiple of 2^e0, where `e0` is at most its exponent. -/
def FV.at (e0 : Int) : FV → Int
  | .fin n m e => let v : Int := m * 2 ^ (e - e0).toNat; if n then -v else v
  | _ => 0
/-- The exponent of a finite nonzero value. -/
def FV.exp : FV → Option Int
  | .fin _ m e => if m = 0 then none else some e
  | _ => none
/-- The least exponent of the nonzero terms. -/
def minExp : List FV → Option Int
  | [] => none
  | v :: vs => match v.exp, minExp vs with
    | some a, some b => some (min a b)
    | some a, none => some a
    | none, b => b

/-- The exact sum of the terms, with the sign of an exact zero (R88): −0 where every term is −0 or, in RDN, where the
terms cancel; any NaN, or infinities of both signs, give NaN. -/
def fsum (mode : Nat) (ts : List FV) : FV :=
  if ts.any FV.isNan then .nan
  else if ts.any FV.isInf then
    let is := ts.filter FV.isInf
    if is.all FV.neg then .inf true else if is.any FV.neg then .nan else .inf false
  else
    match minExp ts with
    | none => if ts.all FV.neg then .fin true 0 0
      else if ts.any FV.neg ∧ mode = 2 then .fin true 0 0 else .fin false 0 0
    | some e0 =>
      let v := ts.foldl (fun a t => a + t.at e0) 0
      if v = 0 then .fin (decide (mode = 2)) 0 0 else .fin (decide (v < 0)) v.natAbs e0

/-- The value with its sign inverted. -/
def FV.negate : FV → FV
  | .nan => .nan
  | .inf n => .inf (!n)
  | .fin n m e => .fin (!n) m e

/-- Exact comparison of two values that are no NaN: −1, 0 or 1. -/
def FV.cmp (a b : FV) : Int :=
  match a, b with
  | .inf n, .inf n' => if n = n' then 0 else if n then -1 else 1
  | .inf n, _ => if n then -1 else 1
  | _, .inf n => if n then 1 else -1
  | a, b =>
    let e0 := (minExp [a, b]).getD 0
    let x := a.at e0
    let y := b.at e0
    if x < y then -1 else if y < x then 1 else 0

/-- A value scaled by a power of two. -/
def FV.scale (k : Int) : FV → FV
  | .fin n m e => .fin n m (if m = 0 then e else e + k)
  | v => v

/-! ### FP32 words -/

def fval (v : W32) : FV := fdecode fp32 v.toNat
def fword (mode : Nat) (v : FV) : W32 := BitVec.ofNat 32 (fencode fp32 mode false v)
def nan32 : W32 := 0x7FC00000

/-- The types of the floating-point class: MOD[3:2]. -/
def fmtOf (m : BitVec 4) : Fmt := if mhi m = 0 then fp32 else if mhi m = 1 then bf16 else fp16
/-- The lanes of the type. -/
def fLanes (m : BitVec 4) (g : Fmt → Nat → Nat → Nat → Nat) (a b x : W32) : W32 :=
  let f := fmtOf m
  mapLanes f.w fun i => g f (laneN a f.w i) (laneN b f.w i) (laneN x f.w i)
/-- A lane-wise operation of the floating-point class (R231): exact, then one rounding in mode MOD[1:0]. -/
def fLanesR (m : BitVec 4) (g : FV → FV → FV → FV) (a b x : W32) : W32 :=
  fLanes m (fun f p q r => fencode f (mlo m).toNat false (g (fdecode f p) (fdecode f q) (fdecode f r))) a b x

/-- Minimum or maximum of R233, bit for bit; −0 below +0. -/
def fminmax (f : Fmt) (mx : Bool) (a b : Nat) : Nat :=
  let A := fdecode f a
  let B := fdecode f b
  if A.isNan ∨ B.isNan then f.nan
  else
    let c := A.cmp B
    let aLess := decide (c < 0) || (decide (c = 0) && A.neg && !B.neg)
    if aLess != mx then a else b

/-- `fclass` (Table 10.2). -/
def fclassN (f : Fmt) (v : Nat) : Nat :=
  match fdecode f v with
  | .nan => 256
  | .inf n => if n then 1 else 128
  | .fin n m _ =>
    if m = 0 then (if n then 8 else 16)
    else if m < 2 ^ f.mw then (if n then 4 else 32)
    else if n then 2 else 64

/-- A finite value rounded to an integer (R86 on the grid of integers). -/
def roundInt (mode : Nat) (neg : Bool) (m : Nat) (e : Int) : Nat :=
  if 0 ≤ e then m * 2 ^ e.toNat
  else
    let k := min (-e).toNat (Nat.log2 m + 3)
    let q := m / 2 ^ k
    if roundsUp mode neg (decide (q % 2 = 1)) (m % 2 ^ k) (2 ^ (k - 1)) then q + 1 else q

/-- `fround` of a lane (R237). -/
def froundN (f : Fmt) (mode : Nat) (v : Nat) : Nat :=
  match fdecode f v with
  | .nan => f.nan
  | .inf _ => v
  | .fin n m e => if 0 ≤ e then v else fround f 1 false n (roundInt mode n m e) 0

/-- A value converted to an integer range (R90). -/
def ftoint (mode : Nat) (lo hi : Int) : FV → Int
  | .nan => 0
  | .inf n => if n then lo else hi
  | .fin n m e =>
    -- beyond 2^40 the range limit is certain, and the shift stays small
    if (40 : Int) < e then (if m = 0 then 0 else if n then lo else hi)
    else
      let v : Int := roundInt mode n m e
      clampI (if n then -v else v) lo hi

/-- An integer as an exact value. -/
def FV.ofInt (v : Int) : FV := .fin (decide (v < 0)) v.natAbs 0

/-! ### Exact quotient and roots (R97) -/

/-- The integer square root, bit by bit. -/
def isqrtLoop : Nat → Nat → Nat → Nat
  | 0, _, s => s
  | k + 1, v, s => let t := s + 2 ^ k; isqrtLoop k v (if t * t ≤ v then t else s)
def isqrt (v : Nat) : Nat := isqrtLoop (Nat.log2 v / 2 + 1) v 0

/-- m1·2^e1 / (m2·2^e2), the remainder kept as a sticky bit. -/
def quotFV (neg : Bool) (m1 : Nat) (e1 : Int) (m2 : Nat) (e2 : Int) : FV :=
  let n := m1 * 2 ^ 64
  .fin neg (2 * (n / m2) + (if n % m2 = 0 then 0 else 1)) (e1 - e2 - 65)

/-- Division (R240). -/
def FV.div : FV → FV → FV
  | .nan, _ => .nan
  | _, .nan => .nan
  | .inf _, .inf _ => .nan
  | .inf n, v => .inf (n != v.neg)
  | v, .inf n => .fin (n != v.neg) 0 0
  | .fin n m e, .fin n' m' e' =>
    if m' = 0 then (if m = 0 then .nan else .inf (n != n'))
    else quotFV (n != n') m e m' e'

/-- The square root of m·2^e, as m'·2^e' with a sticky bit. -/
def sqrtFV (m : Nat) (e : Int) : FV :=
  let (m, e) := if e % 2 = 0 then (m, e) else (2 * m, e - 1)
  let v := m * 2 ^ 128
  let s := isqrt v
  .fin false (2 * s + (if s * s = v then 0 else 1)) (e / 2 - 65)

/-- The reciprocal square root of m·2^e. -/
def rsqrtFV (m : Nat) (e : Int) : FV :=
  let (m, e) := if e % 2 = 0 then (m, e) else (2 * m, e - 1)
  let v := 2 ^ 192 / m
  let s := isqrt v
  .fin false (2 * s + (if s * s * m = 2 ^ 192 then 0 else 1)) (-(e / 2) - 97)

/-! ### Narrow formats and scales (R91 to R94, R245 to R250) -/

/-- The narrow format of MOD[3:2]: E4M3, E5M2 or E2M1. -/
def narrowFmt (c : BitVec 2) : Fmt := if c = 0 then e4m3 else if c = 1 then e5m2 else e2m1
/-- emax of R93. -/
def emaxOf (c : BitVec 2) : Int := if c = 0 then 8 else if c = 1 then 15 else 2

/-- The scale byte of a block (R93). -/
def blockScale (c : BitVec 2) (xs : List W32) : Nat :=
  if xs.any (fun x => (fval x).isNan) then 0xFF
  else
    let fl : List Int := xs.filterMap fun x => match fval x with
      | .fin _ m e => if m = 0 then none else some (e + Nat.log2 m)
      | _ => none
    match fl with
    | [] => 127
    | y :: ys => (clampI (ys.foldl max y - emaxOf c + 127) 0 254).toNat

/-- A block's elements quantised under a scale byte (R93). -/
def quantN (c : BitVec 2) (sb : Nat) (x : W32) : Nat :=
  let f := narrowFmt c
  if sb = 0xFF then f.nan else fencode f 0 true ((fval x).scale (127 - (sb : Int)))

/-- Dequantisation (R94). -/
def dequant (c : BitVec 2) (q sb : Nat) : W32 :=
  if sb = 0xFF then nan32 else fword 0 ((fdecode (narrowFmt c) q).scale ((sb : Int) - 127))

/-- The value of an E8M0 scale (R83, R90). -/
def e8m0 (b : Nat) : FV := if b = 0xFF then .nan else .fin false 1 ((b : Int) - 127)

/-- One promotion (R91): acc + P·t with t the rounded product of the scales, one rounding each. -/
def promote (sa sw : FV) (acc p : W32) : W32 :=
  let t := fval (fword 0 (sa.mul sw))
  fword 0 (fsum 0 [fval acc, (fval p).mul t])

/-- floor(log2) of a finite nonzero value. -/
def FV.flog : FV → Option Int
  | .fin _ m e => if m = 0 then none else some (e + Nat.log2 m)
  | _ => none

/-- A value truncated toward zero to a multiple of 2^q. -/
def FV.trunc (q : Int) : FV → FV
  | .fin n m e => if q ≤ e then .fin n m e else .fin n (m / 2 ^ min (q - e).toNat (Nat.log2 m + 1)) q
  | v => v

/-- One K-step of one column (R95): the incoming sum and the exact products. -/
def kstepFP (sin : W32) (ps : List FV) : W32 :=
  let es := ps.filterMap FV.flog
  let E := es.foldl max (es.headD 0)
  let r := fword 0 (fsum 0 (fval sin :: ps.map (FV.trunc (E - 42))))
  if r = 0x80000000 then 0 else r

/-- One K-step on INT8 operands (R96). -/
def kstepInt (sin : W32) (as ws : List Nat) : W32 :=
  w32 (signed 32 sin.toNat + ((as.zip ws).map fun p => signed 8 p.1 * signed 8 p.2).foldl (· + ·) 0)

/-! ### Results of single instructions -/

/-- `fcmp` (Table 9.4): exact values; a NaN makes the pair unordered. -/
def fcmpCond (m : BitVec 4) (a b : W32) : Bool :=
  let A := fval a
  let B := fval b
  let un := A.isNan || B.isNan
  let c := A.cmp B
  match (field m 0 3 : BitVec 3).toNat with
  | 0 => !un && decide (c = 0)
  | 1 => un || decide (c ≠ 0)
  | 2 => !un && decide (c < 0)
  | 3 => !un && decide (c ≤ 0)
  | 4 => !un && decide (0 < c)
  | 5 => !un && decide (0 ≤ c)
  | 6 => un
  | _ => !un

/-- `fscale` of a lane (R236). -/
def fscaleN (f : Fmt) (mode a : Nat) (b : Int) : Nat :=
  match fdecode f a with
  | .nan => f.nan
  | .inf _ => a
  | .fin n m e => if m = 0 then a else fround f mode false n m (e + b)

/-- `fdot2` (R238). -/
def fdot2W (m : BitVec 4) (a b x : W32) : W32 :=
  let f := fmtOf m
  let p (i : Nat) : FV := (fdecode f (laneN a 16 i)).mul (fdecode f (laneN b 16 i))
  fword (mlo m).toNat (fsum (mlo m).toNat [p 0, p 1, fval x])

/-- Two FP32 values narrowed into one word, lane 0 from `a` (R242). -/
def narrow2 (f : Fmt) (mode : Nat) (a b : W32) : W32 :=
  BitVec.ofNat 32 (packLanes 16 [fencode f mode false (fval a), fencode f mode false (fval b)])
/-- The two lanes of a word widened exactly (R242). -/
def widen2 (f : Fmt) (a : W32) : W32 × W32 :=
  (fword 0 (fdecode f (laneN a 16 0)), fword 0 (fdecode f (laneN a 16 1)))

/-- `cvti` (R243). -/
def cvtiW (m : BitVec 4) (a b : W32) : W32 :=
  let u := m.getLsbD 2
  let mode := (mlo m).toNat
  if m.getLsbD 3 then
    let g (v : W32) : Nat := wrapN (ftoint mode (loLim u 16) (hiLim u 16) (fval v)) 16
    BitVec.ofNat 32 (packLanes 16 [g a, g b])
  else w32 (ftoint mode (loLim u 32) (hiLim u 32) (fval a))

/-- The lane width of `pack`, `unpack` and `bdq`: MOD[3:2]. -/
def packWidth (m : BitVec 4) : Nat := if mhi m = 2 then 4 else 8

/-- `pack` (R245): lanes 2q and 2q+1 of `x` replaced. -/
def packW (m : BitVec 4) (a b x : W32) : W32 :=
  let n := packWidth m
  let q := (mlo m).toNat
  let g (v : W32) : Nat := if mhi m = 3 then wrapN (clampI (signed 32 v.toNat) (-128) 127) 8
    else fencode (narrowFmt (mhi m)) 0 true (fval v)
  mapLanes n fun i => if i = 2 * q then g a else if i = 2 * q + 1 then g b else laneN x n i

/-- `unpack` (R246): lanes 2q and 2q+1 of `a`. -/
def unpackW (m : BitVec 4) (a : W32) : W32 × W32 :=
  let n := packWidth m
  let q := (mlo m).toNat
  let g (v : Nat) : W32 := if mhi m = 3 then w32 (signed 8 v) else fword 0 (fdecode (narrowFmt (mhi m)) v)
  (g (laneN a n (2 * q)), g (laneN a n (2 * q + 1)))

end Sys2Proof.Machine
end

