-- ==== Sys2Proof/Machine/FloatFn.lean ====
section
/-! DEFINITION. The correctly rounded special functions (R97, R239, R240): each value is enclosed in an interval of fixed-point numbers, and where both ends round to one result that is the result. Where they do not, the result is a free value (DESIGN CHOICE, log 3). -/
namespace Sys2Proof.Machine
open Sys2Proof

/-- Fraction bits of the fixed-point numbers. -/
def FP : Nat := 448
def fxOne : Int := 2 ^ 448
def fxMul (a b : Int) : Int := a * b / 2 ^ 448
/-- The width of every enclosure, far above the accumulated error of the series. -/
def fxErr : Int := 2 ^ 40

/-- Σ of a series: `n` terms from index `k`, each obtained from the last by `next`. -/
def fxSeries (next : Nat → Int → Int) : Nat → Nat → Int → Int
  | 0, _, _ => 0
  | n + 1, k, t => t + fxSeries next n (k + 1) (next k t)

/-- z + z³/3 + z⁵/5 + … (sign +1) or z − z³/3 + … (sign −1). -/
def fxAtanSeries (sign : Int) : Nat → Nat → Int → Int → Int
  | 0, _, _, _ => 0
  | n + 1, k, z2, p => p / (2 * k + 1 : Nat) + fxAtanSeries sign n (k + 1) z2 (sign * fxMul p z2)

/-- ln 2 = 2·atanh(1/3). -/
def fxLn2 : Int := 2 * fxAtanSeries 1 150 0 (fxOne / 9) (fxOne / 3)
/-- π, by Machin's formula. -/
def fxPi : Int := 16 * fxAtanSeries (-1) 100 0 (fxOne / 25) (fxOne / 5) - 4 * fxAtanSeries (-1) 32 0 (fxOne / 57121) (fxOne / 239)

/-- e^y for 0 ≤ y < 1. -/
def fxExp (y : Int) : Int := fxSeries (fun k t => fxMul t y / ((k : Int) + 1)) 100 0 fxOne
/-- sin y and cos y for 0 ≤ y < 2. -/
def fxSin (y : Int) : Int := let y2 := fxMul y y; fxSeries (fun k t => -(fxMul t y2 / ((2 * (k : Int) + 2) * (2 * k + 3)))) 60 0 y
def fxCos (y : Int) : Int := let y2 := fxMul y y; fxSeries (fun k t => -(fxMul t y2 / ((2 * (k : Int) + 1) * (2 * k + 2)))) 60 0 fxOne
/-- ln x for 1 ≤ x < 2. -/
def fxLn (x : Int) : Int :=
  let z := (x - fxOne) * 2 ^ 448 / (x + fxOne)
  2 * fxAtanSeries 1 150 0 (fxMul z z) z
/-- A value squared `n` times. -/
def fxSquares : Nat → Int → Int
  | 0, v => v
  | n + 1, v => fxSquares n (fxMul v v)

/-- A finite value as a fixed-point number (its exponent is at least −149, so this is exact). -/
def fxOf (neg : Bool) (m : Nat) (e : Int) : Int :=
  let v : Int := m * 2 ^ (e + 448).toNat
  if neg then -v else v

/-- A fixed-point number times 2^k, rounded. -/
def fxWord (v k : Int) : W32 := fword 0 (.fin (decide (v < 0)) v.natAbs (k - 448))

/-- The result of the function `n` on the operand `a`: both ends of the enclosure around v·2^k round to it (DESIGN CHOICE, log 3). -/
def fxResult (n : Nat) (a : W32) (v k : Int) : W32 :=
  let lo := fxWord (v - fxErr) k
  if lo = fxWord (v + fxErr) k then lo else Config.freeFn n a

/-- `frcp` (R239, R240). -/
def frcpW (a : W32) : W32 := fword 0 (FV.div (.fin false 1 0) (fval a))

/-- `frsq` (R239, R240). -/
def frsqW (a : W32) : W32 :=
  match fval a with
  | .nan => nan32
  | .inf n => if n then nan32 else 0
  | .fin n m e => if m = 0 then (if n then 0xFF800000 else 0x7F800000) else if n then nan32 else fword 0 (rsqrtFV m e)

/-- `fsqrt` (R239, R240). -/
def fsqrtW (mode : Nat) (a : W32) : W32 :=
  match fval a with
  | .nan => nan32
  | .inf n => if n then nan32 else a
  | .fin n m e => if m = 0 then a else if n then nan32 else fword mode (sqrtFV m e)

/-- `fexp2` (R239, R240): an integral operand gives an exact power of two. -/
def fexp2W (a : W32) : W32 :=
  match fval a with
  | .nan => nan32
  | .inf n => if n then 0 else 0x7F800000
  | .fin n m e =>
    if m = 0 then 0x3F800000
    else if 8 < e + Nat.log2 m then (if n then 0 else 0x7F800000)
    else
      let v := fxOf n m e
      let k := v / 2 ^ 448
      let y := v % 2 ^ 448
      if y = 0 then fxWord fxOne k else fxResult 0 a (fxExp (fxMul y fxLn2)) k

/-- `flog2` (R239, R240). -/
def flog2W (a : W32) : W32 :=
  match fval a with
  | .nan => nan32
  | .inf n => if n then nan32 else a
  | .fin n m e =>
    if m = 0 then 0xFF800000
    else if n then nan32
    else
      let l := Nat.log2 m
      let k : Int := e + l
      let x : Int := m * 2 ^ (448 - l)
      if x = fxOne then fword 0 (.ofInt k)
      else fxResult 1 a (k * fxOne + fxLn x * 2 ^ 448 / fxLn2) 0

/-- sin or cos of a finite operand: reduced modulo π/2 with π to 448 bits. -/
def fxTrig (n : Nat) (cosine : Bool) (a : W32) (neg : Bool) (m : Nat) (e : Int) : W32 :=
  let v := fxOf neg m e
  let h := fxPi / 2
  let q := v / h
  let r := v - q * h
  let j := (q + (if cosine then 1 else 0)) % 4
  let y := if j % 2 = 0 then fxSin r else fxCos r
  -- the error of q·h is below |q| units: widen by it
  let y := if j < 2 then y else -y
  let err := fxErr + q.natAbs
  let lo := fxWord (y - err) 0
  if lo = fxWord (y + err) 0 then lo else Config.freeFn n a

/-- `fsin` (R239, R240): below 2^-13 the nearest FP32 value to sin A is A. -/
def fsinW (a : W32) : W32 :=
  match fval a with
  | .nan => nan32
  | .inf _ => nan32
  | .fin n m e => if m = 0 then a else if e + Nat.log2 m < -13 then a else fxTrig 2 false a n m e

/-- `fcos` (R239, R240). -/
def fcosW (a : W32) : W32 :=
  match fval a with
  | .nan => nan32
  | .inf _ => nan32
  | .fin n m e => if m = 0 ∨ e + Nat.log2 m < -14 then 0x3F800000 else fxTrig 3 true a n m e

/-- `ftanh` (R239, R240): above 16 the nearest FP32 value is 1, below 2^-13 it is A. -/
def ftanhW (a : W32) : W32 :=
  match fval a with
  | .nan => nan32
  | .inf n => if n then 0xBF800000 else 0x3F800000
  | .fin n m e =>
    if m = 0 ∨ e + Nat.log2 m < -13 then a
    else if 4 ≤ e + Nat.log2 m then (if n then 0xBF800000 else 0x3F800000)
    else
      let u := fxSquares 6 (fxExp (fxOf false m e / 32))
      let t := (u - fxOne) * 2 ^ 448 / (u + fxOne)
      fxResult 4 a (if n then -t else t) 0

/-- The rescale factor of `rmaxsc` (R258): 2^(old − new), rounded once. -/
def rescaleW (old new : W32) : W32 :=
  match fval old, fval new with
  | .nan, _ => nan32
  | _, .nan => nan32
  | A, B =>
    if A.cmp B = 0 then 0x3F800000
    else match A, B with
      | .fin n m e, .fin n' m' e' =>
        let v := fxOf n m (if m = 0 then 0 else e) - fxOf n' m' (if m' = 0 then 0 else e')
        let k := v / 2 ^ 448
        let y := v % 2 ^ 448
        if k < -200 then 0
        else if y = 0 then fxWord fxOne k
        else fxResult 5 (old - new) (fxExp (fxMul y fxLn2)) k
      | _, _ => 0

end Sys2Proof.Machine
end

