-- ==== Sys2Proof/Machine/Regs.lean ====
section
/-! DEFINITION. The management registers (R367, R378, R406): where each lies (Table 15.5), its reserved and read-only bits, its reset value, and the values that R408 does not accept. -/
namespace Sys2Proof.Machine
open Sys2Proof

/-- The kinds of management register. -/
inductive RKind where
  | devid | bootctl | bootsrc | bootstat | apbase | hmbase | hmctl | hmprod | hmcons | sucfg | surtb | sustat | pwrcap
  | pwrstat | energy | attctl | attdst | attnonce | idpub | tlbiv | tlbiva | asidtb | pvcfg | rdmap | instat | pvstat
  | stgctl | undo | lnch | lnchc | svpool | rflag | crtab | fltbase | fltctl | fltprod | fltcons | fltstat | booterr
  | ecnt | dup | spr | pbmap | psnclr | pgfres | rdspare | sprnow | dbgres | hosterr | lnkcfg | lnkst | wear | wearm
  | xbank | hrow | spt | spb | mvf | mvn | pgta | pgtb | pgtc | pgtd | hbmref | hbmrh | spp | bsp | bsw | bmda | bmdb
  deriving DecidableEq, Repr, Inhabited

/-- The registers of the first block, at a stride of 8 (Table 15.5). -/
def regBlock0 : List RKind :=
  [.devid, .bootctl, .bootsrc, .bootstat, .apbase, .hmbase, .hmctl, .hmprod, .hmcons, .sucfg, .surtb, .sustat, .pwrcap,
   .pwrstat, .energy, .attctl, .attdst, .attnonce, .attnonce, .attnonce, .attnonce]

/-- The kind and number of the register whose 8-byte slot begins at a BAR0 offset (Table 15.5). -/
def regAt (off : Nat) : Option (RKind × Nat) :=
  let blk (base n : Nat) : Option Nat := if base ≤ off ∧ off < base + 8 * n then some ((off - base) / 8) else none
  if off % 8 ≠ 0 then none
  else if off < 0x10000 then
    if off < 0x400 then (regBlock0[off / 8]?).map fun k => (k, if off ≥ 0x88 then (off - 0x88) / 8 else 0)
    else (blk 0x400 48).map fun i => (.idpub, i)
  else if off < 0x11000 then ([RKind.tlbiv, .tlbiva, .asidtb][(off - 0x10000) / 8]?).map fun k => (k, 0)
  else if off < 0x12000 then ([RKind.pvcfg, .rdmap, .instat, .pvstat, .stgctl][(off - 0x11000) / 8]?).map fun k => (k, 0)
  else if off < 0x13000 then (blk 0x12000 16).map fun i => (.undo, i)
  else if off < 0x14000 then (blk 0x13000 1).map fun i => (.lnch, i)
  else if off < 0x15000 then (blk 0x14000 256).map fun i => (.lnchc, i)
  else if off < 0x16000 then ([RKind.svpool, .rflag, .crtab][(off - 0x15000) / 8]?).map fun k => (k, 0)
  else if off < 0x16030 then ([RKind.fltbase, .fltctl, .fltprod, .fltcons, .fltstat, .booterr][(off - 0x16000) / 8]?).map fun k => (k, 0)
  else if off < 0x16200 then (blk 0x16040 16).map fun i => (.ecnt, i)
  else if off < 0x16400 then (blk 0x16200 16).map fun i => (.dup, i)
  else if off < 0x16600 then (blk 0x16400 64).map fun i => (.spr, i)
  else if off < 0x16700 then
    ([RKind.pbmap, .psnclr, .pgfres, .rdspare, .sprnow, .dbgres, .hosterr, .lnkcfg][(off - 0x16600) / 8]?).map fun k => (k, 0)
  else if off < 0x16800 then (blk 0x16700 32).map fun i => (.lnkst, i)
  else if off < 0x16A00 then (blk 0x16800 64).map fun i => (.wear, i)
  else if off < 0x16B00 then some (if off % 16 = 0 then .wearm else .xbank, (off - 0x16A00) / 16)
  else if off < 0x20000 then (blk 0x16B00 16).map fun i => (.hrow, i)
  else if off < 0x21000 then (blk 0x20000 128).map fun i => (if i % 2 = 0 then .spt else .spb, i / 2)
  else if off < 0x30000 then (blk 0x21000 32).map fun i => (if i % 2 = 0 then .mvf else .mvn, i / 2)
  else if off < 0x40000 then
    (blk 0x30000 512).map fun i => (if i % 4 = 0 then .pgta else if i % 4 = 1 then .pgtb else if i % 4 = 2 then .pgtc else .pgtd, i / 4)
  else if off < 0x41000 then
    ((blk 0x40000 16).map fun i => (RKind.hbmref, i)).orElse fun _ => (blk 0x40080 16).map fun i => (RKind.hbmrh, i)
  else if off < 0x50000 then (blk 0x41000 128).map fun i => (.spp, i)
  else
    (blk 0x50000 4096).map fun i => (if i % 4 = 0 then .bsp else if i % 4 = 1 then .bsw else if i % 4 = 2 then .bmda else .bmdb, i / 4)

/-- The mask of bits `lo` to `hi`. -/
def bitsTo (lo hi : Nat) : W64 := BitVec.ofNat 64 (2 ^ (hi + 1) - 2 ^ lo)

/-- The reserved bits of a register. -/
def RKind.rsv : RKind → W64
  | .devid => bitsTo 16 63
  | .bootctl => bitsTo 1 63
  | .bootsrc | .hmbase | .fltbase => bitsTo 0 11 ||| bitsTo 40 63
  | .bootstat => bitsTo 6 63
  | .apbase => bitsTo 0 35 ||| bitsTo 57 63
  | .hmctl => bitsTo 12 63
  | .hmprod | .hmcons | .fltprod | .fltcons | .sustat | .ecnt | .bmdb => bitsTo 32 63
  | .sucfg | .pwrcap | .pwrstat => bitsTo 14 63
  | .surtb | .rdmap | .spb | .mvn | .tlbiva => bitsTo 0 11 ||| bitsTo 57 63
  | .energy | .attnonce | .idpub | .xbank | .instat => 0
  | .attctl => bitsTo 2 63
  | .attdst => bitsTo 0 5 ||| bitsTo 40 63
  | .tlbiv | .booterr => bitsTo 16 63
  | .asidtb | .crtab => bitsTo 1 11 ||| bitsTo 57 63
  | .pvcfg => bitsTo 31 63
  | .pvstat => bitsTo 4 31
  | .stgctl => bitsTo 4 31 ||| bitsTo 50 63
  | .undo => bitsTo 16 31 ||| bitsTo 59 63
  | .lnch => bitsTo 9 63
  | .lnchc => bitsTo 21 63
  | .svpool => bitsTo 7 11 ||| bitsTo 57 63
  | .rflag => bitsTo 1 17 ||| bitsTo 57 63
  | .fltctl | .dup => bitsTo 13 63
  | .fltstat => bitsTo 25 63
  | .spr => bitsTo 41 63
  | .pbmap => bitsTo 1 24 ||| bitsTo 57 63
  | .psnclr => bitsTo 2 11 ||| bitsTo 40 63
  | .pgfres | .dbgres => bitsTo 34 63
  | .rdspare => bitsTo 14 15 ||| bitsTo 30 31 ||| bitsTo 46 47 ||| bitsTo 62 63
  | .sprnow => bitsTo 2 63
  | .hosterr => bitsTo 48 63
  | .lnkcfg => bitsTo 22 63
  | .lnkst => bitsTo 11 31
  | .wear => bitsTo 40 63
  | .wearm => bitsTo 9 63
  | .hrow => bitsTo 21 31
  | .spt => bitsTo 7 11 ||| bitsTo 57 63
  | .mvf => bitsTo 6 11 ||| bitsTo 57 63
  | .pgta => bitsTo 13 63
  | .pgtb => bitsTo 0 11 ||| bitsTo 46 63
  | .pgtc => bitsTo 0 5 ||| bitsTo 57 63
  | .pgtd => bitsTo 28 31 ||| bitsTo 60 63
  | .hbmref => bitsTo 6 63
  | .hbmrh => bitsTo 12 15 ||| bitsTo 20 31
  | .spp => bitsTo 12 63
  | .bsp => bitsTo 2 11 ||| bitsTo 57 63
  | .bsw => bitsTo 0 11 ||| bitsTo 36 63
  | .bmda => bitsTo 0 6 ||| bitsTo 47 63

/-- The read-only bits of a register, its "write 1 to start" bits, which read 0, among them. -/
def RKind.ro : RKind → W64
  | .devid | .bootstat | .hmprod | .fltprod | .sustat | .pwrstat | .energy | .idpub | .instat | .pvstat | .booterr | .spr
  | .wear | .wearm | .xbank | .hrow => bitsTo 0 63
  | .bootctl => 1
  | .attctl | .sprnow | .psnclr => 3
  | .tlbiv => bitsTo 14 15
  | .stgctl => bitsTo 32 49
  | .undo => bitsTo 32 58
  | .lnchc => bitsTo 16 20
  | .fltstat => bitsTo 16 24
  | .lnkst => bitsTo 0 10
  | .lnkcfg => bitsTo 16 16
  | .mvf => bitsTo 1 2 ||| bitsTo 5 5
  | .hbmrh => bitsTo 32 63
  | _ => 0

/-- The bit that makes a register's entry valid, where it has one. -/
def RKind.valid : RKind → Option Nat
  | .hmctl | .sucfg | .pvcfg | .lnch | .fltctl | .asidtb | .lnchc | .svpool | .rflag | .crtab | .dup | .pbmap | .spt | .mvf
  | .pgta | .bsp => some 0
  | .spp => some 11
  | _ => none

/-- The reset value of a register (DESIGN CHOICE, log 13 for the values that the fuse map gives). -/
def RKind.reset : RKind → W64
  | .devid => 0x1600
  | .hmctl | .fltctl => 8
  | .pvcfg => 2000
  | .stgctl => 12
  | .undo => 0xFC02
  | .hbmref => 16
  | .hbmrh => 0x40800
  | .lnkcfg => 256
  | .spr => 2
  | .lnkst => 4
  | .hrow => 65536
  | .wear => 1
  | .wearm => 2
  | _ => 0

/-- A field value that Tables 5.5 to 21.8 reserve, beyond a stated range, or misaligned; a field at its reset value
passes where the entry stays invalid (R408). -/
def RKind.bad (k : RKind) (old v : W64) : Bool :=
  let f (lo n : Nat) : Nat := (field v lo n : BitVec n).toNat
  let lax := match k.valid with
    | some b => !(v.getLsbD b) && !(old.getLsbD b)
    | none => true
  match k with
  | .pvcfg => decide (f 1 17 < 100 ∨ 100000 < f 1 17)
  | .hmctl | .fltctl => decide (f 1 4 < 4)
  | .pwrcap => decide (f 0 14 ≠ 0 ∧ (f 0 14 < 1000 ∨ 8000 < f 0 14))
  | .tlbiv => decide (f 0 2 = 3)
  | .asidtb => decide (f 12 3 ≠ 0)
  | .crtab => decide (f 12 4 ≠ 0)
  | .spt => decide (f 1 5 < 12 ∨ f 1 5 = 31) && !(lax && decide (f 1 5 = 0))
  | .mvf => decide (f 3 2 = 3)
  | .stgctl => decide (f 0 4 = 0)
  | .undo => decide (f 0 4 = 0 ∨ 8 < f 0 4 ∨ 8 < f 4 4 ∨ f 8 4 = 0 ∨ f 8 4 = 15 ∨ f 12 4 < 2 ∨ f 12 4 ≤ f 8 4)
  | .pgta => (decide (f 1 5 = 0 ∨ f 1 5 = 31) && !(lax && decide (f 1 5 = 0)))
      || (decide (f 6 2 = 0 ∨ f 6 2 = 3) && !(lax && decide (f 6 2 = 0)))
      || (decide (f 1 5 + f 6 2 ≤ f 8 5) && !(lax && decide (f 8 5 = 0)))
  | .pgtb => decide (f 40 6 ≠ 0 ∧ (f 40 6 < 12 ∨ 33 < f 40 6 ∨ v.toNat % 2 ^ 40 / 4096 * 4096 % 2 ^ f 40 6 ≠ 0))
  | .svpool => !(lax && decide (f 1 6 = 0)) && decide (f 1 6 < 24 ∨ 36 < f 1 6 ∨ v.toNat % 2 ^ 57 / 4096 * 4096 % 2 ^ (f 1 6) ≠ 0)
  | .spp => decide (f 6 3 = 7) || (v.getLsbD 11 && decide (64 < f 0 6 + 2 ^ f 6 3))
  | .hbmref => decide (8 < f 1 4)
  | .hbmrh => decide (f 0 12 < 256 ∨ 8 < f 16 4)
  | .lnchc => decide (f 13 3 = 7)
  | .pgfres => decide (f 32 2 = 3)
  | .lnkcfg => decide (f 0 16 = 0)
  | _ => false

/-- The reset value of the management register at a BAR0 offset of a package. -/
def regReset (pk off : Nat) : W64 :=
  match regAt off with
  | some (.idpub, i) => Config.idPub pk i
  | some (k, _) => k.reset
  | none => 0

end Sys2Proof.Machine
end

