-- ==== Sys2Proof/Machine/Ops.lean ====
section
/-! DEFINITION. The named operations over the state: reading and writing parts, the clock and the delivery of emits (R50, R51, R202), the operands of a firing (R49, R199), target space (R26, R50, R203), emission (R58, R201), the detection of fault conditions (R395, R400) and the one skeleton of a slot's firing. -/
namespace Sys2Proof.Machine
open Sys2Proof

/-! ### Parts by number -/

/-- The stripe of an element. -/
def stOf (el : Nat) : Nat := el / 128
/-- The element's number in its stripe: 0-63 scalar, 64-79 matrix. -/
def eOf (el : Nat) : Nat := el % 128
/-- The ring of a stripe (DESIGN CHOICE, log 29). -/
def ringOf (st : Nat) : Nat := st / 32
/-- The first number that stands for a base-slice program where a ring number is expected: the base nodes of program
n of stack `sk` are elements of the one stripe of ring `baseRing + 64*sk + n` (R313). The spec does not say how several valid
programs of one stack share its 64 nodes and its 256 multipliers (R13): each program has its own queues, registers and
multiplier accumulators, so no program sees another's (DESIGN CHOICE, log 69). -/
def baseRing : Nat := 2 ^ 19
/-- The package of a ring. -/
def pkOf (ring : Nat) : Nat := if ring < baseRing then ring / 64 else (ring - baseRing) / 1024
/-- The fabric die of a ring, 0-15. -/
def dieOf (ring : Nat) : Nat := ring % 64 / 4
/-- The package of an element. -/
def elPk (el : Nat) : Nat := pkOf (ringOf (stOf el))
/-- The Figure of a region. -/
def figOf (rg : Nat) : Nat := rg / 64

def State.elem (s : State) (el : Nat) : Elem := s.fab.elems.get {} el
def State.setElem (s : State) (el : Nat) (e : Elem) : State :=
  { s with fab := { s.fab with elems := s.fab.elems.put {} el e } }
def State.mx (s : State) (el : Nat) : MxElem := s.fab.mxs.get {} el
def State.setMx (s : State) (el : Nat) (e : MxElem) : State :=
  { s with fab := { s.fab with mxs := s.fab.mxs.put {} el e } }
def State.stripe (s : State) (st : Nat) : Stripe := s.fab.stripes.get {} st
def State.setStripe (s : State) (st : Nat) (t : Stripe) : State :=
  { s with fab := { s.fab with stripes := s.fab.stripes.put {} st t } }
def State.port (s : State) (p : Nat) : Port := s.fab.ports.get {} p
def State.setPort (s : State) (p : Nat) (t : Port) : State :=
  { s with fab := { s.fab with ports := s.fab.ports.put {} p t } }
def State.strm (s : State) (rs : Nat) : Strm := s.fab.strms.get {} rs
def State.setStrm (s : State) (rs : Nat) (t : Strm) : State :=
  { s with fab := { s.fab with strms := s.fab.strms.put {} rs t } }
def State.ring (s : State) (r : Nat) : Ring := s.fab.rings.get {} r
def State.setRing (s : State) (r : Nat) (t : Ring) : State :=
  { s with fab := { s.fab with rings := s.fab.rings.put {} r t } }
def State.region (s : State) (rg : Nat) : Region := s.regions.get {} rg
def State.setRegion (s : State) (rg : Nat) (r : Region) : State := { s with regions := s.regions.put {} rg r }
def State.fig (s : State) (fg : Nat) : Fig := s.figs.get {} fg
def State.setFig (s : State) (fg : Nat) (x : Fig) : State := { s with figs := s.figs.put {} fg x }
def State.acc (s : State) (a : Nat) : Option Access := (s.fl.accs.find? (fun p => p.1 = a)).map Prod.snd
def State.setAcc (s : State) (a : Nat) (x : Access) : State :=
  { s with fl := { s.fl with accs := (a, x) :: s.fl.accs.del a } }
def State.delAcc (s : State) (a : Nat) : State := { s with fl := { s.fl with accs := s.fl.accs.del a } }
def State.wait (s : State) (w : Nat) : Option Wait := (s.fl.waits.find? (fun p => p.1 = w)).map Prod.snd
def State.setWait (s : State) (w : Nat) (x : Wait) : State :=
  { s with fl := { s.fl with waits := (w, x) :: s.fl.waits.del w } }
def State.delWait (s : State) (w : Nat) : State := { s with fl := { s.fl with waits := s.fl.waits.del w } }

/-- A ring's die is not held in reset (R119). -/
def State.ringUp (s : State) (ring : Nat) : Bool := !(s.ring ring).inReset
/-- The fabric cycle counter of a package (R288): it counts from its cold reset. -/
def State.clock (s : State) (pk : Nat) : Nat := s.cyc - s.out.clock0.get 0 pk

/-- The access of an entry of a stream's order: its number and return address. -/
def SOp.access : SOp → Option (Nat × Ret)
  | .acc id _ _ _ _ _ _ ret _ _ => some (id, ret)
  | .again id a => some (id, a.ret)
  | _ => none
/-- A fresh operation number. -/
def State.bump (s : State) : State := { s with fl := { s.fl with next := s.fl.next + 1 } }

/-- The queue `q` of an element, head first. -/
def Elem.queue (e : Elem) (q : BitVec 2) : List Token := e.q.get [] q.toNat
def Elem.setQueue (e : Elem) (q : BitVec 2) (l : List Token) : Elem := { e with q := e.q.put [] q.toNat l }
/-- Local register `i`. -/
def Elem.kreg (e : Elem) (i : BitVec 3) : W32 := e.k.get 0 i.toNat
/-- A local register is written; the hidden taint bit follows the value (R419). -/
def Elem.setK (e : Elem) (i : BitVec 3) (v : W32) (taint : Bool) : Elem :=
  { e with
    k := e.k.put 0 i.toNat v
    kTaint := if taint then e.kTaint ||| ((1 : BitVec 8) <<< i.toNat) else e.kTaint &&& ~~~((1 : BitVec 8) <<< i.toNat) }

/-! ### Bytes of memory -/

/-- The physical address of a byte of a ring's banks (Table 5.3). -/
def ringPA (ring addr : Nat) : Nat := 3 * 2 ^ 53 + pkOf ring * 2 ^ 40 + ring % 64 * 2 ^ 26 + addr % 2 ^ 26
/-- Memory bytes, lowest address first, are written as they are; the canonical form is kept. -/
def State.poke (s : State) (pa : Nat) : List Byte → State
  | [] => s
  | b :: bs => { s with mem := s.mem.put 0 pa b }.poke (pa + 1) bs
/-- SPACE of a physical address (Table 5.2). -/
def paSpace (pa : Nat) : Nat := pa / 2 ^ 53 % 16
/-- The 8-byte units of a range. -/
def unitsOf (pa n : Nat) : List Nat := (List.range ((pa % 8 + n + 7) / 8)).map fun i => pa / 8 + i
/-- The error that stands in a unit. -/
def State.setMark (s : State) (u : Nat) (m : Option Mark) : State := { s with ms := { s.ms with errs := s.ms.errs.put none u m } }
/-- A write of `n` bytes reaches unit `u`: wholly written, it is good again; partly written over an uncorrectable error, it carries
the hidden taint in SRAM (R435), and in HBM its written bytes are good (Table 20.1). -/
def State.overwrite (s : State) (pa n u : Nat) : State :=
  match s.ms.errs.get none u with
  | none => s
  | some m =>
    if pa ≤ 8 * u ∧ 8 * u + 8 ≤ pa + n then s.setMark u none
    else
      let w : Byte := BitVec.ofNat 8 ((List.range 8).map fun j => if pa ≤ 8 * u + j ∧ 8 * u + j < pa + n then 2 ^ j else 0).sum
      let mended (good : Byte) : State := s.setMark u (if good ||| w = 0xFF then none else some (.part (good ||| w)))
      match m with
      | .double => if paSpace pa ≠ 0 then s.setMark u (some .hidden) else mended 0
      | .part good => mended good
      | _ => s
/-- Bytes are written, with what the write does to the errors that stand there. -/
def State.writeBytes (s : State) (pa : Nat) (bs : List Byte) : State :=
  ((unitsOf pa bs.length).foldl (fun s u => s.overwrite pa bs.length u) s).poke pa bs
/-- A byte of physical memory; a byte that nothing has written reads as 0 (DESIGN CHOICE, log 10). -/
def State.peek (s : State) (pa : Nat) : Byte := s.mem.get 0 pa
/-- `n` bytes from an address on. -/
def State.peeks (s : State) (pa n : Nat) : List Byte := (List.range n).map fun i => s.peek (pa + i)
/-- A number from its bytes, lowest first (R5). -/
def leNat : List Byte → Nat
  | [] => 0
  | b :: bs => b.toNat + 256 * leNat bs
/-- The bytes of a number, lowest first. -/
def leBytes : Nat → Nat → List Byte
  | 0, _ => []
  | n + 1, v => BitVec.ofNat 8 v :: leBytes n (v / 256)
def State.read32 (s : State) (pa : Nat) : W32 := BitVec.ofNat 32 (leNat (s.peeks pa 4))
def State.read64 (s : State) (pa : Nat) : W64 := BitVec.ofNat 64 (leNat (s.peeks pa 8))

/-- A number of `n` bytes at an address. -/
def State.readN (s : State) (a n : Nat) : Nat := leNat (s.peeks a n)

/-- Zero bytes. -/
def zeros (n : Nat) : List Byte := List.replicate n 0
/-! ### Management registers (R367, R406, R408) -/

/-- PWRSTAT and ENERGY (R377, Table 15.6): the average draw, which a power cap bounds (R16), and the energy since the cold reset. The
draw is a free value (DESIGN CHOICE, log 11). -/
def State.powerReg (s : State) (pk off : Nat) : W64 :=
  if s.clock pk = 0 then 0
  else if off = 0x68 then
    let cap := ((s.regs.get none (pk * 0x100000 + 0x60)).getD (regReset pk 0x60)).toNat % 16384
    let draw := (Config.freeAverage pk s.cyc).toNat
    BitVec.ofNat 64 (if cap = 0 then draw else min cap draw)
  else (List.range (s.clock pk)).foldl (fun e i => e + Config.freeEnergy pk (s.cyc - 1 - i)) 0

/-- A management register of package `pk`. -/
def State.reg (s : State) (pk off : Nat) : W64 :=
  if off = 0x68 ∨ off = 0x70 then s.powerReg pk off
  else (s.regs.get none (pk * 0x100000 + off)).getD (regReset pk off)
/-- The register holds `v` from now on. -/
def State.setReg (s : State) (pk off : Nat) (v : W64) : State :=
  { s with regs := s.regs.put none (pk * 0x100000 + off) (if v = regReset pk off then none else some v) }

/-- INSTAT.OPEN and SEALED (Table 7.3). -/
def State.open_ (s : State) (pk : Nat) : W32 := field (s.reg pk 0x11010) 0 32
def State.sealed (s : State) (pk : Nat) : W32 := field (s.reg pk 0x11010) 32 32
/-- INSTAT as it stood at the start of the cycle (R287). -/
def State.instatAt (s : State) (pk : Nat) : W64 :=
  let c := s.ms.instat.get (0, 0) pk
  if c.1 = s.cyc + 1 then c.2 else s.reg pk 0x11010
/-- The seal coordinator's record of a package. -/
def State.pav (s : State) (pk : Nat) : Pav := s.iv.get {} pk
def State.setPav (s : State) (pk : Nat) (p : Pav) : State := { s with iv := s.iv.put {} pk p }
/-- PVCFG.EN. -/
def State.enBit (s : State) (pk : Nat) : Bool := (s.reg pk 0x11000).getLsbD 0
/-- Intervals run on the package: PVCFG.EN = 1 and the first interval has begun (R149, R150; DEDUCED, log 38). -/
def State.pvEn (s : State) (pk : Nat) : Bool := s.enBit pk && (s.pav pk).started
/-- Interval `a` is at most `b` (R150). -/
def ivLe (a b : W32) : Bool := decide ((b - a).toNat < 2 ^ 31)
/-- The size of the scale-up domain (R372). -/
def State.domSize (s : State) (pk : Nat) : Nat := (field (s.reg pk 0x48) 1 13 : BitVec 13).toNat + 1

/-- ECNTn counts `k` more events, saturating (R406). -/
def State.count (s : State) (pk n k : Nat) : State :=
  let off := 0x16040 + 8 * n
  s.setReg pk off (BitVec.ofNat 64 (min 0xFFFFFFFF ((s.reg pk off).toNat + k)))

/-- A seal request is raised (R159); the seal coordinator takes it in a step of its own. -/
def State.raiseSeal (s : State) (pk : Nat) : State :=
  if s.pvEn pk then s.setPav pk { s.pav pk with req := true } else s

/-! ### Tokens -/

/-- RES of a payload: its residue modulo 15 (R57, R201). -/
def resOf (v : W32) : BitVec 4 := BitVec.ofNat 4 (v.toNat % 15)
/-- A data token. -/
def dataTok (v : W32) (seq : BitVec 8) : Token := { payload := v, seq := seq, res := resOf v }
/-- A control token: SEQ 0 (R59). -/
def ctlTok (v : W32) : Token := { payload := v, res := resOf v, k := true }
/-- The null completion (R29, R59). -/
def nullTok : Token := ctlTok 0x50000000
/-- The completion token of R261. -/
def doneTok (seq : BitVec 8) : Token := dataTok 1 seq
/-- The subtype of a control token (R59). -/
def Token.sub (t : Token) : Nat := t.payload.toNat / 0x10000000
/-- The token is a wavefront: subtype 0, 1 or 2 (Table 3.4). -/
def Token.wave (t : Token) : Bool := t.k && decide (t.sub ≤ 2)
/-- SWP, PLT, PSEL, PNL and PLF of a wavefront (R59). -/
def Token.swp (t : Token) : Bool := t.payload.getLsbD 2
def Token.plt (t : Token) : BitVec 2 := field t.payload 0 2
def Token.psel (t : Token) : Bool := t.payload.getLsbD 3
def Token.pnl (t : Token) : BitVec 4 := field t.payload 4 4
def Token.plf (t : Token) : BitVec 2 := field t.payload 8 2

/-- A wavefront with its plane resolved at an injection point (R69): PSEL is cleared. Any other token stays as it is. -/
def Token.resolve (t : Token) (pn : BitVec 16) : Token :=
  if t.wave && t.psel then
    let p := if pn.getLsbD t.pnl.toNat then t.plt else t.plf
    let v := (t.payload &&& 0xFFFFFFF4) ||| p.zeroExtend 32
    { t with payload := v, res := resOf v }
  else t

/-- A token as the number of Table 3.3, and back. -/
def tokNat (t : Token) : Nat :=
  t.payload.toNat + 2 ^ 32 * t.seq.toNat + 2 ^ 40 * t.res.toNat + 2 ^ 44 * t.rid.toNat
  + (if t.et then 2 ^ 50 else 0) + (if t.k then 2 ^ 51 else 0)
def tokOf (n : Nat) : Token :=
  { payload := BitVec.ofNat 32 n, seq := BitVec.ofNat 8 (n / 2 ^ 32), res := BitVec.ofNat 4 (n / 2 ^ 40),
    rid := BitVec.ofNat 6 (n / 2 ^ 44), et := decide (n / 2 ^ 50 % 2 = 1), k := decide (n / 2 ^ 51 % 2 = 1) }

/-! ### Emits in flight -/

/-- The order of two emits: by due cycle, by emitter (R50), for one emitter by the cycle of the firing (R261), then TGT1 ahead
of TGT2. Of two results of different firings that reach one local register in one cycle, the later-fired one therefore holds
(DESIGN CHOICE, log 76). -/
def Emit.before (a b : Emit) : Bool :=
  decide (a.due < b.due) || (decide (a.due = b.due) && (decide (a.ord < b.ord) || (decide (a.ord = b.ord) &&
    (decide (a.f < b.f) || (decide (a.f = b.f) && decide (a.k < b.k))))))
/-- An emit takes its place. -/
def insertEmit (e : Emit) : List Emit → List Emit
  | [] => [e]
  | x :: xs => if e.before x then e :: x :: xs else x :: insertEmit e xs

/-- An emit enters the pipeline of its hop. -/
def State.sendEmit (s : State) (e : Emit) : State := { s with fl := { s.fl with emits := insertEmit e s.fl.emits } }
/-- A hop under recovery takes a token of its source into its replay window: one that arrives meanwhile is discarded by the
receiver, and where no request stands yet its LSN raises one (R412, R413). -/
def Hop.take (h : Hop) (e : Emit) : Hop :=
  { h with win := insertEmit { e with sends := if e.due < h.from_ then e.sends else 0 } h.win, from_ := min h.from_ (e.due + 2) }
/-- An emit leaves its source. -/
def State.addEmit (s : State) (e : Emit) : State :=
  let e := { e with born := s.cyc }
  if s.fl.hops.any fun h => decide (h.src = e.src ∧ h.dst = e.dst) then
    { s with fl := { s.fl with hops := s.fl.hops.map fun h => if h.src = e.src ∧ h.dst = e.dst then h.take e else h } }
  else s.sendEmit e

/-- The numbers of sources that are not elements: stream port `p`; pass register `i` of stripe `st`. -/
def portSrc (p : Nat) : Nat := 2 ^ 40 + p
def passSrc (st i : Nat) : Nat := 2 ^ 41 + 16 * st + i
/-- The stripe of a source; a number of no stripe for a port. -/
def srcStripe (src : Nat) : Nat := if src < 2 ^ 40 then stOf src else if src < 2 ^ 41 then 2 ^ 40 else (src - 2 ^ 41) / 16

/-- Emits and reserved entries outstanding to a place (R202, R261). -/
def State.pending (s : State) (d : Dest) : Nat :=
  (s.fl.emits.filter (fun e => decide (e.dst = d))).length + (s.fl.resv.filter (fun r => decide (r.2 = d))).length
  + ((s.fl.hops.filter (fun h => decide (h.dst = d))).map fun h => h.win.length).sum

/-- The depth of a stream port (Table 3.6). -/
def Port.depth (p : Port) : Nat := 64 * (1 + (field p.cfg 0 6 : BitVec 6).toNat)

/-- Emits that enter a place at the end of cycle `due`. -/
def State.dueAt (s : State) (d : Dest) (due : Nat) : Nat := (s.fl.emits.filter fun e => decide (e.dst = d ∧ e.due = due)).length

/-- Free entries of a place, emits still pending counted as occupied (R50, R73, R78); an operand input takes four tokens in a cycle
(R298). -/
def State.roomIn (s : State) : Dest → Nat
  | .queue el q => 4 - (((s.elem el).queue q).length + s.pending (.queue el q))
  | .opq el => min (16 - ((s.mx el).opq.length + s.pending (.opq el))) (4 - s.dueAt (.opq el) s.cyc)
  | .pass st i => if ((s.stripe st).pass.get none i.toNat).isNone ∧ s.pending (.pass st i) = 0 then 1 else 0
  | .port p => (s.port p).depth - ((s.port p).fifo.length + s.pending (.port p))
  | _ => 4096
/-- A hop takes no new token from the cycle in which its source has the replay request until the one after its last
resend, nor with a full window (R412). -/
def Hop.shut (h : Hop) (cyc : Nat) : Bool := decide (h.from_ ≤ cyc + 1 ∨ 16 ≤ h.win.length)
/-- A place takes no new token while a hop into it, or out of it where it is a pass register, is shut (R412). -/
def State.room (s : State) (d : Dest) : Nat :=
  let out (h : Hop) : Bool := match d with | .pass st i => decide (h.src = passSrc st i.toNat) | _ => false
  if s.fl.hops.any fun h => (decide (h.dst = d) || out h) && h.shut s.cyc then 0 else s.roomIn d

/-- The codes whose DETAIL the specification names (R404, R423, R451, R455, R457); it is zero in every other record. -/
def namesDetail (c : BitVec 16) : Bool :=
  [1, 2, 4, 5, 7, 8, 9, 12, 13].contains (c.toNat / 4096) || decide (c = 0xE103 ∨ c = 0xE301 ∨ c = 0xE302)
/-- A fault condition of cycle `cyc` is detected: it waits for the fault handler (R404), with the time and the open interval. -/
def State.detectAt (s : State) (cyc pk : Nat) (own : Owner) (ord : Nat) (r : FaultRec) : State :=
  { s with det := s.det ++ [{ own := own, ord := ord, info :=
      { r with
        pkg := BitVec.ofNat 13 pk, cyc := BitVec.ofNat 64 cyc, open_ := s.open_ pk, detail := if namesDetail r.fcode then r.detail else 0 } }] }
/-- A fault condition of this cycle is detected. -/
def State.detect (s : State) (pk : Nat) (own : Owner) (ord : Nat) (r : FaultRec) : State := s.detectAt s.cyc pk own ord r

/-- A place in the PLACE format of Table 11.5. It numbers no matrix element: `mxj` stands as element j (DESIGN CHOICE, log 74). -/
def placeOf (el : Nat) : BitVec 17 :=
  let g := ringOf (stOf el) % 64
  BitVec.ofNat 17 (g / 4 + 16 * (g % 4) + 64 * (stOf el % 32) + 2048 * (eOf el % 64))

/-- The virtual stripe that a stripe holds: its window index, or what a scrolled placement runs there (R53, R474). -/
def State.virtOf (s : State) (st : Nat) : Nat :=
  let t := s.stripe st
  let r := s.region (t.rg.getD 0)
  if r.scroll.isSome then (r.wlcs.get {} t.ws).vs else t.ws
/-- Element order under R53: region, virtual stripe, element. The ring stands behind the region, for `ordBefore`. -/
def State.elOrd (s : State) (el : Nat) : Nat :=
  let st := stOf el
  ((((s.stripe st).rg.getD 0) * 64 + ringOf st % 64) * 4096 + s.virtOf st) * 128 + eOf el
/-- Element order of two elements of one package (R53): elements of different Figures by fabric die and compute ring, on one
ring by the Figure's number (DESIGN CHOICE, log 58). -/
def ordBefore (a b : Nat) : Bool :=
  let fg (x : Nat) : Nat := x / 2 ^ 31
  let ring (x : Nat) : Nat := x / 2 ^ 19 % 64
  if fg a = fg b then decide (a < b) else decide (ring a < ring b ∨ (ring a = ring b ∧ fg a < fg b))
/-- The place of an element's emits in the order of R50: behind the pass registers. -/
def State.elRank (s : State) (el : Nat) : Nat := 16 + s.elOrd el

/-- The slot at the firing's place meets a fault condition at point 0 in this cycle: no slot of the region fires
after it (R395). -/
def State.slotFault (s : State) (code : BitVec 16) (tier : BitVec 4) (detail : W32) : State :=
  let a := s.act
  let r := s.region a.rg
  (s.setRegion a.rg { r with stop := some (r.stop.getD s.cyc), drain := false }).detect (elPk a.el) (.figure (figOf a.rg)) (s.elOrd a.el)
    { fcode := code, tier := tier, point := 0, place := placeOf a.el, region := BitVec.ofNat 6 a.rg,
      pos := BitVec.ofNat 4 a.pos, plane := a.plane, detail := detail, iter := a.iter }

/-- A fault condition at an element that fires no slot: its region stops (R395). The record has the slot position and iteration
given. -/
def State.elFaultAt (s : State) (el : Nat) (code : BitVec 16) (tier : BitVec 4) (point : BitVec 3) (detail : W32) (pos : Nat) (iter : W64) : State :=
  let rg := (s.stripe (stOf el)).rg.getD 0
  let r := s.region rg
  (s.setRegion rg { r with stop := some (r.stop.getD s.cyc), drain := false }).detect (elPk el) (.figure (figOf rg)) (s.elOrd el)
    { fcode := code, tier := tier, point := point, place := placeOf el, region := BitVec.ofNat 6 rg, pos := BitVec.ofNat 4 pos, iter := iter,
      plane := if eOf el < 64 then (s.elem el).act else (s.mx el).act, detail := detail }
def State.elFault (s : State) (el : Nat) (code : BitVec 16) (tier : BitVec 4) (point : BitVec 3) (detail : W32) : State :=
  s.elFaultAt el code tier point detail 0 0

/-- Slots of the region may still fire in cycle `cyc` (R395): no condition or halt request stands before it. -/
def Region.fires (r : Region) (cyc : Nat) : Bool := r.live && (match r.stop with | none => true | some c => decide (cyc ≤ c))

/-- The stripe at window index `ws` of region `r`: wrapping within the ring, or running on to the next ring in a linked
window (R34). -/
def Region.stripeAt (r : Region) (ws : Nat) : Nat :=
  if r.link then r.ring * 32 + r.first + ws
  else r.ring * 32 + (r.first + ws) % 32

/-- A number for the hop from `src` to a place that hops serve (R410); `none` for lanes and places inside an element or
region. -/
def hopCode (src : Nat) : Dest → Option Nat
  | .queue el q => some (src * 2 ^ 40 + 8 * (4 * el + q.toNat))
  | .opq el => some (src * 2 ^ 40 + 8 * el + 1)
  | .pass st i => some (src * 2 ^ 40 + 8 * (16 * st + i.toNat) + 2)
  | .port p => some (src * 2 ^ 40 + 8 * p + 3)
  | _ => none

/-- The receiver of a hop accepts a token: it expects the next LSN (R410, R411; the rest of the sideband and the accepted sets: DESIGN
CHOICE, log 82). -/
def State.acceptHop (s : State) (e : Emit) : State :=
  match hopCode e.src e.dst with
  | none => s
  | some h => { s with fl := { s.fl with lsn := s.fl.lsn.put 0 h ((s.fl.lsn.get 0 h + 1) % 32) } }

/-- The fills of a region not yet made, on any ring. -/
def State.fillsOf (s : State) (rg : Nat) : List FillReq :=
  (s.fab.rings.map fun g => g.2.fills.filter fun f => decide (f.rg = rg)).flatten
/-- A fill of plane `p` of stripe `st` is queued or in progress. -/
def State.filling (s : State) (rg st : Nat) (p : BitVec 2) : Bool := (s.fillsOf rg).any fun f => decide (f.st = st ∧ f.p = p)
/-- Plane `p` of stripe `st` is filled: a swap to it need not wait (R71, R72). -/
def State.filled (s : State) (st : Nat) (p : BitVec 2) : Bool :=
  ((s.stripe st).planes.get {} p.toNat).valid && (match (s.stripe st).rg with | some rg => !(s.filling rg st p) | none => true)

/-- The owner of a program's fault conditions: the Figure of a stream that it serves (R396). -/
def State.baseOwner (s : State) (m : Nat) : Owner × Nat :=
  match s.fl.accs.find? fun p => decide (p.2.base = some (m / 64, m % 64)) with
  | some p => (.figure (figOf p.2.rg), p.2.rg)
  | none => (.none, 0)

/-- The address of place `n` of the park buffer behind group `g` (R36). -/
def Region.parkPA (r : Region) (g n : Nat) : Nat := let a := r.parkAllot.getD g { base := 0, len := 0 }; ringPA a.ring (a.base + 8 * n)
/-- A token of pass register `i` is written to the park buffer behind group `g` (R36), in cycle `at_`. -/
def State.parkToken (s : State) (rg : Nat) (sc : Scroll) (g i at_ : Nat) (t : Token) : State :=
  let r := s.region rg
  let n := sc.parked.get 0 g
  let k := n % (16 * sc.d)
  let sc' := { sc with park := sc.park.put [] g (sc.park.get [] g ++ [(i, at_, k)]), parked := sc.parked.put 0 g (n + 1) }
  (s.writeBytes (r.parkPA g k) (leBytes 8 (tokNat t))).setRegion rg { r with scroll := some sc' }
/-- The park buffer behind group `g` has room for a token. -/
def Scroll.parkRoom (sc : Scroll) (g : Nat) : Bool := decide ((sc.park.get [] g).length < 16 * sc.d)

/-- The number of a wavefront that a region drains for: its subtype, tag and SWP (R59, R68, R70). -/
def Token.waveKey (t : Token) : Nat := 2 * (t.sub * 4096 + t.payload.toNat / 65536 % 4096) + (if t.swp then 1 else 0)
/-- A wavefront has reached a sink, or passed an element on its way to one (R68). -/
def State.reachSink (s : State) (rg : Nat) (d : Dest) (t : Token) : State :=
  let r := s.region rg
  s.setRegion rg { r with sinks := r.sinks.put [] t.waveKey ((r.sinks.get [] t.waveKey).erase d) }

/-- One emit enters its place. A pass register of the last stripe of a window that is neither scrolled nor linked to
a further stripe raises 0x3007 and the token is discarded (R74); so does one of virtual stripe V − 1 of a scrolled placement, behind
which no park buffer lies (DESIGN CHOICE, log 77). -/
def State.deliver (s : State) (e : Emit) : State :=
  match e.dst with
  | .queue el q => let x := s.elem el; s.setElem el (x.setQueue q (x.queue q ++ [e.tok]))
  | .opq el => let x := s.mx el; s.setMx el { x with opq := x.opq ++ [e.tok] }
  | .kreg el i => s.setElem el ((s.elem el).setK i e.tok.payload e.tok.et)
  | .pass st i =>
    let t := s.stripe st
    let rg := t.rg.getD 0
    let r := s.region rg
    let unmapped (s : State) : State :=
      (s.setRegion rg { r with stop := some (r.stop.getD e.due), drain := false }).detectAt e.due (pkOf (ringOf st)) (.figure (figOf rg)) (s.elOrd e.src)
        { fcode := 0x3007, place := placeOf e.src, region := BitVec.ofNat 6 rg }
    match r.scroll with
    | none =>
      if t.rg.isSome ∧ t.ws + 1 = r.count then unmapped s
      else s.setStripe st { t with pass := t.pass.put none i.toNat (some e.tok) }
    | some sc =>
      -- a scrolled placement parks the tokens of a group's last virtual stripe (R36)
      let v := (r.wlcs.get {} t.ws).vs
      if v + 1 ≥ sc.v then unmapped s
      else if t.ws + 1 = r.count ∧ sc.parkRoom (v / r.count) then s.parkToken rg sc (v / r.count) i.toNat e.due e.tok
      else s.setStripe st { t with pass := t.pass.put none i.toNat (some e.tok) }
  | .lane st i =>
    let t := s.stripe st
    let r := s.region (t.rg.getD 0)
    -- the token stands at the next stripe of its direction in the next issuing cycle (R75, R76)
    if i.toNat < 16 then
      if t.ws + 1 < r.count then
        let st' := r.stripeAt (t.ws + 1)
        let t' := s.stripe st'
        s.setStripe st' { t' with lanes := t'.lanes.put none i.toNat (some (e.tok, false)) }
      else s
    else if t.ws = 0 then s
    else
      let st' := r.stripeAt (t.ws - 1)
      let t' := s.stripe st'
      s.setStripe st' { t' with lanes := t'.lanes.put none i.toNat (some (e.tok, false)) }
  | .port p =>
    let x := s.port p
    let s := s.setPort p { x with fifo := x.fifo ++ [e.tok] }
    -- a wavefront that enters an outbound port has reached that sink (R68)
    match x.rg, x.mem with
    | some rg, none => if x.cfg.getLsbD 23 ∧ e.tok.wave then s.reachSink rg (.port p) e.tok else s
    | _, _ => s
  | .pn rg i =>
    let r := s.region rg
    s.setRegion rg { r with pn := if e.tok.payload = 0 then r.pn &&& ~~~((1 : BitVec 16) <<< i.toNat) else r.pn ||| ((1 : BitVec 16) <<< i.toNat) }
  | .cr rg i =>
    let r := s.region rg
    if i = 0x008 then s.setRegion rg { r with brken := e.tok.payload.getLsbD 0 }
    else if i = 0x020 then s.setRegion rg { r with sperr := e.tok.payload }
    else s.setRegion rg { r with usr := r.usr.put 0 (i.toNat % 16) e.tok.payload }
  | .evmask el => let x := s.elem el; s.setElem el { x with evmask := field e.tok.payload 0 16 }

/-- Every emit due before cycle `now` enters its place, in order. -/
def deliverDue (now : Nat) : List Emit → State → State
  | [], s => { s with fl := { s.fl with emits := [] } }
  | e :: es, s => if e.due < now then deliverDue now es ((s.deliver e).acceptHop e) else { s with fl := { s.fl with emits := e :: es } }

/-- A hop over `dt` cycles: one that resends for want of acceptance counts no cycle in which its receiver has no space (R413). -/
def State.hopOver (s : State) (dt : Nat) (h : Hop) : Hop :=
  if h.slow && !h.win.isEmpty && decide (s.cyc < h.from_ ∧ s.roomIn h.dst = 0) then { h with from_ := h.from_ + dt } else h

/-- The control tokens with ET = 1 at the heads of queues and operand inputs of running regions, each with its element (R422). -/
def State.taintedHeads (s : State) : List (Nat × W32) :=
  let runs (el : Nat) : Bool := match (s.stripe (stOf el)).rg with | some rg => (s.region rg).live && (s.region rg).stop.isNone | none => false
  let bad (el : Nat) (l : List Token) : List (Nat × W32) := match l with
    | t :: _ => if t.k && t.et && runs el then [(el, t.payload)] else []
    | [] => []
  (s.fab.elems.map fun p => (p.2.q.map fun q => bad p.1 q.2).flatten).flatten ++ (s.fab.mxs.map fun p => bad p.1 p.2.opq).flatten
/-- Each of them raises 0xE104 (R422). -/
def State.headFaults (s : State) : State := s.taintedHeads.foldl (fun u p => u.elFault p.1 0xE104 2 0 p.2) s

/-- `dt` fabric cycles pass (DESIGN CHOICE, log 27). -/
def State.tick (s : State) (dt : Nat) : State :=
  let now := s.cyc + dt
  let hops := (s.fl.hops.map (s.hopOver dt)).filter fun h => decide (h.win ≠ [] ∨ now < h.from_)
  let t := deliverDue now s.fl.emits { s with cyc := now, fl := { s.fl with hops := hops } }
  if dt = 0 then t else t.headFaults

/-! ### The operands of a firing (R49, R199, R261) -/

/-- The operands taken by a firing: values, tokens (where a queue supplied them), the predicate of `qP`, the taint of
R419, and the first operand the operation does not accept. -/
structure Opn where
  a : W32 := 0
  b : W32 := 0
  x : W32 := 0
  lt : Option Token := none
  rt : Option Token := none
  xt : Option Token := none
  pred : Bool := true
  taint : Bool := false
  bad : Option (BitVec 16 × W32) := none
  deriving DecidableEq, Repr, Inhabited

/-- Which operands a firing takes: the left and right selectors where read, and whether `qX` is popped. -/
structure Takes where
  l : Option Src := none
  r : Option Src := none
  x : Bool := false
  deriving DecidableEq, Repr, Inhabited

/-- The plane record of the firing's element. -/
def State.elPlane (s : State) (el : Nat) (p : BitVec 2) : ElPlane :=
  (((s.stripe (stOf el)).planes.get {} p.toNat).els).get {} (eOf el)
/-- Constant register `i` of the firing's plane. -/
def State.creg (s : State) (i : BitVec 4) : W32 := (s.elPlane s.act.el s.act.plane).consts.get 0 i.toNat

/-- The head token of a queue that a slot can pop: a wavefront blocks the queue (R65). -/
def State.head (s : State) (el : Nat) (q : BitVec 2) : Option Token :=
  match (s.elem el).queue q with
  | [] => none
  | t :: _ => if t.wave then none else some t

/-- One operand: value, token and taint; `none` where it is not present. -/
def State.operand (s : State) (q : BitVec 2) (cidx : BitVec 4) : Src → Option (W32 × Option Token × Bool)
  | .pop | .peek => (s.head s.act.el q).map (fun t => (t.payload, some t, t.et))
  | .k i => let e := s.elem s.act.el; some (e.kreg i, none, e.kTaint.getLsbD i.toNat)
  | .c => some (s.creg cidx, none, false)

/-- An operand that the firing does not take. -/
def State.operandOpt (s : State) (q : BitVec 2) (cidx : BitVec 4) (o : Option Src) : Option (W32 × Option Token × Bool) :=
  match o with
  | none => some (0, none, false)
  | some src => s.operand q cidx src

/-- The control subtypes an operation accepts at an operand: 0 left, 1 right, 2 `qX`, 3 `qP` (R60, R199, R221, R250,
R261, R267, R268). -/
def slotAccepts (op : SlotOp) (side sub : Nat) : Bool :=
  match op, side with
  | _, 3 => decide (sub = 5)
  | .join, _ => decide (sub = 5)
  | .bdq, 0 => decide (sub = 3)
  | .spush, 0 => decide (sub = 3 ∨ sub = 5)
  | .fence, 0 => decide (sub = 5)
  | _, _ => false

/-- The fault of an operand token: 0xE104 where a control token carries ET (R422), 0x2001 where the operation does not
accept it (R199). -/
def operandFault (op : SlotOp) (side : Nat) (t : Option Token) : Option (BitVec 16 × W32) :=
  match t with
  | none => none
  | some t =>
    if t.k = false then none
    else if t.et then some (0xE104, t.payload)
    else if slotAccepts op side t.sub then none else some (0x2001, t.payload)

/-- The operands of a firing, where every one is present. -/
def State.gather (s : State) (op : SlotOp) (f : Slot) (t : Takes) : Option Opn :=
  match s.operandOpt 0 f.cidx t.l, s.operandOpt 1 f.cidx t.r,
    s.operandOpt 2 0 (if t.x then some .pop else none), s.operandOpt 3 0 (if f.pq then some .pop else none) with
  | some (a, lt, ta), some (b, rt, tb), some (x, xt, tx), some (p, pt, tp) =>
    some { a := a, b := b, x := x, lt := lt, rt := rt, xt := xt, pred := !f.pq || decide (p ≠ 0),
           taint := ta || tb || tx || tp,
           bad := (operandFault op 0 lt).orElse fun _ => (operandFault op 1 rt).orElse fun _ =>
             (operandFault op 2 xt).orElse fun _ => operandFault op 3 pt }
  | _, _, _, _ => none

/-- The queues a firing pops. -/
def Takes.pops (t : Takes) (f : Slot) : List (BitVec 2) :=
  (if t.l = some .pop then [0] else []) ++ (if t.r = some .pop then [1] else [])
  ++ (if t.x then [2] else []) ++ (if f.pq then [3] else [])

/-- Each listed queue loses its head. -/
def popAll (e : Elem) : List (BitVec 2) → Elem
  | [] => e
  | q :: qs => popAll (e.setQueue q (e.queue q).tail) qs

/-- The tokens that the pops take, each with its queue. -/
def poppedTokens (e : Elem) : List (BitVec 2) → List (BitVec 2 × Token)
  | [] => []
  | q :: qs => ((e.queue q).head?.toList.map fun t => (q, t)) ++ poppedTokens (e.setQueue q (e.queue q).tail) qs

/-- The listed queues of an element are popped; the element retains the tokens (R416). -/
def State.popQueues (s : State) (el : Nat) (qs : List (BitVec 2)) : State :=
  s.setElem el { popAll (s.elem el) qs with kept := poppedTokens (s.elem el) qs }

/-! ### Targets -/

/-- The ring whose stream ports and ring streams the region of a stripe uses: the one it is placed on (R178), which is the RING of a
linked window on every stripe of it (DEDUCED, log 92). -/
def State.homeRing (s : State) (st : Nat) : Nat :=
  match (s.stripe st).rg with
  | some rg => if (s.region rg).link then (s.region rg).ring else ringOf st
  | none => ringOf st
/-- The stream port that number `n` names at an element. -/
def State.portAt (s : State) (el n : Nat) : Nat := s.homeRing (stOf el) * 16 + n

/-- The place a target field of element `el` names (Table 8.2); `none` for kind 00. -/
def State.destOf (s : State) (el : Nat) : Target → Option Dest
  | .none => none
  | .queue q e => some (.queue (stOf el * 128 + e.toNat) q)
  | .kreg i => some (.kreg el i)
  | .preg i => some (.pass (stOf el) i)
  | .cw i => some (.lane (stOf el) (i.zeroExtend 5))
  | .ac i => some (.lane (stOf el) (i.zeroExtend 5 + 16))
  | .sp i => some (.port (s.portAt el i.toNat))
  | .mx i => some (.opq (stOf el * 128 + 64 + i.toNat))

/-- The listed writes fit: each place has room for its writes, counting the entries that the pops free (R50). -/
def State.fits (s : State) (dests : List Dest) (freed : List Dest) : Bool :=
  dests.all (fun d => decide ((dests.filter (fun x => decide (x = d))).length
    ≤ s.room d + (freed.filter (fun x => decide (x = d))).length))

/-- One result of a firing: the targets it goes to (0 every target, 1 TGT1, 2 TGT2) and its token. -/
structure Out where
  which : Nat := 0
  tok : Token
  deriving DecidableEq, Repr, Inhabited

/-- A token of a firing in cycle `f` leaves for a target, due at the end of cycle `due`: RID from the route table (R58), ET where tainted
(R419); a squashed slot's emit to a stream port does not take place (R29); a tainted value that meets a kind-00
target is dropped and counted (R420). -/
def State.emitTo (s : State) (el : Nat) (f due : Nat) (second : Bool) (t : Target) (rid : BitVec 6) (squash taint : Bool)
    (tok : Token) : State :=
  let tok := { tok with rid := rid, et := tok.et || taint }
  match s.destOf el t with
  | none => if tok.et then s.count (elPk el) 1 1 else s
  | some d =>
    match squash, d with
    | true, .port _ => s
    | _, _ => s.addEmit { due := due, ord := s.elRank el, src := el, dst := d, tok := tok, f := f, k := if second then 1 else 0 }

/-- The route entry of the firing's slot for a target (R58, R191). -/
def State.routeOf (s : State) (second : Bool) : BitVec 6 :=
  field (s.elPlane s.act.el s.act.plane).route (6 * (2 * s.act.pos + (if second then 1 else 0))) 6

/-- The return address of the firing's tokens. -/
def State.ret (s : State) (f : Slot) (taint : Bool) : Ret :=
  { el := s.act.el, f := s.cyc, t1 := f.t1, t2 := f.t2, r1 := s.routeOf false, r2 := s.routeOf true,
    seq := if s.act.event then 0 else field s.act.iter 0 8, taint := taint, squash := s.act.squash }

/-- SEQ of the firing's data tokens (R61). -/
def State.seqOf (s : State) : BitVec 8 := if s.act.event then 0 else field s.act.iter 0 8

/-- Both target fields name one local register. -/
def Ret.oneReg (r : Ret) : Bool := match r.t1 with | .kreg _ => decide (r.t1 = r.t2) | _ => false
/-- A result goes to its targets; one local register named twice is written once (R51). -/
def State.emitRet (s : State) (r : Ret) (due : Nat) (o : Out) : State :=
  let s := if o.which = 2 then s else s.emitTo r.el r.f due false r.t1 r.r1 r.squash r.taint o.tok
  if o.which = 1 ∨ (o.which = 0 ∧ r.oneReg) then s else s.emitTo r.el r.f due true r.t2 r.r2 r.squash r.taint o.tok

/-- The results of a firing go to their targets. Where both fields name one local register, it is written once (R51); which of two
results it takes is a free value (DESIGN CHOICE, log 9). -/
def State.emitAll (s : State) (r : Ret) (due : Nat) : List Out → State
  | [] => s
  | [o] => s.emitRet r due o
  | o :: p :: os =>
    if r.oneReg ∧ o.which ≠ p.which then ({ s with free := s.free + 1 }).emitRet r due (if Config.freeFirst s.free then o else p)
    else ((s.emitRet r due o).emitRet r due p).emitAll r due os
/-- The return address of an operation whose two results come at different times (R51): one of them goes to a local register
that both target fields name (DESIGN CHOICE, log 9). -/
def Ret.once (r : Ret) (first : Bool) : Ret := if r.oneReg then (if first then { r with t2 := .none } else { r with t1 := .none }) else r

/-- The targets that a list of results writes. -/
def State.outDests (s : State) (el : Nat) (f : Slot) (w1 w2 : Bool) : List Dest :=
  (if w1 then (s.destOf el f.t1).toList else []) ++ (if w2 then (s.destOf el f.t2).toList else [])

/-- One entry is reserved at each target for an operation whose tokens come later (R261). -/
def State.reserve (s : State) (op : Nat) (ds : List Dest) : State :=
  { s with fl := { s.fl with resv := s.fl.resv ++ ds.map (fun d => (op, d)) } }
/-- An operation's reserved entries are given up. -/
def State.unreserve (s : State) (op : Nat) : State :=
  { s with fl := { s.fl with resv := s.fl.resv.filter (fun r => decide (r.1 ≠ op)) } }

/-- The first cycle, from now on, in which the operand inputs among the targets take the tokens: each takes four in a cycle
(R298). -/
def State.opqCycle (s : State) (r : Ret) : Nat :=
  let ds := ((s.destOf r.el r.t1).toList ++ (s.destOf r.el r.t2).toList).filter fun d => match d with | .opq _ => true | _ => false
  s.cyc + ((List.range 64).find? fun k => ds.all fun d => decide (s.dueAt d (s.cyc + k) + (ds.filter fun x => decide (x = d)).length ≤ 4)).getD 0
/-- An operation's moment comes: its reserved entries are used by the tokens emitted in this cycle (R261). -/
def State.complete (s : State) (op : Nat) (r : Ret) (outs : List Out) : State :=
  (s.unreserve op).emitAll r (s.opqCycle r) outs

end Sys2Proof.Machine
end

