-- ==== Sys2Proof/Machine/Operands.lean ====
section
/-! DEFINITION. Every operand form of a slot word and the one skeleton of a firing: which operands a firing takes (R49, R199, R217 to R228, R250), which targets it writes (R203), when it must wait, the sequence check (R62, R423), the false predicate (R200), and the emission of its results. -/
namespace Sys2Proof.Machine
open Sys2Proof

/-! ### Ring streams as the instructions see them -/

/-- A configuration write (Table 11.3). Writing CTL resets the pattern position (R271). -/
def Strm.write (t : Strm) (fld : BitVec 4) (v : W32) : Strm :=
  match fld.toNat with
  | 0 => { t with base := field t.base 32 32 ++ v }
  | 1 => { t with base := v ++ field t.base 0 32 }
  | 2 => { t with ext := t.ext.put 0 0 v }
  | 3 => { t with str := t.str.put 0 0 v }
  | 4 => { t with ext := t.ext.put 0 1 v }
  | 5 => { t with str := t.str.put 0 1 v }
  | 6 => { t with ext := t.ext.put 0 2 v }
  | 7 => { t with str := t.str.put 0 2 v }
  | _ => { t with ctl := v, i0 := 0, i1 := 0, i2 := 0 }

/-- LOG2ESZ, DIR, MODE, PART and BSP of a stream's CTL. -/
def Strm.log2esz (t : Strm) : Nat := (field t.ctl 0 3 : BitVec 3).toNat
def Strm.isStore (t : Strm) : Bool := t.ctl.getLsbD 3
def Strm.mode (t : Strm) : BitVec 2 := field t.ctl 4 2
def Strm.part (t : Strm) : Nat := (field t.ctl 6 3 : BitVec 3).toNat
def Strm.bsp (t : Strm) : Nat := (field t.ctl 9 6 : BitVec 6).toNat
def Strm.esz (t : Strm) : Nat := 2 ^ t.log2esz

/-- CTL as it will stand behind the configuration writes still in the stream's order. -/
def ctlBehind (c : W32) : List SOp → W32
  | [] => c
  | .cfg 8 v _ _ :: q => ctlBehind v q
  | _ :: q => ctlBehind c q
/-- The access size that an access issued now will have. -/
def Strm.eszBehind (t : Strm) : Nat := 2 ^ (field (ctlBehind t.ctl t.q) 0 3 : BitVec 3).toNat

/-- The ring stream an access word or stream word of the firing names. -/
def State.rsOf (s : State) (w : W32) : Nat := s.homeRing (stOf s.act.el) * 32 + w.toNat % 32

/-- Accesses of a stream not yet bound or performed, issued or not (R274). -/
def State.inFlight (s : State) (rs : Nat) : Nat :=
  ((s.strm rs).q.filter fun o => o.access.isSome).length
  + (s.fl.accs.filter fun p => decide (p.2.rs = some rs)).length

/-- The access word of a memory instruction is its right operand; ill-formed words raise 0x4009 (R271), and a ring
stream outside the region's mask does too. -/
def State.wordFault (s : State) (w : W32) (atomic : Bool) : Bool :=
  decide (w.toNat / 32 % 8 ≠ 0) || decide (w.toNat / 8192 ≠ 0)
  || (!atomic && decide (w.toNat / 256 % 32 ≠ 0))
  || !((s.region s.act.rg).rsmask.getLsbD (w.toNat % 32))

/-! ### Reductions (R251 to R257) -/

/-- The combine function of a reduction: 0 `radd`, 1 `rmax`, 2 `rmin`. -/
def combine (kind : Nat) (m : BitVec 4) (v w : W32) : W32 :=
  if m.getLsbD 2 then
    let a := signed 32 v.toNat
    let b := signed 32 w.toNat
    if kind = 0 then v + w else if kind = 1 then (if a ≥ b then v else w) else if a ≤ b then v else w
  else if kind = 0 then fword (mlo m).toNat (fsum (mlo m).toNat [fval v, fval w])
  else BitVec.ofNat 32 (fminmax fp32 (decide (kind = 1)) v.toNat w.toNat)

/-- The identity of a reduction without leaves (R98). -/
def redIdentity (kind : Nat) (m : BitVec 4) : W32 :=
  if m.getLsbD 2 then (if kind = 0 then 0 else if kind = 1 then 0x80000000 else 0x7FFFFFFF)
  else if kind = 0 then 0 else if kind = 1 then 0xFF800000 else 0x7F800000

/-- What a reduction firing does: emit a value after `c` combines, keep it in the hold store, or break R257. -/
inductive RedRes where
  | emit (v : W32) (taint : Bool) (c : Nat) (store : List HoldEnt)
  | insert (c : Nat) (store : List HoldEnt)
  | breach (code : BitVec 16)
  deriving DecidableEq, Repr, Inhabited

/-- The entry of an element at a position. -/
def holdFind (st : List HoldEnt) (el l j : Nat) : Option HoldEnt :=
  st.find? fun h => decide (h.el = el) && !h.fast && decide (h.l = l) && decide (h.j = j)
def holdDrop (st : List HoldEnt) (el l j : Nat) : List HoldEnt :=
  st.filter fun h => !(decide (h.el = el) && !h.fast && decide (h.l = l) && decide (h.j = j))

/-- The loop of R254; level 32 is a fault (R257). -/
def redLoop (kind : Nat) (m : BitVec 4) (el : Nat) : Nat → List HoldEnt → Nat → Nat → Bool → W32 → Bool → Nat → RedRes
  | 0, _, _, _, _, _, _, _ => .breach 0x2007
  | fuel + 1, st, l, j, last, v, tn, c =>
    if l ≥ 32 then .breach 0x2007
    else if j = 0 ∧ last then .emit v tn c st
    else if j % 2 = 0 ∧ last then redLoop kind m el fuel st (l + 1) (j / 2) last v tn c
    else
      match holdFind st el l (if j % 2 = 0 then j + 1 else j - 1) with
      | some h =>
        let w := if j % 2 = 0 then combine kind m v h.val else combine kind m h.val v
        redLoop kind m el fuel (holdDrop st el l h.j) (l + 1) (j / 2) (if j % 2 = 0 then h.last else last) w (tn || h.taint) (c + 1)
      | none =>
        if (holdFind st el l j).isSome then .breach 0x2006
        else if st.length ≥ 256 then .breach 0x2005
        else .insert c (st ++ [{ el := el, l := l, j := j, last := last, val := v, taint := tn }])

/-- One firing of a reduction slot on its stripe's hold store. A sole leaf is emitted as it is, a NaN of `rmax` or `rmin` too
(R98, R254, R255; DEDUCED, log 59). -/
def redStep (kind : Nat) (m : BitVec 4) (el : Nat) (st : List HoldEnt) (v b : W32) (tn : Bool) : RedRes :=
  let last := b.getLsbD 0
  let empty := b.getLsbD 1
  if last ∧ empty then .breach 0x2004
  else if empty then .emit (redIdentity kind m) tn 0 st
  else if m.getLsbD 3 then redLoop kind m el 34 st (b.toNat / 4 % 32) (b.toNat / 128) last v tn 0
  else
    match st.find? fun h => decide (h.el = el) && h.fast with
    | none =>
      if last then .emit v tn 0 st
      else if st.length ≥ 256 then .breach 0x2005
      else .insert 0 (st ++ [{ el := el, fast := true, val := v, taint := tn }])
    | some h =>
      let st' := st.filter fun h => !(decide (h.el = el) && h.fast)
      let w := combine kind m h.val v
      if last then .emit w (tn || h.taint) 0 st' else .insert 0 (st' ++ [{ el := el, fast := true, val := w, taint := tn || h.taint }])

/-- The reduction kind of an operation. -/
def redKind (op : SlotOp) : Option Nat :=
  match op with
  | .radd => some 0
  | .rmax => some 1
  | .rmin => some 2
  | _ => none

/-! ### Which operands a firing takes -/

/-- The operands an operation takes in this cycle. `merge` takes only the operand its decider chooses (R219); `inv`
pops its held value only on a false decider (R220); the loop generators pop the bound only when it is released. -/
def slotTakes (op : SlotOp) (f : Slot) (s : State) : Takes :=
  let dec : Bool := match s.operand 1 f.cidx f.r with | some (v, _, _) => decide (v ≠ 0) | none => true
  match op with
  | .merge =>
    let d : Bool := match s.head s.act.el 2 with | some t => decide (t.payload ≠ 0) | none => true
    { l := if d then some f.l else none, r := if d then none else some f.r, x := true }
  | .inv => { l := some (if f.l = .pop ∧ dec then .peek else f.l), r := some f.r }
  | .loopgen | .loopgen2 =>
    let kv : W32 := match s.operand 1 f.cidx f.r with | some (v, _, _) => v | none => 0
    let nb : W32 := match s.head s.act.el 0 with | some t => t.payload | none => 0
    let done := match op with
      | .loopgen => (loopgenStep (f.mod.getLsbD 2) nb kv).2.2.2
      | _ => (loopgen2Step nb kv).2.2.2
    { l := some (if done then .pop else .peek), r := some f.r }
  | .cnt => { l := some f.l, r := some f.r, x := f.mod.getLsbD 0 }
  | .join => { l := some f.l, r := some f.r, x := f.mod.getLsbD 0 }
  | .atom | .red =>
    let w : W32 := match s.operand 1 f.cidx f.r with | some (v, _, _) => v | none => 0
    { l := some f.l, r := some f.r, x := w.getLsbD 12 }
  | .pack => { l := some f.l, r := some f.r, x := decide (mlo f.mod ≠ 0) }
  | .rmaxsc => { l := some f.l, r := some f.r }
  | .bdq => { r := some f.r }
  | _ => { l := if op.readsL f.mod then some f.l else none, r := if op.readsR f.mod then some f.r else none,
           x := op.readsX f.mod }

/-- The scale headers standing ahead of a queue's data token: the newest header, how many, and the rest. -/
def scaleHeads : List Token → Option Token × Nat × List Token
  | [] => (none, 0, [])
  | t :: ts =>
    if t.k ∧ t.sub = 3 then
      let (h, n, r) := scaleHeads ts
      (some (h.getD t), n + 1, r)
    else (none, 0, t :: ts)

/-- The inbound port that `spop` names. -/
def State.portOf (s : State) (m : BitVec 4) : Nat := s.portAt s.act.el m.toNat

/-- The operands of a firing and the queues it pops, where every operand is present. -/
def slotPlan (op : SlotOp) (f : Slot) (s : State) : Option (Opn × List (BitVec 2)) :=
  let t := slotTakes op f s
  match s.gather op f t with
  | none => none
  | some o =>
    match op with
    | .bdq =>
      let (h, n, rest) := scaleHeads ((s.elem s.act.el).queue 0)
      match rest with
      | [] => none
      | d :: _ =>
        if d.wave then none
        else some ({ o with a := d.payload, lt := some d, taint := o.taint || d.et || (match h with | some x => x.et | none => false),
                            x := match h with | some x => x.payload | none => o.b,
                            bad := o.bad.orElse fun _ => (operandFault op 0 h).orElse fun _ => operandFault .add 0 (some d) },
                   List.replicate (n + (if f.l = .pop then 1 else 0)) 0 ++ t.pops f)
    | .spop =>
      match (s.port (s.portOf f.mod)).fifo with
      | [] => none
      | d :: _ => if d.wave then none else some ({ o with lt := some d, a := d.payload, taint := o.taint || d.et }, t.pops f)
    | _ => some (o, t.pops f)

/-- Entry c of a channel table (Table 3.2). -/
def chEntry (p : ElPlane) (c : Nat) : BitVec 16 := field p.seqb (16 * c) 16
def chFirst (v : BitVec 16) : Nat := v.toNat % 16
def chLast (v : BitVec 16) : Nat := v.toNat / 16 % 16
def chPrio (v : BitVec 16) : Nat := v.toNat / 256 % 8
def chEn (v : BitVec 16) : Bool := v.getLsbD 11
def chTq (v : BitVec 16) : BitVec 2 := field v 12 2

/-! ### The slot words of a plane -/

/-- The decoded nonzero slot words of an element in a plane, by position. -/
def State.planeSlots (s : State) (el : Nat) (p : BitVec 2) : List (Nat × SlotOp × Slot) :=
  (s.elPlane el p).words.filterMap fun w =>
    match decodeSlot w.2 with
    | .ok i => i.slot?.map fun x => (w.1, x)
    | .error _ => none
/-- The slot words that count for a wavefront (R64): of an event-mode plane, those of the enabled channels. -/
def State.waveSlots (s : State) (el : Nat) (p : BitVec 2) : List (Nat × SlotOp × Slot) :=
  let pl := s.elPlane el p
  let used (pos : Nat) : Bool := (List.range 16).any fun c => let v := chEntry pl c; chEn v && decide (chFirst v ≤ pos ∧ pos ≤ chLast v)
  if ((s.stripe (stOf el)).planes.get {} p.toNat).event then (s.planeSlots el p).filter fun w => used w.1 else s.planeSlots el p

/-- The inbound port that a slot word pops (R64, R267). -/
def State.slotPorts (s : State) (el : Nat) (op : SlotOp) (f : Slot) : List Dest :=
  match op with
  | .spop => [.port (s.portAt el f.mod.toNat)]
  | _ => []

/-- A slot word pops `qX`, whatever its operands, where `word` is the access word of an `atom` or `red` (R275). -/
def popsX (word : W32) (op : SlotOp) (f : Slot) : Bool :=
  match op with
  | .merge => true
  | .cnt | .join => f.mod.getLsbD 0
  | .atom | .red => word.getLsbD 12
  | .pack => decide (mlo f.mod ≠ 0)
  | .rmaxsc | .bdq => false
  | _ => op.readsX f.mod

/-- The queues that a slot word pops, whatever its operands (R64). The index of an `atom` or `red` is popped where the
access word, a constant or a local register, asks for it; a word from `qR` may ask for it (DEDUCED, log 78). -/
def slotPops (s : State) (el : Nat) (p : BitVec 2) (op : SlotOp) (f : Slot) : List (BitVec 2) :=
  let word : W32 := match f.r with
    | .c => (s.elPlane el p).consts.get 0 f.cidx.toNat
    | .k i => (s.elem el).kreg i
    | _ => 4096
  let x : Bool := popsX word op f
  let l : Bool := match op with
    | .loopgen | .loopgen2 | .bdq => true
    | _ => op.readsL f.mod && decide (f.l = .pop)
  (if l then [0] else []) ++ (if op.readsR f.mod && decide (f.r = .pop) then [1] else [])
  ++ (if x then [2] else []) ++ (if f.pq then [3] else [])

/-- The list without repeated places. -/
def distinctP : List Dest → List Dest
  | [] => []
  | d :: ds => if ds.contains d then distinctP ds else d :: distinctP ds

/-- The input set of an element for a list of planes (R64): queues, and the inbound ports of `spop` (R267). -/
def State.inputSet (s : State) (el : Nat) (ps : List (BitVec 2)) : List Dest :=
  distinctP ((ps.map fun p => ((s.waveSlots el p).map fun w =>
    (slotPops s el p w.2.1 w.2.2).map (fun q => Dest.queue el q) ++ s.slotPorts el w.2.1 w.2.2).flatten).flatten)

/-- The token at the head of an input. -/
def State.headAt (s : State) : Dest → Option Token
  | .queue el q => ((s.elem el).queue q).head?
  | .port p => (s.port p).fifo.head?
  | _ => none

/-- The wavefront that an element is to pass on, with the inputs that it is removed from (R64, R65): the oldest one that the Reel
delivered, or one with a token of its subtype at the head of every input. An element without inputs passes on one that a
`ctok` has sent to any queue of it. -/
def State.waveAt (s : State) (el : Nat) : Option (Token × List Dest) :=
  let x := s.elem el
  let at_ (d : Dest) : Option Token := (s.headAt d).filter Token.wave
  match x.waves with
  | t :: _ => some (t, [])
  | [] =>
    let from_ (d : Dest) : Option (Token × List Dest) :=
      match at_ d with
      | none => none
      | some t =>
        let set := s.inputSet el ((if x.av then [x.act] else []) ++ (if t.swp then [t.plt] else []))
        let ins := if set.isEmpty then (match d with | .queue .. => [d] | _ => []) else set
        if ins.contains d && ins.all (fun e => match at_ e with | some u => decide (u.sub = t.sub) | none => false) then some (t, ins) else none
    (((List.range 4).map fun q => Dest.queue el (BitVec.ofNat 2 q)) ++ (List.range 16).map fun n => Dest.port (s.portAt el n)).findSome? from_

/-- The firing of a handler's slot at a position: its place, and the region of its stripe or of the Figure that a base node
serves. -/
def State.slotAct (s : State) (el pos : Nat) : Act :=
  let st := stOf el
  let rg := if baseRing ≤ ringOf st then (s.baseOwner (ringOf st - baseRing)).2 else (s.stripe st).rg.getD 0
  { el := el, rg := rg, plane := (s.elem el).act, pos := pos, event := true }

/-! ### Which targets a firing writes (R203) -/

/-- The words a store of this size collects; the last one issues the access (R273). -/
def lastWord (e : Elem) (strm esz : Nat) : Bool := decide (esz ≤ 4 ∨ (e.part.get [] strm).length + 1 ≥ esz / 4)

/-- An instruction whose effect reaches beyond the window (R29, R421). -/
def slotExternal (op : SlotOp) : Bool :=
  match op with
  | .ldb | .stb | .cbputOpen | .cbputWord | .cbgetOpen | .cbgetWord | .agen | .ldg | .stg | .ldgx | .stgx | .pfg
  | .atom | .cas | .red | .fence | .sbar | .xreq | .lrflush | .publish | .secw | .secwSet | .crd | .msend | .mword
  | .sealreq | .wrcr | .evc | .trap | .brk | .halt | .pset => true
  | _ => false

/-- The effect beyond the window is suppressed: a squashed firing (R29), or a tainted one (R421). -/
def slotQuiet (op : SlotOp) (o : Opn) (s : State) : Bool := s.act.squash || (slotExternal op && o.taint)

/-- TGT1 and TGT2 are written by this firing; of the instructions of R203 one with a false predicate writes neither (R200). -/
def slotWrites (op : SlotOp) (f : Slot) (o : Opn) (s : State) : Bool × Bool :=
  let e := s.elem s.act.el
  match op with
  | .steer => (o.pred && decide (o.b ≠ 0), o.pred && decide (o.b = 0))
  | .gate => (o.pred && decide (o.b ≠ 0), o.pred && decide (o.b ≠ 0))
  | .loopgen => (o.pred && (loopgenStep (f.mod.getLsbD 2) o.a o.b).1.isSome, o.pred)
  | .loopgen2 => (o.pred && (loopgen2Step o.a o.b).1.isSome, o.pred)
  | .radd | .rmax | .rmin =>
    match redStep ((redKind op).getD 0) f.mod s.act.el (s.stripe (stOf s.act.el)).hold o.a o.b false with
    | .emit .. => (true, true)
    | _ => (false, false)
  | .bq => (false, false)
  | .stg | .stgx => let b := lastWord e (o.b.toNat % 32) (s.strm (s.rsOf o.b)).eszBehind; (b, b)
  | .xreq => let b := decide ((e.pkt.get [] (f.mod.toNat % 8)).length = 7); (b, b)
  | .cbputWord =>
    let b := match e.noPut, e.put with
      | some n, p => if slotQuiet op o s || p.isNone then decide (n ≤ 1) else match p with | some p => decide (p.done + 1 ≥ (p.len + 3) / 4) | none => false
      | none, some p => decide (p.done + 1 ≥ (p.len + 3) / 4)
      | none, none => false
    (b, b)
  | .cbputOpen => (false, false)
  | _ => (true, true)

/-- The places that a firing writes: targets, and the port of `spush` (R268); a squashed one writes no port (R29). -/
def firingDests (op : SlotOp) (f : Slot) (o : Opn) (s : State) : List Dest :=
  let w := slotWrites op f o s
  let ds := s.outDests s.act.el f w.1 w.2 ++ (match op with | .spush => [.port (s.portOf f.mod)] | _ => [])
  if s.act.squash then ds.filter fun d => match d with | .port _ => false | _ => true else ds
/-- The ring stream into whose order a firing puts an access (R274). -/
def firingStream (op : SlotOp) (f : Slot) (o : Opn) (s : State) : Option Nat :=
  match op with
  | .ldg | .ldgx | .pfg | .atom | .red | .cas => if slotQuiet op o s then none else some (s.rsOf o.b)
  | .stg | .stgx => if slotQuiet op o s || !(slotWrites op f o s).1 then none else some (s.rsOf o.b)
  | _ => none

/-! ### What else a firing waits for -/

/-- Waits of `secw` and `crd` that an element holds (R283). -/
def State.waitsOf (s : State) (el : Nat) : Nat :=
  (s.fl.waits.filter fun p => decide (p.2.ret.el = el) &&
    (match p.2.kind with | .secw .. => true | .crd .. => true | _ => false)).length

/-- A packet of the element waits for acceptance at the port (R279). -/
def State.packetWaits (s : State) (el tp : Nat) : Bool :=
  s.fl.waits.any fun p => match p.2.kind with | .packet t e _ => decide (t = tp ∧ e = el) | _ => false

/-- The transfer port that `xreq` names: memory-port die f or f − 1 of the element's package (R279). -/
def State.xport (s : State) (m : BitVec 4) : Nat :=
  let ring := ringOf (stOf s.act.el)
  let f := dieOf ring
  let die := if m.getLsbD 2 then f else (f + 15) % 16
  (pkOf ring * 16 + die) * 4 + m.toNat % 4

/-- Every other condition a firing waits for: room in a stream (R274), a free wait (R283), an accepted packet
(R279), an open or placed put, a delivered get (R269, R270), a free quantiser entry (R247) and the reductions' interval
(R254). A squashed firing waits for none of what lies outside the element (R292). R56 has a started handler never stall and gives
none of these conditions to a runnable channel: the slot of a handler that meets one waits (DESIGN CHOICE, log 79). -/
def slotClear (op : SlotOp) (f : Slot) (o : Opn) (s : State) : Bool :=
  let el := s.act.el
  let e := s.elem el
  match op with
  | .ldg | .ldgx | .stg | .stgx | .pfg | .atom | .red | .cas =>
    match firingStream op f o s with | some rs => decide (s.inFlight rs < 64) | none => true
  | .secw | .crd => slotQuiet op o s || decide (s.waitsOf el < 4)
  | .xreq => s.act.squash || !(s.packetWaits el (s.xport f.mod))
  | .cbputOpen => s.act.squash || e.put.isNone
  | .cbputWord => s.act.squash || (match e.put with | some p => p.placed | none => true)
  | .cbgetOpen => s.act.squash || e.get.isNone
  | .cbgetWord => s.act.squash || (match e.get with | some p => p.placed | none => true)
  | .bq => decide (e.quant.vals.length + (e.quant.out.map QTok.frees).sum < 32)
  | .radd | .rmax | .rmin => decide (e.redHold ≤ s.cyc)
  | _ => true

/-- The element can fire in this cycle: it has an active plane (R54), has not fired in the cycle (R52), no retry holds
it (R416), no wavefront waits to pass it (R65) unless a handler runs (R56), and its region has not stopped. -/
def State.canFire (s : State) : Bool :=
  let e := s.elem s.act.el
  e.av && decide (e.fired ≠ s.cyc + 1) && decide (e.hold ≤ s.cyc) && ((s.act.event && e.run.isSome) || (s.waveAt s.act.el).isNone) && s.ringUp (ringOf (stOf s.act.el))
  && (match (s.region s.act.rg).stop with
      | none => true
      | some c => decide (s.cyc ≤ c) || ((s.region s.act.rg).drain && s.act.event && (s.elem s.act.el).run.isSome))

/-- The first list without one entry for each place of the second. -/
def lessPlaces : List Dest → List Dest → List Dest
  | ds, [] => ds
  | ds, r :: rs => lessPlaces (ds.erase r) rs
/-- The entries that the running handler of the firing's element holds for its emits (R56). -/
def State.handlerResv (s : State) : List Dest :=
  match s.act.event, (s.elem s.act.el).run with
  | true, some h => (s.fl.resv.filter fun r => decide (r.1 = h.op)).map Prod.snd
  | _, _ => []

/-- The firing's operands and pops, where the slot can fire: operands present, space at the targets it writes, and
nothing else to wait for (R26, R56). A granted firing has had its space tested with its whole slot index, and a handler
holds entries for its emits. -/
def slotReady (op : SlotOp) (f : Slot) (s : State) : Option (Opn × List (BitVec 2)) :=
  if s.canFire then
    match slotPlan op f s with
    | none => none
    | some (o, ps) =>
      if slotClear op f o s && (s.act.granted ||
          s.fits (lessPlaces (firingDests op f o s) s.handlerResv) (ps.map (fun q => .queue s.act.el q)))
      then some (o, ps) else none
  else none

/-- The sequence check (R62, R423): the offending tag and the expected one, of the token popped from `qL`, else of the one
popped from `qR`. -/
def sqFault (s : State) (f : Slot) (o : Opn) (ps : List (BitVec 2)) : Option W32 :=
  if f.sq then
    let (t, q) := if ps.contains 0 then (o.lt, 0) else if ps.contains 1 then (o.rt, 1) else (none, 0)
    match t with
    | none => none
    | some t =>
      let sqd := (s.elPlane s.act.el s.act.plane).sqd
      let want : BitVec 8 := field (s.act.iter - (sqd.extractLsb' (2 * q) 2).zeroExtend 64) 0 8
      if t.et ∨ t.seq = want then none else some (BitVec.ofNat 32 (t.seq.toNat * 256 + want.toNat))
  else none

/-- What a body gives: its results with their latency, the state after its effects, or a fault condition that stops
the firing before any effect. -/
structure Fired where
  st : State
  outs : List Out := []
  lat : Nat := 1
  breach : Option (BitVec 16 × W32) := none
  deriving DecidableEq, Repr, Inhabited

/-- A handler gives up one reserved entry for each of the places (R56). -/
def State.spend (s : State) (op : Nat) : List Dest → State
  | [] => s
  | d :: ds => ({ s with fl := { s.fl with resv := s.fl.resv.erase (op, d) } }).spend op ds
/-- The element has fired in this cycle; a running handler moves to its next slot (R52, R56), its last one gives up what the
handler still holds. -/
def State.markFired (s : State) (ds : List Dest) : State :=
  let e := s.elem s.act.el
  let go (run : Option Handler) (t : State) : State := t.setElem s.act.el { e with fired := s.cyc + 1, firing := (s.act.pos, s.act.iter), run := run }
  match s.act.event, e.run with
  | true, some h => if h.pos = h.last then go none (s.unreserve h.op) else go (some { h with pos := h.pos + 1 }) (s.spend h.op ds)
  | _, r => go r s

/-- A step (R460): the first cycle in which a slot of the Figure fires is treated as a break. -/
def State.stepBreak (s : State) : State :=
  let fg := figOf s.act.rg
  let x := s.fig fg
  match x.stepping with
  | none => s
  | some v => if v = 0 ∨ v = s.cyc + 1 then (s.setFig fg { x with stepping := some (s.cyc + 1) }).slotFault 0xD003 4 0 else s

/-- How many tainted tokens a firing pops from the queues listed (R420). -/
def taintedPops (s : State) (ps : List (BitVec 2)) : Nat := ((poppedTokens (s.elem s.act.el) ps).filter fun t => t.2.et).length

/-- The firing of a slot that is ready: fault conditions first, then the pops, then (on a true predicate) the effect
and the results (R200, R201, R395, R421). -/
def slotFire (op : SlotOp) (f : Slot) (s : State) (o : Opn) (ps : List (BitVec 2)) (body : Opn → State → Fired) : State :=
  match o.bad with
  | some (c, d) => s.slotFault c (if c = 0xE104 then 2 else 4) d
  | none =>
    match sqFault s f o ps with
    | some d => s.slotFault 0xE103 2 d
    | none =>
      let s1 := (s.popQueues s.act.el ps).markFired (firingDests op f o s)
      let s1 := if s.act.squash && o.taint then s1.count (elPk s.act.el) 1 (taintedPops s ps) else s1
      if o.pred then
        let r := body o s1
        match r.breach with
        | some (c, d) => s.slotFault c 4 d
        | none =>
          let s2 := r.st.emitAll (s.ret f o.taint) (s.cyc + r.lat - 1) r.outs
          let s3 := if slotExternal op && o.taint && !s.act.squash then s2.slotFault 0xE104 2 o.a else s2
          s3.stepBreak
      else s1.stepBreak

/-- The meaning of a slot word: nothing happens until the slot is ready; then it fires. -/
def slotExec (op : SlotOp) (f : Slot) (s : State) (body : Opn → State → Fired) : Host.Outcome State Fault Refusal :=
  match slotReady op f s with
  | none => .next s
  | some (o, ps) => .next (slotFire op f s o ps body)

/-- A computing instruction: one result to every target, with latency `lat` (R201, R202). -/
def slotValue (op : SlotOp) (lat : Nat) (f : Slot) (s : State) (g : Opn → W32) : Host.Outcome State Fault Refusal :=
  slotExec op f s fun o t => { st := t, outs := [{ tok := dataTok (g o) t.seqOf }], lat := lat }

/-- Two results, the first to TGT1 and the second to TGT2 (R201). -/
def pairFired (lat : Nat) (p : W32 × W32) (t : State) : Fired :=
  { st := t, outs := [{ which := 1, tok := dataTok p.1 t.seqOf }, { which := 2, tok := dataTok p.2 t.seqOf }], lat := lat }
/-- An instruction with two results. -/
def slotPair (op : SlotOp) (lat : Nat) (f : Slot) (s : State) (g : Opn → W32 × W32) : Host.Outcome State Fault Refusal :=
  slotExec op f s fun o t => pairFired lat (g o) t

end Sys2Proof.Machine
end

