-- ==== Sys2Proof/Machine/SlotBit.lean ====
section
/-! DEFINITION. The logic, shift, field, compare and select instructions (R211 to R217). -/
namespace Sys2Proof.Machine
open Sys2Proof

/-- `clz` (R212). -/
def execClz (f : Slot) (s : State) : Host.Outcome State Fault Refusal :=
  slotValue .clz 1 f s fun o => bitLanes f.mod (fun n a _ => clzN n a) o.a o.b

/-- `popc` (R212). -/
def execPopc (f : Slot) (s : State) : Host.Outcome State Fault Refusal :=
  slotValue .popc 1 f s fun o => bitLanes f.mod (fun n a _ => popcN n a) o.a o.b

/-- `brev` (R212). -/
def execBrev (f : Slot) (s : State) : Host.Outcome State Fault Refusal :=
  slotValue .brev 1 f s fun o => bitLanes f.mod (fun n a _ => revN n a) o.a o.b

/-- `and` (R212). -/
def execAnd (f : Slot) (s : State) : Host.Outcome State Fault Refusal :=
  slotValue .and 1 f s fun o => o.a &&& o.b

/-- `or` (R212). -/
def execOr (f : Slot) (s : State) : Host.Outcome State Fault Refusal :=
  slotValue .or 1 f s fun o => o.a ||| o.b

/-- `xor` (R212). -/
def execXor (f : Slot) (s : State) : Host.Outcome State Fault Refusal :=
  slotValue .xor 1 f s fun o => o.a ^^^ o.b

/-- `andn` (R212). -/
def execAndn (f : Slot) (s : State) : Host.Outcome State Fault Refusal :=
  slotValue .andn 1 f s fun o => o.a &&& ~~~o.b

/-- `not` (R212). -/
def execNot (f : Slot) (s : State) : Host.Outcome State Fault Refusal :=
  slotValue .not 1 f s fun o => ~~~o.a

/-- `lop3` (R215): the truth table is the constant that CIDX names. -/
def execLop3 (f : Slot) (s : State) : Host.Outcome State Fault Refusal :=
  slotValue .lop3 1 f s fun o => lop3W (s.creg f.cidx) o.a o.b o.x

/-- `shl` (R213). -/
def execShl (f : Slot) (s : State) : Host.Outcome State Fault Refusal :=
  slotValue .shl 1 f s fun o => bitLanes f.mod shlN o.a o.b

/-- `shr` (R213): logical, or arithmetic with MOD[2]. -/
def execShr (f : Slot) (s : State) : Host.Outcome State Fault Refusal :=
  slotValue .shr 1 f s fun o => bitLanes f.mod (if f.mod.getLsbD 2 then sarN else shrN) o.a o.b

/-- `rot` (R213). -/
def execRot (f : Slot) (s : State) : Host.Outcome State Fault Refusal :=
  slotValue .rot 1 f s fun o => bitLanes f.mod rotN o.a o.b

/-- `fsh` (R213). -/
def execFsh (f : Slot) (s : State) : Host.Outcome State Fault Refusal :=
  slotValue .fsh 1 f s fun o => fshW f.mod o.a o.b o.x

/-- `bfx` (R214). -/
def execBfx (f : Slot) (s : State) : Host.Outcome State Fault Refusal :=
  slotValue .bfx 1 f s fun o => bfxW f.mod o.a o.b

/-- `bfi` (R214). -/
def execBfi (f : Slot) (s : State) : Host.Outcome State Fault Refusal :=
  slotValue .bfi 1 f s fun o => bfiW o.a o.b o.x

/-- `bswap` (R212). -/
def execBswap (f : Slot) (s : State) : Host.Outcome State Fault Refusal :=
  slotValue .bswap 1 f s fun o => bswapW o.a

/-- `cmp` (R216). -/
def execCmp (f : Slot) (s : State) : Host.Outcome State Fault Refusal :=
  slotValue .cmp 1 f s fun o => bit01 (cmpCond f.mod o.a o.b)

/-- `fcmp` (R216). -/
def execFcmp (f : Slot) (s : State) : Host.Outcome State Fault Refusal :=
  slotValue .fcmp 1 f s fun o => bit01 (fcmpCond f.mod o.a o.b)

/-- `sel` (R217). -/
def execSel (f : Slot) (s : State) : Host.Outcome State Fault Refusal :=
  slotValue .sel 1 f s fun o => if o.x ≠ 0 then o.a else o.b

end Sys2Proof.Machine
end

