-- ==== Sys2Proof/Machine/SlotFp.lean ====
section
/-! DEFINITION. The floating-point, special-function, generator and conversion instructions (R231 to R246). -/
namespace Sys2Proof.Machine
open Sys2Proof

/-- `fadd` (R231, R232). -/
def execFadd (f : Slot) (s : State) : Host.Outcome State Fault Refusal :=
  slotValue .fadd 4 f s fun o => fLanesR f.mod (fun a b _ => fsum (mlo f.mod).toNat [a, b]) o.a o.b o.x

/-- `fsub` (R231, R232). -/
def execFsub (f : Slot) (s : State) : Host.Outcome State Fault Refusal :=
  slotValue .fsub 4 f s fun o => fLanesR f.mod (fun a b _ => fsum (mlo f.mod).toNat [a, b.negate]) o.a o.b o.x

/-- `fmul` (R231, R232). -/
def execFmul (f : Slot) (s : State) : Host.Outcome State Fault Refusal :=
  slotValue .fmul 4 f s fun o => fLanesR f.mod (fun a b _ => a.mul b) o.a o.b o.x

/-- `ffma` (R231, R232). -/
def execFfma (f : Slot) (s : State) : Host.Outcome State Fault Refusal :=
  slotValue .ffma 4 f s fun o => fLanesR f.mod (fun a b x => fsum (mlo f.mod).toNat [a.mul b, x]) o.a o.b o.x

/-- `fmin` (R233). -/
def execFmin (f : Slot) (s : State) : Host.Outcome State Fault Refusal :=
  slotValue .fmin 2 f s fun o => fLanes f.mod (fun t a b _ => fminmax t false a b) o.a o.b o.x

/-- `fmax` (R233). -/
def execFmax (f : Slot) (s : State) : Host.Outcome State Fault Refusal :=
  slotValue .fmax 2 f s fun o => fLanes f.mod (fun t a b _ => fminmax t true a b) o.a o.b o.x

/-- `fabs` (R234). -/
def execFabs (f : Slot) (s : State) : Host.Outcome State Fault Refusal :=
  slotValue .fabs 1 f s fun o => fLanes f.mod (fun t a _ _ => if (fdecode t a).isNan then t.nan else a % 2 ^ (t.w - 1)) o.a o.b o.x

/-- `fneg` (R234). -/
def execFneg (f : Slot) (s : State) : Host.Outcome State Fault Refusal :=
  slotValue .fneg 1 f s fun o => fLanes f.mod (fun t a _ _ => if (fdecode t a).isNan then t.nan else (a + 2 ^ (t.w - 1)) % 2 ^ t.w) o.a o.b o.x

/-- `fclass` (R235). -/
def execFclass (f : Slot) (s : State) : Host.Outcome State Fault Refusal :=
  slotValue .fclass 1 f s fun o => fLanes f.mod (fun t a _ _ => fclassN t a) o.a o.b o.x

/-- `fscale` (R236): b is a signed integer of the lane's width. -/
def execFscale (f : Slot) (s : State) : Host.Outcome State Fault Refusal :=
  slotValue .fscale 4 f s fun o => fLanes f.mod (fun t a b _ => fscaleN t (mlo f.mod).toNat a (signed t.w b)) o.a o.b o.x

/-- `fround` (R237). -/
def execFround (f : Slot) (s : State) : Host.Outcome State Fault Refusal :=
  slotValue .fround 4 f s fun o => fLanes f.mod (fun t a _ _ => froundN t (mlo f.mod).toNat a) o.a o.b o.x

/-- `fcsgn` (R234). -/
def execFcsgn (f : Slot) (s : State) : Host.Outcome State Fault Refusal :=
  slotValue .fcsgn 1 f s fun o => fLanes f.mod (fun t a b _ => if (fdecode t a).isNan then t.nan
      else a % 2 ^ (t.w - 1) + b / 2 ^ (t.w - 1) * 2 ^ (t.w - 1)) o.a o.b o.x

/-- `fdot2` (R238). -/
def execFdot2 (f : Slot) (s : State) : Host.Outcome State Fault Refusal :=
  slotValue .fdot2 4 f s fun o => fdot2W f.mod o.a o.b o.x

/-- `frcp` (R239, R240). -/
def execFrcp (f : Slot) (s : State) : Host.Outcome State Fault Refusal :=
  slotValue .frcp 8 f s fun o => frcpW o.a

/-- `frsq` (R239, R240). -/
def execFrsq (f : Slot) (s : State) : Host.Outcome State Fault Refusal :=
  slotValue .frsq 8 f s fun o => frsqW o.a

/-- `fsqrt` (R239, R240). -/
def execFsqrt (f : Slot) (s : State) : Host.Outcome State Fault Refusal :=
  slotValue .fsqrt 10 f s fun o => fsqrtW (mlo f.mod).toNat o.a

/-- `fexp2` (R239, R240). -/
def execFexp2 (f : Slot) (s : State) : Host.Outcome State Fault Refusal :=
  slotValue .fexp2 10 f s fun o => fexp2W o.a

/-- `flog2` (R239, R240). -/
def execFlog2 (f : Slot) (s : State) : Host.Outcome State Fault Refusal :=
  slotValue .flog2 10 f s fun o => flog2W o.a

/-- `fsin` (R239, R240). -/
def execFsin (f : Slot) (s : State) : Host.Outcome State Fault Refusal :=
  slotValue .fsin 14 f s fun o => fsinW o.a

/-- `fcos` (R239, R240). -/
def execFcos (f : Slot) (s : State) : Host.Outcome State Fault Refusal :=
  slotValue .fcos 14 f s fun o => fcosW o.a

/-- `ftanh` (R239, R240). -/
def execFtanh (f : Slot) (s : State) : Host.Outcome State Fault Refusal :=
  slotValue .ftanh 14 f s fun o => ftanhW o.a

/-- `fdiv` (R239, R240). -/
def execFdiv (f : Slot) (s : State) : Host.Outcome State Fault Refusal :=
  slotValue .fdiv 12 f s fun o => fword (mlo f.mod).toNat ((fval o.a).div (fval o.b))

/-- `phx` (R241): the key is c14 and c15 of the active plane. -/
def execPhx (f : Slot) (s : State) : Host.Outcome State Fault Refusal :=
  slotValue .phx 6 f s fun o => philox o.a o.b o.x 0 (s.creg 14) (s.creg 15) (mlo f.mod).toNat

/-- `cvtf` (R242): narrowing returns one word; widening has two results. -/
def execCvtf (f : Slot) (s : State) : Host.Outcome State Fault Refusal :=
  if f.mod.getLsbD 3 then slotPair .cvtf 2 f s fun o => widen2 (if f.mod.getLsbD 2 then fp16 else bf16) o.a
  else slotValue .cvtf 2 f s fun o => narrow2 (if f.mod.getLsbD 2 then fp16 else bf16) (mlo f.mod).toNat o.a o.b

/-- `cvti` (R243): always saturating. -/
def execCvti (f : Slot) (s : State) : Host.Outcome State Fault Refusal :=
  slotValue .cvti 2 f s fun o => cvtiW f.mod o.a o.b

/-- `cvtif` (R244): one rounded result, or two exact ones from a packed operand. -/
def execCvtif (f : Slot) (s : State) : Host.Outcome State Fault Refusal :=
  let u := f.mod.getLsbD 2
  if f.mod.getLsbD 3 then slotPair .cvtif 2 f s fun o =>
    (fword 0 (.ofInt (laneV u 16 o.a 0)), fword 0 (.ofInt (laneV u 16 o.a 1)))
  else slotValue .cvtif 2 f s fun o => fword (mlo f.mod).toNat (.ofInt (laneV u 32 o.a 0))

/-- `pack` (R245): one lane pair of the word x. -/
def execPack (f : Slot) (s : State) : Host.Outcome State Fault Refusal :=
  slotValue .pack 2 f s fun o => packW f.mod o.a o.b (if mlo f.mod = 0 then 0 else o.x)

/-- `unpack` (R246): one lane pair widened. -/
def execUnpack (f : Slot) (s : State) : Host.Outcome State Fault Refusal :=
  slotPair .unpack 2 f s fun o => unpackW f.mod o.a

end Sys2Proof.Machine
end

