-- ==== Sys2Proof/Machine/SlotInt.lean ====
section
/-! DEFINITION. The integer instructions (R205 to R210). -/
namespace Sys2Proof.Machine
open Sys2Proof

/-- `nop` (R207): fires with no effect. -/
def execNop (f : Slot) (s : State) : Host.Outcome State Fault Refusal := slotExec .nop f s fun _ t => { st := t }

/-- `add` (R206, R207). -/
def execAdd (f : Slot) (s : State) : Host.Outcome State Fault Refusal :=
  slotValue .add 1 f s fun o => intLanes f.mod (fun a b _ => a + b) o.a o.b o.x

/-- `sub` (R206, R207). -/
def execSub (f : Slot) (s : State) : Host.Outcome State Fault Refusal :=
  slotValue .sub 1 f s fun o => intLanes f.mod (fun a b _ => a - b) o.a o.b o.x

/-- `mul` (R206, R207). -/
def execMul (f : Slot) (s : State) : Host.Outcome State Fault Refusal :=
  slotValue .mul 2 f s fun o => intLanes f.mod (fun a b _ => a * b) o.a o.b o.x

/-- `mulh` (R207): the high half of the exact product. -/
def execMulh (f : Slot) (s : State) : Host.Outcome State Fault Refusal :=
  slotValue .mulh 2 f s fun o => mulhW f.mod o.a o.b

/-- `mad` (R206, R207). -/
def execMad (f : Slot) (s : State) : Host.Outcome State Fault Refusal :=
  slotValue .mad 2 f s fun o => intLanes f.mod (fun a b x => a * b + x) o.a o.b o.x

/-- `abs` (R206, R207). -/
def execAbs (f : Slot) (s : State) : Host.Outcome State Fault Refusal :=
  slotValue .abs 1 f s fun o => intLanes f.mod (fun a _ _ => if a < 0 then -a else a) o.a o.b o.x

/-- `neg` (R206, R207). -/
def execNeg (f : Slot) (s : State) : Host.Outcome State Fault Refusal :=
  slotValue .neg 1 f s fun o => intLanes f.mod (fun a _ _ => -a) o.a o.b o.x

/-- `min` (R206, R207). -/
def execMin (f : Slot) (s : State) : Host.Outcome State Fault Refusal :=
  slotValue .min 1 f s fun o => intLanes f.mod (fun a b _ => if a ≤ b then a else b) o.a o.b o.x

/-- `max` (R206, R207). -/
def execMax (f : Slot) (s : State) : Host.Outcome State Fault Refusal :=
  slotValue .max 1 f s fun o => intLanes f.mod (fun a b _ => if a ≤ b then b else a) o.a o.b o.x

/-- `bperm` (R209). -/
def execBperm (f : Slot) (s : State) : Host.Outcome State Fault Refusal :=
  slotValue .bperm 1 f s fun o => bpermW o.a o.b

/-- `addc` (R208). -/
def execAddc (f : Slot) (s : State) : Host.Outcome State Fault Refusal :=
  slotPair .addc 1 f s fun o => addcW o.a o.b o.x

/-- `subb` (R208). -/
def execSubb (f : Slot) (s : State) : Host.Outcome State Fault Refusal :=
  slotPair .subb 1 f s fun o => subbW o.a o.b o.x

/-- `div` (R210). -/
def execDiv (f : Slot) (s : State) : Host.Outcome State Fault Refusal :=
  slotValue .div 8 f s fun o => (divW f.mod o.a o.b).1

/-- `rem` (R210). -/
def execRem (f : Slot) (s : State) : Host.Outcome State Fault Refusal :=
  slotValue .rem 8 f s fun o => (divW f.mod o.a o.b).2

/-- `sad` (R207). -/
def execSad (f : Slot) (s : State) : Host.Outcome State Fault Refusal :=
  slotValue .sad 2 f s fun o => intSum f.mod (fun a b => (a - b).natAbs) o.a o.b o.x

/-- `dp4` (R207). -/
def execDp4 (f : Slot) (s : State) : Host.Outcome State Fault Refusal :=
  slotValue .dp4 2 f s fun o => intSum f.mod (fun a b => a * b) o.a o.b o.x

/-- `mov` (R207). -/
def execMov (f : Slot) (s : State) : Host.Outcome State Fault Refusal :=
  slotValue .mov 1 f s fun o => o.a

end Sys2Proof.Machine
end

