-- ==== Sys2Proof/Machine/SlotFlow.lean ====
section
/-! DEFINITION. Dataflow control, loop generators and iteration queries (R218 to R228). -/
namespace Sys2Proof.Machine
open Sys2Proof

/-- A local register written by the firing, visible from the next cycle (R51). -/
def State.writeK (s : State) (src : Src) (v : W32) (taint : Bool) : State :=
  match src with
  | .k i => s.addEmit { due := s.cyc, ord := s.elRank s.act.el, src := s.act.el, dst := .kreg s.act.el i,
                        f := s.cyc, tok := { dataTok v 0 with et := taint } }
  | _ => s

/-- A tainted value dropped without effect is counted (R420). -/
def State.dropTaint (s : State) (taint : Bool) : State := if taint then s.count (elPk s.act.el) 1 1 else s

/-- The loop context of the firing (R25, R474). -/
def State.lctx (s : State) : LoopCtx :=
  let r := s.region s.act.rg
  match s.act.ws with
  | some w => r.wlcs.get {} w
  | none => r.lcs.get {} s.act.lc

/-- `steer` (R218). -/
def execSteer (f : Slot) (s : State) : Host.Outcome State Fault Refusal :=
  slotExec .steer f s fun o t => { st := t, outs := [{ which := if o.b ≠ 0 then 1 else 2, tok := dataTok o.a t.seqOf }] }

/-- `merge` (R219). -/
def execMerge (f : Slot) (s : State) : Host.Outcome State Fault Refusal :=
  slotExec .merge f s fun o t => { st := t, outs := [{ tok := dataTok (if o.x ≠ 0 then o.a else o.b) t.seqOf }] }

/-- `gate` (R218). -/
def execGate (f : Slot) (s : State) : Host.Outcome State Fault Refusal :=
  slotExec .gate f s fun o t =>
    if o.b ≠ 0 then { st := t, outs := [{ tok := dataTok o.a t.seqOf }] } else { st := t.dropTaint o.taint }

/-- `inv` (R220). -/
def execInv (f : Slot) (s : State) : Host.Outcome State Fault Refusal :=
  slotExec .inv f s fun o t => { st := t, outs := [{ tok := dataTok o.a t.seqOf }] }

/-- `join` (R221): the left operand, or a null completion where the left token is one. -/
def execJoin (f : Slot) (s : State) : Host.Outcome State Fault Refusal :=
  slotExec .join f s fun o t =>
    let null := match o.lt with | some x => x.k | none => false
    { st := t, outs := [{ tok := if null then nullTok else dataTok o.a t.seqOf }] }

/-- A control word of `ctok` keeps the reserved bits of Table 3.4 zero, and SWP set for a reconfigure (R222). -/
def ctokOk (sub : BitVec 4) (a : W32) : Bool :=
  decide (a.toNat / 1024 % 64 = 0)
  && (if sub = 0 then true else decide (a.toNat / 65536 % 4096 = 0))
  && (if sub = 1 then a.getLsbD 2 else true)

/-- `ctok` (R222): PSEL is resolved here (R69). -/
def execCtok (f : Slot) (s : State) : Host.Outcome State Fault Refusal :=
  slotExec .ctok f s fun o t =>
    if ctokOk f.mod o.a then
      let v : W32 := f.mod ++ field o.a 0 28
      { st := t, outs := [{ tok := (ctlTok v).resolve (t.region t.act.rg).pn }] }
    else { st := t, breach := some (0x2002, o.a) }

/-- `ctok.ilast` (R223): an iteration-last token for the slot's loop context and stage. -/
def execCtokIlast (f : Slot) (s : State) : Host.Outcome State Fault Refusal :=
  slotExec .ctokIlast f s fun _ t =>
    let r := t.region t.act.rg
    { st := t.setRegion t.act.rg { r with ilast := r.ilast ++ [(t.act.lc, t.act.stage, t.act.ws.getD 0, t.act.loc, t.cyc)] } }

/-- `pset` (R224): visible from cycle t + 2. -/
def execPset (f : Slot) (s : State) : Host.Outcome State Fault Refusal :=
  slotExec .pset f s fun o t =>
    if slotQuiet .pset o t then { st := t }
    else { st := t.addEmit { due := t.cyc + 1, ord := t.elRank t.act.el, src := t.act.el,
                             dst := .pn t.act.rg f.mod, f := t.cyc, tok := dataTok (bit01 (decide (o.a ≠ 0))) 0 } }

/-- `pget` (R224). -/
def execPget (f : Slot) (s : State) : Host.Outcome State Fault Refusal :=
  slotValue .pget 1 f s fun _ => bit01 ((s.region s.act.rg).pn.getLsbD f.mod.toNat)

/-- The results of a loop generator: index to TGT1, flag to TGT2, and its counter register. -/
def genFired (f : Slot) (o : Opn) (t : State) (g : Option W32 × W32 × W32 × Bool) : Fired :=
  { st := t.writeK f.r g.2.2.1 o.taint,
    outs := (match g.1 with | some i => [{ which := 1, tok := dataTok i t.seqOf }] | none => [])
      ++ [{ which := 2, tok := dataTok g.2.1 t.seqOf }] }

/-- `loopgen` (R225). -/
def execLoopgen (f : Slot) (s : State) : Host.Outcome State Fault Refusal :=
  slotExec .loopgen f s fun o t => genFired f o t (loopgenStep (f.mod.getLsbD 2) o.a o.b)

/-- `loopgen2` (R226). -/
def execLoopgen2 (f : Slot) (s : State) : Host.Outcome State Fault Refusal :=
  slotExec .loopgen2 f s fun o t => genFired f o t (loopgen2Step o.a o.b)

/-- `itr` (R228). -/
def execItr (f : Slot) (s : State) : Host.Outcome State Fault Refusal :=
  slotValue .itr 1 f s fun _ => field s.act.iter (if f.mod = 0 then 0 else 32) 32

/-- `copyid` (R228). -/
def execCopyid (f : Slot) (s : State) : Host.Outcome State Fault Refusal :=
  slotValue .copyid 1 f s fun _ =>
    BitVec.ofNat 32 (if f.mod = 0 then (s.region s.act.rg).copy else (s.region s.act.rg).copies)

/-- `cnt` (R227): with MOD[0] the token popped from `qX` is discarded. -/
def execCnt (f : Slot) (s : State) : Host.Outcome State Fault Refusal :=
  slotExec .cnt f s fun o t =>
    let (fl, k) := cntStep o.a o.b
    let t := t.dropTaint (match o.xt with | some x => x.et | none => false)
    { st := t.writeK f.r k o.taint, outs := [{ tok := dataTok fl t.seqOf }] }

/-- `lastp` (R228). -/
def execLastp (f : Slot) (s : State) : Host.Outcome State Fault Refusal :=
  slotValue .lastp 1 f s fun _ =>
    bit01 (if f.mod = 0 then decide (s.lctx.tc ≠ 0 ∧ s.act.loc = s.lctx.tc - 1) else decide (s.act.loc = 0))

/-- `stagev` (R228): `.live` tells whether the iteration is squashed, by a mark or by an exit of a scrolled placement (R475). -/
def execStagev (f : Slot) (s : State) : Host.Outcome State Fault Refusal :=
  slotValue .stagev 1 f s fun _ =>
    if f.mod = 0 then bit01 (!s.act.squash)
    else field s.lctx.sv (if f.mod = 1 then 0 else 32) 32

end Sys2Proof.Machine
end

