-- ==== Sys2Proof/Machine/Storage.lean ====
section
/-! DEFINITION. Storage: physical addresses and routes (R18, R19, R105, R112, R371), page walks and translation caches (R107 to R110), errors that stand in storage and what wears (R431 to R437, R468), and bytes read and written over them. -/
namespace Sys2Proof.Machine
open Sys2Proof

/-! ### Physical addresses (R106) -/

/-- PKG and OFF of a physical address (Table 5.2). -/
def paPkg (pa : Nat) : Nat := pa / 2 ^ 40 % 8192
def paOff (pa : Nat) : Nat := pa % 2 ^ 40
/-- The physical address of a raw scratchpad offset of a package (Table 5.3). -/
def scrPA (pk off : Nat) : Nat := 2 * 2 ^ 53 + pk * 2 ^ 40 + off % 2 ^ 30

/-- The stack of an HBM address: 16·package + stack. -/
def paStack (pa : Nat) : Nat := paPkg pa * 16 + paOff pa / 2 ^ 36
/-- The quadrant of an HBM address (Table 5.6). -/
def paQuad (pa : Nat) : Nat := pa / 2 ^ 11 % 4
/-- The home of an HBM address: the memory-port die of quadrant q of stack s, (s + q + 15) mod 16 of its package (R19). -/
def homeDie (pa : Nat) : Nat := paPkg pa * 16 + (paOff pa / 2 ^ 36 + paQuad pa + 15) % 16
/-- Hops between two memory-port dies of a package, the shorter way round the chain (R18, R112). -/
def dieHops (a b : Nat) : Nat := min ((a + 16 - b) % 16) ((b + 16 - a) % 16)
/-- The memory-port die that takes the request of a stream on die `m` to stack `k`: the nearest of the four beside the stack,
the lower number where two are equally near (R112). -/
def nearDie (m k : Nat) : Nat :=
  let better (a b : Nat) : Nat := if dieHops m b < dieHops m a ∨ (dieHops m b = dieHops m a ∧ b < a) then b else a
  [k % 16, (k + 1) % 16, (k + 2) % 16].foldl better ((k + 15) % 16)
/-- The die by which a request from die `mp` reaches an HBM address: of the address's own package (R112, R106). -/
def viaDie (mp pa : Nat) : Nat := paPkg pa * 16 + nearDie (mp % 16) (paOff pa / 2 ^ 36)
/-- The HBM address of an offset within a stack. -/
def stackPA (sk off : Nat) : Nat := sk / 16 * 2 ^ 40 + sk % 16 * 2 ^ 36 + off % 2 ^ 36
/-- The host-memory address of a host bus address of a package's link. -/
def hostPA (pk addr : Nat) : Nat := 2 ^ 53 + pk * 2 ^ 40 + addr % 2 ^ 40

/-- Package `q` can be reached from package `pk` (R372): itself, or within the domain with a nonzero route entry. -/
def State.reaches (s : State) (pk q : Nat) : Bool :=
  decide (q = pk)
  || ((s.reg pk 0x48).getLsbD 0 && decide (q < s.domSize pk)
      && decide (s.read32 ((s.reg pk 0x50).toNat / 4096 * 4096 + 4 * q) ≠ 0))

/-- The route-table entry of package `q` at package `pk`: the ports by which it is reached (R371). -/
def State.route (s : State) (pk q : Nat) : W32 := s.read32 ((s.reg pk 0x50).toNat / 4096 * 4096 + 4 * q)
/-- A port towards package `q` is in service (R466). -/
def State.linked (s : State) (pk q : Nat) : Bool := decide (q = pk) || decide (s.route pk q &&& field (s.reg pk 0x58) 0 32 ≠ 0)

/-- An access of package `pk` is on its way through a port of memory-port die `die`. -/
def State.dieCarries (s : State) (pk die : Nat) : Bool :=
  s.fl.accs.any fun a => decide ((s.region a.2.rg).pk = pk ∧ a.2.phase = .sent ∧ a.2.link.map (· / 2) = some die)
/-- The ports that R371 hashes among: those in service, but for a die whose ports carry a request those it hashed among before
(R466). -/
def State.hashSet (s : State) (pk : Nat) : W32 :=
  (List.range 32).foldl (fun w p =>
    let was := if s.dieCarries pk (p / 2) then s.out.hash.get 0 pk else field (s.reg pk 0x58) 0 32
    if was.getLsbD p then w ||| (1 : W32) <<< p else w) 0
/-- The port that a requester's traffic to a package takes (R371; DESIGN CHOICE, log 8); none where the port chosen is out of service:
the request waits (R466). -/
def State.linkPort (s : State) (pk q who : Nat) : Option Nat :=
  let mask := s.route pk q &&& s.hashSet pk
  let ports := (List.range 32).filter fun p => mask.getLsbD p
  (ports[Config.portHash who q mask % (max 1 ports.length)]?).filter fun p => (s.reg pk 0x58).getLsbD p

/-- A physical address that an access of package `pk` may not carry: an unreachable package, a reserved SPACE, or a bit
that Table 5.3 requires zero. -/
def State.badPA (s : State) (pk pa : Nat) : Bool :=
  !(s.reaches pk (paPkg pa)) || decide (3 < paSpace pa) || decide (2 ^ 57 ≤ pa)
  || (decide (paSpace pa = 2) && decide (2 ^ 30 ≤ paOff pa)) || (decide (paSpace pa = 3) && decide (2 ^ 32 ≤ paOff pa))

/-- UNDOn of a stack. -/
def State.undoReg (s : State) (sk : Nat) : W64 := s.reg (sk / 16) (0x12000 + 8 * (sk % 16))
/-- The first stack offset of the undo area, and of the parity area below it (R171). -/
def State.undoBase (s : State) (sk : Nat) : Nat := 2 ^ 36 - (s.undoReg sk).toNat % 16 * 2 ^ 30
def State.parityBase (s : State) (sk : Nat) : Nat := s.undoBase sk - (s.undoReg sk).toNat / 16 % 16 * 2 ^ 30
/-- The bytes touch an undo or parity area. -/
def State.inArea (s : State) (pa n : Nat) : Bool :=
  decide (paSpace pa = 0) && decide (s.parityBase (paStack pa) < pa % 2 ^ 36 + n)

/-! ### Poison (R438, R439) -/

/-- The address and bit of a frame's poison bit, while PBMAP.V = 1. -/
def State.poisonBit (s : State) (pa : Nat) : Option (Nat × Nat) :=
  let r := s.reg (paPkg pa) 0x16600
  if r.getLsbD 0 ∧ paSpace pa = 0 then some (r.toNat % 2 ^ 57 / 2 ^ 25 * 2 ^ 25 + paOff pa / 4096 / 8, paOff pa / 4096 % 8) else none
def State.poisoned (s : State) (pa : Nat) : Bool :=
  match s.poisonBit pa with
  | none => false
  | some (a, b) => (s.peek a).getLsbD b
def State.setPoison (s : State) (pa : Nat) (v : Bool) : State :=
  match s.poisonBit pa with
  | none => s
  | some (a, b) =>
    let m : Byte := 1 <<< b
    s.poke a [if v then s.peek a ||| m else s.peek a &&& ~~~m]

/-! ### Page walks (R107) -/

/-- The attributes that sixteen entries of a 64 KiB page must share. -/
def pteAttr (e : W64) : Nat := e.toNat % 128 + e.toNat / 2 ^ 57 * 128

/-- The leaf of a walk at a level: its page size and what R107 requires of it. C64, which Table 5.4 gives a level 0 leaf, is
ignored in any other entry (DESIGN CHOICE, log 56). -/
def leafOf (s : State) (asid : BitVec 12) (va table level : Nat) (e : W64) : Except (BitVec 16) Xlat :=
  let pa := e.toNat % 2 ^ 57 / 4096 * 4096
  let mk (log2 pa : Nat) : Xlat :=
    { asid := asid, log2 := log2, va := va % 2 ^ 57 / 2 ^ log2 * 2 ^ log2, pa := pa, rd := e.getLsbD 2, wr := e.getLsbD 3,
      prot := e.getLsbD 4, irv := e.getLsbD 5, pgrp := field e 57 7 }
  if level = 0 then
    if e.getLsbD 6 then
      let g := va / 4096 % 512 / 16 * 16
      let ent (i : Nat) : W64 := s.read64 (table + 8 * (g + i))
      let base := (ent 0).toNat % 2 ^ 57 / 4096 * 4096
      if base % 2 ^ 16 = 0 ∧ (List.range 16).all (fun i => decide (pteAttr (ent i) = pteAttr e ∧ (ent i).toNat / 128 % 32 = 0
          ∧ (ent i).toNat % 2 ^ 57 / 4096 * 4096 = base + 4096 * i)) then .ok (mk 16 base)
      else .error 0xC004
    else .ok (mk 12 pa)
  else if pa % 2 ^ (12 + 9 * level) ≠ 0 then .error 0xC004
  else .ok (mk (12 + 9 * level) pa)

/-- The levels of a walk, from `n` − 1 down to 0. -/
def walkLevels (s : State) (asid : BitVec 12) (va : Nat) : Nat → Nat → Except (BitVec 16) Xlat
  | 0, _ => .error 0xC004
  | n + 1, table =>
    let e := s.read64 (table + 8 * (va / 2 ^ (12 + 9 * n) % 512))
    if !(e.getLsbD 0) then .error 0xC002
    else if e.toNat / 128 % 32 ≠ 0 then .error 0xC004
    else if e.getLsbD 1 then (if n ≥ 3 then .error 0xC004 else leafOf s asid va table n e)
    else if n = 0 then .error 0xC004
    else walkLevels s asid va n (e.toNat % 2 ^ 57 / 4096 * 4096)

/-- A page walk of package `pk` (R107). -/
def State.walkPage (s : State) (pk : Nat) (asid : BitVec 12) (va : Nat) : Except (BitVec 16) Xlat :=
  let tb := s.reg pk 0x10010
  if !(tb.getLsbD 0) then .error 0xC001
  else
    let e := s.read64 (tb.toNat % 2 ^ 57 / 4096 * 4096 + 8 * asid.toNat)
    if !(e.getLsbD 0) then .error 0xC001
    else if e.toNat % 4096 ≠ 1 ∨ e.toNat / 2 ^ 57 ≠ 0 then .error 0xC004
    else walkLevels s asid va 5 (e.toNat % 2 ^ 57 / 4096 * 4096)

/-- The entries that a walk reads of the tables from level `n` − 1 down. -/
def walkEntries (s : State) (va : Nat) : Nat → Nat → List Nat
  | 0, _ => []
  | n + 1, table =>
    let a := table + 8 * (va / 2 ^ (12 + 9 * n) % 512)
    let e := s.read64 a
    if e.getLsbD 0 = false ∨ e.toNat / 128 % 32 ≠ 0 then [a]
    else if e.getLsbD 1 then
      (if n = 0 ∧ e.getLsbD 6 then (List.range 16).map fun i => table + 8 * (va / 4096 % 512 / 16 * 16 + i) else [a])
    else a :: walkEntries s va n (e.toNat % 2 ^ 57 / 4096 * 4096)
/-- The entries that a page walk reads, the address-space table's first. -/
def State.walkReads (s : State) (pk : Nat) (asid : BitVec 12) (va : Nat) : List Nat :=
  let tb := s.reg pk 0x10010
  let a := tb.toNat % 2 ^ 57 / 4096 * 4096 + 8 * asid.toNat
  if tb.getLsbD 0 then a :: walkEntries s va 5 ((s.read64 a).toNat % 2 ^ 57 / 4096 * 4096) else []

/-- The translation covers the address. -/
def Xlat.covers (x : Xlat) (asid : BitVec 12) (va : Nat) : Bool := decide (x.asid = asid ∧ va % 2 ^ 57 / 2 ^ x.log2 * 2 ^ x.log2 = x.va)
/-- The physical address. -/
def Xlat.phys (x : Xlat) (va : Nat) : Nat := x.pa + va % 2 ^ x.log2

/-- The memory-port die and unit of a ring stream (R111, R131): 16·package + die, and the unit's number. -/
def unitOf (rs : Nat) : Nat × Nat :=
  let ring := rs / 32
  let u := rs % 32 / 8
  let f := dieOf ring
  let r := ring % 4
  if u < 2 then (pkOf ring * 16 + f, 2 * r + u) else (pkOf ring * 16 + (f + 15) % 16, 8 + 2 * r + (u - 2))

/-- A translation cache of `n` entries takes an entry, newest first (DESIGN CHOICE, log 21). -/
def cacheIn (n : Nat) (x : Xlat) (l : List Xlat) : List Xlat := (x :: l.filter fun y => decide (y ≠ x)).take n

/-- The translation that a stream holds or finds in the first and second level (R108); its kept translation comes
first. -/
def State.lookup (s : State) (rs : Nat) (asid : BitVec 12) (va : Nat) : Option Xlat :=
  let (mp, u) := unitOf rs
  match ((s.strm rs).kept).filter fun x => x.covers asid va with
  | some x => some x
  | none =>
    match (s.ms.tlb1.get [] (mp * 16 + u)).find? fun x => x.covers asid va with
    | some x => some x
    | none => (s.ms.tlb2.get [] mp).find? fun x => x.covers asid va

/-- The stream uses a translation: it keeps it, and both levels hold it. -/
def State.keepXlat (s : State) (rs : Nat) (x : Xlat) : State :=
  let (mp, u) := unitOf rs
  let s := { s with ms := { s.ms with
    tlb1 := s.ms.tlb1.put [] (mp * 16 + u) (cacheIn 64 x (s.ms.tlb1.get [] (mp * 16 + u)))
    tlb2 := s.ms.tlb2.put [] mp (cacheIn 16384 x (s.ms.tlb2.get [] mp)) } }
  s.setStrm rs { s.strm rs with kept := some x }

/-- An access kind reads, or writes, its page (0xC003). -/
def AKind.reads : AKind → Bool
  | .load _ | .atom .. | .cas => true
  | _ => false
def AKind.writes : AKind → Bool
  | .store _ | .atom .. | .cas => true
  | _ => false
def AKind.isAtomic : AKind → Bool
  | .atom .. | .cas => true
  | _ => false
/-- An access kind may use the page: a load or an atomic reads it, a store writes it, an atomic too. -/
def Xlat.permits (x : Xlat) (k : AKind) : Bool := (!k.reads || x.rd) && (!(match k with | .store _ => true | _ => k.isAtomic) || x.wr)

/-! ### Errors standing in storage (R435 to R437) -/

/-- A byte is damaged: its unit holds an uncorrectable error, or the taint that one left, and the byte has not been written since. -/
def State.damagedByte (s : State) (pa : Nat) : Bool :=
  match s.ms.errs.get none (pa / 8) with
  | some .double | some .hidden => true
  | some (.part good) => !(good.getLsbD (pa % 8))
  | _ => false
/-- An uncorrectable error, or the taint that one left, stands in the range. -/
def State.damagedIn (s : State) (pa n : Nat) : Bool :=
  (unitsOf pa n).any (fun u => (s.ms.errs.get none u).isSome) && (List.range n).any fun i => s.damagedByte (pa + i)
/-- The 64-byte line of an address. -/
def lineOf (pa : Nat) : Nat := pa / 64 * 64
/-- The lines of a range. -/
def linesOf (pa n : Nat) : List Nat := (List.range ((pa % 64 + n + 63) / 64)).map fun i => lineOf pa + 64 * i
def State.stack (s : State) (sk : Nat) : Stack := s.ms.stks.get {} sk
def State.setStack (s : State) (sk : Nat) (x : Stack) : State := { s with ms := { s.ms with stks := s.ms.stks.put {} sk x } }

/-! ### Parts that wear (R431, R433, R468)

A part is a kind and a number: 0 stripe, 1 matrix element, 2 ring bank (32·ring + bank), 3 scratchpad bank (64·die + bank),
4 HBM row (2^26·stack + 65536·bank + row), 5 link lane of a port (32·package + port), 6 a stripe withdrawn and not yet
left. -/

/-- The lowest of a list of numbers, 0 for none. -/
def lowest : List Nat → Nat
  | [] => 0
  | [x] => x
  | x :: xs => min x (lowest xs)
/-- The pending parts of a kind for which `p` holds. -/
def State.pendingParts (s : State) (kind : Nat) (p : Nat → Bool) : List Nat := (s.ms.pend.filter fun x => decide (x.1 = kind) && p x.2).map Prod.snd
def State.setPend (s : State) (l : List (Nat × Nat)) : State := { s with ms := { s.ms with pend := l } }

/-- SPRg, WEARg, WEARMm and HROWn show what is pending in a ring, a memory-port die and a stack. -/
def State.syncRing (s : State) (g : Nat) : State :=
  let pk := g / 64
  let a := 0x16400 + 8 * (g % 64)
  let b := 0x16800 + 8 * (g % 64)
  let st := s.pendingParts 0 fun n => decide (n / 32 = g)
  let bk := s.pendingParts 2 fun n => decide (n / 32 = g)
  let v := (s.reg pk a &&& ~~~(0xFC : W64)) ||| BitVec.ofNat 64 (if st.isEmpty then 0 else 4 + 8 * (lowest st % 32))
  let w := (s.reg pk b &&& ~~~(0x7E : W64)) ||| BitVec.ofNat 64 (if bk.isEmpty then 0 else 2 + 4 * (lowest bk % 32))
  (s.setReg pk a v).setReg pk b w
def State.syncScratch (s : State) (mp : Nat) : State :=
  let a := 0x16A00 + 16 * (mp % 16)
  let l := s.pendingParts 3 fun n => decide (n / 64 = mp)
  s.setReg (mp / 16) a ((s.reg (mp / 16) a &&& 3) ||| BitVec.ofNat 64 (if l.isEmpty then 0 else 4 + 8 * (lowest l % 64)))
def State.syncRows (s : State) (sk : Nat) : State :=
  let a := 0x16B00 + 8 * (sk % 16)
  let l := s.pendingParts 4 fun n => decide (n / 2 ^ 26 = sk)
  s.setReg (sk / 16) a ((s.reg (sk / 16) a &&& ~~~(0x100000 : W64)) ||| (if l.isEmpty then 0 else 0x100000))

/-- A part is marked failing once. -/
def State.mark (s : State) (kind n : Nat) : State := if s.ms.pend.contains (kind, n) then s else s.setPend (s.ms.pend ++ [(kind, n)])

/-- A stripe is withdrawn (R433). -/
def State.withdrawStripe (s : State) (st : Nat) : State :=
  let g := st / 32
  let a := 0x16400 + 8 * (g % 64)
  s.setReg (g / 64) a (s.reg (g / 64) a ||| 0x100 ||| ((1 : W64) <<< (9 + st % 32)))
/-- A stripe is marked failing: while LEFT = 0 it is withdrawn (R431, R433). -/
def State.markStripe (s : State) (st : Nat) : State :=
  let g := st / 32
  let v := s.reg (g / 64) (0x16400 + 8 * (g % 64))
  if s.ms.pend.contains (0, st) ∨ v.getLsbD (9 + st % 32) then s
  else if v.toNat % 4 = 0 then (s.withdrawStripe st).mark 6 st
  else (s.mark 0 st).syncRing g
/-- A matrix element is marked failing: it takes its stripe's one spare, or marks the stripe. -/
def State.markMx (s : State) (el : Nat) : State :=
  let st := el / 128
  let v := s.reg (st / 2048) (0x16800 + 8 * (st / 32 % 64))
  if s.ms.pend.contains (1, el) then s
  else if v.getLsbD (8 + st % 32) ∨ (s.pendingParts 1 fun n => decide (n / 128 = st)) ≠ [] then s.markStripe st
  else s.mark 1 el
/-- A ring bank is marked failing: while BLEFT = 0 its ring takes no placement from then on. -/
def State.markBank (s : State) (n : Nat) : State :=
  let g := n / 32
  let a := 0x16800 + 8 * (g % 64)
  let v := s.reg (g / 64) a
  if s.ms.pend.contains (2, n) then s
  else if v.getLsbD 0 = false then s.setReg (g / 64) a (v ||| 0x80)
  else (s.mark 2 n).syncRing g
/-- A scratchpad bank is withdrawn (R468). -/
def State.withdrawBank (s : State) (n : Nat) : State :=
  let a := 0x16A08 + 16 * (n / 64 % 16)
  s.setReg (n / 64 / 16) a (s.reg (n / 64 / 16) a ||| ((1 : W64) <<< (n % 64)))
/-- A scratchpad bank is marked failing: while no spare is left it is withdrawn. -/
def State.markScratch (s : State) (n : Nat) : State :=
  let mp := n / 64
  if s.ms.pend.contains (3, n) then s
  else if (s.reg (mp / 16) (0x16A00 + 16 * (mp % 16))).toNat % 4 = 0 then s.withdrawBank n
  else (s.mark 3 n).syncScratch mp
/-- The row of an HBM address (Table 5.6). -/
def rowOf (pa : Nat) : Nat := paStack pa * 2 ^ 26 + pa % 2 ^ 36 / 128 % 1024 * 65536 + pa % 2 ^ 36 / 2 ^ 20
/-- The lines of a row of a bank: `bank` is offset [16:7]. -/
def rowLines (sk bank row : Nat) : List Nat :=
  (List.range 16).map fun i => stackPA sk (row * 2 ^ 20 + i / 2 * 2 ^ 17 + bank % 1024 * 128 + 64 * (i % 2))
/-- An HBM row is marked failing: a bank without spare rows has the frames of the row poisoned. -/
def State.markRow (s : State) (n : Nat) : State :=
  let sk := n / 2 ^ 26
  let bank := n / 65536 % 1024
  let queued := (s.pendingParts 4 fun m => decide (m / 65536 = n / 65536)).length
  if s.ms.pend.contains (4, n) then s
  else if 64 ≤ s.ms.rowUsed.get 0 (n / 65536) + queued then (rowLines sk bank (n % 65536)).foldl (fun t l => t.setPoison l true) s
  else (s.mark 4 n).syncRows sk

/-- An SRAM bank of an address: kind and number; none for HBM and host memory. -/
def bankOf (pa : Nat) : Option (Nat × Nat) :=
  if paSpace pa = 3 then some (2, (paPkg pa * 64 + pa / 2 ^ 26 % 64) * 32 + pa % 2 ^ 26 / 2 ^ 21)
  else if paSpace pa = 2 then some (3, (paPkg pa * 16 + pa % 2 ^ 30 / 2 ^ 26) * 64 + pa % 2 ^ 26 / 2 ^ 20)
  else none
/-- A correction, or an uncorrectable read, of an SRAM bank is counted against it. -/
def State.wearBank (s : State) (pa : Nat) (bad : Bool) : State :=
  match bankOf pa with
  | none => s
  | some (kind, n) =>
    let c := s.ms.bankCnt.get (0, 0) (2 * n + kind % 2)
    let d := if bad then (c.1, c.2 + 1) else (c.1 + 1, c.2)
    let s1 := { s with ms := { s.ms with bankCnt := s.ms.bankCnt.put (0, 0) (2 * n + kind % 2) d } }
    if 4096 < d.1 ∨ 16 ≤ d.2 then (if kind = 2 then s1.markBank n else s1.markScratch n) else s1
/-- Fabric cycles in an hour. -/
def hourCycles : Nat := 6480000000000
/-- A correction in an HBM row is counted against the row's scrub period. -/
def State.wearRow (s : State) (pa : Nat) : State :=
  let n := rowOf pa
  let sk := paStack pa
  let per := s.cyc / (hourCycles * 2 ^ ((s.reg (sk / 16) (0x40080 + 8 * (sk % 16))).toNat / 65536 % 16))
  let c := s.ms.rowCnt.get (0, 0) n
  let k := if c.1 = per then c.2 + 1 else 1
  let s1 := { s with ms := { s.ms with rowCnt := s.ms.rowCnt.put (0, 0) n (per, k) } }
  if 64 < k then s1.markRow n else s1

/-- A correctable error is corrected where it lies and counted: SRAM in ECNT0, HBM in ECNT2. -/
def State.correct (s : State) (pa n : Nat) : State :=
  (unitsOf pa n).foldl (fun s u =>
    if s.ms.errs.get none u = some .single then
      let t := (s.setMark u none).count (paPkg pa) (if paSpace pa = 0 then 2 else 0) 1
      if paSpace pa = 0 then t.wearRow (8 * u) else t.wearBank (8 * u) false
    else s) s

/-- An uncorrectable HBM line enters the damage list and poisons its frame (R437). -/
def State.damageLine (s : State) (line : Nat) : State :=
  let sk := paStack line
  let x := s.stack sk
  let s := if x.damage.contains line ∨ 4096 ≤ x.damage.length then s else s.setStack sk { x with damage := x.damage ++ [line] }
  (s.setPoison line true).markRow (rowOf line)
/-- An HBM line is uncorrectable (R437): the damage list, the frame's poison bit, and 0xE201. -/
def State.uncorrectable (s : State) (line : Nat) : State :=
  (s.damageLine line).detect (paPkg line) .none (2 ^ 90) { fcode := 0xE201, tier := 2, point := 2, addr := BitVec.ofNat 64 line }

/-- An uncorrectable line among those that a page walk reads (R437). -/
def State.walkBad (s : State) (pk : Nat) (asid : BitVec 12) (va : Nat) : Option Nat :=
  ((s.walkReads pk asid va).find? fun a => s.damagedIn a 8).map lineOf
/-- A condition 0xE201 at an address whose walk met an uncorrectable line: the line is damaged (R437). -/
def State.walkDamage (s : State) (pk : Nat) (asid : BitVec 12) (va : Nat) (code : BitVec 16) : State :=
  match s.walkBad pk asid va with
  | some l => if code = 0xE201 then s.damageLine l else s
  | none => s

/-- The conditions 0xE201 that a step detects, beyond the first `n` detected, are those of the Figure whose access met the line: it ends
under R477 where no domain protects the package. -/
def State.blame (s : State) (n rg : Nat) : State :=
  { s with det := s.det.take n ++ (s.det.drop n).map fun d =>
      if d.own = .none ∧ d.info.fcode = 0xE201 then { d with own := .figure (figOf rg), info := { d.info with region := BitVec.ofNat 6 rg } } else d }

/-- The bytes of a read, with the taint of an uncorrectable error; damaged bytes are free values (DESIGN CHOICE, log 7). -/
def State.readBytes (s : State) (pa n : Nat) : State × List Byte × Bool :=
  let s1 := s.correct pa n
  if s1.damagedIn pa n then
    let bad := (linesOf pa n).filter fun l => s1.damagedIn l 64
    let s2 := if paSpace pa = 0 then bad.foldl State.uncorrectable s1 else s1.wearBank pa true
    let v := (List.range n).map fun i =>
      if s1.damagedByte (pa + i) && decide (s1.ms.errs.get none ((pa + i) / 8) ≠ some .hidden) then Config.damagedByte s1.free (pa + i)
      else s1.peek (pa + i)
    ({ s2 with free := s2.free + 1 }, v, true)
  else (s1, s1.peeks pa n, false)

/-- A token as it is read from memory: an uncorrectable error taints it (R418). -/
def State.readToken (s : State) (pa : Nat) : State × Token :=
  let (s1, v, bad) := s.readBytes pa 8
  let t := tokOf (leNat v)
  (s1, if bad then { t with et := true } else t)

end Sys2Proof.Machine
end

