-- ==== Sys2Proof/Machine/SlotMem.lean ====
section
/-! DEFINITION. The memory, stream, atomic, message and system instructions (R261 to R292): each does its part of the firing; what it waits for outside the element is a step of its own. -/
namespace Sys2Proof.Machine
open Sys2Proof

/-- The return address of a firing's later tokens: null completions where the effect is suppressed. The two tokens of an `atom`
or `cas` come at different times. -/
def State.retQ (s : State) (op : SlotOp) (f : Slot) (o : Opn) : Ret :=
  let r := { s.ret f o.taint with squash := slotQuiet op o s }
  match op with
  | .atom | .cas => r.once (Config.freeFirst (2 ^ 40 + s.fl.next))
  | _ => r

/-- The targets at which a later token is reserved. -/
def State.tgts (s : State) (f : Slot) : List Dest := s.outDests s.act.el f true true

/-- A completion in cycle f + 1: null where the effect is suppressed (R292). -/
def doneAfter (quiet : Bool) (t : State) : Fired :=
  { st := t, outs := [{ tok := if quiet then nullTok else doneTok t.seqOf }], lat := 2 }

/-- An operation begins to wait outside the element; its tokens are reserved (R261). -/
def State.addWait (s : State) (op : SlotOp) (f : Slot) (o : Opn) (k : WKind) : State :=
  let n := s.fl.next
  ((s.setWait n { kind := k, ret := s.retQ op f o, rg := s.act.rg, ord := n, f := s.cyc }).reserve n (s.tgts f)).bump

/-- The place of an entry in its stream's order: the cycle of its firing, and in it the element; a barrier stands behind every
access of its cycle (R131, R271, R274). -/
def State.opKey (s : State) : SOp → Nat × Nat
  | .cfg _ _ f el => (f, 2 * s.elOrd el)
  | .acc _ _ _ _ _ _ _ ret f _ => (f, 2 * s.elOrd ret.el)
  | .bar w f => (f, 2 ^ 80 + w)
  | .again _ a => (a.fired, 2 * s.elOrd a.ret.el)
/-- An entry enters a stream's order. -/
def State.insertOp (s : State) (e : SOp) : List SOp → List SOp
  | [] => [e]
  | x :: xs =>
    let a := s.opKey e
    let b := s.opKey x
    if a.1 < b.1 ∨ (a.1 = b.1 ∧ a.2 < b.2) then e :: x :: xs else x :: s.insertOp e xs

/-- An access enters its stream's order (R129, R271). -/
def State.pushAcc (s : State) (op : SlotOp) (f : Slot) (o : Opn) (kind : AKind) (scope : BitVec 3) (idx : Option W32)
    (data : List W32) (cmp : W32) (ds : List Dest) : State :=
  let n := s.fl.next
  let rs := s.rsOf o.b
  let t := s.strm rs
  let e : SOp := .acc n kind scope o.b idx data cmp (s.retQ op f o) s.cyc s.act.rg
  (((s.setStrm rs { t with q := s.insertOp e t.q }).reserve n ds)).bump

/-- Whether a byte range of a ring's banks lies in the region's allotments (R104). -/
def Region.allots (r : Region) (ring a n : Nat) : Bool :=
  r.allot.any fun x => decide (x.ring = ring ∧ x.base ≤ a ∧ a + n ≤ x.base + x.len)

/-- The earliest cycle of a bank access's token: f + 3 + 2d (R264). -/
def bankMin (el addr f : Nat) : Nat :=
  let sp := stOf el % 32
  let b := addr / 2 ^ 21
  f + 3 + 2 * min ((b + 32 - sp) % 32) ((sp + 31 + 32 - b) % 32)

/-- A ring-bank access (R264): the address checks, then an access in flight. -/
def bankFired (op : SlotOp) (f : Slot) (o : Opn) (t : State) (kind : AKind) (data : List Byte) : Fired :=
  let addr := o.a.toNat + o.b.toNat
  let r := t.region t.act.rg
  if addr ≥ 2 ^ 26 ∨ addr % 4 ≠ 0 then { st := t, breach := some (0x3001, 0) }
  else if !(r.allots (ringOf (stOf t.act.el)) addr 4) then { st := t, breach := some (0x3002, 0) }
  else
    let n := t.fl.next
    let a : Access := { rg := t.act.rg, kind := kind, pa := ringPA (ringOf (stOf t.act.el)) addr, data := data,
                        ret := t.retQ op f o, fired := t.cyc, minAt := bankMin t.act.el addr t.cyc }
    { st := ((t.setAcc n a).reserve n (t.tgts f)).bump }

/-- The bytes of a word, lowest first (R5). -/
def wordBytes (v : W32) : List Byte := (List.range 4).map fun i => v.extractLsb' (8 * i) 8

/-- The bank read of a base node (R313): the aligned word at stack offset 4096·WOFF + wrap(a + b, 32), no earlier than 40
base cycles, which are 60 fabric cycles, after firing. -/
def baseFired (f : Slot) (o : Opn) (t : State) : Fired :=
  let k := ringOf (stOf t.act.el) - baseRing
  let woff := (t.reg (k / 1024) (0x50008 + 0x800 * (k / 64 % 16) + 32 * (k % 64))).toNat / 4096
  let off := (4096 * woff + (o.a + o.b).toNat) % 2 ^ 36 / 4 * 4
  let n := t.fl.next
  let a : Access := { rg := t.act.rg, pa := k / 1024 * 2 ^ 40 + k / 64 % 16 * 2 ^ 36 + off, ret := t.retQ .ldb f o,
                      fired := t.cyc, minAt := t.cyc + 60 }
  { st := ((t.setAcc n a).reserve n (t.tgts f)).bump }

/-- `ldb` (R264, R313); squashed, it delivers payload 0 (R29). -/
def execLdb (f : Slot) (s : State) : Host.Outcome State Fault Refusal :=
  slotExec .ldb f s fun o t =>
    if slotQuiet .ldb o t then { st := t, outs := [{ tok := dataTok 0 t.seqOf }], lat := 2 }
    else if baseRing ≤ ringOf (stOf t.act.el) then baseFired f o t
    else bankFired .ldb f o t (.load false) []

/-- `stb` (R264). -/
def execStb (f : Slot) (s : State) : Host.Outcome State Fault Refusal :=
  slotExec .stb f s fun o t =>
    if slotQuiet .stb o t then doneAfter true t else bankFired .stb f o t (.store true) (wordBytes o.x)

/-- The lane that MOD[0] and CIDX name (R263). -/
def laneOf (f : Slot) : BitVec 5 := f.cidx.zeroExtend 5 + (if f.mod.getLsbD 0 then 16 else 0)

/-- `lnsend` (R265): onto the lane, and to both targets. -/
def execLnsend (f : Slot) (s : State) : Host.Outcome State Fault Refusal :=
  slotExec .lnsend f s fun o t =>
    let tok := { dataTok o.a t.seqOf with et := o.taint }
    { st := t.addEmit { due := t.cyc, ord := t.elRank t.act.el, src := t.act.el,
                        dst := .lane (stOf t.act.el) (laneOf f), f := t.cyc, tok := tok },
      outs := [{ tok := tok }] }

/-- `lntap` (R266): the token at the stripe, kept whole but for RID; with `.take` it leaves the lane. A squashed tap
delivers payload 0 (R292). -/
def execLntap (f : Slot) (s : State) : Host.Outcome State Fault Refusal :=
  slotExec .lntap f s fun _ t =>
    if t.act.squash then { st := t, outs := [{ tok := dataTok 0 t.seqOf }] }
    else
      let st := stOf t.act.el
      let p := t.stripe st
      match p.lanes.get none (laneOf f).toNat with
      | none => { st := t, breach := some (0x3003, 0) }
      | some (tok, taken) =>
        { st := if f.mod.getLsbD 1 then t.setStripe st { p with lanes := p.lanes.put none (laneOf f).toNat (some (tok, true)) }
                else t.setStripe st { p with lanes := p.lanes.put none (laneOf f).toNat (some (tok, taken)) },
          outs := [{ tok := tok }] }

/-- `spop` (R267): the port's head token, whole, its ET too (R419). -/
def execSpop (f : Slot) (s : State) : Host.Outcome State Fault Refusal :=
  slotExec .spop f s fun o t =>
    let n := t.portOf f.mod
    let p := t.port n
    match o.lt with
    | none => { st := t }
    | some tok => { st := t.setPort n { p with fifo := p.fifo.tail }, outs := [{ tok := tok }] }

/-- `spush` (R268): the token at `qL` whole with its RID, or a data token of the register's value with RID 0. -/
def execSpush (f : Slot) (s : State) : Host.Outcome State Fault Refusal :=
  slotExec .spush f s fun o t =>
    if t.act.squash then { st := t }
    else
      let tok := match o.lt with | some x => x | none => dataTok o.a t.seqOf
      { st := t.addEmit { due := t.cyc, ord := t.elRank t.act.el, src := t.act.el,
                          dst := .port (t.portOf f.mod), f := t.cyc, tok := { tok with et := tok.et || o.taint } } }

/-- The descriptor that a buffer instruction names: a ring-bank address, or with `.scr` a raw scratchpad offset (R269);
0, which is no descriptor's address, where the operand is beyond the space. -/
def State.descOf (s : State) (scr : Bool) (a : W32) : Nat :=
  let ring := ringOf (stOf s.act.el)
  if scr then (if a.toNat < 2 ^ 30 then scrPA (pkOf ring) a.toNat else 0)
  else if a.toNat < 2 ^ 26 then ringPA ring a.toNat else 0

/-- `cbput.open` (R269): the put goes to the buffer's controller. -/
def execCbputOpen (f : Slot) (s : State) : Host.Outcome State Fault Refusal :=
  slotExec .cbputOpen f s fun o t =>
    let e := t.elem t.act.el
    let scr := f.mod.getLsbD 3
    let d := t.descOf scr o.a
    let p : OpenBuf := { wait := t.fl.next, desc := d, scr := scr, len := o.b.toNat, done := 0, addr := 0,
                         need := 16 + 16 * ((o.b.toNat + 15) / 16), placed := false }
    if slotQuiet .cbputOpen o t then { st := t.setElem t.act.el { e with noPut := some ((o.b.toNat + 3) / 4) } }
    else
      let n := t.fl.next
      let t := t.setElem t.act.el { e with put := some p }
      { st := (t.setWait n { kind := .cbput d scr o.b.toNat o.x t.act.el, rg := t.act.rg, ord := n, f := t.cyc }).bump }

/-- The oldest entries of a controller's list that are finished leave it; their amounts add up. -/
def drainDone : List (Nat × Nat × Bool) → Nat × List (Nat × Nat × Bool)
  | [] => (0, [])
  | (n, a, d) :: xs => if d then let (t, r) := drainDone xs; (a + t, r) else (0, (n, a, d) :: xs)
/-- The entry of operation `n` is finished. -/
def markDone (n : Nat) : List (Nat × Nat × Bool) → List (Nat × Nat × Bool)
  | [] => []
  | (m, a, d) :: xs => (m, a, d || decide (m = n)) :: markDone n xs

/-- The first physical address of the space that holds a descriptor. -/
def cbSpace (desc : Nat) : Nat := if paSpace desc = 3 then desc / 2 ^ 26 * 2 ^ 26 else desc / 2 ^ 30 * 2 ^ 30

/-- SIZE of a buffer, and whether its descriptor may be used by element `el` of region `rg` (0x3006). -/
def State.cbSize (s : State) (desc : Nat) : Nat := 2 ^ ((s.read32 (desc + 4)).toNat % 32)
def State.cbOk (s : State) (desc el rg : Nat) : Bool :=
  let sz := (s.read32 (desc + 4)).toNat
  let die := desc / 2 ^ 26 % 16
  let f := dieOf (ringOf (stOf el))
  decide (desc ≠ 0 ∧ desc % 32 = 0 ∧ 8 ≤ sz ∧ sz ≤ 20 ∧ (s.read32 desc).toNat % 2 ^ sz = 0)
  && decide (leNat (s.peeks (desc + 16) 16) = 0)
  && (if paSpace desc = 3 then (s.region rg).allots (desc / 2 ^ 40 % 8192 * 64 + desc / 2 ^ 26 % 64) (desc % 2 ^ 26) 32 else decide (die = f ∨ die = (f + 15) % 16))

/-- A condition of a buffer's controller (point 3): the operation goes no further. -/
def State.cbFault (s : State) (w : Nat) (x : Wait) (el : Nat) (code : BitVec 16) : State :=
  let s1 := ((s.delWait w).unreserve w).detect (s.region x.rg).pk (.figure (figOf x.rg)) (s.elOrd el)
    { fcode := code, point := 3, place := placeOf el, region := BitVec.ofNat 6 x.rg }
  s1.setElem el { s1.elem el with put := none, get := none }

/-- The sum of outstanding amounts. -/
def amounts (l : List (Nat × Nat × Bool)) : Nat := (l.map fun p => p.2.1).sum

/-- An earlier put, or get, to the same buffer waits. -/
def State.cbBefore (s : State) (w : Nat) (x : Wait) (desc : Nat) (put : Bool) : Bool :=
  s.fl.waits.any fun p => decide (p.1 ≠ w ∧ p.2.ord < x.ord) && (match p.2.kind with
    | .cbput d .. => put && decide (d = desc)
    | .cbget d .. => !put && decide (d = desc)
    | _ => false)

/-- The placement step of R122: the message's header is written and its bytes are reserved, or the put is held. BASE counts from the
start of the descriptor's space, wherever it leads (DESIGN CHOICE, log 85). -/
def State.placePut (s : State) (w : Nat) (x : Wait) (desc len : Nat) (tag : W32) (el : Nat) : State :=
  let size := s.cbSize desc
  if s.cbOk desc el x.rg = false then s.cbFault w x el 0x3006
  else if len = 0 ∨ 65536 ≤ len ∨ size / 2 - 16 < len then s.cbFault w x el 0x3005
  else
    let b := s.bufs.get {} desc
    let need := 16 + 16 * ((len + 15) / 16)
    let tail := ((s.read32 (desc + 12)).toNat + amounts b.puts) % 2 ^ 32
    let used := (tail + 2 ^ 32 - (s.read32 (desc + 8)).toNat) % 2 ^ 32
    let pos := tail % size
    let base := cbSpace desc + (s.read32 desc).toNat
    let place (s : State) (at_ amt : Nat) : State :=
      let s1 := s.writeBytes (base + at_) (leBytes 4 len ++ wordBytes tag ++ List.replicate 8 0)
      let s2 := { s1 with bufs := s1.bufs.put {} desc { b with puts := b.puts ++ [(w, amt, false)] } }
      let e := s2.elem el
      (s2.setElem el { e with put := e.put.map fun p => if p.wait = w then { p with placed := true, addr := base + at_ + 16, need := need } else p }).delWait w
    if need ≤ size - pos ∧ need ≤ size - used then place s pos need
    else if size - pos < need ∧ need + used + (size - pos) ≤ size then
      place (s.writeBytes (base + pos) (leBytes 4 0x10000 ++ List.replicate 12 0)) 0 (size - pos + need)
    else s.setWait w { x with held := true }

/-- The held put that stands first in the order of arrival at its buffer's controller. -/
def State.firstHeld (s : State) (desc : Nat) : Option (Nat × Wait × Nat × W32 × Nat) :=
  s.fl.waits.findSome? fun p => match p.2.kind with
    | .cbput d _ len tag el => if d = desc ∧ p.2.held ∧ s.cbBefore p.1 p.2 desc true = false then some (p.1, p.2, len, tag, el) else none
    | _ => none
/-- HEAD has moved: held puts are placed, in their order, as far as space goes (R122, R123). -/
def State.retryPuts (s : State) (desc : Nat) : Nat → State
  | 0 => s
  | n + 1 => match s.firstHeld desc with
    | none => s
    | some (w, x, len, tag, el) =>
      let t := s.placePut w x desc len tag el
      if (t.wait w).isSome then t else t.retryPuts desc n

/-- Messages that TAIL has passed complete: the operation that wrote the last word emits its completion (R133, R269). -/
def State.tailPassed (s : State) (desc : Nat) : State :=
  (s.fl.waits.filter fun p => match p.2.kind with
    | .cbtail d n => decide (d = desc) && !((s.bufs.get {} desc).puts.any fun q => decide (q.1 = n))
    | _ => false).foldl (fun u p => (u.delWait p.1).complete p.1 p.2.ret [{ tok := doneTok p.2.ret.seq }]) s
/-- A finished put: TAIL advances past every placement whose words are all written, in placement order (R269). -/
def State.finishPut (s : State) (desc n : Nat) : State :=
  let b := s.bufs.get {} desc
  let (amt, puts) := drainDone (markDone n b.puts)
  let tail := s.read32 (desc + 12) + BitVec.ofNat 32 amt
  (({ s with bufs := s.bufs.put {} desc { b with puts := puts } }).writeBytes (desc + 12) (wordBytes tail)).tailPassed desc
/-- HEAD advances by the gets that are finished, in claim order, which releases held puts in the same step (R123, R270). -/
def State.advanceHead (s : State) (desc : Nat) (gets : List (Nat × Nat × Bool)) : State :=
  let (amt, rest) := drainDone gets
  let b := s.bufs.get {} desc
  let head := s.read32 (desc + 8) + BitVec.ofNat 32 amt
  let t := ({ s with bufs := s.bufs.put {} desc { b with gets := rest } }).writeBytes (desc + 8) (wordBytes head)
  if amt = 0 then t else t.retryPuts desc t.fl.waits.length
/-- A finished get. -/
def State.finishGet (s : State) (desc n : Nat) : State := s.advanceHead desc (markDone n (s.bufs.get {} desc).gets)

/-- A put whose last word is suppressed: it is withdrawn where it is not placed, else finished as it stands (R292). -/
def State.quitPut (s : State) (p : OpenBuf) : State := if p.placed then s.finishPut p.desc p.wait else s.delWait p.wait

/-- `cbput.word` (R269): one payload word; the last one pads the message with zeros behind byte LEN (R121), and its completion is
emitted once TAIL has passed the message. The words of a suppressed put write nothing, and the last gives a null completion
(R292). The word is written at the firing, whatever accesses of the element to the same bank are still on their way (DESIGN CHOICE,
log 84). -/
def execCbputWord (f : Slot) (s : State) : Host.Outcome State Fault Refusal :=
  slotExec .cbputWord f s fun o t =>
    let e := t.elem t.act.el
    let quiet := slotQuiet .cbputWord o t
    let more (n : Nat) : Fired :=
      if n ≤ 1 then { st := t.setElem t.act.el { e with noPut := none }, outs := [{ tok := nullTok }] }
      else { st := t.setElem t.act.el { e with noPut := some (n - 1) } }
    match e.noPut, e.put with
    | some n, none => more n
    | none, none => if quiet then { st := t } else { st := t, breach := some (0x3004, 0) }
    | np, some p =>
      if quiet ∧ np.isSome then more (np.getD 0)
      else
        let t1 := if quiet then t else t.writeBytes (p.addr + 4 * p.done) ((wordBytes o.a).take (p.len - 4 * p.done))
        if p.done + 1 ≥ (p.len + 3) / 4 then
          let t2 := t1.setElem t1.act.el { t1.elem t1.act.el with put := none }
          if quiet then { st := t2.quitPut p, outs := [{ tok := nullTok }] }
          else
            let t3 := t2.writeBytes (p.addr + p.len) (List.replicate (p.need - 16 - p.len) 0)
            { st := (t3.addWait .cbputWord f o (.cbtail p.desc p.wait)).finishPut p.desc p.wait }
        else { st := t1.setElem t1.act.el { t1.elem t1.act.el with put := some { p with done := p.done + 1 } } }

/-- `cbget.open` (R270): LEN to TGT1 and TAG to TGT2 once a message is claimed. -/
def execCbgetOpen (f : Slot) (s : State) : Host.Outcome State Fault Refusal :=
  slotExec .cbgetOpen f s fun o t =>
    if slotQuiet .cbgetOpen o t then { st := t, outs := [{ tok := dataTok 0 t.seqOf }], lat := 2 }
    else
      let e := t.elem t.act.el
      let scr := f.mod.getLsbD 3
      let d := t.descOf scr o.a
      let g : OpenBuf := { wait := t.fl.next, desc := d, scr := scr, len := 0, done := 0, addr := 0, need := 0, placed := false }
      let t := t.setElem t.act.el { e with get := some g }
      { st := t.addWait .cbgetOpen f o (.cbget d scr t.act.el) }

/-- `cbget.word` (R270): the next payload word; the last one advances HEAD in claim order. -/
def execCbgetWord (f : Slot) (s : State) : Host.Outcome State Fault Refusal :=
  slotExec .cbgetWord f s fun o t =>
    if slotQuiet .cbgetWord o t then { st := t, outs := [{ tok := dataTok 0 t.seqOf }], lat := 2 }
    else
      let e := t.elem t.act.el
      match e.get with
      | none => { st := t, breach := some (0x3004, 0) }
      | some g =>
        -- an uncorrectable error read by a slot taints its token (R435)
        let (t, v, bad) := t.readBytes (g.addr + 4 * g.done) 4
        let tok := { dataTok (BitVec.ofNat 32 (leNat v)) t.seqOf with et := bad }
        if g.done + 1 ≥ (g.len + 3) / 4 then
          let t1 := t.finishGet g.desc g.wait
          { st := t1.setElem t1.act.el { t1.elem t1.act.el with get := none }, outs := [{ tok := tok }] }
        else { st := t.setElem t.act.el { e with get := some { g with done := g.done + 1 } }, outs := [{ tok := tok }] }

/-- `agen` (R271): a configuration write in stream order. A tainted firing is suppressed before its words are checked, here and in every
instruction with an access word (R421). -/
def execAgen (f : Slot) (s : State) : Host.Outcome State Fault Refusal :=
  slotExec .agen f s fun o t =>
    if o.taint = false ∧ (o.a.toNat / 32 ≠ 0 ∨ !((t.region t.act.rg).rsmask.getLsbD (o.a.toNat % 32))) then
      { st := t, breach := some (0x4009, BitVec.ofNat 32 (o.a.toNat % 32)) }
    else if slotQuiet .agen o t then { st := t }
    else if f.mod = 8 ∧ (o.b.toNat / 2 ^ 15 ≠ 0 ∨ o.b.toNat / 16 % 4 = 3) then
      { st := t, breach := some (0x4004, BitVec.ofNat 32 (o.a.toNat % 32)) }
    else
      let rs := t.rsOf o.a
      let x := t.strm rs
      { st := t.setStrm rs { x with q := t.insertOp (.cfg f.mod o.b t.cyc t.act.el) x.q, rg := some t.act.rg } }

/-- The tokens of a suppressed access: data of payload 0 for a load or an old value, a null completion else (R29). -/
def suppressed (load : Bool) (t : State) : Fired :=
  { st := t, outs := [{ tok := if load then dataTok 0 t.seqOf else nullTok }], lat := 2 }

/-- A load through a ring stream (R273). -/
def loadFired (op : SlotOp) (f : Slot) (o : Opn) (t : State) (idx : Option W32) : Fired :=
  if !o.taint && t.wordFault o.b false then { st := t, breach := some (0x4009, BitVec.ofNat 32 (o.b.toNat % 32)) }
  else if slotQuiet op o t then suppressed true t
  else { st := t.pushAcc op f o (.load (f.mod.getLsbD 0)) 0 idx [] 0 (t.tgts f) }

/-- `ldg` (R273). -/
def execLdg (f : Slot) (s : State) : Host.Outcome State Fault Refusal :=
  slotExec .ldg f s fun o t => loadFired .ldg f o t none
/-- `ldgx` (R273): indexed. -/
def execLdgx (f : Slot) (s : State) : Host.Outcome State Fault Refusal :=
  slotExec .ldgx f s fun o t => loadFired .ldgx f o t (some o.a)

/-- A store through a ring stream (R273): words are collected up to the access size; the last one issues it. A store of
which any firing is suppressed does not take place. -/
def storeFired (op : SlotOp) (f : Slot) (o : Opn) (t : State) (idx : Option W32) : Fired :=
  if !o.taint && t.wordFault o.b false then { st := t, breach := some (0x4009, BitVec.ofNat 32 (o.b.toNat % 32)) }
  else
    let e := t.elem t.act.el
    let n := o.b.toNat % 32
    let ws := e.part.get [] n ++ [o.a]
    let q := e.partSquash.get false n || slotQuiet op o t
    if lastWord e n (t.strm (t.rsOf o.b)).eszBehind then
      let t := t.setElem t.act.el { e with part := e.part.put [] n [], partSquash := e.partSquash.put false n false }
      if q then suppressed false t
      else { st := t.pushAcc op f o (.store (f.mod.getLsbD 3)) (field f.mod 0 3) idx ws 0 (t.tgts f) }
    else { st := t.setElem t.act.el { e with part := e.part.put [] n ws, partSquash := e.partSquash.put false n q } }

/-- `stg` (R273). -/
def execStg (f : Slot) (s : State) : Host.Outcome State Fault Refusal :=
  slotExec .stg f s fun o t => storeFired .stg f o t none
/-- `stgx` (R273): indexed. -/
def execStgx (f : Slot) (s : State) : Host.Outcome State Fault Refusal :=
  slotExec .stgx f s fun o t => storeFired .stgx f o t (some o.x)

/-- `pfg` (R273): translation and movement of a block. -/
def execPfg (f : Slot) (s : State) : Host.Outcome State Fault Refusal :=
  slotExec .pfg f s fun o t =>
    if !o.taint && t.wordFault o.b false then { st := t, breach := some (0x4009, BitVec.ofNat 32 (o.b.toNat % 32)) }
    else if slotQuiet .pfg o t then doneAfter true t
    else { st := t.pushAcc .pfg f o .pfg 0 (some o.a) [] 0 (t.tgts f) }

/-- The tokens of a suppressed `atom` or `cas`: old value 0 to TGT1, a null completion to TGT2 (R29, R292). -/
def suppressedAtomic (t : State) : Fired :=
  { st := t, outs := [{ which := 1, tok := dataTok 0 t.seqOf }, { which := 2, tok := nullTok }], lat := 2 }

/-- `atom` (R275). -/
def execAtom (f : Slot) (s : State) : Host.Outcome State Fault Refusal :=
  slotExec .atom f s fun o t =>
    if !o.taint && t.wordFault o.b true then { st := t, breach := some (0x4009, BitVec.ofNat 32 (o.b.toNat % 32)) }
    else if slotQuiet .atom o t then suppressedAtomic t
    else { st := t.pushAcc .atom f o (.atom (field o.b 8 4) true) (field f.mod 0 3)
                   (if o.b.getLsbD 12 then some o.x else none) [o.a] 0 (t.tgts f) }

/-- `red` (R275): no old value. -/
def execRed (f : Slot) (s : State) : Host.Outcome State Fault Refusal :=
  slotExec .red f s fun o t =>
    if !o.taint && t.wordFault o.b true then { st := t, breach := some (0x4009, BitVec.ofNat 32 (o.b.toNat % 32)) }
    else if slotQuiet .red o t then suppressed false t
    else { st := t.pushAcc .red f o (.atom (field o.b 8 4) false) (field f.mod 0 3)
                   (if o.b.getLsbD 12 then some o.x else none) [o.a] 0 (t.tgts f) }

/-- `cas` (R276). -/
def execCas (f : Slot) (s : State) : Host.Outcome State Fault Refusal :=
  slotExec .cas f s fun o t =>
    if !o.taint && t.wordFault o.b true then { st := t, breach := some (0x4009, BitVec.ofNat 32 (o.b.toNat % 32)) }
    else if slotQuiet .cas o t then suppressedAtomic t
    else { st := t.pushAcc .cas f o .cas (field f.mod 0 3) none [o.x] o.a (t.tgts f) }

/-- `fence` (R277): waits for R136. -/
def execFence (f : Slot) (s : State) : Host.Outcome State Fault Refusal :=
  slotExec .fence f s fun o t =>
    if slotQuiet .fence o t then doneAfter true t
    else { st := t.addWait .fence f o (.fence (field f.mod 0 3) t.act.el (t.fig (figOf t.act.rg)).lastTag) }

/-- A barrier takes its place in each stream that the mask names. -/
def State.placeBars (s : State) (ring w : Nat) (mask : W32) : List Nat → State
  | [] => s
  | k :: ks =>
    if mask.getLsbD k then
      let x := s.strm (ring * 32 + k)
      (s.setStrm (ring * 32 + k) { x with q := s.insertOp (.bar w s.cyc) x.q }).placeBars ring w mask ks
    else s.placeBars ring w mask ks

/-- The lowest ring stream of a mask. -/
def lowBit (m : W32) : Nat := ((List.range 32).find? fun k => m.getLsbD k).getD 0

/-- `sbar` (R278): holds the named streams; a mask of zero completes at once. -/
def execSbar (f : Slot) (s : State) : Host.Outcome State Fault Refusal :=
  slotExec .sbar f s fun o t =>
    let bad := o.a &&& ~~~(t.region t.act.rg).rsmask
    if o.taint = false ∧ bad ≠ 0 then { st := t, breach := some (0x4009, BitVec.ofNat 32 (lowBit bad)) }
    else if slotQuiet .sbar o t then doneAfter true t
    else if o.a = 0 then { st := t, outs := [{ tok := doneTok t.seqOf }] }
    else
      let ring := t.homeRing (stOf t.act.el)
      let t1 := t.placeBars ring t.fl.next o.a (List.range 32)
      { st := t1.addWait .sbar f o (.sbar (field f.mod 0 3) ring o.a none) }

/-- `xreq` (R279, R280): one word of a packet; the eighth offers it to the port, or discards it where any of its
firings was suppressed. -/
def execXreq (f : Slot) (s : State) : Host.Outcome State Fault Refusal :=
  slotExec .xreq f s fun o t =>
    let e := t.elem t.act.el
    let n := f.mod.toNat % 8
    let ws := e.pkt.get [] n ++ [o.a]
    let q := e.pktSquash.get false n || slotQuiet .xreq o t
    if ws.length < 8 then
      { st := t.setElem t.act.el { e with pkt := e.pkt.put [] n ws, pktSquash := e.pktSquash.put false n q } }
    else
      let t1 := t.setElem t.act.el { e with pkt := e.pkt.put [] n [], pktSquash := e.pktSquash.put false n false }
      if q then doneAfter true t1
      else { st := t1.addWait .xreq f o (.packet (t1.xport f.mod) t1.act.el ws) }

/-- `publish` (R281). -/
def execPublish (f : Slot) (s : State) : Host.Outcome State Fault Refusal :=
  slotExec .publish f s fun o t =>
    let pk := o.a.toNat / 64 % 8192
    let own := elPk t.act.el
    if slotQuiet .publish o t then doneAfter true t
    else if o.a.toNat / 2 ^ 19 ≠ 0 ∨ (pk ≠ own ∧ pk ≥ t.domSize own) then { st := t, breach := some (0x2009, o.a) }
    else { st := t.addWait .publish f o (.publish pk (field o.a 0 6)) }

/-- The firing's Figure runs in several instances: its effects wait for their compare point (R426). -/
def State.redundant (s : State) : Bool := decide (1 < (s.fig (figOf s.act.rg)).insts)
/-- The layout record at a virtual address leaves every cache of the package. -/
def State.flushLayout (s : State) (pk : Nat) (asid : BitVec 12) (va : Nat) : State :=
  let ls : FMap (List (BitVec 12 × Nat × List Byte)) := s.ms.layouts.foldl (fun m p =>
    m.put [] p.1 (if p.1 / 16 = pk then p.2.filter (fun x => decide (x.1 ≠ asid ∨ x.2.1 ≠ va)) else p.2)) []
  { s with ms := { s.ms with layouts := ls } }

/-- `lrflush` (R282): the record leaves every layout-record cache of the package. -/
def execLrflush (f : Slot) (s : State) : Host.Outcome State Fault Refusal :=
  slotExec .lrflush f s fun o t =>
    if slotQuiet .lrflush o t then doneAfter true t
    else if o.a.toNat % 64 ≠ 0 then { st := t, breach := some (0x200C, o.a) }
    else
      let pk := elPk t.act.el
      let va := (o.b ++ o.a : W64).toNat % 2 ^ 57
      if t.redundant then { st := t.addWait .lrflush f o (.lrflush pk va) }
      else doneAfter false (t.flushLayout pk (t.fig (figOf t.act.rg)).asid va)

/-- `secw.set` (R283). -/
def execSecwSet (f : Slot) (s : State) : Host.Outcome State Fault Refusal :=
  slotExec .secwSet f s fun o t =>
    if slotQuiet .secwSet o t then doneAfter true t
    else if o.a.toNat / 4096 ≠ 0 then { st := t, breach := some (0x200B, o.a) }
    else if t.redundant then { st := t.addWait .secwSet f o (.secset (elPk t.act.el * 4096 + o.a.toNat) o.b) }
    else doneAfter false { t with secs := t.secs.put 0 (elPk t.act.el * 4096 + o.a.toNat) o.b }

/-- `secw` (R283): waits for the counter. -/
def execSecw (f : Slot) (s : State) : Host.Outcome State Fault Refusal :=
  slotExec .secw f s fun o t =>
    if slotQuiet .secw o t then doneAfter true t
    else if o.a.toNat / 4096 ≠ 0 then { st := t, breach := some (0x200B, o.a) }
    else { st := t.addWait .secw f o (.secw (elPk t.act.el * 4096 + o.a.toNat) o.b) }

/-- `crd` (R284): waits for a completion record. -/
def execCrd (f : Slot) (s : State) : Host.Outcome State Fault Refusal :=
  slotExec .crd f s fun o t =>
    if slotQuiet .crd o t then doneAfter true t
    else if o.a.toNat / 4096 ≠ 0 then { st := t, breach := some (0x200B, o.a) }
    else { st := t.addWait .crd f o (.crd (elPk t.act.el * 4096 + o.a.toNat) o.b) }

/-- `msend` (R286): the message buffer, the launch TAG and the word a. -/
def execMsend (f : Slot) (s : State) : Host.Outcome State Fault Refusal :=
  slotExec .msend f s fun o t =>
    if slotQuiet .msend o t then doneAfter true t
    else
      let e := t.elem t.act.el
      let ws := (List.range 14).map (fun i => e.msg.get 0 i) ++ [(t.fig (figOf t.act.rg)).tag, o.a]
      { st := t.addWait .msend f o (.msend (elPk t.act.el) ws (f.mod.getLsbD 3) none) }

/-- `mword` (R285): squashed, it still writes its slot (R292). -/
def execMword (f : Slot) (s : State) : Host.Outcome State Fault Refusal :=
  slotExec .mword f s fun o t =>
    if o.taint then { st := t }
    else { st := t.setElem t.act.el { t.elem t.act.el with msg := (t.elem t.act.el).msg.put 0 f.mod.toNat o.a } }

/-- `rdin` (R287): at f + 1, the value at the start of cycle f. -/
def execRdin (f : Slot) (s : State) : Host.Outcome State Fault Refusal :=
  slotValue .rdin 2 f s fun _ => field (s.instatAt (elPk s.act.el)) (if f.mod = 0 then 0 else 32) 32

/-- `sealreq` (R287): without intervals it completes at f + 1, but in a redundant Figure at its compare point (R426). -/
def execSealreq (f : Slot) (s : State) : Host.Outcome State Fault Refusal :=
  slotExec .sealreq f s fun o t =>
    let pk := elPk t.act.el
    if slotQuiet .sealreq o t then doneAfter true t
    else if t.pvEn pk ∨ 1 < (t.fig (figOf t.act.rg)).insts then { st := t.addWait .sealreq f o (.sealreq pk) }
    else doneAfter false t

/-- The value of an element-visible control register (Table 11.5). -/
def State.crRead (s : State) (i : Nat) : Option W32 :=
  let el := s.act.el
  let r := s.region s.act.rg
  if i = 0x000 then some (BitVec.ofNat 32 (s.clock (elPk el)))
  else if i = 0x001 then some (s.elem el).cychi
  else if i = 0x002 then some (BitVec.ofNat 32 (elPk el))
  else if i = 0x003 then some ((placeOf el).zeroExtend 32)
  else if i = 0x004 then some (s.ring (ringOf (stOf el))).throt
  else if i = 0x008 then some (bit01 r.brken)
  else if 0x010 ≤ i ∧ i ≤ 0x01F then some (r.usr.get 0 (i - 0x010))
  else if i = 0x020 then some r.sperr
  else none

/-- `rdcr` (R288): at f + 1; a read of CYCLO latches the high half. -/
def execRdcr (f : Slot) (s : State) : Host.Outcome State Fault Refusal :=
  slotExec .rdcr f s fun o t =>
    match t.crRead o.a.toNat with
    | none => { st := t, breach := some (0x2008, o.a) }
    | some v =>
      let t := if o.a = 0 then t.setElem t.act.el { t.elem t.act.el with cychi := BitVec.ofNat 32 (t.clock (elPk t.act.el) / 2 ^ 32) } else t
      { st := t, outs := [{ tok := dataTok v t.seqOf }], lat := 2 }

/-- `wrcr` (R288): effective from cycle t + 2. -/
def execWrcr (f : Slot) (s : State) : Host.Outcome State Fault Refusal :=
  slotExec .wrcr f s fun o t =>
    if slotQuiet .wrcr o t then doneAfter true t
    else if (t.crRead o.a.toNat).isNone ∨ o.a.toNat ≤ 4 then { st := t, breach := some (0x2008, o.a) }
    else if o.a = 8 ∧ o.b.toNat ≥ 2 then { st := t, breach := some (0x2008, o.b) }
    else doneAfter false (t.addEmit { due := t.cyc + 1, ord := t.elRank t.act.el, src := t.act.el,
                                      dst := .cr t.act.rg (field o.a 0 12), f := t.cyc, tok := dataTok o.b 0 })

/-- `evc` (R289): the new mask holds from f + 1; the old one is emitted at f. -/
def execEvc (f : Slot) (s : State) : Host.Outcome State Fault Refusal :=
  slotExec .evc f s fun o t =>
    let old := (t.elem t.act.el).evmask
    let v : BitVec 16 := field o.a 0 16
    if slotQuiet .evc o t then { st := t, outs := [{ tok := dataTok 0 t.seqOf }] }
    else
      let new := if f.mod = 0 then old ||| v else if f.mod = 1 then old &&& ~~~v else v
      { st := t.addEmit { due := t.cyc, ord := t.elRank t.act.el, src := t.act.el,
                          dst := .evmask t.act.el, f := t.cyc, tok := dataTok (new.zeroExtend 32) 0 },
        outs := [{ tok := dataTok (old.zeroExtend 32) t.seqOf }] }

/-- `trap` (R290, R457): the slot fires; its region fires nothing further; the record waits for the handler. -/
def execTrap (f : Slot) (s : State) : Host.Outcome State Fault Refusal :=
  slotExec .trap f s fun o t =>
    if slotQuiet .trap o t then { st := t } else { st := t.slotFault 0xD001 4 (o.a &&& 0xFFFF) }

/-- `brk` (R290, R457): only where BRKEN.EN is 1. -/
def execBrk (f : Slot) (s : State) : Host.Outcome State Fault Refusal :=
  slotExec .brk f s fun o t =>
    if slotQuiet .brk o t || !(t.region t.act.rg).brken then { st := t } else { st := t.slotFault 0xD002 4 0 }

/-- A region retires with its exit word; of several halts in one cycle the one of the highest element gives the word (R291).
The Figure retires once every region of it has. `key` is the element order of the halt, 0 for the Reel's. -/
def State.retireNow (s : State) (rg key : Nat) (w : W32) : State :=
  let r := s.region rg
  let newer := r.exitWord.isNone || decide (r.exitOrd ≤ key)
  let s := s.setRegion rg { r with stop := some (r.stop.getD s.cyc), exitWord := if newer then some w else r.exitWord, exitOrd := if newer then key else r.exitOrd }
  let fg := figOf rg
  let all := s.regions.all fun p => decide (figOf p.1 ≠ fg) || p.2.exitWord.isSome || !p.2.live
  if all then s.setFig fg { s.fig fg with retired := true } else s

/-- A region halts by a slot, or by its Reel: at once, or in a redundant Figure once the compare point agrees (R426). -/
def State.retire (s : State) (rg key : Nat) (reel : Bool) (w : W32) : State :=
  if 1 < (s.fig (figOf rg)).insts then
    let r := s.region rg
    let n := s.fl.next
    ((s.setRegion rg { r with stop := some (r.stop.getD s.cyc) }).setWait n { kind := .halt reel w, ret := { el := s.act.el }, rg := rg, ord := n, f := s.cyc }).bump
  else s.retireNow rg key w

/-- `halt` (R291). -/
def execHalt (f : Slot) (s : State) : Host.Outcome State Fault Refusal :=
  slotExec .halt f s fun o t =>
    if slotQuiet .halt o t then { st := t } else { st := t.retire t.act.rg (1 + t.elOrd t.act.el) false o.a }

end Sys2Proof.Machine
end

