-- ==== Sys2Proof/Machine/SlotRed.lean ====
section
/-! DEFINITION. Reductions, the running maximum, block quantisation and dequantisation (R247 to R258). -/
namespace Sys2Proof.Machine
open Sys2Proof

/-- One firing of a reduction slot (R251 to R257): the root leaves in cycle f + 3 + c, and no other reduction slot of
the element fires before f + max(1, c). -/
def redFired (kind : Nat) (f : Slot) (o : Opn) (t : State) : Fired :=
  let el := t.act.el
  let sp := t.stripe (stOf el)
  let keep (c : Nat) (store : List HoldEnt) : State :=
    let t := t.setStripe (stOf el) { sp with hold := store }
    t.setElem el { t.elem el with redHold := t.cyc + max 1 c }
  match redStep kind f.mod el sp.hold o.a o.b o.taint with
  | .breach code => { st := t, breach := some (code, o.b) }
  | .insert c store => { st := keep c store }
  | .emit v tn c store => { st := keep c store, outs := [{ tok := { dataTok v t.seqOf with et := tn } }], lat := 4 + c }

/-- `radd` (R251, R254, R255). -/
def execRadd (f : Slot) (s : State) : Host.Outcome State Fault Refusal := slotExec .radd f s (redFired 0 f)
/-- `rmax` (R251, R254, R255). -/
def execRmax (f : Slot) (s : State) : Host.Outcome State Fault Refusal := slotExec .rmax f s (redFired 1 f)
/-- `rmin` (R251, R254, R255). -/
def execRmin (f : Slot) (s : State) : Host.Outcome State Fault Refusal := slotExec .rmin f s (redFired 2 f)

/-- `rmaxsc` (R258): the register holds the new maximum from cycle f + 1, the emits leave in cycle f + 9. -/
def execRmaxsc (f : Slot) (s : State) : Host.Outcome State Fault Refusal :=
  slotExec .rmaxsc f s fun o t =>
    let new := BitVec.ofNat 32 (fminmax fp32 true o.b.toNat o.a.toNat)
    { st := t.writeK f.r new o.taint,
      outs := [{ which := 1, tok := dataTok (rescaleW o.b new) t.seqOf }, { which := 2, tok := dataTok new t.seqOf }], lat := 10 }

/-- The control word of `bq` (R247): block length 1 to 32, the other bits zero. -/
def bqCtlOk (b : W32) : Bool :=
  decide (1 ≤ b.toNat % 64 ∧ b.toNat % 64 ≤ 32 ∧ b.toNat / 64 % 4 = 0 ∧ b.toNat / 65536 = 0)

/-- The data tokens of a block's elements, `per` to a token (R93). -/
def packTokens (w per : Nat) (seq : BitVec 8) : Nat → List (Nat × Bool) → List (Token × Nat)
  | 0, _ => []
  | k + 1, xs =>
    match xs with
    | [] => []
    | _ =>
      let h := xs.take per
      ({ dataTok (BitVec.ofNat 32 (packLanes w (h.map Prod.fst))) seq with et := h.any Prod.snd }, h.length)
        :: packTokens w per seq k (xs.drop per)

/-- The block being collected is complete (R248): its header and data tokens wait for emission, the header for the third cycle
after the block's last value was popped; `reset` also resets the tile count (R249). -/
def Quant.close (q : Quant) (reset : Bool) : Quant :=
  let k := q.vals.length
  let sb := blockScale q.fmt (q.vals.map Prod.fst)
  let cnt := q.count + 1
  let mark := decide (q.tile ≠ 0 ∧ cnt = q.tile)
  let hdr := ctlTok (BitVec.ofNat 32 (0x30000000 + (if mark then 65536 else 0) + k * 256 + sb))
  let per := if q.fmt = 2 then 8 else 4
  let toks := packTokens (if q.fmt = 2 then 4 else 8) per q.ret.seq 8 (q.vals.map fun v => (quantN q.fmt sb v.1, v.2))
  let first : QTok := { tok := { hdr with et := q.vals.any Prod.snd }, ret := q.ret, from_ := q.ret.f + 3 }
  { q with vals := [], out := q.out ++ first :: toks.map (fun t => { tok := t.1, frees := t.2, ret := q.ret }), n := 0,
           count := if mark || reset then 0 else cnt }

/-- `bq` (R247): the value enters the quantiser; the n-th completes the block. -/
def execBq (f : Slot) (s : State) : Host.Outcome State Fault Refusal :=
  slotExec .bq f s fun o t =>
    let e := t.elem t.act.el
    let q := e.quant
    if q.vals.isEmpty ∧ !(bqCtlOk o.b) then { st := t, breach := some (0x2003, o.b) }
    else
      let q := if q.vals.isEmpty then { q with n := o.b.toNat % 64, tile := o.b.toNat / 256 % 256, fmt := mhi f.mod } else q
      let q := { q with vals := q.vals ++ [(o.a, o.taint)], ret := t.ret f false }
      let q := if q.vals.length = q.n then q.close false else q
      { st := t.setElem t.act.el { e with quant := q } }

/-- The quantiser emits its next token (R248), once its cycle has come and both targets have space. -/
def execBqBlockEmit (el : Nat) (s : State) : Host.Outcome State Fault Refusal :=
  let e := s.elem el
  match e.quant.out with
  | [] => .next s
  | t :: rest =>
    let r := t.ret
    if s.cyc < max e.quant.ready t.from_ then .next s
    else if s.fits ((s.destOf el r.t1).toList ++ (s.destOf el r.t2).toList) [] then
      let s := s.setElem el { e with quant := { e.quant with out := rest, ready := s.cyc + 1 } }
      -- the quantiser's emit enters ahead of a slot's emit of the same cycle
      let go (second : Bool) (tg : Target) (rid : BitVec 6) (s : State) : State :=
        match s.destOf el tg with
        | none => s
        | some d =>
          match r.squash, d with
          | true, .port _ => s
          | _, _ => s.addEmit { due := s.cyc, ord := s.elRank el, src := el, dst := d, tok := { t.tok with rid := rid }, k := if second then 1 else 0 }
      .next (go true r.t2 r.r2 (go false r.t1 r.r1 s))
    else .next s

/-- `bdq` (R250): scale headers are latched, one lane pair is dequantised. -/
def execBdq (f : Slot) (s : State) : Host.Outcome State Fault Refusal :=
  slotExec .bdq f s fun o t =>
    let sb := if o.x.toNat / 0x10000000 = 3 then o.x.toNat % 256 else 127
    let n := packWidth f.mod
    let q := (mlo f.mod).toNat
    let g (i : Nat) : W32 := dequant (mhi f.mod) (laneN o.a n i) sb
    { st := if (scaleHeads ((s.elem s.act.el).queue 0)).2.1 = 0 then t else t.writeK f.r o.x o.taint,
      outs := [{ which := 1, tok := dataTok (g (2 * q)) t.seqOf }, { which := 2, tok := dataTok (g (2 * q + 1)) t.seqOf }], lat := 4 }

end Sys2Proof.Machine
end

