-- ==== Sys2Proof/Machine/Issue.lean ====
section
/-! DEFINITION. The fabric's own steps: the issue of a slot index with its iteration boundary (R26 to R30), exits (R28), event handlers (R56), wavefronts (R64 to R70), pass registers (R73, R74) and logical streams (R78). -/
namespace Sys2Proof.Machine
open Sys2Proof

/-- The meaning of a slot operation. -/
def fireOp (op : SlotOp) (f : Slot) (s : State) : Host.Outcome State Fault Refusal :=
  match op with
  | .nop => execNop f s
  | .add => execAdd f s
  | .sub => execSub f s
  | .mul => execMul f s
  | .mulh => execMulh f s
  | .mad => execMad f s
  | .abs => execAbs f s
  | .neg => execNeg f s
  | .min => execMin f s
  | .max => execMax f s
  | .clz => execClz f s
  | .popc => execPopc f s
  | .brev => execBrev f s
  | .bperm => execBperm f s
  | .addc => execAddc f s
  | .subb => execSubb f s
  | .div => execDiv f s
  | .rem => execRem f s
  | .sad => execSad f s
  | .dp4 => execDp4 f s
  | .mov => execMov f s
  | .and => execAnd f s
  | .or => execOr f s
  | .xor => execXor f s
  | .andn => execAndn f s
  | .not => execNot f s
  | .lop3 => execLop3 f s
  | .shl => execShl f s
  | .shr => execShr f s
  | .rot => execRot f s
  | .fsh => execFsh f s
  | .bfx => execBfx f s
  | .bfi => execBfi f s
  | .bswap => execBswap f s
  | .cmp => execCmp f s
  | .fcmp => execFcmp f s
  | .sel => execSel f s
  | .steer => execSteer f s
  | .merge => execMerge f s
  | .gate => execGate f s
  | .inv => execInv f s
  | .join => execJoin f s
  | .ctok => execCtok f s
  | .ctokIlast => execCtokIlast f s
  | .pset => execPset f s
  | .pget => execPget f s
  | .loopgen => execLoopgen f s
  | .loopgen2 => execLoopgen2 f s
  | .itr => execItr f s
  | .copyid => execCopyid f s
  | .cnt => execCnt f s
  | .lastp => execLastp f s
  | .stagev => execStagev f s
  | .fadd => execFadd f s
  | .fsub => execFsub f s
  | .fmul => execFmul f s
  | .ffma => execFfma f s
  | .fmin => execFmin f s
  | .fmax => execFmax f s
  | .fabs => execFabs f s
  | .fneg => execFneg f s
  | .fclass => execFclass f s
  | .fscale => execFscale f s
  | .fround => execFround f s
  | .fcsgn => execFcsgn f s
  | .fdot2 => execFdot2 f s
  | .frcp => execFrcp f s
  | .frsq => execFrsq f s
  | .fsqrt => execFsqrt f s
  | .fexp2 => execFexp2 f s
  | .flog2 => execFlog2 f s
  | .fsin => execFsin f s
  | .fcos => execFcos f s
  | .ftanh => execFtanh f s
  | .fdiv => execFdiv f s
  | .phx => execPhx f s
  | .radd => execRadd f s
  | .rmax => execRmax f s
  | .rmin => execRmin f s
  | .rmaxsc => execRmaxsc f s
  | .cvtf => execCvtf f s
  | .cvti => execCvti f s
  | .cvtif => execCvtif f s
  | .pack => execPack f s
  | .unpack => execUnpack f s
  | .bq => execBq f s
  | .bdq => execBdq f s
  | .ldb => execLdb f s
  | .stb => execStb f s
  | .lnsend => execLnsend f s
  | .lntap => execLntap f s
  | .spop => execSpop f s
  | .spush => execSpush f s
  | .cbputOpen => execCbputOpen f s
  | .cbputWord => execCbputWord f s
  | .cbgetOpen => execCbgetOpen f s
  | .cbgetWord => execCbgetWord f s
  | .agen => execAgen f s
  | .ldg => execLdg f s
  | .stg => execStg f s
  | .ldgx => execLdgx f s
  | .stgx => execStgx f s
  | .pfg => execPfg f s
  | .atom => execAtom f s
  | .cas => execCas f s
  | .red => execRed f s
  | .fence => execFence f s
  | .sbar => execSbar f s
  | .xreq => execXreq f s
  | .lrflush => execLrflush f s
  | .publish => execPublish f s
  | .secw => execSecw f s
  | .secwSet => execSecwSet f s
  | .crd => execCrd f s
  | .msend => execMsend f s
  | .mword => execMword f s
  | .rdin => execRdin f s
  | .sealreq => execSealreq f s
  | .rdcr => execRdcr f s
  | .wrcr => execWrcr f s
  | .evc => execEvc f s
  | .trap => execTrap f s
  | .brk => execBrk f s
  | .halt => execHalt f s

/-- The state after a meaning, where it answers one. -/
def outState (s : State) : Host.Outcome State Fault Refusal → State
  | .next t => t
  | _ => s

/-! ### Loop contexts (R25 to R31) -/

/-- The lowest stage that holds an iteration. -/
def lowStage (sv : W64) : Nat := ((List.range 64).find? fun i => sv.getLsbD i).getD 0

/-- The local iteration that stage `st` holds: starts are consecutive, so the stages hold consecutive iterations, the
newest in the lowest stage (R27). -/
def LoopCtx.iterAt (c : LoopCtx) (st : Nat) : W64 :=
  BitVec.ofNat 64 (c.occ + c.starts - 1 - (st - lowStage c.sv))

/-- The logical iteration of a local one for the distributed loop context (R31). -/
def Region.logical (r : Region) (lc : Nat) (n : W64) : W64 :=
  if lc = r.dlc.toNat then r.ioff + BitVec.ofNat 64 r.copies * n else n

/-- The bits of S stages. -/
def stageMask (stg : Nat) : W64 := BitVec.ofNat 64 (2 ^ stg - 1)

/-- The start step of R27: `go` says whether an iteration starts. -/
def LoopCtx.shift (c : LoopCtx) (go : Bool) : LoopCtx :=
  { c with
    sv := ((c.sv <<< 1) ||| (if go then 1 else 0)) &&& stageMask c.stg
    sm := (c.sm <<< 1) &&& stageMask c.stg
    n := if go then c.n + 1 else c.n
    starts := if go then c.starts + 1 else c.starts }

/-- The trip count lets an iteration start (R27). -/
def LoopCtx.tripsLeft (c : LoopCtx) : Bool := decide (c.tc = 0) || decide (c.n < c.tc)
/-- An iteration may start (R27). -/
def LoopCtx.mayStart (c : LoopCtx) : Bool := !c.xs && c.tripsLeft

/-- SLOT advances; from II − 1 an iteration boundary occurs (R27). The loop context is done at the boundary that starts
nothing and leaves SV = 0. -/
def LoopCtx.advance (c : LoopCtx) (start : Bool) : LoopCtx :=
  if c.slot + 1 ≥ c.ii then
    let d := { c with slot := 0 }.shift start
    { d with live := decide (d.sv ≠ 0) }
  else { c with slot := c.slot + 1 }

/-- An exit raised at stage `e` for local iteration `i` (R28). -/
def LoopCtx.exit (c : LoopCtx) (e : Nat) (i : W64) : LoopCtx :=
  if c.xs then c
  else
    let m := stageMask e
    { c with xs := true, sm := (c.sm &&& ~~~m) ||| (c.sv &&& m), n := i + 1 }

/-- The exit that holds in cycle `now` (R475): the last iteration of the whole pipeline. -/
def Scroll.exitBy (sc : Scroll) (now : Nat) : Option Nat :=
  ((sc.exits.filter fun e => decide (e.2 ≤ now)).map Prod.fst).min?
/-- The local iterations that virtual stripe `v` may start, while an exit holds: those up to the exit's, those that it has
started, and those that an earlier virtual stripe has started, whose tokens flow on to it (R475; DEDUCED, log 60). -/
def Scroll.reach (sc : Scroll) (now v : Nat) : Option Nat :=
  (sc.exitBy now).map fun x => ((sc.made.filter fun p => decide (p.1 ≤ v)).map Prod.snd).foldl max (x + 1)

/-- The iteration-last tokens on their way reach their loop contexts (R28, R223). In a scrolled placement the exit also
bounds every virtual stripe, from the next cycle on (R475). -/
def applyExits : List (Nat × Nat × Nat × W64 × Nat) → Region → Region
  | [], r => { r with ilast := [] }
  | (lc, e, ws, i, at_) :: xs, r =>
    match r.scroll with
    | none => applyExits xs { r with lcs := r.lcs.put {} lc ((r.lcs.get {} lc).exit e i) }
    | some sc =>
      let sc' := if (r.wlcs.get {} ws).xs then sc else { sc with exits := sc.exits ++ [(i.toNat, at_ + 1)] }
      applyExits xs { r with wlcs := r.wlcs.put {} ws ((r.wlcs.get {} ws).exit e i), scroll := some sc' }

/-- ITERATION_LAST_DELIVERY (R28). -/
def execIterationLastDelivery (rg : Nat) (s : State) : Host.Outcome State Fault Refusal :=
  let r := s.region rg
  .next (s.setRegion rg (applyExits r.ilast r))

/-! ### Slot index issue (R26) -/

/-- The fields of a loop-context entry (Table 8.14): FIRST, II, STG, V. -/
def lcFirst (v : W32) : Nat := v.toNat % 16
def lcII (v : W32) : Nat := v.toNat / 16 % 32
def lcSTG (v : W32) : Nat := v.toNat / 512 % 128
def lcV (v : W32) : Bool := v.getLsbD 16

/-- The stage of a plane position in a modulo-mode record (R191). -/
def ElPlane.stageAt (p : ElPlane) (pos : Nat) : Nat := (field p.seqb (6 * pos) 6 : BitVec 6).toNat

/-- The window stripes of a region. -/
def Region.stripes (r : Region) : List Nat := (List.range r.count).map r.stripeAt
/-- The window stripes that an issue covers: all, or the one of a scrolled placement (R474). -/
def Region.issueStripes (r : Region) (ws : Nat) : List Nat := if r.scroll.isSome then [r.stripeAt ws] else r.stripes

/-- The loop context of an issue. -/
def Region.issueCtx (r : Region) (lc ws : Nat) : LoopCtx := if r.scroll.isSome then r.wlcs.get {} ws else r.lcs.get {} lc

/-- The enabled slot of one element at the loop context's slot index, as the firing it would make (R26). -/
def enabledAt (s : State) (r : Region) (rg lc ws : Nat) (c : LoopCtx) (st e : Nat) : Option Act :=
  let el := st * 128 + e
  let x := s.elem el
  let pl := (s.stripe st).planes.get {} x.act.toNat
  let ent := pl.lcs.get 0 lc
  if x.av ∧ pl.valid ∧ !pl.event ∧ lcV ent ∧ c.slot < lcII ent ∧ pl.els.any (fun q => decide (q.1 = e)) then
    let pos := lcFirst ent + c.slot
    let stage := (pl.els.get {} e).stageAt pos
    if c.sv.getLsbD stage then
      let i := c.iterAt stage
      let past := match r.scroll with
        | some sc => (match sc.exitBy s.cyc with | some x => decide (x < i.toNat) | none => false)
        | none => false
      some { el := el, rg := rg, plane := x.act, pos := pos, lc := lc, ws := if r.scroll.isSome then some ws else none,
             stage := stage, iter := r.logical lc i, loc := i, squash := c.sm.getLsbD stage || past, granted := true }
    else none
  else none

/-- The scalar elements of a stripe that have a record in some plane, in order. -/
def recordElems (t : Stripe) : List Nat :=
  (List.range 64).filter fun e => t.planes.any fun p => p.2.els.any fun q => decide (q.1 = e)

/-- The enabled slots of a slot index in element order (R53). -/
def enabledSlots (s : State) (rg lc ws : Nat) : List Act :=
  let r := s.region rg
  let c := r.issueCtx lc ws
  ((r.issueStripes ws).map fun st => (recordElems (s.stripe st)).filterMap fun e => enabledAt s r rg lc ws c st e).flatten

/-- The slot word of a firing, decoded. -/
def State.slotAt (s : State) (a : Act) : Option (SlotOp × Slot) :=
  match decodeSlot (((s.elPlane a.el a.plane).words).get 0 a.pos) with
  | .ok i => i.slot?
  | .error _ => none

/-- A lower-numbered loop context has an enabled slot in the element (R52). -/
def lowerEnabled (s : State) (rg lc ws : Nat) (a : Act) : Bool :=
  let r := s.region rg
  (List.range lc).any fun l =>
    let c := r.lcs.get {} l
    c.live && decide (c.start ≤ s.cyc ∧ c.issued ≠ s.cyc + 1) && (enabledAt s r rg l ws c (stOf a.el) (eOf a.el)).isSome

/-- What slots need to fire together: the places they write, the entries they free, the streams they put accesses into, and the ports
they pop. -/
structure Needs where
  dests : List Dest := []
  freed : List Dest := []
  strms : List Nat := []
  ports : List Nat := []
  deriving DecidableEq, Repr, Inhabited

/-- What one enabled slot needs; `none` where it is not ready. -/
def slotNeeds (s : State) (a : Act) : Option Needs :=
  let t := { s with act := a }
  match t.slotAt a with
  | none => none
  | some (op, f) =>
    match slotReady op f t with
    | none => none
    | some (o, ps) => some { dests := firingDests op f o t, freed := ps.map fun q => .queue a.el q, strms := (firingStream op f o t).toList,
                             ports := match op with | .spop => [t.portOf f.mod] | _ => [] }

/-- The needs of every enabled slot together. -/
def allNeeds (s : State) : List Act → Option Needs
  | [] => some {}
  | a :: as =>
    match slotNeeds s a, allNeeds s as with
    | some x, some y => some { dests := x.dests ++ y.dests, freed := x.freed ++ y.freed, strms := x.strms ++ y.strms, ports := x.ports ++ y.ports }
    | _, _ => none
/-- The needs are met: every place has space for its writes (R50), every stream for its accesses (R274), and every port holds a token
ahead of its next wavefront for each slot that pops it (R26, R267). -/
def Needs.met (n : Needs) (s : State) : Bool :=
  s.fits n.dests n.freed
  && n.ports.all (fun p => decide ((n.ports.filter fun q => decide (q = p)).length ≤ ((s.port p).fifo.takeWhile fun t => !t.wave).length))
  && n.strms.all fun rs => decide (s.inFlight rs + (n.strms.filter fun x => decide (x = rs)).length ≤ 64)

/-- Every enabled slot fires, in element order; a space already granted is not tested again. -/
def fireAll (s : State) : List Act → State
  | [] => s
  | a :: as =>
    let t := { s with act := a }
    let u := match t.slotAt a with
      | none => t
      | some (op, f) => outState t (fireOp op f t)
    fireAll u as

/-- Lane tokens of one stripe leave in one direction: those not taken move to the next stripe, or off the window. -/
def hopLanes (s : State) (r : Region) (lc ws : Nat) : State :=
  let st := r.stripeAt ws
  let t := s.stripe st
  let pl := t.planes.get {} t.act.toNat
  let owned (i : Nat) : Bool := pl.lanev.getLsbD i && decide ((field pl.laneo (2 * i) 2 : BitVec 2).toNat = lc)
  let keep := t.lanes.filter fun p => !(owned p.1)
  let gone := t.lanes.filter fun p => owned p.1 && (match p.2 with | some (_, taken) => !taken | none => false)
  let s := s.setStripe st { t with lanes := keep }
  gone.foldl (fun s p =>
    let cw := decide (p.1 < 16)
    if cw ∧ ws + 1 < r.count then
      let st' := r.stripeAt (ws + 1)
      let u := s.stripe st'
      s.setStripe st' { u with lanes := u.lanes.put none p.1 p.2 }
    else if !cw ∧ 0 < ws then
      let st' := r.stripeAt (ws - 1)
      let u := s.stripe st'
      s.setStripe st' { u with lanes := u.lanes.put none p.1 p.2 }
    else s) s

/-- The lane tokens that the loop context owns advance one stripe (R75): clockwise tokens from the last stripe down,
anticlockwise ones from the first stripe up, so that no token moves twice. -/
def hopAll (s : State) (r : Region) (lc : Nat) : State :=
  let onlyCw (s : State) (ws : Nat) : State :=
    let st := r.stripeAt ws
    let t := s.stripe st
    let ac := t.lanes.filter fun p => decide (16 ≤ p.1)
    let s1 := hopLanes (s.setStripe st { t with lanes := t.lanes.filter fun p => decide (p.1 < 16) }) r lc ws
    let u := s1.stripe st
    s1.setStripe st { u with lanes := u.lanes ++ ac }
  let onlyAc (s : State) (ws : Nat) : State :=
    let st := r.stripeAt ws
    let t := s.stripe st
    let cw := t.lanes.filter fun p => decide (p.1 < 16)
    let s1 := hopLanes (s.setStripe st { t with lanes := t.lanes.filter fun p => decide (16 ≤ p.1) }) r lc ws
    let u := s1.stripe st
    s1.setStripe st { u with lanes := cw ++ u.lanes }
  let s := (List.range r.count).reverse.foldl onlyCw s
  (List.range r.count).foldl onlyAc s

/-- A loop context that has issued a slot index starts a further iteration at its boundary (R27). A scrolled occupancy makes D
starts in all, none beyond what an exit of the pipeline leaves it (R474, R475). -/
def Region.startsAt (r : Region) (now : Nat) (c : LoopCtx) : Bool :=
  match r.scroll with
  | none => c.mayStart
  | some sc => c.tripsLeft && decide (c.starts < sc.d) && (match sc.reach now c.vs with | some n => decide (c.occ + c.starts < n) | none => true)

/-- The loop context of an issue takes its new state; a scrolled placement notes its starts (R475). -/
def Region.putCtx (r : Region) (lc ws : Nat) (c : LoopCtx) : Region :=
  match r.scroll with
  | none => { r with lcs := r.lcs.put {} lc c }
  | some sc => { r with wlcs := r.wlcs.put {} ws c, scroll := some { sc with made := sc.made.put 0 c.vs (c.occ + c.starts) } }

/-- PWRCAP.W is not 0. -/
def State.capped (s : State) (pk : Nat) : Bool := decide ((s.reg pk 0x60).toNat % 16384 ≠ 0)
/-- Cycles in a row up to now in which the ring's issue was withheld. -/
def Ring.run (g : Ring) (now : Nat) : Nat := if g.powerAt = now ∧ g.held then g.heldRun else 0
/-- The power cap withholds the ring's issue in this cycle from a loop context whose first issue after its arming is past; of four
cycles in a row it leaves one (R377). Which cycles it withholds is a free value (DESIGN CHOICE, log 11). -/
def State.withholds (s : State) (r : Region) (c : LoopCtx) : Bool :=
  let g := s.ring r.ring
  s.capped r.pk && decide (c.issued ≠ 0)
  && (if g.powerAt = s.cyc + 1 then g.held else decide (g.run s.cyc < 3) && Config.freeThrottle s.free)
/-- The ring's decision for this cycle is noted; THROT counts a withheld cycle once (Table 11.5). -/
def State.noteIssue (s : State) (r : Region) (held : Bool) : State :=
  let g := s.ring r.ring
  if s.capped r.pk ∧ g.powerAt ≠ s.cyc + 1 then
    { s.setRing r.ring { g with
        powerAt := s.cyc + 1, held := held, heldRun := g.run s.cyc + 1, throt := if held then g.throt + 1 else g.throt }
      with free := s.free + 1 }
  else s

/-- The loop context may issue in this cycle: it is armed, has not issued in it (R26), and in a scrolled placement it is the
distributed one, on a window stripe that fires (R474). -/
def State.mayIssue (s : State) (r : Region) (lc ws : Nat) : Bool :=
  let c := r.issueCtx lc ws
  r.fires s.cyc && c.live && decide (c.start ≤ s.cyc ∧ c.issued ≠ s.cyc + 1)
  && (match r.scroll with
      | some sc => decide (lc = sc.lc ∧ ws < r.count ∧ sc.phase.get 0 ws = 0) && !sc.ended
      | none => true)

/-- No operand input receives more than four tokens in a cycle to come (R298). -/
def State.opqOk (s : State) : Bool :=
  s.fl.emits.all fun e => match e.dst with | .opq el => decide (s.dueAt (.opq el) e.due ≤ 4) | _ => true

/-- SLOT_INDEX_ISSUE (R26, R27, R29, R474): every enabled slot of the index fires in this cycle, or none does. -/
def execSlotIndexIssue (rg lc ws : Nat) (s : State) : Host.Outcome State Fault Refusal :=
  let r := s.region rg
  if s.mayIssue r lc ws then
    if s.withholds r (r.issueCtx lc ws) then .next (s.noteIssue r true)
    else
      let as := enabledSlots s rg lc ws
      if as.any (lowerEnabled s rg lc ws) then .next s
      else match allNeeds s as with
        | none => .next s
        | some n =>
          if n.met s then
            let a0 := s.act
            let u := fireAll s as
            if !u.opqOk then .next s else
            let t := { (hopAll u r lc) with act := a0 }
            -- an exit raised in this cycle holds before the boundary of the cycle (R28, R475; DEDUCED, log 51)
            let r1 := applyExits (t.region rg).ilast (t.region rg)
            let c := r1.issueCtx lc ws
            .next ((t.noteIssue r false).setRegion rg (r1.putCtx lc ws { c.advance (r1.startsAt (s.cyc + 1) c) with issued := s.cyc + 1 }))
          else .next s
  else .next s

end Sys2Proof.Machine
end

