-- ==== Sys2Proof/Machine/FabricEv.lean ====
section
/-! DEFINITION. Event handlers (R55, R56), the input and output sets of wavefronts (R64) and the passage of a scalar element (R65), pass registers (R73, R74), logical streams (R78) and park reads (R36). -/
namespace Sys2Proof.Machine
open Sys2Proof

/-- The element belongs to a base-slice program (R313). -/
def isBase (el : Nat) : Bool := decide (baseRing ≤ ringOf (stOf el))
/-- The element's region is resident and has not stopped. -/
def State.elLive (s : State) (el : Nat) : Bool :=
  isBase el ||
  (match (s.stripe (stOf el)).rg with
   | none => false
   | some rg => (s.region rg).fires s.cyc && s.ringUp (ringOf (stOf el)))

/-- The queue, pass-register and stream-port targets of a slot word (R64), each with its route entry; the port of `spush` has none
(R268). -/
def slotOuts (s : State) (el : Nat) (p : BitVec 2) (pos : Nat) (op : SlotOp) (f : Slot) : List (Dest × BitVec 6) :=
  let rid (second : Bool) : BitVec 6 := field (s.elPlane el p).route (6 * (2 * pos + (if second then 1 else 0))) 6
  let out (t : Target) (r : BitVec 6) : List (Dest × BitVec 6) :=
    match t with
    | .queue .. | .preg _ | .sp _ | .mx _ => (s.destOf el t).toList.map fun d => (d, r)
    | _ => []
  out f.t1 (rid false) ++ out f.t2 (rid true)
  ++ (match op with | .spush => [(.port (s.portAt el f.mod.toNat), 0)] | _ => [])

/-- The list without repeated places; where several slots name one, the first one's route entry is kept (DESIGN CHOICE, log 61). -/
def distinctD : List (Dest × BitVec 6) → List (Dest × BitVec 6)
  | [] => []
  | d :: ds => d :: (distinctD ds).filter fun x => decide (x.1 ≠ d.1)

/-- The output set of an element for a list of planes (R64). -/
def State.outputSet (s : State) (el : Nat) (ps : List (BitVec 2)) : List (Dest × BitVec 6) :=
  distinctD ((ps.map fun p => ((s.waveSlots el p).map fun w => slotOuts s el p w.1 w.2.1 w.2.2).flatten).flatten)

/-! ### Wavefronts (R65, R68, R204, R249, R422) -/

/-- The planes whose slots count for a wavefront at a part with active plane `p`, where it has one (R54, R64). -/
def Token.wavePlanes (t : Token) (av : Bool) (p : BitVec 2) : List (BitVec 2) := (if av then [p] else []) ++ (if t.swp then [t.plt] else [])

/-- Copies of a wavefront leave for every member of the output set. -/
def emitCopies (s : State) (el : Nat) (t : Token) : List (Dest × BitVec 6) → State
  | [] => s
  | d :: ds =>
    emitCopies (s.addEmit { due := s.cyc, ord := s.elRank el, src := el, dst := d.1, tok := { t with rid := d.2 }, f := s.cyc }) el t ds

/-- No emit of an earlier-fired slot of the element is pending (R204). -/
def State.noPending (s : State) (el : Nat) : Bool :=
  !(s.fl.emits.any fun e => decide (e.src = el))
  && !(s.fl.hops.any fun h => decide (h.src = el) && !h.win.isEmpty)
  && !(s.fl.resv.any fun r =>
    (match s.wait r.1 with | some w => decide (w.ret.el = el) | none => false)
    || (match s.acc r.1 with | some a => decide (a.ret.el = el) | none => false)
    || s.fab.strms.any fun t => t.2.q.any fun o => match o.access with | some (id, ret) => decide (id = r.1 ∧ ret.el = el) | none => false)

/-- Stripe `st` runs plane `p` whole, and has an active plane (R54), once every element of it with an active plane does. -/
def State.settleAct (s : State) (st : Nat) (p : BitVec 2) : State :=
  let t := s.stripe st
  if (recordElems t).all fun e => let x := s.elem (st * 128 + e); !x.av || decide (x.act = p) then
    s.setStripe st { t with act := p, av := true }
  else s

/-- A swap of one element at the end of the cycle (R54, R65, R72). -/
def State.swapElem (s : State) (el : Nat) (p : BitVec 2) : State :=
  (s.setElem el { s.elem el with act := p, av := true, fired := s.cyc + 1 }).settleAct (stOf el) p

/-- Each input of the list loses its head. -/
def State.popInputs (s : State) (el : Nat) (ins : List Dest) : State :=
  let s1 := s.popQueues el (ins.filterMap fun d => match d with | .queue _ q => some q | _ => none)
  ins.foldl (fun t d => match d with | .port p => t.setPort p { t.port p with fifo := (t.port p).fifo.tail } | _ => t) s1

/-- The passage of a wavefront through a scalar element (R65): it stands at every input, no earlier emit is pending, no handler
runs, the plane named is filled, and every copy has space. An element without an active plane passes one with SWP = 1, which gives
it one (R54). -/
def scalarPassage (el : Nat) (s : State) : State :=
  let x := s.elem el
  if s.elLive el ∧ x.run.isNone ∧ x.fired ≠ s.cyc + 1 then
    match s.waveAt el with
    | none => s
    | some (t, ins) =>
      if x.av = false ∧ t.swp = false then s
      else match (ins.filterMap s.headAt).find? fun u => u.et with
      | some u => s.elFault el 0xE104 2 0 u.payload
      | none =>
        if !x.quant.vals.isEmpty then
          -- the wavefront closes a partial block (R249)
          s.setElem el { x with quant := x.quant.close true }
        else
          let outs := s.outputSet el (t.wavePlanes x.av x.act)
          if x.quant.out.isEmpty && s.noPending el && (!t.swp || s.filled (stOf el) t.plt) && s.fits (outs.map Prod.fst) ins then
            let s1 := emitCopies (s.popInputs el ins) el t outs
            let s2 := s1.setElem el { s1.elem el with fired := s.cyc + 1, waves := x.waves.tail }
            let s3 := s2.reachSink ((s.stripe (stOf el)).rg.getD 0) (.kreg el 0) t
            if t.swp then s3.swapElem el t.plt else s3
          else s
  else s

/-! ### Event handlers (R55, R56) -/

/-- What the slots of a handler do to the queues and targets of their element: the pops and the places written. -/
structure HandlerUse where
  pops : List (BitVec 2) := []
  dests : List Dest := []
  deriving DecidableEq, Repr, Inhabited

/-- What `n` slots from `pos` on use (R56, R203): they fire one after the other, a cycle each, on a copy of the state, which a
decider in a register or queue is read from. `none` where an operand is missing. -/
def handlerUse (el : Nat) : Nat → Nat → State → Option HandlerUse
  | 0, _, _ => some {}
  | n + 1, pos, u =>
    let a := { u.slotAct el pos with granted := true }
    let u := { u with act := a }
    match u.slotAt a with
    | none => handlerUse el n (pos + 1) (u.tick 1)
    | some (op, f) =>
      match slotPlan op f u with
      | none => none
      | some (o, ps) =>
        let w := if (slotReady op f u).isSome then outState u (fireOp op f u) else u.popQueues el ps
        (handlerUse el n (pos + 1) (w.tick 1)).map fun x =>
          { pops := ps ++ x.pops, dests := firingDests op f o u ++ x.dests }

/-- A pass register was not emptied in this cycle: it was empty at the cycle's start (R56, R382). -/
def State.emptyAtStart (s : State) : Dest → Bool
  | .pass st i => decide ((s.stripe st).passLeft.get 0 i.toNat ≠ s.cyc + 1)
  | _ => true
/-- Channel `c` of an event-mode element is runnable (R56): what its handler uses. -/
def State.runnable (s : State) (el c : Nat) : Option HandlerUse :=
  let x := s.elem el
  let v := chEntry (s.elPlane el x.act) c
  if chEn v && !(x.evmask.getLsbD c)
    && (match x.queue (chTq v) with | t :: _ => !t.k && decide (t.rid.toNat % 16 = c) | [] => false) then
    (handlerUse el (chLast v + 1 - chFirst v) (chFirst v) s).filter fun u =>
      [(0 : BitVec 2), 1, 2, 3].all (fun q => decide ((u.pops.filter fun y => decide (y = q)).length
        ≤ ((x.queue q).takeWhile fun t => !t.wave).length))
      && s.fits u.dests [] && u.dests.all s.emptyAtStart
  else none

/-- The runnable channel that starts: the highest priority, then the lowest number. -/
def bestChannel (p : ElPlane) : List (Nat × HandlerUse) → Option (Nat × HandlerUse)
  | [] => none
  | c :: cs =>
    match bestChannel p cs with
    | none => some c
    | some d => if chPrio (chEntry p d.1) > chPrio (chEntry p c.1) then some d else some c

/-- EVENT_HANDLER_START (R56): the handler's targets keep an entry for each of its emits. -/
def execEventHandlerStart (el : Nat) (s : State) : Host.Outcome State Fault Refusal :=
  let x := s.elem el
  let pl := (s.stripe (stOf el)).planes.get {} x.act.toNat
  if x.av ∧ pl.valid ∧ pl.event ∧ x.run.isNone ∧ x.hold ≤ s.cyc ∧ x.fired ≠ s.cyc + 1 ∧ s.elLive el ∧ (s.waveAt el).isNone then
    match bestChannel (s.elPlane el x.act) ((List.range 16).filterMap fun c => (s.runnable el c).map fun u => (c, u)) with
    | none => .next s
    | some (c, u) =>
      let v := chEntry (s.elPlane el x.act) c
      let s1 := s.reserve s.fl.next u.dests
      .next (s1.setElem el { x with run := some { pos := chFirst v, last := chLast v, chan := c, op := s.fl.next } }).bump
  else .next s

/-! ### Pass registers (R73, R74) and park buffers (R36) -/

/-- A token enters the consuming stripe under entry `i` of a pass-in map; unmapped, it is discarded under 0x3007. -/
def State.passIn (s : State) (src st : Nat) (i : Nat) (p : BitVec 2) (t : Token) : State :=
  let pl := (s.stripe st).planes.get {} p.toNat
  if pl.pimask.getLsbD i then
    let e : Byte := pl.passin.get 0 i
    s.addEmit { due := s.cyc, ord := i, src := src, dst := .queue (st * 128 + e.toNat % 64) (field e 6 2), tok := t }
  else s.elFault (st * 128) 0x3007 4 0 0

/-- The queue of a mapped pass register has space, or the register is unmapped. A token already in the register still
travels in the cycle in which the hop's replay request arrives (Table 19.1). -/
def State.passRoom (s : State) (src st : Nat) (i : Nat) (p : BitVec 2) : Bool :=
  let pl := (s.stripe st).planes.get {} p.toNat
  let e : Byte := pl.passin.get 0 i
  let d : Dest := .queue (st * 128 + e.toNat % 64) (field e 6 2)
  !(pl.pimask.getLsbD i) || decide (0 < s.room d)
  || ((s.fl.hops.any fun h => decide (h.src = src ∧ h.dst = d ∧ h.from_ = s.cyc + 1)) && decide (0 < s.roomIn d))

/-- In a scrolled placement, window stripe `ws + 1` holds the successor of the virtual stripe at `ws`, of the same
tile, and is not being restored (R36, R41). -/
def Region.feeds (r : Region) (ws : Nat) : Bool :=
  match r.scroll with
  | none => true
  | some sc =>
    let a := r.wlcs.get {} ws
    let b := r.wlcs.get {} (ws + 1)
    decide (b.vs = a.vs + 1 ∧ b.occ = a.occ) && decide (sc.phase.get 0 (ws + 1) = 0)

/-- The map in force for pass register `i` of stripe `st`: that of the last wavefront with SWP = 1 which passed through it, else the
downstream stripe's active plane at arming (R74). -/
def State.passMap (s : State) (st down i : Nat) : BitVec 2 := ((s.stripe st).pmap.get none i).getD (s.stripe down).armAct
/-- A wavefront with SWP = 1 has passed through pass register `i`: the map of its plane applies from the next token on (R74). -/
def State.passedWave (s : State) (st i : Nat) (t : Token) : State :=
  if t.wave ∧ t.swp then s.setStripe st { s.stripe st with pmap := (s.stripe st).pmap.put none i (some t.plt) } else s
/-- The queue byte of a mapped pass register. -/
def State.passTo (s : State) (st down i : Nat) : Option Byte :=
  let pl := (s.stripe down).planes.get {} (s.passMap st down i).toNat
  if pl.pimask.getLsbD i then some (pl.passin.get 0 i) else none
/-- A lower-numbered pass register holds a token for the same queue: that one enters first (R73). -/
def State.passBehind (s : State) (st down i : Nat) : Bool :=
  (s.passTo st down i).isSome
  && (List.range i).any fun j => ((s.stripe st).pass.get none j).isSome && decide (s.passTo st down j = s.passTo st down i)

/-- PASS_REGISTER_TRANSFER (R73, R74): the token of pass register `i` of stripe `st` enters the downstream stripe, or the park
buffer behind the last stripe of a scrolled window (R36). -/
def execPassRegisterTransfer (st i : Nat) (s : State) : Host.Outcome State Fault Refusal :=
  let t := s.stripe st
  match t.pass.get none i, t.rg with
  | some tok, some rg =>
    let r := s.region rg
    let gone (s : State) : State := s.setStripe st { s.stripe st with pass := (s.stripe st).pass.put none i none, passLeft := (s.stripe st).passLeft.put 0 i (s.cyc + 1) }
    if r.live = false then .next s
    else if t.ws + 1 = r.count then
      match r.scroll with
      | none => .next s
      | some sc =>
        let g := (r.wlcs.get {} t.ws).vs / r.count
        if sc.parkRoom g then .next (gone (s.parkToken rg sc g i s.cyc tok)) else .next s
    else
      let down := r.stripeAt (t.ws + 1)
      let p := s.passMap st down i
      if r.feeds t.ws && s.passRoom (passSrc st i) down i p && !(s.passBehind st down i) then
        .next (((gone s).passIn (passSrc st i) down i p tok).passedWave st i tok)
      else .next s
  | _, _ => .next s

/-- PARK_READ (R36, R74): the oldest token of park buffer `pr`, read from its bytes, enters window stripe 0 while that holds the
first virtual stripe of the next group. A token is not read in the cycle in which it was parked. -/
def execParkRead (rg pr : Nat) (s : State) : Host.Outcome State Fault Refusal :=
  let r := s.region rg
  match r.scroll with
  | none => .next s
  | some sc =>
    match sc.park.get [] pr with
    | [] => .next s
    | (i, at_, k) :: rest =>
      let st := r.stripeAt 0
      let up := r.stripeAt (r.count - 1)
      let p := s.passMap up st i
      let (s1, tok) := s.readToken (r.parkPA pr k)
      if r.live ∧ at_ < s.cyc ∧ (r.wlcs.get {} 0).vs = (pr + 1) * r.count ∧ sc.phase.get 0 0 = 0 ∧ s.passRoom (passSrc up i) st i p then
        .next (((s1.setRegion rg { r with scroll := some { sc with park := sc.park.put [] pr rest } }).passIn (passSrc up i) st i p tok).passedWave up i tok)
      else .next s

/-! ### Logical streams (R78) -/

/-- The region that holds the stripe window of an inbound port. -/
def State.portPn (s : State) (p : Nat) : BitVec 16 := match (s.port p).rg with | some rg => (s.region rg).pn | none => 0

/-- STREAM_TOKEN_DELIVERY (R69, R78): the oldest token at the outbound end of stream instance `si` = 256·Figure +
relocation entry enters its inbound port, once that has room; PSEL is resolved there.
Once the Figure is halted its ports are saved as they stand (R363). -/
def execStreamTokenDelivery (si : Nat) (s : State) : Host.Outcome State Fault Refusal :=
  let i := (s.fig (si / 256)).streams.get {} (si % 256)
  match i.wport, i.rport with
  | some w, some r =>
    match (s.port w).fifo with
    | [] => .next s
    | t :: ts =>
      if 0 < s.room (.port r) ∧ ((s.fig (si / 256)).phase = .placed ∨ (s.fig (si / 256)).phase = .halting) then
        let s1 := s.setPort w { s.port w with fifo := ts }
        .next (s1.addEmit { due := s.cyc, ord := 0, src := portSrc w, dst := .port r, tok := t.resolve (s.portPn r) })
      else .next s
  | _, _ => .next s

end Sys2Proof.Machine
end

