-- ==== Sys2Proof/Machine/Matrix.lean ====
section
/-! DEFINITION. Matrix elements (R296 to R311): block geometry, K-steps and promotions, the standalone words, the beats of systolic runs, and the passage of a wavefront through any element (R65, R309). -/
namespace Sys2Proof.Machine
open Sys2Proof

/-! ### Geometry and arithmetic (R297, R302 to R305) -/

/-- Element width in bits of a matrix format (Table 12.2). -/
def mxWidth (fmt : Nat) : Nat := if fmt = 2 ∨ fmt = 3 then 16 else if fmt = 5 then 4 else 8
/-- Activations per vector. -/
def mxKb (fmt : Nat) : Nat := 128 / mxWidth fmt
/-- The value format of a matrix format other than INT8. -/
def mxFmt (fmt : Nat) : Fmt :=
  if fmt = 0 then e4m3 else if fmt = 1 then e5m2 else if fmt = 2 then bf16 else if fmt = 3 then fp16 else e2m1
/-- Bits of element `i` of width `w` in packed words. -/
def packedAt (w : Nat) (ws : List W32) (i : Nat) : Nat := ((ws.getD (w * i / 32) 0).toNat / 2 ^ (w * i % 32)) % 2 ^ w
/-- Element at row `k` and column `n` of a weight block. -/
def wbAt (wb : BitVec 2048) (w k n : Nat) : Nat := (wb.extractLsb' (w * (16 * k + n)) w).toNat

/-- One K-step of sixteen columns (R304): slice `sl` of the vector against its rows of the block. -/
def kstep (fmt : Nat) (p : FMap W32) (vec : List W32) (wb : BitVec 2048) (sl : Nat) : FMap W32 :=
  let w := mxWidth fmt
  let rows := (List.range (min 16 (mxKb fmt))).map fun i => 16 * sl + i
  (List.range 16).foldl (fun q n =>
    let sin := p.get 0 n
    let v := if fmt = 4 then kstepInt sin (rows.map (packedAt w vec)) (rows.map fun k => wbAt wb w k n)
      else kstepFP sin (rows.map fun k => (fdecode (mxFmt fmt) (packedAt w vec k)).mul (fdecode (mxFmt fmt) (wbAt wb w k n)))
    q.put 0 n v) []

/-- A promotion scale by its source (R90, R92, R303). -/
def scaleOf (src : BitVec 2) (v : W32) : FV :=
  if src = 1 then fval v
  else if src = 2 then (if v.toNat / 0x10000000 = 3 then e8m0 (v.toNat % 256) else .fin false 1 0)
  else .fin false 1 0

/-- A promotion of P into A (R305). -/
def promoteAll (int : Bool) (sa sw : FV) (a p : FMap W32) : FMap W32 :=
  (List.range 16).foldl (fun q n =>
    q.put 0 n (if int then a.get 0 n + p.get 0 n else promote sa sw (a.get 0 n) (p.get 0 n))) []

/-- A pair being stepped: P, A and STEP, with the scale token's mark. -/
structure Pair where
  p : FMap W32
  a : FMap W32
  step : Nat
  saV : Bool
  deriving DecidableEq, Repr, Inhabited

/-- The promotion of R305 with the word's scales. -/
def Pair.promote (x : Pair) (fmt : Nat) (scsa scsw : BitVec 2) (lsa lsw : W32) : Pair :=
  if x.step = 0 then x
  else { p := [], a := promoteAll (decide (fmt = 4)) (scaleOf scsa lsa) (scaleOf scsw lsw) x.a x.p, step := 0, saV := false }

/-- The K-steps of one vector, each followed by the promotion check. -/
def Pair.vector (x : Pair) (w : MWord) (vec : List W32) (wb : BitVec 2048) (lsa lsw : W32) : Pair :=
  (List.range (if w.fmt = 5 then 2 else 1)).foldl (fun x sl =>
    let y : Pair := { x with p := kstep w.fmt.toNat x.p vec wb sl, step := x.step + 1 }
    if w.pi ≠ 0 ∧ y.step = w.pi.toNat then y.promote w.fmt.toNat w.scsa w.scsw lsa lsw else y) x

/-! ### The words of an element -/

/-- The plane that a matrix element runs. -/
def State.mxPlane (s : State) (el : Nat) : Plane := (s.stripe (stOf el)).planes.get {} (s.mx el).act.toNat
/-- The matrix record of the element in its active plane. -/
def State.mxRec (s : State) (el : Nat) : MxPlane := (s.mxPlane el).mxs.get {} (eOf el - 64)
/-- The word at WPOS. -/
def State.mxWord (s : State) (el : Nat) : W64 := (s.mxRec el).words.get 0 (s.mx el).wpos.toNat

/-- The element may run its word (R299). -/
def State.mxRuns (s : State) (el : Nat) : Bool :=
  let x := s.mx el
  x.av && (s.mxPlane el).valid && decide (x.tcnt ≠ 0) && s.elLive el

/-- The word at WPOS is complete: the next word, or the next tile (R299). -/
def mxNext (r : MxPlane) (x : MxElem) : MxElem :=
  let x := { x with vec := 0, drained := 0, saV := false }
  if x.wpos = 7 ∨ r.words.get 0 (x.wpos.toNat + 1) = 0 then { x with wpos := 0, tcnt := x.tcnt - 1 }
  else { x with wpos := x.wpos + 1 }

/-- A word that needs nothing outside the element completes in one step. -/
def mxDone (s : State) (el : Nat) (x : MxElem) : State := s.setMx el (mxNext (s.mxRec el) x)

/-- What stands at the head of OPQ for a word. -/
inductive OpqHead where
  | empty
  | wave
  | scale (t : Token) (rest : List Token)
  | data (t : Token) (rest : List Token)
  | bad (code : BitVec 16) (tier : BitVec 4) (d : W32)
  deriving DecidableEq, Repr, Inhabited

/-- The head of OPQ, classified (R60, R298, R422). -/
def opqHead : List Token → OpqHead
  | [] => .empty
  | t :: ts =>
    if t.k = false then .data t ts
    else if t.et then .bad 0xE104 2 t.payload
    else if t.wave then .wave
    else if t.sub = 3 then .scale t ts
    else .bad 0x6002 4 t.payload

/-- What a word that takes nothing else from OPQ finds there: a scale header is latched into LSA and consumed (R302), a control
token that has no place there is a fault (R298); `go` where neither stands at the head. -/
def mxHead (s : State) (el : Nat) (go : State) : State :=
  let x := s.mx el
  match opqHead x.opq with
  | .bad c tier d => s.elFault el c tier 0 d
  | .scale t ts => s.setMx el { x with opq := ts, lsa := t.payload }
  | _ => go

/-- The DTGT place of a word, and the RID of its tokens (R192). -/
def State.mxDest (s : State) (el : Nat) (w : MWord) : Option Dest := s.destOf el w.dtgt
def mxRid (r : MxPlane) (wpos : Nat) : BitVec 6 := field r.rids (6 * wpos) 6

/-- A tainted token that would be stored through a bound port is not emitted (R421). -/
def State.drainFault (s : State) (d : Option Dest) (t : Token) : Bool :=
  t.et && (match d with | some (.port p) => (s.port p).mem.isSome | _ => false)

/-- One token of a drain or pass leaves; a tainted one that meets a kind-00 target is dropped and counted (R420). -/
def mxEmit (s : State) (el : Nat) (d : Option Dest) (t : Token) : State :=
  if s.drainFault d t then s.elFault el 0xE104 2 0 t.payload
  else match d with
    | none => if t.et then s.count (elPk el) 1 1 else s
    | some d => s.addEmit { due := s.cyc, ord := s.elRank el, src := el, dst := d, tok := t, f := s.cyc }

/-- The target takes one more token of an element in this cycle: up to 16 at a stream port, up to 4 at any other place (R306). -/
def mxRoom (s : State) (el : Nat) (d : Option Dest) : Bool :=
  match d with
  | none => true
  | some d =>
    let lim := match d with | .port _ => 16 | _ => 4
    decide (0 < s.room d) && decide ((s.fl.emits.filter fun e => decide (e.src = el ∧ e.dst = d ∧ e.due = s.cyc)).length < lim)

/-- The weight block with token `t` of a load (R297, R302). -/
def wbPut (fmt t : Nat) (tr : Bool) (v : W32) (wb : BitVec 2048) : BitVec 2048 :=
  let w := mxWidth fmt
  (List.range (32 / w)).foldl (fun b k =>
    let e := t * (32 / w) + k
    let pos := if tr then 16 * (e % mxKb fmt) + e / mxKb fmt else e
    let m : BitVec 2048 := BitVec.ofNat 2048 (2 ^ w - 1) <<< (w * pos)
    (b &&& ~~~m) ||| (BitVec.ofNat 2048 (v.toNat / 2 ^ (w * k) % 2 ^ w) <<< (w * pos))) wb

/-- `mwld` and `mwldt` (R302): one token of the block, its scale header or its trailing scale. -/
def mxLoad (tr : Bool) (w : MWord) (s : State) : State :=
  let el := s.act.el
  let x := s.mx el
  if s.mxRuns el then
    match opqHead x.opq with
    | .empty | .wave => s
    | .bad c tier d => s.elFault el c tier 0 d
    | .scale t ts =>
      if w.scsw = 2 then s.setMx el { x with opq := ts, lsw := t.payload } else s.setMx el { x with opq := ts, lsa := t.payload }
    | .data t ts =>
      let x := { x with opq := ts }
      if x.vec < 64 then
        let y := { x with wb := wbPut w.fmt.toNat x.vec tr t.payload x.wb, vec := x.vec + 1,
                          wTaint := if x.vec = 0 then t.et else x.wTaint || t.et }
        if y.vec = 64 ∧ w.scsw ≠ 1 then mxDone s el y else s.setMx el y
      else mxDone s el { x with lsw := t.payload, wTaint := x.wTaint || t.et }
  else s

/-- `mwld` (R302). -/
def execMwld (w : MWord) (s : State) : Host.Outcome State Fault Refusal := .next (mxLoad false w s)
/-- `mwldt` (R302): column-major. -/
def execMwldt (w : MWord) (s : State) : Host.Outcome State Fault Refusal := .next (mxLoad true w s)

/-- `mzero` (R306). -/
def execMzero (_w : MWord) (s : State) : Host.Outcome State Fault Refusal :=
  let el := s.act.el
  if s.mxRuns el then .next (mxHead s el (mxDone s el { s.mx el with acc := [], p := [], step := 0, aTaint := false })) else .next s

/-- The pair that an element holds for standalone words. -/
def MxElem.pair (x : MxElem) : Pair := { p := x.p, a := x.acc, step := x.step.toNat, saV := x.saV }
def MxElem.setPair (x : MxElem) (y : Pair) : MxElem := { x with p := y.p, acc := y.a, step := BitVec.ofNat 6 y.step, saV := y.saV }

/-- The promotions of `n` K-steps under PI, from STEP on (R305). -/
def promos (pi : Nat) : Nat → Nat → Nat
  | 0, _ => 0
  | n + 1, step => if pi ≠ 0 ∧ step + 1 = pi then promos pi n 0 + 1 else promos pi n (step + 1)

/-- One vector of a standalone `mma` or `mmasc` (R303, R304, R306), at most one in a cycle and none in the cycles that promotions add
(R311); in a run, the scale headers at the heads of OPQ (R302). -/
def mxMul (w : MWord) (s : State) : State :=
  let el := s.act.el
  let x := s.mx el
  if s.mxRuns el && (s.mxPlane el).sys then mxHead s el s
  else if s.mxRuns el && decide (x.ready ≤ s.cyc) then
    match opqHead x.opq with
    | .empty | .wave => s
    | .bad c tier d => s.elFault el c tier 0 d
    | .scale t ts => s.setMx el { x with opq := ts, lsa := t.payload }
    | .data t ts =>
      if w.scsa = 1 ∧ x.step = 0 ∧ x.saV = false then
        s.setMx el { x with opq := ts, lsa := t.payload, saV := true, aTaint := x.aTaint || t.et }
      else
        let v := x.opq.take 4
        if v.any fun t => t.k && decide (t.sub = 3) then s.elFault el 0x6001 4 0 t.payload
        else if v.length < 4 ∨ v.any (fun t => t.k) then s
        else
          let p := x.pair.vector w (v.map fun t => t.payload) x.wb x.lsa x.lsw
          let at_ := s.cyc + 1 + promos w.pi.toNat (if w.fmt = 5 then 2 else 1) x.step.toNat
          let y := x.setPair p
          let y := { y with opq := x.opq.drop 4, afmt := field w.fmt 0 3, vec := x.vec + 1, ready := at_,
                            aTaint := x.aTaint || x.wTaint || v.any fun t => t.et }
          if w.cnt ≠ 0 ∧ y.vec = w.cnt.toNat then mxDone s el y else s.setMx el y
  else s

/-- `mma` (R306): t = 1. -/
def execMma (w : MWord) (s : State) : Host.Outcome State Fault Refusal := .next (mxMul { w with scsa := 0, scsw := 0 } s)
/-- `mmasc` (R306). -/
def execMmasc (w : MWord) (s : State) : Host.Outcome State Fault Refusal := .next (mxMul w s)

/-- The explicit promotion of an element (R305): the word's scales are 00. -/
def mxPromote (x : MxElem) : MxElem := x.setPair (x.pair.promote x.afmt.toNat 0 0 x.lsa x.lsw)

/-- `mpromo` (R305). -/
def execMpromo (_w : MWord) (s : State) : Host.Outcome State Fault Refusal :=
  let el := s.act.el
  if s.mxRuns el && decide ((s.mx el).ready ≤ s.cyc) then .next (mxHead s el (mxDone s el (mxPromote (s.mx el)))) else .next s

/-- `mdrain` (R306, R311): a promotion, then one accumulator in each step, two cycles later at the earliest; the last
one clears them. SEQ is a free value (DESIGN CHOICE, log 12). -/
def execMdrain (w : MWord) (s : State) : Host.Outcome State Fault Refusal :=
  let el := s.act.el
  let x := s.mx el
  if s.mxRuns el && decide (x.ready ≤ s.cyc) then
    if x.vec = 0 then .next (mxHead s el (s.setMx el { mxPromote x with vec := 1, ready := s.cyc + 2 }))
    else if mxRoom s el (s.mxDest el w) then
      let t : Token := { dataTok (x.acc.get 0 x.drained) (Config.freeSeq s.free) with rid := mxRid (s.mxRec el) x.wpos.toNat, et := x.aTaint }
      let s1 := { mxEmit s el (s.mxDest el w) t with free := s.free + 1 }
      .next (mxHead s el (if x.drained = 15 then mxDone s1 el { x with acc := [], aTaint := false }
        else s1.setMx el { x with drained := x.drained + 1 }))
    else .next (mxHead s el s)
  else .next s

/-- `mpass` (R306): one token passed on whole but for RID; a scale header among the data is latched and passed (R60). -/
def execMpass (w : MWord) (s : State) : Host.Outcome State Fault Refusal :=
  let el := s.act.el
  let x := s.mx el
  if s.mxRuns el && (s.mxPlane el).sys then .next (mxHead s el s)
  else if s.mxRuns el then
    let pass (t : Token) (y : MxElem) : State :=
      let s1 := s.setMx el y
      mxEmit s1 el (s.mxDest el w) { t with rid := mxRid (s.mxRec el) x.wpos.toNat }
    match opqHead x.opq with
    | .empty | .wave => .next s
    | .bad c tier d => .next (s.elFault el c tier 0 d)
    | .scale t ts => if mxRoom s el (s.mxDest el w) then .next (pass t { x with opq := ts, lsa := t.payload }) else .next s
    | .data t ts =>
      if mxRoom s el (s.mxDest el w) then
        let y := { x with opq := ts, vec := x.vec + 1 }
        .next (pass t (if w.cnt ≠ 0 ∧ y.vec = 4 * w.cnt.toNat then mxNext (s.mxRec el) y else y))
      else .next s
  else .next s

/-- An element whose record holds no word completes the empty sequences of its tiles at once (R299). -/
def mxEmpty (el : Nat) (s : State) : State :=
  if s.mxRuns el then s.setMx el { s.mx el with tcnt := 0, wpos := 0, vec := 0, drained := 0, saV := false } else s

/-! ### Wavefronts at matrix elements (R65, R80, R309) -/

/-- The matrix word of a fetched word. -/
def mwordOf (v : W64) : Option (MOp × MWord) :=
  match decodeMatrix v with
  | .ok i => i.mword?
  | .error _ => none

/-- The DTGT places of a matrix element's words in the planes listed, each with its RID. -/
def State.mxOuts (s : State) (el : Nat) (ps : List (BitVec 2)) : List (Dest × BitVec 6) :=
  distinctD ((ps.map fun p =>
    let r := ((s.stripe (stOf el)).planes.get {} p.toNat).mxs.get {} (eOf el - 64)
    (r.words.map fun w => match mwordOf w.2 with
      | some (_, m) => (s.destOf el m.dtgt).toList.map fun d => (d, mxRid r w.1)
      | none => []).flatten).flatten)

/-- The removal of a wavefront from OPQ, where it stands there, with its copies (R65); a swap sets WPOS to 0 (R299). -/
def mxLeave (s : State) (el : Nat) (t : Token) (outs : List (Dest × BitVec 6)) (next : Bool) : State :=
  let x := s.mx el
  let y := { x with opq := if x.opq.head? = some t then x.opq.tail else x.opq }
  let y := if t.swp then { y with act := t.plt, av := true, wpos := 0, vec := 0, drained := 0, saV := false, beat := 0, cnt := none,
                                  pipe := none, outs := [] }
    else if next then mxNext (s.mxRec el) y else y
  (emitCopies (s.setMx el y) el t outs).reachSink ((s.stripe (stOf el)).rg.getD 0) (.kreg el 0) t

/-- The passage of a wavefront through a standalone matrix element: idle, or at a word with CNT = 0 (R309). A word with
CNT ≠ 0 keeps it waiting. An element without an active plane passes one with SWP = 1, which gives it one (R54). -/
def mxPassage (el : Nat) (s : State) : State :=
  let x := s.mx el
  if s.elLive el ∧ s.noPending el then
    match x.opq with
    | [] => s
    | t :: _ =>
      if !t.wave || (!x.av && !t.swp) then s
      else if t.et then s.elFault el 0xE104 2 0 t.payload
      else
        let filled := !t.swp || s.filled (stOf el) t.plt
        let go (outs : List (Dest × BitVec 6)) (next : Bool) : State :=
          if filled && s.fits (outs.map Prod.fst) [.opq el] then mxLeave s el t outs next else s
        if x.tcnt = 0 ∨ x.av = false then go (s.mxOuts el (t.wavePlanes x.av x.act)) false
        else match mwordOf (s.mxWord el) with
          | some (.mma, w) | some (.mmasc, w) | some (.mpass, w) =>
            if w.cnt = 0 ∧ !(s.mxPlane el).sys then
              go ((s.mxDest el w).toList.map fun d => (d, mxRid (s.mxRec el) x.wpos.toNat)) true
            else s
          | _ => s
  else s

/-- WAVEFRONT_PASSAGE (R65): of a scalar or a matrix element. -/
def execWavefrontPassage (el : Nat) (s : State) : Host.Outcome State Fault Refusal :=
  .next (if eOf el < 64 then scalarPassage el s else mxPassage el s)

/-! ### Systolic runs (R81, R307, R308) -/

/-- The chained operations. -/
def chained : MOp → Bool
  | .mma | .mmasc | .mpass => true
  | _ => false

/-- Window stripe `ws` of a region runs a plane with SYS = 1, by its `mx0`. -/
def State.sysStripe (s : State) (r : Region) (ws : Nat) : Bool :=
  let el := r.stripeAt ws * 128 + 64
  (s.mx el).av && (s.mxPlane el).valid && (s.mxPlane el).sys

/-- The first stripe of the run that window stripe `ws` lies in, going up at most `k` stripes. -/
def runFirst (s : State) (r : Region) : Nat → Nat → Nat
  | 0, ws => ws
  | k + 1, ws => if 0 < ws ∧ s.sysStripe r (ws - 1) then runFirst s r k (ws - 1) else ws
/-- How many stripes from `ws` on have SYS = 1. -/
def runLen (s : State) (r : Region) : Nat → Nat → Nat
  | 0, _ => 0
  | k + 1, ws => if ws < r.count ∧ s.sysStripe r ws then 1 + runLen s r k (ws + 1) else 0

/-- The element of stripe `i`, column `j` of a run. -/
def runEl (r : Region) (first i j : Nat) : Nat := r.stripeAt (first + i) * 128 + 64 + j

/-- The chained word that an element of a run stands at. -/
def State.runWord (s : State) (el : Nat) : Option (MOp × MWord) :=
  if s.mxRuns el then (mwordOf (s.mxWord el)).filter fun x => chained x.1 else none

/-- What `mx0` of a stripe offers for its next vector: the scale token where one is due, the vector, and the rest of
OPQ with LSA as scale headers on the way leave it. -/
inductive VecRes where
  | wait
  | wave
  | bad (code : BitVec 16) (tier : BitVec 4) (d : W32)
  | ok (lsa : W32) (sa : Bool) (taint : Bool) (vec : List W32) (rest : List Token)
  deriving DecidableEq, Repr, Inhabited

/-- The next vector at an operand input; `need` asks for the FP32 scale token first (R303). -/
def nextVec (need : Bool) (lsa : W32) (sa tn : Bool) : List Token → VecRes
  | [] => .wait
  | t :: ts =>
    match opqHead (t :: ts) with
    | .empty => .wait
    | .wave => .wave
    | .bad c tier d => .bad c tier d
    | .scale _ _ => nextVec need t.payload sa tn ts
    | .data _ _ =>
      if need then nextVec false t.payload true (tn || t.et) ts
      else
        let v := (t :: ts).take 4
        if v.any fun u => u.k && decide (u.sub = 3) then .bad 0x6001 4 t.payload
        else if v.length < 4 ∨ v.any (fun u => u.k) then .wait
        else .ok lsa sa (tn || v.any fun u => u.et) (v.map fun u => u.payload) ((t :: ts).drop 4)

/-- The scale headers at the head of an operand input leave it, the last one into LSA (R302). -/
def dropHeads (lsa : W32) : List Token → W32 × List Token
  | [] => (lsa, [])
  | t :: ts => match opqHead (t :: ts) with | .scale u _ => dropHeads u.payload ts | _ => (lsa, t :: ts)

/-- The pair that enters stripe `i`, column `j` for vector `v`: zero in the first stripe. -/
def runPairIn (s : State) (r : Region) (first i j : Nat) : Pipe :=
  if i = 0 then { v := 0, vec := [] } else ((s.mx (runEl r first (i - 1) j)).pipe.getD { v := 0, vec := [] })

/-- The element of a run has the chained word of index `w` in its record, and takes its part in the run's beats. -/
def State.inRun (s : State) (el w : Nat) : Bool :=
  match mwordOf ((s.mxRec el).words.get 0 w) with | some x => chained x.1 | none => false

/-- What `mx0` of a stripe offers to a beat: LSA, whether an FP32 scale token was popped, the taint and the vector. -/
structure Offer where
  lsa : W32 := 0
  sa : Bool := false
  taint : Bool := false
  vec : List W32 := []
  deriving DecidableEq, Repr, Inhabited

/-- The step of one element in a beat: `none` where no vector stands there. `s` is the state before the beat. The activation scale
that holds at `mx0` when it takes a vector goes with the vector (DESIGN CHOICE, log 62), past an `mpass` too (R307). -/
def runStep (s : State) (r : Region) (first i j b n : Nat) (offer : Option Offer) : Option Pipe :=
  if b < i + j ∨ n ≤ b - i - j then none
  else
    let el := runEl r first i j
    let x := s.mx el
    let pin := runPairIn s r first i j
    let src : Offer := if j = 0 then offer.getD {}
      else match (s.mx (runEl r first i (j - 1))).pipe with
        | some q => { lsa := q.lsa, sa := q.saV, taint := q.taint, vec := q.vec }
        | none => {}
    match s.runWord el with
    | some (.mpass, _) | none => some { pin with v := b - i - j, vec := src.vec, lsa := src.lsa, saV := src.sa, taint := pin.taint || src.taint }
    | some (op, w) =>
      let w := match op with | .mma => { w with scsa := 0, scsw := 0 } | _ => w
      let sa := if w.scsa = 1 ∧ src.sa = false then pin.sa else src.lsa
      let y := ({ p := pin.p, a := pin.a, step := pin.step, saV := false } : Pair).vector w src.vec x.wb sa x.lsw
      some { v := b - i - j, vec := src.vec, lsa := src.lsa, saV := src.sa, sa := sa, p := y.p, a := y.a, step := y.step,
             taint := pin.taint || src.taint || x.wTaint, fmt := w.fmt, scsa := w.scsa, scsw := w.scsw, sw := x.lsw }

/-- The final promotion of a pair at stripe R − 1, under the format and scales of the word that stepped it last (R305, R307;
DESIGN CHOICE, log 62). -/
def Pipe.final (q : Pipe) : Pipe :=
  let y := ({ p := q.p, a := q.a, step := q.step, saV := false } : Pair).promote q.fmt.toNat q.scsa q.scsw q.sa q.sw
  { q with p := y.p, a := y.a, step := y.step }
/-- The element's format register after its step (Table 12.1). -/
def State.runFmt (s : State) (el : Nat) : BitVec 3 :=
  match s.runWord el with
  | some (.mma, w) | some (.mmasc, w) => field w.fmt 0 3
  | _ => (s.mx el).afmt

/-- The tokens of a drained pair, after the final promotion at stripe R − 1 (R307). -/
def drainTokens (q : Pipe) (rid : BitVec 6) (seq : BitVec 8) : List Token :=
  (List.range 16).map fun n => { dataTok (q.a.get 0 n) seq with rid := rid, et := q.taint }

/-- SYSTOLIC_BEAT (R308): one beat of the run of window stripe `ws`, at most one in a cycle. Nothing happens in a cycle in which an
input or a drain holds the beat. -/
def execSystolicBeat (rg ws : Nat) (s : State) : Host.Outcome State Fault Refusal :=
  let r := s.region rg
  let first := runFirst s r 128 ws
  let R := runLen s r 128 first
  let e00 := runEl r first 0 0
  match s.runWord e00 with
  | none => .next s
  | some (_, w) =>
    let rows := List.range R
    let cols := List.range 16
    let all := (rows.map fun i => cols.map fun j => (i, j)).flatten
    let x00 := s.mx e00
    let b := x00.beat
    -- every element of the run that has the chained word stands at it (DEDUCED, log 63)
    let late (el : Nat) : Bool := s.inRun el x00.wpos.toNat && !((s.runWord el).isSome && decide ((s.mx el).wpos = x00.wpos))
    if !(r.fires s.cyc) || decide (R = 0) || decide (s.cyc < x00.ready) || !(rows.all fun i => s.inRun (runEl r first i 0) x00.wpos.toNat)
      || all.any (fun ij => late (runEl r first ij.1 ij.2)) then .next s
    else
      let n0 : Option Nat := if w.cnt ≠ 0 then some w.cnt.toNat else x00.cnt
      -- what each stripe's mx0 offers for the vector of this beat
      let need (i : Nat) : Bool := match s.runWord (runEl r first i 0) with
        | some (.mmasc, m) => decide (m.scsa = 1) && decide ((runPairIn s r first i 0).step = 0)
        | _ => false
      let offers : List (Nat × VecRes) := rows.filterMap fun i =>
        if b < i then none
        else match n0 with
          | some n => if b - i < n then some (i, nextVec (need i) (s.mx (runEl r first i 0)).lsa false false (s.mx (runEl r first i 0)).opq) else none
          | none => some (i, nextVec (need i) (s.mx (runEl r first i 0)).lsa false false (s.mx (runEl r first i 0)).opq)
      match offers.find? fun o => match o.2 with | .bad .. => true | _ => false with
      | some (i, .bad c tier d) => .next (s.elFault (runEl r first i 0) c tier 0 d)
      | _ =>
        -- a wavefront at stripe 0 fixes the vector count of a word with CNT = 0 (R309)
        match n0, offers.find? fun o => decide (o.1 = 0) with
        | none, some (_, .wave) => .next (s.setMx e00 { x00 with cnt := some b })
        | _, _ =>
          if offers.any fun o => match o.2 with | .ok .. => false | _ => true then .next s
          else
            let n := n0.getD (b + 1)
            let last := R - 1
            -- drains of the vectors stepped two beats before
            let drains := cols.filterMap fun j =>
              let el := runEl r first last j
              match (s.mx el).outs with
              | (bb, q) :: _ => if bb + 2 ≤ b then some (j, q) else none
              | [] => none
            let dest (j : Nat) : Option Dest := match s.runWord (runEl r first last j) with
              | some (_, m) => s.mxDest (runEl r first last j) m
              | none => none
            let wants := (drains.map fun d => (dest d.1).toList.map fun x => List.replicate 16 x).flatten.flatten
            -- the copies of the wavefront that ends a word with CNT = 0 need space in the run's last beat
            let ends := decide (n0.isSome ∧ b + 1 = n + R + 16)
            let waveAt (i : Nat) : Option Token := if w.cnt = 0 then (dropHeads 0 (s.mx (runEl r first i 0)).opq).2.head? else none
            let copies := if ends then (all.map fun ij =>
                match s.runWord (runEl r first ij.1 ij.2), waveAt ij.1 with
                | some (_, m), some _ => (s.mxDest (runEl r first ij.1 ij.2) m).toList
                | _, _ => []).flatten else []
            let filled := !ends || rows.all fun i => match waveAt i with
              | some k => k.wave && (!k.swp || s.filled (r.stripeAt (first + i)) k.plt)
              | none => decide (w.cnt ≠ 0)
            if !(s.fits (wants ++ copies) []) || !filled then .next s
            else
              let offer (i : Nat) : Option Offer :=
                match offers.find? fun o => decide (o.1 = i) with
                | some (_, .ok lsa sa tn vec _) => some { lsa := lsa, sa := sa, taint := tn, vec := vec }
                | _ => none
              -- new pipes, computed from the state before the beat
              let pipes := all.map fun ij => (ij, runStep s r first ij.1 ij.2 b n (offer ij.1))
              let s1 := pipes.foldl (fun t p =>
                let el := runEl r first p.1.1 p.1.2
                let x := t.mx el
                let fin : List (Nat × Pipe) := match p.2, s.runWord el with
                  | some q, some _ => if p.1.1 = last then [(b, q.final)] else []
                  | _, _ => []
                t.setMx el { x with pipe := p.2, outs := x.outs ++ fin, afmt := if p.2.isSome then s.runFmt el else x.afmt }) s
              let s2 := offers.foldl (fun t o => match o.2 with
                | .ok lsa _ _ _ rest => let el := runEl r first o.1 0; t.setMx el { t.mx el with opq := rest, lsa := lsa }
                | _ => t) s1
              let s3 := drains.foldl (fun t d =>
                let el := runEl r first last d.1
                let t1 := t.setMx el { t.mx el with outs := (t.mx el).outs.tail }
                let toks := drainTokens d.2 (mxRid (s.mxRec el) (s.mx el).wpos.toNat) (Config.freeSeq t1.free)
                { toks.foldl (fun u k => mxEmit u el (dest d.1) k) t1 with free := t1.free + 1 }) s2
              if ends then
                -- the word is complete in every element; a wavefront that ended it passes (R309)
                let ended := all.foldl (fun t ij =>
                  let el := runEl r first ij.1 ij.2
                  match s.runWord el with
                  | none => t
                  | some _ =>
                    let h := dropHeads (t.mx el).lsa (t.mx el).opq
                    t.setMx el { t.mx el with pipe := none, outs := [], beat := 0, cnt := none, ready := s.cyc + 1, lsa := h.1, opq := h.2 }) s3
                .next (all.foldl (fun t ij =>
                  let el := runEl r first ij.1 ij.2
                  match s.runWord el with
                  | none => t
                  | some (_, m) =>
                    if w.cnt ≠ 0 then mxDone t el (t.mx el)
                    else match waveAt ij.1 with
                      | some k => mxLeave t el k ((s.mxDest el m).toList.map fun d => (d, mxRid (s.mxRec el) (s.mx el).wpos.toNat)) true
                      | none => t) ended)
              else .next (s3.setMx e00 { s3.mx e00 with beat := b + 1, ready := s.cyc + 1 })

end Sys2Proof.Machine
end

