-- ==== Sys2Proof/Machine/Save.lean ====
section
/-! DEFINITION. The save slot of a stripe (Table 2.6, R39 to R41, R296): its bytes from the stripe's state, and the stripe's state from its bytes; direct swaps of a stripe (R72). -/
namespace Sys2Proof.Machine
open Sys2Proof

/-- A list filled up with zeros to `n` places. -/
def padTo (n : Nat) (l : List Nat) : List Nat := l ++ List.replicate (n - l.length) 0

/-- The bytes of a list of numbers, `n` bytes each. -/
def numBytes (n : Nat) (l : List Nat) : List Byte := (l.map (leBytes n)).flatten

/-- The registers and queues of a scalar element: 160 bytes. -/
def elemBytes (x : Elem) : List Byte :=
  numBytes 4 ((List.range 8).map fun i => (x.k.get 0 i).toNat)
  ++ ((List.range 4).map fun q => numBytes 8 (padTo 4 (((x.q.get [] q).take 4).map tokNat))).flatten

/-- The matrix state of R296: 352 bytes. -/
def mxBytes (x : MxElem) : List Byte :=
  leBytes 256 x.wb.toNat ++ numBytes 4 ((List.range 16).map fun n => (x.acc.get 0 n).toNat)
  ++ leBytes 2 x.step.toNat ++ leBytes 1 x.afmt.toNat ++ leBytes 1 0 ++ leBytes 4 x.lsa.toNat ++ leBytes 4 x.lsw.toNat
  ++ leBytes 2 x.tcnt.toNat ++ zeros 18

/-- The valid mask of an element's queues: bit 4q + k for entry k of queue q. -/
def queueMask (x : Elem) : Nat :=
  ((List.range 4).map fun q => (2 ^ min 4 (x.q.get [] q).length - 1) * 16 ^ q).sum

/-- The 16 KiB save slot of a stripe: virtual stripe, plane and local iteration in its header. -/
def slotBytes (s : State) (st vs : Nat) (plane : BitVec 2) (iter : Nat) : List Byte :=
  let t := s.stripe st
  let el (e : Nat) := s.elem (st * 128 + e)
  leBytes 2 vs ++ leBytes 2 plane.toNat ++ zeros 4 ++ leBytes 8 iter ++ zeros 48
  ++ ((List.range 64).map fun e => elemBytes (el e)).flatten
  ++ numBytes 8 ((List.range 16).map fun i => match t.pass.get none i with | some k => tokNat k | none => 0)
  ++ ((List.range 16).map fun j => mxBytes (s.mx (st * 128 + 64 + j))).flatten
  ++ numBytes 2 ((List.range 64).map fun e => queueMask (el e))
  ++ leBytes 2 ((List.range 16).map fun i => if (t.pass.get none i).isSome then 2 ^ i else 0).sum
  ++ zeros 190

/-- An element's registers and queues from a save slot at `a`; what is read with an uncorrectable error is tainted (R418, R419). -/
def loadElem (s : State) (a e : Nat) (x : Elem) : Elem :=
  let b := a + 0x40 + 160 * e
  let m := s.readN (a + 0x3EC0 + 2 * e) 2
  { x with
    k := (List.range 8).foldl (fun k i => k.put 0 i (BitVec.ofNat 32 (s.readN (b + 4 * i) 4))) []
    kTaint := BitVec.ofNat 8 ((List.range 8).map fun i => if s.damagedIn (b + 4 * i) 4 then 2 ^ i else 0).sum
    q := (List.range 4).foldl (fun q i =>
      q.put [] i (((List.range 4).filter fun k => m.testBit (4 * i + k)).map fun k => (s.readToken (b + 32 + 32 * i + 8 * k)).2)) [] }

/-- A matrix element's state from a save slot at `a`. -/
def loadMx (s : State) (a j : Nat) (x : MxElem) : MxElem :=
  let b := a + 0x28C0 + 352 * j
  { x with
    wb := BitVec.ofNat 2048 (s.readN b 256)
    acc := (List.range 16).foldl (fun q n => q.put 0 n (BitVec.ofNat 32 (s.readN (b + 256 + 4 * n) 4))) []
    step := BitVec.ofNat 6 (s.readN (b + 320) 2), afmt := BitVec.ofNat 3 (s.readN (b + 322) 1)
    lsa := BitVec.ofNat 32 (s.readN (b + 324) 4), lsw := BitVec.ofNat 32 (s.readN (b + 328) 4)
    tcnt := BitVec.ofNat 16 (s.readN (b + 332) 2)
    wTaint := s.damagedIn b 256, aTaint := s.damagedIn (b + 256) 96 }

/-- The stripe's elements, pass registers and matrix elements from the save slot at physical address `a` (R41), whose correctable
errors are corrected and counted (R435). -/
def State.loadSlot (s : State) (st a : Nat) : State :=
  let s1 := (List.range 64).foldl (fun t e => t.setElem (st * 128 + e) (loadElem s a e (t.elem (st * 128 + e)))) (s.readBytes a 16384).1
  let s2 := (List.range 16).foldl (fun t j => t.setMx (st * 128 + 64 + j) (loadMx s a j (t.mx (st * 128 + 64 + j)))) s1
  let m := s.readN (a + 0x3F40) 2
  s2.setStripe st { s2.stripe st with
    pass := (List.range 16).foldl (fun p i => p.put none i (if m.testBit i then some (s.readToken (a + 0x2840 + 8 * i)).2 else none)) [] }

/-- The stripe's element queues and pass registers become empty. -/
def State.emptyStripe (s : State) (st : Nat) : State :=
  let s1 := (List.range 64).foldl (fun t e => t.setElem (st * 128 + e) { t.elem (st * 128 + e) with q := [] }) s
  s1.setStripe st { s1.stripe st with pass := [] }

/-- A queue or a pass register of the stripe, a matrix operand input among them, holds a token. -/
def State.holdsToken (s : State) (st : Nat) : Bool :=
  !((s.stripe st).pass.isEmpty)
  || (List.range 64).any (fun e => !((s.elem (st * 128 + e)).q.isEmpty))
  || (List.range 16).any (fun j => !((s.mx (st * 128 + 64 + j)).opq.isEmpty))
/-- An accumulator of the stripe holds a live value. -/
def State.holdsAcc (s : State) (st : Nat) : Bool := (List.range 16).any fun j => !((s.mx (st * 128 + 64 + j)).acc.isEmpty)

/-- A hop into the stripe replays (R424). -/
def State.replaying (s : State) (st : Nat) : Bool :=
  s.fl.hops.any fun h => match h.dst with
    | .queue el _ => decide (stOf el = st)
    | .opq el => decide (stOf el = st)
    | .pass t _ => decide (t = st)
    | .port p => (s.stripe st).rg.isSome && decide ((s.port p).rg = (s.stripe st).rg)
    | _ => false

/-- The first element of the stripe whose registers, matrix state or hold-store entry a save finds tainted (R424). -/
def State.taintedAt (s : State) (st : Nat) : Option Nat :=
  (((List.range 64).map fun e => st * 128 + e).find? fun el => decide ((s.elem el).kTaint ≠ 0) || (s.stripe st).hold.any fun h => h.taint && decide (h.el = el))
  |>.orElse fun _ => ((List.range 16).map fun j => st * 128 + 64 + j).find? fun el => (s.mx el).wTaint || (s.mx el).aTaint
/-- Tainted state of the stripe. -/
def State.taintedStripe (s : State) (st : Nat) : Bool := (s.taintedAt st).isSome

/-- A direct swap of a whole stripe (R72): ACT and AV of every element; a matrix element starts at word 0 (R299). The
pass registers that feed the stripe take their map from the new plane (R74): the swap renews the plane of arming, and what a wavefront
left before it is forgotten (DESIGN CHOICE, log 89). -/
def State.swapStripe (s : State) (st : Nat) (p : BitVec 2) (up : Option Nat) : State :=
  let s1 := (List.range 64).foldl (fun t e =>
    t.setElem (st * 128 + e) { t.elem (st * 128 + e) with act := p, av := true }) s
  let s2 := (List.range 16).foldl (fun t j =>
    t.setMx (st * 128 + 64 + j) { t.mx (st * 128 + 64 + j) with act := p, av := true, wpos := 0, vec := 0, drained := 0, saV := false, beat := 0 }) s1
  let s3 := s2.setStripe st { s2.stripe st with act := p, av := true, armAct := p }
  match up with
  | none => s3
  | some u => s3.setStripe u { s3.stripe u with pmap := [] }

/-- The stripe has no active plane (R37, R54, R364). -/
def State.darkStripe (s : State) (st : Nat) : State :=
  let s1 := (List.range 64).foldl (fun t e => t.setElem (st * 128 + e) { t.elem (st * 128 + e) with av := false }) s
  let s2 := (List.range 16).foldl (fun t j => t.setMx (st * 128 + 64 + j) { t.mx (st * 128 + 64 + j) with av := false }) s1
  s2.setStripe st { s2.stripe st with av := false }

end Sys2Proof.Machine
end

