-- ==== Sys2Proof/Machine/Scroll.lean ====
section
/-! DEFINITION. Fills (R71, R323), arming (R325, R327) and scrolled placements (R36 to R41, R474, R475). -/
namespace Sys2Proof.Machine
open Sys2Proof

/-- A fault condition at the Reel point (R395): the section stops at the word. -/
def State.reelFault (s : State) (rg : Nat) (code : BitVec 16) (tier : BitVec 4) (detail : W32) : State :=
  let r := s.region rg
  (s.setRegion rg { r with reel := { r.reel with live := false } }).detect r.pk (.figure (figOf rg)) (2 ^ 80)
    { fcode := code, tier := tier, point := 4, region := BitVec.ofNat 6 rg, detail := detail }

/-! ### Fills (R71, R323) -/

/-- A fill is queued on the stripe's ring. -/
def State.queueFill (s : State) (rg st : Nat) (p : BitVec 2) (img : Nat) (fq place : Bool) : State :=
  let ring := ringOf st
  let g := s.ring ring
  (s.setRing ring { g with fills := g.fills ++ [{ ord := s.fl.next, rg := rg, st := st, p := p, img := img, fq := fq, place := place,
                                                  word := (s.region rg).reel.rpc.toNat }] }).bump

/-- Plane `p` is an active plane of the stripe or of an element of it. -/
def State.activePlane (s : State) (st : Nat) (p : BitVec 2) : Bool :=
  let t := s.stripe st
  (t.av && decide (t.act = p)) || (List.range 64).any (fun e => let x := s.elem (st * 128 + e); x.av && decide (x.act = p))
  || (List.range 16).any fun j => let x := s.mx (st * 128 + 64 + j); x.av && decide (x.act = p)

/-- Images that a configuration cache holds: 4 MiB, 12 KiB for each (R14, R20). -/
def cacheImages : Nat := 4 * 2 ^ 20 / (12 * 2 ^ 10)
/-- What a ring's configuration cache calls an image: its address space, the address of its object, its index. -/
def Fig.imgKey (x : Fig) (img : Nat) : Nat × Nat × Nat := (x.asid.toNat, x.obj.toNat, img)
/-- An image of the ring's configuration cache. -/
def Ring.cached (g : Ring) (k : Nat × Nat × Nat) : Option Plane := (g.cache.find? fun c => decide (c.1 = k)).map Prod.snd
/-- An image that the cache lacks is fetched from its object; a full cache gives up its oldest image (R323, R355). What an image is known
by, that each counts 12 KiB, and which one a full cache gives up are the model's choice (DESIGN CHOICE, log 88). -/
def Ring.fetch (g : Ring) (k : Nat × Nat × Nat) (p : Plane) : Ring :=
  if (g.cached k).isSome then g else { g with cache := (if g.cache.length < cacheImages then g.cache else g.cache.tail) ++ [(k, p)] }

/-! ### Arming (R27, R327) -/

/-- The loop-context entries that take part in `lc`, over the window (R327). -/
def State.lcEntries (s : State) (r : Region) (lc : Nat) : List (Nat × Nat) :=
  r.stripes.filterMap fun st =>
    let t := s.stripe st
    let pl := t.planes.get {} t.act.toNat
    let v := pl.lcs.get 0 lc
    if t.av ∧ pl.valid ∧ !pl.event ∧ lcV v then some (lcII v, lcSTG v) else none
/-- II and STG of a loop context that is valid in the window. -/
def State.lcValid (s : State) (r : Region) (lc : Nat) : Option (Nat × Nat) :=
  match s.lcEntries r lc with
  | [] => none
  | x :: xs => if xs.all fun y => decide (y = x) then some x else none

/-- A loop context as an arming leaves it, its first iteration started (R27, R327). -/
def armedCtx (e : Nat × Nat) (n : W64) (start : Nat) : LoopCtx :=
  ({ ii := e.1, stg := e.2, tc := n, live := true, start := start } : LoopCtx).shift true

/-- An occupancy of virtual stripe `v` beginning at local iteration `base` (R474). -/
def occCtx (e : Nat × Nat) (n : W64) (start v base : Nat) : LoopCtx :=
  ({ ii := e.1, stg := e.2, tc := n, n := BitVec.ofNat 64 base, live := true, start := start, vs := v, occ := base } : LoopCtx).shift true

/-- The cycle before which an arming of the distributed loop issues nothing (R32). -/
def State.armStart (s : State) (r : Region) : Nat := max (s.cyc + 1) (r.armAt.getD s.cyc + 1 + r.copy * r.skew)

/-- The upstream neighbour of a window stripe. -/
def Region.upOf (r : Region) (ws : Nat) : Option Nat := if ws = 0 then none else some (r.stripeAt (ws - 1))

/-- Window stripes `0` to `n − 1` swap to `ctx0`. -/
def swapFirst (s : State) (r : Region) (n : Nat) : State :=
  (List.range n).foldl (fun t ws => t.swapStripe (r.stripeAt ws) 0 (r.upOf ws)) s

/-- A loop context of the region holds an iteration. -/
def Region.busy (r : Region) : Bool := r.lcs.any (fun c => decide (c.2.sv ≠ 0)) || r.scroll.isSome
/-- A loop context in which the stripe takes part, by its active plane, holds an iteration (R324). -/
def State.stripeBusy (s : State) (r : Region) (st : Nat) : Bool :=
  let t := s.stripe st
  let pl := t.planes.get {} t.act.toNat
  t.av && pl.valid && !pl.event && r.lcs.any fun c => decide (c.2.sv ≠ 0) && lcV (pl.lcs.get 0 c.1)

/-- The active planes of the window's stripes at an arming (R74): an arming of any loop context renews them (DESIGN CHOICE, log 89). -/
def State.noteArm (s : State) (r : Region) : State :=
  r.stripes.foldl (fun t st => let x := t.stripe st; t.setStripe st { x with armAct := x.act }) s

/-- The last fill of a placement is made: its stripes swap to `ctx0` and the arming takes effect (R325, R327). `word` is the index of the
`arm` that carries it out. -/
def State.finishPlacement (s : State) (rg word : Nat) : State :=
  let r := s.region rg
  match r.placing with
  | none => s
  | some (lc, n, D, V, img) =>
    if (s.fillsOf rg).any fun f => f.place then s
    else
      let m := min V r.count
      if (r.lcs.get {} lc).sv ≠ 0 then s.reelFault rg 0x7005 4 word
      else if (List.range m).any (fun ws => s.stripeBusy r (r.stripeAt ws) || s.holdsToken (r.stripeAt ws)) then s.reelFault rg 0x7002 4 word
      else
        let s1 := (swapFirst s r m).noteArm r
        match s1.lcValid r lc with
        | none => s.reelFault rg 0x7005 4 word
        | some e =>
          let start := s.armStart r
          let r1 := { s1.region rg with placing := none, armAt := none, armed := false }
          if V ≤ r.count then s1.setRegion rg { r1 with lcs := r1.lcs.put {} lc (armedCtx e n start) }
          else s1.setRegion rg { r1 with
            lcs := r1.lcs.put {} lc { ii := e.1, stg := e.2, tc := n, sv := 1, starts := 1 }
            wlcs := (List.range r.count).foldl (fun w ws => w.put {} ws (occCtx e n start ws 0)) []
            scroll := some { v := V, d := D, img := img, lc := lc, tc := n, made := (List.range r.count).foldl (fun w ws => w.put 0 ws 1) [] } }

/-- PLANE_FILL (R71, R323): a ring makes one fill at a time, those of one section in queue order. A step begins a fill: it takes the
image into the configuration cache, and the plane is invalid; the next one ends it. A fill into the active plane is a fault of the
word that queued it. A stripe not yet released to the region waits (R364). -/
def execPlaneFill (ring : Nat) (s : State) : Host.Outcome State Fault Refusal :=
  let g := s.ring ring
  let first (f : FillReq) : Bool := (s.fillsOf f.rg).all fun h => decide (f.ord ≤ h.ord)
  let put (u : State) (f : FillReq) (pl : Plane) : State :=
    let t := u.stripe f.st
    u.setStripe f.st { t with planes := t.planes.put {} f.p.toNat pl }
  match g.fills.find? fun f => f.begun with
  | some f =>
    let x := s.fig (figOf f.rg)
    let pl := (g.cached (x.imgKey f.img)).getD (x.imgs.get {} f.img)
    let s1 := put (s.setRing ring { g with fills := g.fills.filter fun h => decide (h ≠ f) }) f { pl with valid := true, img := f.img }
    .next (if f.place then s1.finishPlacement f.rg f.word else s1)
  | none =>
    match g.fills.find? fun f => first f && decide ((s.stripe f.st).rg = some f.rg) with
    | none => .next s
    | some f =>
      let s1 := s.setRing ring { g with fills := g.fills.filter fun h => decide (h ≠ f) }
      if !(s.region f.rg).live then .next s1
      else if s.activePlane f.st f.p then .next (s1.reelFault f.rg 0x7001 4 (BitVec.ofNat 32 f.word))
      else
        let x := s.fig (figOf f.rg)
        let g1 := { g with fills := g.fills.map fun h => if h = f then { f with begun := true } else h }
        .next (put (s.setRing ring (g1.fetch (x.imgKey f.img) (x.imgs.get {} f.img))) f {})

/-! ### Scrolled placements -/

/-- The plane of a virtual stripe (R36). -/
def Region.scrollPlane (r : Region) (v : Nat) : BitVec 2 := BitVec.ofNat 2 (v / r.count)

/-- Virtual stripe `v` processes a tile that begins at local iteration `base` (R36, R325, R475). -/
def Scroll.begins (sc : Scroll) (now v base : Nat) : Bool :=
  (decide (sc.tc = 0) || decide (base < sc.tc.toNat)) && (match sc.reach now v with | some n => decide (base < n) | none => true)

/-- The virtual stripe and first local iteration after those of a window stripe. -/
def Region.scrollNext (r : Region) (sc : Scroll) (ws : Nat) : Nat × Nat :=
  let c := r.wlcs.get {} ws
  if c.vs + r.count < sc.v then (c.vs + r.count, c.occ) else (ws, c.occ + sc.d)

/-- The ring-bank address of the save slot of virtual stripe `v` (R40), as a physical address. -/
def Region.slotPA (r : Region) (v : Nat) : Nat :=
  let a := r.saveAllot.getD v { base := 0, len := 0 }
  ringPA a.ring a.base

/-- A background fill of the next image of a window stripe, where its plane does not hold it and is not active (R36). -/
def State.prefetch (s : State) (rg ws : Nat) (v : Nat) : State :=
  let r := s.region rg
  let st := r.stripeAt ws
  match r.scroll with
  | none => s
  | some sc =>
    let p := r.scrollPlane v
    let pl := (s.stripe st).planes.get {} p.toNat
    if (pl.valid ∧ pl.img = sc.img + v) ∨ s.filling rg st p ∨ s.activePlane st p then s
    else s.queueFill rg st p (sc.img + v) false false

/-- Emits of elements of the stripe are pending (R204). -/
def State.stripePending (s : State) (st : Nat) : Bool :=
  s.fl.emits.any (fun e => decide (srcStripe e.src = st)) || s.fl.hops.any fun h => decide (srcStripe h.src = st) && !h.win.isEmpty
/-- A load, store or atomic of the stripe's elements is on its way, issued or not: its tokens leave through their targets. -/
def State.stripeAccess (s : State) (st : Nat) : Bool :=
  s.fl.accs.any (fun a => decide (a.2.ret ≠ {} ∧ stOf a.2.ret.el = st))
  || s.fab.strms.any fun t => t.2.q.any fun o => match o.access with | some p => decide (p.2 ≠ {} ∧ stOf p.2.el = st) | none => false
/-- The stripe whose state a place is. -/
def Dest.stripe? : Dest → Option Nat
  | .queue el _ | .opq el | .kreg el _ | .evmask el => some (stOf el)
  | .pass st _ | .lane st _ => some st
  | _ => none
/-- A token is on its way into the stripe. -/
def State.stripeInbound (s : State) (st : Nat) : Bool :=
  s.fl.emits.any (fun e => decide (e.dst.stripe? = some st)) || s.fl.hops.any fun h => decide (h.dst.stripe? = some st) && !h.win.isEmpty

/-- What a yield must not find (R259, R294, R310): the fault code of the first such thing. -/
def State.yieldBreach (s : State) (st : Nat) : Option (BitVec 16) :=
  let el (e : Nat) := s.elem (st * 128 + e)
  let es := List.range 64
  if !((s.stripe st).hold.isEmpty) || es.any (fun e => !((el e).quant.vals.isEmpty && (el e).quant.out.isEmpty)) then some 0xB001
  else if es.any (fun e => (el e).put.isSome || (el e).get.isSome || !((el e).pkt.isEmpty) || !((el e).part.isEmpty))
    || s.fl.waits.any (fun w => decide (stOf w.2.ret.el = st ∧ w.2.ret ≠ {})) then some 0xB002
  else if (List.range 16).any (fun j => let x := s.mx (st * 128 + 64 + j); decide (x.step ≠ 0) || !x.opq.isEmpty) then some 0xB003
  else none

/-- A token in a pass register still has to reach the successor of this virtual stripe in this tile, or the park buffer: the yield
waits for it (DESIGN CHOICE, log 64). -/
def Region.passDue (r : Region) (sc : Scroll) (ws : Nat) : Bool :=
  let a := r.wlcs.get {} ws
  if a.vs + 1 ≥ sc.v then false
  else if ws + 1 = r.count then true
  else
    let b := r.wlcs.get {} (ws + 1)
    decide (sc.phase.get 0 (ws + 1) ≠ 4) && (decide (b.occ < a.occ) || decide (b.occ = a.occ ∧ b.vs ≤ a.vs + 1))

/-- Scrolling ends: the distributed loop context is done (R36, R325, R475). Tokens still parked are dropped (DESIGN CHOICE, log 66). -/
def Region.endScroll (r : Region) (sc : Scroll) (now : Nat) : Region :=
  let c := r.lcs.get {} sc.lc
  let x := sc.exitBy now
  let n : W64 := match x with | some i => BitVec.ofNat 64 (i + 1) | none => sc.tc
  { r with scroll := none, wlcs := [], lcs := r.lcs.put {} sc.lc { c with sv := 0, live := false, n := n, xs := x.isSome } }

/-- VIRTUAL_STRIPE_YIELD (R36, R37, R39, R474): the occupancy is done, the cycle of its last slots is over, every emit has landed and
every access has given its tokens (DESIGN CHOICE, log 64).
A stateful virtual stripe is saved next; another has no active plane from here on. -/
def execVirtualStripeYield (rg ws : Nat) (s : State) : Host.Outcome State Fault Refusal :=
  let r := s.region rg
  match r.scroll with
  | none => .next s
  | some sc =>
    let st := r.stripeAt ws
    let c := r.wlcs.get {} ws
    if r.live ∧ r.stop.isNone ∧ ws < r.count ∧ sc.phase.get 0 ws = 0 ∧ c.live = false ∧ c.issued ≤ s.cyc ∧ !(s.stripePending st || s.stripeInbound st || s.stripeAccess st) then
      match s.yieldBreach st with
      | some code => .next (s.reelFault rg code 4 r.reel.rpc.toNat)
      | none =>
        if r.passDue sc ws ∧ !((s.stripe st).pass.isEmpty) then .next s
        else
          let s1 := (List.range 64).foldl (fun t e => t.setElem (st * 128 + e) { t.elem (st * 128 + e) with msg := [] }) s
          let sc := if c.vs + 1 = sc.v then { sc with tiles := sc.tiles + 1, ended := !(sc.begins s.cyc c.vs (c.occ + sc.d)) } else sc
          let pl := (s.stripe st).planes.get {} (s.stripe st).act.toNat
          if pl.stf || s.holdsToken st || s.holdsAcc st then
            .next (s1.setRegion rg { r with scroll := some { sc with phase := sc.phase.put 0 ws 1 } })
          else
            .next ((s1.darkStripe st).setRegion rg { r with scroll := some { sc with phase := sc.phase.put 0 ws 2 } })
    else .next s

/-- STATEFUL_SAVE (R39, R40, R424): the save slot is written, and the stripe has no active plane. The local iteration in its header
is the one that the virtual stripe would start next (DESIGN CHOICE, log 65). -/
def execStatefulSave (rg ws : Nat) (s : State) : Host.Outcome State Fault Refusal :=
  let r := s.region rg
  match r.scroll with
  | none => .next s
  | some sc =>
    let st := r.stripeAt ws
    let c := r.wlcs.get {} ws
    if r.live ∧ ws < r.count ∧ sc.phase.get 0 ws = 1 ∧ !(s.replaying st) then
      if s.taintedStripe st then .next (s.reelFault rg 0xE105 2 r.reel.rpc.toNat)
      else
        let s1 := s.writeBytes (r.slotPA c.vs) (slotBytes s st c.vs (s.stripe st).act (c.occ + c.starts))
        let s2 := (s1.emptyStripe st).darkStripe st
        .next (s2.setRegion rg { r with scroll := some { sc with phase := sc.phase.put 0 ws 2, saved := c.vs :: sc.saved } })
    else .next s

/-- SCROLL_SWAP (R36, R37, R72, R474): the next virtual stripe, once its plane is full. A stripe without a virtual stripe in the
last group waits until virtual stripe V − 1 has yielded. A virtual stripe of a tile that does not start fires nothing; once
every stripe holds one, and virtual stripe V − 1 is through, scrolling ends. -/
def execScrollSwap (rg ws : Nat) (s : State) : Host.Outcome State Fault Refusal :=
  let r := s.region rg
  match r.scroll with
  | none => .next s
  | some sc =>
    let st := r.stripeAt ws
    let (v, base) := r.scrollNext sc ws
    let c := r.wlcs.get {} ws
    let idle := decide (base ≠ c.occ ∧ ws + r.count * ((sc.v - 1) / r.count) ≥ sc.v)
    if r.live ∧ r.stop.isNone ∧ ws < r.count ∧ sc.phase.get 0 ws = 2 ∧ (idle = false ∨ base ≤ sc.tiles * sc.d) then
      let p := r.scrollPlane v
      let pl := (s.stripe st).planes.get {} p.toNat
      if s.filling rg st p then .next s
      else if pl.valid ∧ pl.img = sc.img + v then
        let s1 := s.swapStripe st p (some (r.stripeAt ((ws + r.count - 1) % r.count)))
        let e := (c.ii, c.stg)
        let r1 := s1.region rg
        if sc.begins s.cyc v base then
          let sc1 := { sc with phase := sc.phase.put 0 ws (if sc.saved.contains v then 3 else 0), made := sc.made.put 0 v (base + 1) }
          let r2 := { r1 with wlcs := r.wlcs.put {} ws (occCtx e sc.tc (s.cyc + 1) v base), scroll := some sc1 }
          .next ((s1.setRegion rg r2).prefetch rg ws (r2.scrollNext sc1 ws).1)
        else
          let sc1 := { sc with phase := sc.phase.put 0 ws 4 }
          let r2 := { r1 with wlcs := r.wlcs.put {} ws { ii := e.1, stg := e.2, tc := sc.tc, n := BitVec.ofNat 64 base, vs := v, occ := base }, scroll := some sc1 }
          .next (s1.setRegion rg (if sc1.ended ∧ (List.range r.count).all (fun w => decide (sc1.phase.get 0 w = 4)) then r2.endScroll sc1 s.cyc else r2))
      else .next (s.prefetch rg ws v)
    else .next s

/-- STATEFUL_RESTORE (R39, R41, R424): before the first slot of the occupancy fires, once no hop into the stripe is replayed. -/
def execStatefulRestore (rg ws : Nat) (s : State) : Host.Outcome State Fault Refusal :=
  let r := s.region rg
  match r.scroll with
  | none => .next s
  | some sc =>
    let st := r.stripeAt ws
    let c := r.wlcs.get {} ws
    if r.live ∧ ws < r.count ∧ sc.phase.get 0 ws = 3 ∧ !(s.replaying st) then
      .next ((s.loadSlot st (r.slotPA c.vs)).setRegion rg
        { r with scroll := some { sc with phase := sc.phase.put 0 ws 0, saved := sc.saved.filter fun v => decide (v ≠ c.vs) } })
    else .next s

end Sys2Proof.Machine
end

