-- ==== Sys2Proof/Machine/Reel.lean ====
section
/-! DEFINITION. The reel words (R319 to R331): each step executes, or waits at, the word of the section that the step runs. -/
namespace Sys2Proof.Machine
open Sys2Proof

/-! ### The section -/

/-- The section may execute a word. -/
def State.reelRuns (s : State) : Bool :=
  let r := s.region s.act.rg
  r.live && r.reel.live && r.stop.isNone && s.ringUp r.ring
/-- The region whose section executes, and its next word. -/
def State.reelRg (s : State) : Region := s.region s.act.rg
/-- The word has taken `n` cycles; the section goes on at word `pc` (R320, Table 13.2). -/
def State.reelTo (s : State) (pc : BitVec 16) (n : Nat) : State :=
  let r := s.region s.act.rg
  s.setRegion s.act.rg { r with reel := { r.reel with rpc := pc, phase := 0, thr := none, barred := false, ready := s.cyc + n } }
/-- The section goes on at word `pc` in the next cycle. -/
def State.reelAt (s : State) (pc : BitVec 16) : State := s.reelTo pc 1
/-- The section goes on at the next word. -/
def State.reelNext (s : State) : State := s.reelAt ((s.region s.act.rg).reel.rpc + 1)
/-- The section executes a word that changes the section itself. -/
def State.setReel (s : State) (x : Reel) : State :=
  s.setRegion s.act.rg { s.region s.act.rg with reel := x }
/-- A fault condition of the word, with the word's index in DETAIL. -/
def State.wordBreach (s : State) (code : BitVec 16) : State :=
  s.reelFault s.act.rg code 4 ((s.region s.act.rg).reel.rpc.zeroExtend 32)

/-- Reel register `i`. -/
def Reel.sreg (x : Reel) (i : BitVec 4) : W64 := x.s.get 0 i.toNat
def Reel.setS (x : Reel) (i : BitVec 4) (v : W64) : Reel := { x with s := x.s.put 0 i.toNat v }
/-- An operand that is a register or an immediate (R321). -/
def Reel.val {n : Nat} (x : Reel) : RegOr n → W64
  | .reg r => x.sreg r
  | .imm v => v.zeroExtend 64

/-- A word executes when its section runs and `ok` holds; else nothing happens. -/
def reelWhen (s : State) (ok : Bool) (t : State) : Host.Outcome State Fault Refusal :=
  if s.reelRuns && ok then .next t else .next s

/-- A jump takes two cycles; a target beyond the section is a fault (R330). -/
def State.reelJump (s : State) (target : BitVec 16) : State :=
  if target.toNat < (s.region s.act.rg).reel.count then s.reelTo target 2 else s.wordBreach 0x7007

/-- Words that scrolling forbids raise 0x7004 (R325). -/
def notScrolling (s : State) (t : State) : State :=
  if (s.region s.act.rg).scroll.isSome then s.wordBreach 0x7004 else t

/-- The index of the word at which the section ran past its end (R330). -/
def reelPast (s : State) : State := if s.reelRuns then s.wordBreach 0x7007 else s

/-! ### Planes, fills and swaps -/

/-- `stripe` (R323): queues a fill; waits while FQ is full. -/
def execStripe (p : BitVec 2) (img : RegOr 16) (ws : RegOr 7) (s : State) : Host.Outcome State Fault Refusal :=
  let r := s.reelRg
  let i := (r.reel.val img).toNat % 2 ^ 16
  let w := (r.reel.val ws).toNat % 128
  if s.reelRuns && r.scroll.isSome then .next (s.wordBreach 0x7004)
  else if s.reelRuns && (decide (w ≥ r.count) || decide (i ≥ (s.fig (figOf s.act.rg)).nimg)) then .next (s.wordBreach 0x7001)
  else reelWhen s (decide (((s.fillsOf s.act.rg).filter fun f => f.fq).length < 8))
    ((s.queueFill s.act.rg (r.stripeAt w) p i true false).reelNext)

/-- `plane` (R322). -/
def execPlane (sel : PlaneSel) (s : State) : Host.Outcome State Fault Refusal :=
  let r := s.reelRg
  let p := match sel with
    | .direct p => p
    | .pred l p q => if r.pn.getLsbD l.toNat then p else q
  reelWhen s true ((s.setReel { r.reel with pnx := p }).reelNext)

/-- A direct swap of window stripes to PNX (R72, R324): waits for the fills of PNX; a stripe that holds a token or has a loop context
with an iteration, or an invalid plane, is a fault. -/
def directSwap (s : State) (wss : List Nat) : Host.Outcome State Fault Refusal :=
  let r := s.reelRg
  let p := r.reel.pnx
  if r.scroll.isSome then .next (s.wordBreach 0x7004)
  else if r.placing.isSome ∨ wss.any (fun w => s.filling s.act.rg (r.stripeAt w) p) then .next s
  else if wss.any (fun w => s.stripeBusy r (r.stripeAt w) || s.holdsToken (r.stripeAt w)) then .next (s.wordBreach 0x7002)
  else if wss.any fun w => !((s.stripe (r.stripeAt w)).planes.get {} p.toNat).valid then .next (s.wordBreach 0x7003)
  else .next ((wss.foldl (fun t w => t.swapStripe (r.stripeAt w) p (r.upOf w)) s).reelNext)

/-- `swap` ws (R324). -/
def execSwap (ws : BitVec 7) (s : State) : Host.Outcome State Fault Refusal :=
  if s.reelRuns then
    if ws.toNat < s.reelRg.count ∨ s.reelRg.scroll.isSome then directSwap s [ws.toNat] else .next (s.wordBreach 0x7002)
  else .next s

/-- `swap.all` (R324). -/
def execSwapAll (s : State) : Host.Outcome State Fault Refusal :=
  if s.reelRuns then directSwap s (List.range s.reelRg.count) else .next s

/-- The inbound stream ports of a region. -/
def State.inPorts (s : State) (rg : Nat) : List Nat :=
  (s.fab.ports.filter fun p => decide (p.2.rg = some rg) && !p.2.cfg.getLsbD 23).map Prod.fst
/-- The outbound stream ports of a region. -/
def State.outPorts (s : State) (rg : Nat) : List Nat :=
  (s.fab.ports.filter fun p => decide (p.2.rg = some rg) && p.2.cfg.getLsbD 23).map Prod.fst

/-- The scalar elements of a window that have a record in the plane they run. -/
def State.liveElems (s : State) (r : Region) : List Nat :=
  (r.stripes.map fun st => ((recordElems (s.stripe st)).map fun e => st * 128 + e).filter fun el =>
    (s.elem el).av && (((s.stripe st).planes.get {} (s.elem el).act.toNat).els.any fun q => decide (q.1 = eOf el))).flatten
/-- The scalar elements of a window that a wavefront concerns: for one without a swap those with slots in their active plane, since an
element without slots passes it at once and nothing of it changes; for a swap also those without an active plane, which it gives them
where it is filled (R54). -/
def State.waveElems (s : State) (r : Region) (rg : Nat) (t : Token) : List Nat :=
  if t.swp then (r.stripes.map fun st => ((List.range 64).map fun e => st * 128 + e).filter fun el =>
    (s.elem el).av || ((s.stripe st).planes.get {} t.plt.toNat).valid || s.filling rg st t.plt).flatten
  else s.liveElems r
/-- The matrix elements of a window that have a record in the plane they run. -/
def State.liveMxs (s : State) (r : Region) : List Nat :=
  (r.stripes.map fun st => ((List.range 16).map fun j => st * 128 + 64 + j).filter fun el =>
    (s.mx el).av && ((s.mxPlane el).mxs.any fun q => decide (q.1 = eOf el - 64))).flatten

/-- The element has an empty input set, and an empty output set, for a wavefront (R64). -/
def State.noInputs (s : State) (t : Token) (el : Nat) : Bool := (s.inputSet el (t.wavePlanes (s.elem el).av (s.elem el).act)).isEmpty
def State.noOutputs (s : State) (t : Token) (el : Nat) : Bool := (s.outputSet el (t.wavePlanes (s.elem el).av (s.elem el).act)).isEmpty

/-- The element has not passed an earlier swap of the Reel yet, which may make it a sink (R68, R70). -/
def Region.swapDue (r : Region) (el : Nat) : Bool := r.sinks.any fun p => decide (p.1 % 2 = 1) && p.2.contains (.kreg el 0)

/-- The places at which a wavefront of the Reel is looked for (R68): the elements that it concerns and the outbound stream ports. An
element with neither inputs nor outputs is reached as the wavefront is delivered. -/
def State.regionSinks (s : State) (rg : Nat) (t : Token) : List Dest :=
  let r := s.region rg
  (((s.waveElems r rg t).filter fun el => t.swp || r.swapDue el || !(s.noInputs t el && s.noOutputs t el)).map fun el => .kreg el 0)
  ++ ((s.liveMxs r).map fun el => .kreg el 0)
  ++ (s.outPorts rg).map .port

/-- A place that a wavefront has not reached yet is a sink (R68): a stream port, or an element whose output set is empty under the
plane in which the wavefront finds it. -/
def State.sinkOpen (s : State) (r : Region) (t : Token) : Dest → Bool
  | .kreg el _ =>
    r.swapDue el
    || (if eOf el < 64 then s.noOutputs t el && (!(s.noInputs t el) || !(s.elem el).waves.isEmpty)
        else (s.mxOuts el (t.wavePlanes (s.mx el).av (s.mx el).act)).isEmpty)
  | _ => true
/-- The region is drained for a wavefront of the Reel: it has reached every sink (R68, R70). -/
def State.drainedFor (s : State) (rg : Nat) (t : Token) : Bool :=
  let r := s.region rg
  (r.sinks.get [] t.waveKey).all fun d => !(s.sinkOpen r t d)

/-- A wavefront token is injected (R324, R328): at the tail of every inbound port of the region, and delivered to every
element whose input set is empty, behind one that it has not passed on yet. The places that it has to reach are noted (R68, R70). -/
def State.inject (s : State) (rg : Nat) (t : Token) : State :=
  let r := s.region rg
  let s0 := s.setRegion rg { r with sinks := r.sinks.put [] t.waveKey (r.sinks.get [] t.waveKey ++ s.regionSinks rg t) }
  let s1 := (s.inPorts rg).foldl (fun u p => let x := u.port p; u.setPort p { x with fifo := x.fifo ++ [t] }) s0
  ((s.waveElems r rg t).filter fun el => s.noInputs t el && (t.swp || !(s.noOutputs t el))).foldl
    (fun u el => let x := u.elem el; u.setElem el { x with waves := x.waves ++ [t] }) s1

/-- A wavefront token (R59). -/
def waveTok (sub : Nat) (low : Nat) : Token := ctlTok (BitVec.ofNat 32 (sub * 0x10000000 + low))

/-- `swap.wave` (R324). -/
def execSwapWave (s : State) : Host.Outcome State Fault Refusal :=
  let r := s.reelRg
  reelWhen s (r.placing.isNone || r.scroll.isSome)
    (notScrolling s (s.inject s.act.rg (waveTok 1 (4 + r.reel.pnx.toNat))).reelNext)

/-- `dwell` (R325): D − 1, V − 1 and the first image. -/
def execDwell (d v : BitVec 12) (img : BitVec 16) (s : State) : Host.Outcome State Fault Refusal :=
  reelWhen s true (notScrolling s ((s.setReel { s.reelRg.reel with scd := d.setWidth 13 + 1, scv := v.setWidth 13 + 1, sci := img, plc := true }).reelNext))

/-! ### Sequencing within the section (R330) -/

/-- `loop` (R330). -/
def execLoop (n : RegOr 32) (dist : BitVec 12) (s : State) : Host.Outcome State Fault Refusal :=
  let x := s.reelRg.reel
  let c : W32 := field (x.val n) 0 32
  reelWhen s true
    (if c = 0 then s.reelTo (x.rpc + dist.zeroExtend 16 + 1) 2
     else if x.lstk.length ≥ 4 then s.wordBreach 0x7007
     else (s.setReel { x with lstk := (x.rpc + 1, c) :: x.lstk }).reelNext)

/-- `endl` (R330). -/
def execEndl (s : State) : Host.Outcome State Fault Refusal :=
  let x := s.reelRg.reel
  reelWhen s true
    (match x.lstk with
     | [] => s.wordBreach 0x7007
     | (start, c) :: fs =>
       if c = 1 then (s.setReel { x with lstk := fs }).reelNext
       else (s.setReel { x with lstk := (start, c - 1) :: fs }).reelTo start 2)

/-- `brp` (R322). -/
def execBrp (line : BitVec 4) (sense : Bool) (target : BitVec 16) (s : State) : Host.Outcome State Fault Refusal :=
  reelWhen s true (if s.reelRg.pn.getLsbD line.toNat = sense then s.reelJump target else s.reelNext)

/-- `jmp` (R322). -/
def execJmp (target : BitVec 16) (s : State) : Host.Outcome State Fault Refusal := reelWhen s true (s.reelJump target)

/-- `call` (R322, R330). -/
def execCall (target : BitVec 16) (s : State) : Host.Outcome State Fault Refusal :=
  let x := s.reelRg.reel
  reelWhen s true
    (if x.cstk.length ≥ 8 ∨ x.count ≤ target.toNat then s.wordBreach 0x7007
     else (s.setReel { x with cstk := (x.rpc + 1) :: x.cstk }).reelTo target 2)

/-- `ret` (R322, R330). -/
def execRet (s : State) : Host.Outcome State Fault Refusal :=
  let x := s.reelRg.reel
  reelWhen s true
    (match x.cstk with
     | [] => s.wordBreach 0x7007
     | pc :: cs => (s.setReel { x with cstk := cs }).reelTo pc 2)

/-! ### Arming and waiting (R327, R328, R476) -/

/-- The regions of a region's stamping that are resident (R473). -/
def State.stampRegions (s : State) (rg : Nat) : List Nat :=
  (s.regions.filter fun p => decide (figOf p.1 = figOf rg ∧ p.2.stamp = (s.region rg).stamp)).map Prod.fst

/-- A section stands at the `arm` of its distributed loop; when every copy's does, the stamping is armed (R327). -/
def State.meetArm (s : State) (rg : Nat) : State :=
  let s1 := s.setRegion rg { s.region rg with armed := true }
  let cs := s.stampRegions rg
  if cs.all fun c => (s1.region c).armed then cs.foldl (fun t c => t.setRegion c { t.region c with armAt := some s.cyc }) s1
  else s1

/-- The arming of a section whose stamping, where it has one, is armed: a pending placement is carried out first (R325). -/
def armNow (s : State) (lc : Nat) (n : W64) : State :=
  let rg := s.act.rg
  let r := s.reelRg
  if r.reel.plc ∧ lc = r.dlc.toNat then
    let m := min r.reel.scv.toNat r.count
    let s1 := (List.range m).foldl (fun t ws => t.queueFill rg (r.stripeAt ws) 0 (r.reel.sci.toNat + ws) false true) s
    let r1 := s1.region rg
    (s1.setRegion rg { r1 with placing := some (lc, n, r.reel.scd.toNat, r.reel.scv.toNat, r.reel.sci.toNat), reel := { r1.reel with plc := false } }).reelNext
  else
    match s.lcValid r lc with
    | none => s.wordBreach 0x7005
    | some e =>
      if (r.lcs.get {} lc).sv ≠ 0 then s.wordBreach 0x7005
      else
        let start := if lc = r.dlc.toNat then s.armStart r else s.cyc + 1
        let r1 := { r with lcs := r.lcs.put {} lc (armedCtx e n start), armed := false, armAt := none }
        ((s.noteArm r).setRegion rg r1).reelNext

/-- `arm` (R327): the sections of a stamping wait for one another at the arm of their distributed loop. -/
def execArm (lc : BitVec 2) (n : RegOr 32) (s : State) : Host.Outcome State Fault Refusal :=
  let r := s.reelRg
  if s.reelRuns then
    if r.scroll.isSome then .next (s.wordBreach 0x7004)
    else if r.placing.isSome then .next s
    else if lc = r.dlc ∧ r.armAt.isNone ∧ 1 < r.copies then .next (if r.armed then s else s.meetArm s.act.rg)
    else .next (armNow s lc.toNat (r.reel.val n))
  else .next s

/-- The chained word of index `w` in the record of the plane that an element runs. -/
def State.chainAt (s : State) (el w : Nat) : Option (MOp × MWord) := (mwordOf ((s.mxRec el).words.get 0 w)).filter fun x => chained x.1
/-- Two chained words of one index of a run agree (R307): in CNT, and unless one is an `mpass`, which stands in place of any word of the
run's class, in class, format, PI and scale sources. -/
def chainAgree (a b : MOp × MWord) : Bool :=
  decide (a.2.cnt = b.2.cnt)
  && (decide (a.1 = .mpass ∨ b.1 = .mpass)
    || decide (a.1 = b.1 ∧ a.2.fmt = b.2.fmt ∧ a.2.pi = b.2.pi ∧ a.2.scsw = b.2.scsw ∧ a.2.scsa = b.2.scsa))
/-- The words of one index in a column of a run meet R307: chained in every stripe or in none, with a stream port for DTGT in the last
stripe and none elsewhere. -/
def chainOk (ws : List (Option (MOp × MWord))) : Bool :=
  let cs := ws.filterMap id
  cs.isEmpty
  || (decide (cs.length = ws.length)
    && cs.dropLast.all (fun a => decide (a.2.dtgt = .none))
    && (match cs.getLast? with | some (_, m) => (match m.dtgt with | .sp _ => true | _ => false) | none => true))

/-- The chained words of a run meet R307, given as `at_ i j w` for stripe `i` of `n`, column `j` and index `w`: those of one index agree
in every stripe and column, and a column with chained words has them at the same indices as column 0, which has some. -/
def runOk (n : Nat) (at_ : Nat → Nat → Nat → Option (MOp × MWord)) : Bool :=
  let col (j w : Nat) : List (Option (MOp × MWord)) := (List.range n).map fun i => at_ i j w
  let used (j w : Nat) : Bool := (col j w).any Option.isSome
  (List.range 8).all fun w =>
    (List.range 16).all (fun j => chainOk (col j w) && (!((List.range 8).any (used j)) || decide (used j w = used 0 w)))
    && (let cs := ((List.range 16).map fun j => (col j w).filterMap id).flatten; cs.all fun a => cs.all (chainAgree a))

/-- Every run of the window meets R307 (R476). -/
def State.runsOk (s : State) (r : Region) : Bool :=
  (List.range r.count).all fun ws =>
    !(s.sysStripe r ws && (decide (ws = 0) || !(s.sysStripe r (ws - 1))))
    || runOk (runLen s r 128 ws) fun i j w => s.chainAt (runEl r ws i j) w

/-- `arm.mx` (R327, R476). -/
def execArmMx (n : RegOr 16) (s : State) : Host.Outcome State Fault Refusal :=
  let r := s.reelRg
  if s.reelRuns then
    if r.scroll.isSome then .next (s.wordBreach 0x7004)
    else if r.placing.isSome then .next s
    else if s.runsOk r then
      let v : BitVec 16 := field (r.reel.val n) 0 16
      .next ((r.stripes.foldl (fun t st => (List.range 16).foldl (fun u j =>
        let el := st * 128 + 64 + j
        u.setMx el { u.mx el with tcnt := v }) t) s).reelNext)
    else .next (s.wordBreach 0x7009)
  else .next s

/-- A ring-bank access of the region issued before operation `n` is not yet performed. -/
def State.bankOpen (s : State) (rg n : Nat) : Bool :=
  s.fl.accs.any fun a => decide (a.1 < n ∧ a.2.rs = none ∧ a.2.rg = rg) && (match a.2.phase with | .performed => false | _ => true)

/-- `waitb.bar` (R328): injects its barrier, then waits until the region is drained (R68) and every ring-bank access
issued until then is performed. -/
def execWaitbBar (tag : BitVec 12) (s : State) : Host.Outcome State Fault Refusal :=
  let r := s.reelRg
  if s.reelRuns ∧ r.placing.isNone then
    let t := waveTok 0 (tag.toNat * 65536)
    if r.reel.barred = false then .next ((s.setReel { r.reel with barred := true, phase := 0 }).inject s.act.rg t)
    else if r.reel.phase = 0 then
      if s.drainedFor s.act.rg t then .next (s.setReel { r.reel with phase := s.fl.next + 1 }) else .next s
    else if s.bankOpen s.act.rg (r.reel.phase - 1) ∨ s.fl.emits.any (fun e => decide ((s.stripe (srcStripe e.src)).rg = some s.act.rg ∧ e.due ≤ s.cyc)) then .next s
    else .next s.reelNext
  else .next s

/-- `waitb.lc` (R328): in the cycle after the loop context has emptied, at an iteration boundary after a start. -/
def execWaitbLc (lc : BitVec 2) (s : State) : Host.Outcome State Fault Refusal :=
  let r := s.reelRg
  let c := r.lcs.get {} lc.toNat
  reelWhen s (r.placing.isNone && decide (c.sv = 0 ∧ 0 < c.starts ∧ (c.issued = 0 ∨ c.issued < s.cyc))) s.reelNext

/-- The element has taken nothing yet for the word at WPOS, and no stage of a run. -/
def MxElem.unbegun (x : MxElem) : Bool :=
  decide (x.vec = 0 ∧ x.drained = 0 ∧ x.saV = false ∧ x.pipe = none ∧ x.outs = [] ∧ x.beat = 0)
/-- Every matrix element of the window has TCNT = 0 and no word in progress (R327, R328). -/
def State.mxIdle (s : State) (r : Region) : Bool :=
  r.stripes.all fun st => (List.range 16).all fun j =>
    let x := s.mx (st * 128 + 64 + j)
    decide (x.tcnt = 0) && x.unbegun

/-- `waitb.mx` (R328). -/
def execWaitbMx (s : State) : Host.Outcome State Fault Refusal :=
  reelWhen s (s.reelRg.placing.isNone && s.mxIdle s.reelRg) s.reelNext

/-! ### Saving and ring-bank words (R322, R329) -/

/-- The end of the stretch of allotments of ring `g` that `a` lies in: the allotments that join one another are one stretch. -/
def allotEnd (xs : List Allot) (g : Nat) : Nat → Nat → Nat
  | 0, a => a
  | k + 1, a =>
    match xs.find? fun x => decide (x.ring = g ∧ x.base ≤ a ∧ a < x.base + x.len) with
    | some x => allotEnd xs g k (x.base + x.len)
    | none => a
/-- The 16 KiB at `addr` lie in the region's save-slot allotment, across two of its slots where these join (R329). -/
def Region.slotOk (r : Region) (addr : Nat) : Bool :=
  decide (addr % 64 = 0 ∧ addr + 16384 ≤ allotEnd r.saveAllot r.ring 2 addr)

/-- `save` (R329, R424). -/
def execSave (ws : RegOr 7) (addr : RegOr 26) (s : State) : Host.Outcome State Fault Refusal :=
  let r := s.reelRg
  let w := (r.reel.val ws).toNat % 128
  let a := (r.reel.val addr).toNat % 2 ^ 26
  if s.reelRuns then
    if r.scroll.isSome then .next (s.wordBreach 0x7004)
    else if r.placing.isSome then .next s
    else if r.busy ∨ w ≥ r.count ∨ r.slotOk a = false then .next (s.wordBreach 0x7006)
    else if s.replaying (r.stripeAt w) ∨ s.stripePending (r.stripeAt w) then .next s
    else if s.taintedStripe (r.stripeAt w) then .next (s.reelFault s.act.rg 0xE105 2 (r.reel.rpc.zeroExtend 32))
    else
      let st := r.stripeAt w
      .next (((s.writeBytes (ringPA r.ring a) (slotBytes s st w (s.stripe st).act (r.lcs.get {} r.dlc.toNat).n.toNat)).emptyStripe st).reelTo (r.reel.rpc + 1) 32)
  else .next s

/-- `rest` (R329, R41). -/
def execRest (ws : RegOr 7) (addr : RegOr 26) (s : State) : Host.Outcome State Fault Refusal :=
  let r := s.reelRg
  let w := (r.reel.val ws).toNat % 128
  let a := (r.reel.val addr).toNat % 2 ^ 26
  if s.reelRuns then
    if r.scroll.isSome then .next (s.wordBreach 0x7004)
    else if r.placing.isSome then .next s
    else if w ≥ r.count ∨ r.slotOk a = false then .next (s.wordBreach 0x7006)
    else if s.replaying (r.stripeAt w) then .next s
    else if s.holdsToken (r.stripeAt w) then .next (s.wordBreach 0x7006)
    else .next ((s.loadSlot (r.stripeAt w) (ringPA r.ring a)).reelTo (r.reel.rpc + 1) 32)
  else .next s

/-- The ring-bank address of `lds` and `sts`: wrapped to 26 bits. -/
def Reel.addr (x : Reel) (off : BitVec 26) (b : Option (BitVec 4)) : Nat :=
  (off.toNat + (match b with | some i => (x.sreg i).toNat | none => 0)) % 2 ^ 26

/-- `lds` (R322). The registers of the Reel carry no taint: an uncorrectable error leaves a free value (R435; DESIGN CHOICE, log 7). -/
def execLds (a : BitVec 4) (off : BitVec 26) (b : Option (BitVec 4)) (s : State) : Host.Outcome State Fault Refusal :=
  let r := s.reelRg
  let p := r.reel.addr off b
  reelWhen s true
    (if p % 8 ≠ 0 ∨ r.allots r.ring p 8 = false then s.wordBreach 0x7008
     else let (t, v, _) := s.readBytes (ringPA r.ring p) 8
       (t.setReel (r.reel.setS a (BitVec.ofNat 64 (leNat v)))).reelTo (r.reel.rpc + 1) 4)

/-- `sts` (R322). -/
def execSts (a : BitVec 4) (off : BitVec 26) (b : Option (BitVec 4)) (s : State) : Host.Outcome State Fault Refusal :=
  let r := s.reelRg
  let p := r.reel.addr off b
  reelWhen s true
    (if p % 8 ≠ 0 ∨ r.allots r.ring p 8 = false then s.wordBreach 0x7008
     else (s.writeBytes (ringPA r.ring p) (leBytes 8 (r.reel.sreg a).toNat)).reelTo (r.reel.rpc + 1) 4)

/-- `addi` (R322). -/
def execAddi (a b : BitVec 4) (imm : BitVec 44) (s : State) : Host.Outcome State Fault Refusal :=
  let x := s.reelRg.reel
  reelWhen s true ((s.setReel (x.setS a (x.sreg b + imm.signExtend 64))).reelNext)

/-- `movs` (R322). -/
def execMovs (a : BitVec 4) (src : MovSrc) (s : State) : Host.Outcome State Fault Refusal :=
  let r := s.reelRg
  let v : W64 := match src with
    | .imm v => v.signExtend 64
    | .reg b => r.reel.sreg b
    | .n lc => (r.lcs.get {} lc.toNat).n
    | .usr i => (r.usr.get 0 i.toNat).zeroExtend 64
  reelWhen s true ((s.setReel (r.reel.setS a v)).reelNext)

/-- A condition of Table 9.4 on 64-bit values. -/
def cmp64 (c : BitVec 3) (uns : Bool) (a b : W64) : Bool :=
  let x : Int := if uns then a.toNat else a.toInt
  let y : Int := if uns then b.toNat else b.toInt
  match c.toNat with
  | 0 => decide (x = y)
  | 1 => decide (x ≠ y)
  | 2 => decide (x < y)
  | 3 => decide (x ≤ y)
  | 4 => decide (y < x)
  | _ => decide (y ≤ x)

/-- `cmpj` (R322). -/
def execCmpj (cond : BitVec 3) (uns : Bool) (a b : BitVec 4) (target : BitVec 16) (s : State) : Host.Outcome State Fault Refusal :=
  let x := s.reelRg.reel
  reelWhen s true (if cmp64 cond uns (x.sreg a) (x.sreg b) then s.reelJump target else s.reelNext)

/-! ### Seals, messages and the end (R160, R327, R331) -/

/-- `seqw` (R160, R322): the threshold is fixed when the word is first executed. -/
def execSeqw (req : Bool) (abs : Option (BitVec 4)) (s : State) : Host.Outcome State Fault Refusal :=
  let r := s.reelRg
  let x := r.reel
  if s.reelRuns then
    if s.enBit r.pk = false then .next s.reelNext
    else match x.thr with
      | none =>
        let thr : W32 := match abs with | some i => field (x.sreg i) 0 32 | none => s.open_ r.pk
        let s1 := s.setReel { x with thr := some thr }
        .next (if req then s1.raiseSeal r.pk else s1)
      | some thr => if ivLe thr (s.sealed r.pk) then .next s.reelNext else .next s
  else .next s

/-- `msgr` (R331): the message goes to the staging buffer; the word waits for acceptance, or with `.sl` for the seal. -/
def execMsgr (sl : Bool) (imm : BitVec 32) (s : State) : Host.Outcome State Fault Refusal :=
  let r := s.reelRg
  let x := r.reel
  if s.reelRuns then
    if x.phase = 0 then
      let n := s.fl.next
      let ws := (List.range 14).map (fun i => (field (x.s.get 0 i) 0 32 : W32)) ++ [(s.fig (figOf s.act.rg)).tag, imm]
      .next ((s.setReel { x with phase := n + 1 }).setWait n { kind := .msend r.pk ws sl none, rg := s.act.rg, ord := n, f := s.cyc }).bump
    else if (s.wait (x.phase - 1)).isNone then .next s.reelNext
    else .next s
  else .next s

/-- `hlt` (R327): waits until every loop context of the window is empty and every matrix element idle, then retires the
region. -/
def execHlt (word : RegOr 32) (s : State) : Host.Outcome State Fault Refusal :=
  let r := s.reelRg
  if s.reelRuns && r.placing.isNone && !r.busy && s.mxIdle r then
    let s1 := s.retire s.act.rg 0 true (field (r.reel.val word) 0 32)
    let r1 := s1.region s.act.rg
    .next (s1.setRegion s.act.rg { r1 with reel := { r1.reel with live := false } })
  else .next s

end Sys2Proof.Machine
end

