-- ==== Sys2Proof/Machine/Mem.lean ====
section
/-! DEFINITION. The memory side over storage: undo capture (R154 to R162), parity deltas (R167 to R169) and scratchpad partitions (R116, R402), with the passage of an access to its home. -/
namespace Sys2Proof.Machine
open Sys2Proof

/-! ### The undo log (R154 to R156, R161, R162) -/

/-- Capacity of a stack's log in entries. -/
def State.undoCap (s : State) (sk : Nat) : Nat := (s.undoReg sk).toNat % 16 * 2 ^ 23
/-- Entries not yet reclaimed. -/
def Stack.used (x : Stack) : Nat := x.tail - x.head
/-- The physical address of log position `p`. -/
def State.undoAt (s : State) (sk p : Nat) : Nat := stackPA sk (s.undoBase sk + 128 * (p % max 1 (s.undoCap sk)))

/-- UNDOn.USED follows the log. -/
def State.syncUsed (s : State) (sk : Nat) : State :=
  let off := 0x12000 + 8 * (sk % 16)
  s.setReg (sk / 16) off ((s.undoReg sk &&& 0xFFFFFFFF) ||| (BitVec.ofNat 64 (s.stack sk).used <<< 32))

/-- An entry is appended (Table 7.1). -/
def State.undoPush (s : State) (sk line : Nat) (tag : W32) (parity : Bool) (image : List Byte) : State :=
  let x := s.stack sk
  let s1 := s.writeBytes (s.undoAt sk x.tail) (image ++ leBytes 8 line ++ leBytes 4 tag.toNat ++ leBytes 4 (if parity then 1 else 0) ++ zeros 48)
  (s1.setStack sk { x with tail := x.tail + 1 }).syncUsed sk

/-- Line, tag and kind of the entry at position `p`. -/
def State.undoLine (s : State) (sk p : Nat) : Nat := s.readN (s.undoAt sk p + 64) 8
def State.undoTag (s : State) (sk p : Nat) : W32 := BitVec.ofNat 32 (s.readN (s.undoAt sk p + 72) 4)
/-- The positions of the entries of the log, oldest first. -/
def State.undoAll (s : State) (sk : Nat) : List Nat := let x := s.stack sk; (List.range x.used).map fun i => x.head + i
/-- The newest entry of a line with a tag. -/
def State.undoFind (s : State) (sk line : Nat) (tag : W32) : Option Nat :=
  ((s.undoAll sk).reverse).find? fun p => decide (s.undoLine sk p = line ∧ s.undoTag sk p = tag)

/-- The log's occupancy has reached `n` sixteenths. -/
def State.undoReached (s : State) (sk n : Nat) : Bool := decide (n * s.undoCap sk ≤ 16 * (s.stack sk).used)

/-- LTAG of a line. -/
def State.ltag (s : State) (line : Nat) : BitVec 16 := (s.stack (paStack line)).ltag.get 0 (line % 2 ^ 36 / 64)
def State.setLtag (s : State) (line : Nat) (v : BitVec 16) : State :=
  let sk := paStack line
  let x := s.stack sk
  s.setStack sk { x with ltag := x.ltag.put 0 (line % 2 ^ 36 / 64) v }

/-- LTAG of a tag, valid. -/
def ltagOf (m : W32) : BitVec 16 := 0x8000 ||| (field m 0 15 : BitVec 15).zeroExtend 16

/-- A sweep of a stack's line tags (R154): one that is `age` or more intervals older than `o` becomes invalid. -/
def State.sweepTags (s : State) (sk : Nat) (o : W32) (age : Nat) : State :=
  let x := s.stack sk
  let old (v : BitVec 16) : Bool := decide (age ≤ (o.toNat + 2 ^ 15 - v.toNat % 2 ^ 15) % 2 ^ 15)
  s.setStack sk { x with ltag := x.ltag.foldl (fun m p => if old p.2 then m else m.put 0 p.1 p.2) [] }

/-- How a line takes a tagged write (R154, R155, R161). -/
inductive Capture where
  /-- captured, or no capture is needed -/
  | ok (s : State)
  /-- held: above the high-water mark, or at a full close-window table -/
  | hold (s : State)
  /-- the reserve is exhausted, or the write of the log fails (R444) -/
  | full (s : State)
  /-- the line cannot be read (R437) -/
  | bad (s : State)
  deriving Repr, Inhabited

/-- The new value of an atomic (Table 11.4, R276). -/
def atomNew (k : AKind) (old v cmp : W32) : W32 :=
  match k with
  | .cas => if old = cmp then v else old
  | .atom op _ =>
    match op.toNat with
    | 0 => old + v
    | 1 => old &&& v
    | 2 => old ||| v
    | 3 => old ^^^ v
    | 4 => if v.toInt < old.toInt then v else old
    | 5 => if old.toInt < v.toInt then v else old
    | 6 => if v.toNat < old.toNat then v else old
    | 7 => if old.toNat < v.toNat then v else old
    | 8 => v
    | 9 => combine 0 0 old v
    | 10 => combine 2 0 old v
    | _ => combine 1 0 old v
  | _ => v

/-- What a write does to the bytes it reaches: a store sets them, a parity delta is XORed in, an atomic computes its four bytes
from what they hold (R137, R169). -/
inductive Upd where
  | set (bs : List Byte)
  | xor (bs : List Byte)
  | atom (kind : AKind) (v cmp : W32)
  deriving DecidableEq, Repr, Inhabited

/-- How many bytes a write reaches. -/
def Upd.size : Upd → Nat
  | .set bs | .xor bs => bs.length
  | .atom .. => 4
/-- The bytes after a write that reaches `old`. -/
def Upd.on : Upd → List Byte → List Byte
  | .set bs, _ => bs
  | .xor bs, old => List.zipWith (· ^^^ ·) old bs
  | .atom k v cmp, old => wordBytes (atomNew k (BitVec.ofNat 32 (leNat old)) v cmp)
/-- The part of a write that lies in bytes `i` to `i + n` of its range; an atomic lies in one line. -/
def Upd.part : Upd → Nat → Nat → Upd
  | .set bs, i, n => .set ((bs.drop i).take n)
  | .xor bs, i, n => .xor ((bs.drop i).take n)
  | u, _, _ => u

/-- A write reaches the image of an undo entry at `a`, as it reaches the entry's line (R155). -/
def State.updImage (s : State) (a line pa : Nat) (u : Upd) : State :=
  let s := s.correct a 64
  let lo := max line pa
  let hi := min (line + 64) (pa + u.size)
  let w := u.part (lo - pa) (hi - lo)
  s.writeBytes (a + (lo - line)) (w.on (s.peeks (a + (lo - line)) (hi - lo)))

/-- The log's occupancy may have reached its request threshold (R161). -/
def State.srqTest (s : State) (sk : Nat) : State :=
  if s.undoReached sk ((s.undoReg sk).toNat / 256 % 16) then s.raiseSeal (sk / 16) else s

/-- The next write of a stack's undo log fails: the environment has set its mark (R444; DESIGN CHOICE, log 81). -/
def State.logFails (s : State) (sk : Nat) : Bool := decide (s.ms.errs.get none (2 ^ 60 + sk) = some .double)

/-- The capture of a line before a write at `pa` reaches it, under tag `m` (R154, R155, R161, R162); the reads correct what they can
(R436). -/
def State.capture (s : State) (line : Nat) (m : W32) (parity : Bool) (pa : Nat) (u : Upd) : Capture :=
  let pk := paPkg line
  let sk := paStack line
  let s := if s.ltag line = ltagOf m then s else s.correct line 64
  let x := s.stack sk
  let lt := s.ltag line
  let open_ := s.open_ pk
  let img := s.peeks line 64
  if lt = ltagOf m then .ok s
  else if s.damagedIn line 64 then .bad (s.uncorrectable line)
  else if lt = ltagOf (m + 1) ∧ m ≠ open_ then
    -- a late access: the entry of the newer interval takes the write too (R155)
    match s.undoFind sk line (m + 1) with
    | none => if s.undoCap sk ≤ x.used ∨ s.logFails sk then .full s else .ok ((s.undoPush sk line m parity img).srqTest sk)
    | some p =>
      let a := s.undoAt sk p
      match s.undoFind sk line m with
      | some _ => .ok (s.updImage a line pa u)
      | none => if s.undoCap sk ≤ x.used ∨ s.logFails sk then .full s
                else .ok (((s.undoPush sk line m parity (s.peeks a 64)).updImage a line pa u).srqTest sk)
  else if m = open_ ∧ s.undoReached sk ((s.undoReg sk).toNat / 4096 % 16) then .hold (s.raiseSeal pk)
  else if m = open_ ∧ (s.pav pk).window ∧ 4096 ≤ x.cwt.length then .hold s
  else if s.undoCap sk ≤ x.used ∨ s.logFails sk then .full s
  else
    let s1 := (s.undoPush sk line m parity img).setLtag line (ltagOf m)
    let y := s1.stack sk
    let s2 := if m = open_ ∧ (s.pav pk).window then s1.setStack sk { y with cwt := y.cwt ++ [line] } else s1
    .ok (s2.srqTest sk)

/-- The captures of every line of a write. -/
def captureAll (m : W32) (parity : Bool) (pa : Nat) (u : Upd) : List Nat → State → Capture
  | [], s => .ok s
  | l :: ls, s =>
    match s.capture l m parity pa u with
    | .ok t => captureAll m parity pa u ls t
    | c => c

/-! ### Parity (R167 to R170) -/

/-- The product of R168. -/
def gfMul (a b : Byte) : Byte :=
  let step (acc : Byte × Byte) (i : Nat) : Byte × Byte :=
    let (r, x) := acc
    (if b.getLsbD i then r ^^^ x else r, if x.getLsbD 7 then (x <<< 1) ^^^ 0x1D else x <<< 1)
  ((List.range 8).foldl step (0, a)).1
/-- α^n. -/
def gfPow : Nat → Byte
  | 0 => 1
  | n + 1 => gfMul 2 (gfPow n)
/-- The coefficient of data member `i` in parity member `j`. -/
def gfCoef (j i : Nat) : Byte := if j = 0 then 1 else gfPow i

/-- PGTAn, PGTBn and PGTCn of a package. -/
def State.pgta (s : State) (pk n : Nat) : W64 := s.reg pk (0x30000 + 32 * n)
def State.pgtb (s : State) (pk n : Nat) : W64 := s.reg pk (0x30008 + 32 * n)
def State.pgtc (s : State) (pk n : Nat) : W64 := s.reg pk (0x30010 + 32 * n)
def pgK (a : W64) : Nat := a.toNat / 2 % 32
def pgM (a : W64) : Nat := a.toNat / 64 % 4
def pgSelf (a : W64) : Nat := a.toNat / 256 % 32
/-- Offset and size of the window or region. -/
def pgOff (b : W64) : Nat := b.toNat % 2 ^ 40 / 4096 * 4096
def pgSize (b : W64) : Nat := 2 ^ (b.toNat / 2 ^ 40 % 64)
/-- Entry `i` of the member list of group `n`, and the member that it names (R175). -/
def State.pgEntry (s : State) (pk n i : Nat) : Nat := s.readN ((s.pgtc pk n).toNat % 2 ^ 57 / 64 * 64 + 2 * i) 2
def State.pgMember (s : State) (pk n i : Nat) : Nat := s.pgEntry pk n i % 8192

/-- Package `q` is a member of the recovery domain of package `pk` (R149). -/
def State.rdMember (s : State) (pk q : Nat) : Bool := (s.peek ((s.reg pk 0x11008).toNat % 2 ^ 57 / 4096 * 4096 + q / 8)).getLsbD (q % 8)

/-- The fault of a protected access at its home (R165, R167, R170, Table 18.7); `log2` is the size of its page. A page outside HBM lies
outside every window. -/
def State.protFault (s : State) (pa log2 grp : Nat) (irv : Bool) : Option (BitVec 16) :=
  let pk := paPkg pa
  let a := s.pgta pk grp
  let b := s.pgtb pk grp
  let o := paOff pa / 2 ^ log2 * 2 ^ log2
  if a.getLsbD 0 = false ∨ pgK a ≤ pgSelf a then some 0xA001
  else if irv ∨ paSpace pa ≠ 0 ∨ o < pgOff b ∨ pgOff b + pgSize b < o + 2 ^ log2
    ∨ (List.range 32).any (fun i => decide (pgK a + pgM a ≤ i ∧ s.pgEntry pk grp i ≠ 0)
        || (decide (i < pgK a + pgM a) && (decide (8192 ≤ s.pgEntry pk grp i) || !(s.rdMember pk (s.pgMember pk grp i))))) then some 0xA003
  else none

/-- The group whose window on its package holds an HBM address, where a write names no page (R167, R169). -/
def State.groupAt (s : State) (pa : Nat) : Option Nat :=
  (List.range 128).find? fun n =>
    let a := s.pgta (paPkg pa) n
    let b := s.pgtb (paPkg pa) n
    decide (paSpace pa = 0) && a.getLsbD 0 && decide (pgSelf a < pgK a ∧ pgOff b ≤ paOff pa ∧ paOff pa < pgOff b + pgSize b)

/-- The deltas of one line (R169): `d` is the difference, member by member and sector by sector. -/
def State.sendDeltas (s : State) (line grp : Nat) (d : List Byte) (tag : Option W32) (op fg : Nat) : State :=
  let pk := paPkg line
  let a := s.pgta pk grp
  (List.range (pgM a)).foldl (fun s j =>
    (List.range 2).foldl (fun s h =>
      let sec := (d.drop (32 * h)).take 32
      if sec.all fun b => decide (b = 0) then s
      else
        let n := s.fl.next
        let x : Delta := {
          src := pk, dst := s.pgMember pk grp (pgK a + j), grp := grp,
          off := paOff line - pgOff (s.pgtb pk grp) + 32 * h, data := sec.map (gfMul (gfCoef j (pgSelf a))), tag := tag,
          sent := s.cyc, op := op, fg := fg }
        ({ s with ms := { s.ms with deltas := (n, x) :: s.ms.deltas.del n } }).bump) s) s

/-- What a write that needs no capture meets at its lines (Table 20.1): an uncorrectable one is noted; a store is performed on it, an
atomic and a parity delta are not. -/
def State.noteBad (s : State) (u : Upd) (ls : List Nat) : Capture :=
  let bad := ls.filter fun l => s.damagedIn l 64
  let t := bad.foldl State.uncorrectable s
  match u with
  | .set _ => .ok t
  | _ => if bad.isEmpty then .ok t else .bad t

/-- A write reaches HBM at its home as one step (R155, R169): capture while intervals run (R150), but of no
line of an irrevocable page (R165; DEDUCED, log 55), the write, and the deltas of
a protected page (DESIGN CHOICE, log 20). -/
def State.homeWrite (s : State) (pa : Nat) (u : Upd) (tag : Option W32) (irv : Bool) (prot : Option Nat) (op fg : Nat) : Capture :=
  let ls := linesOf pa u.size
  let live := if s.pvEn (paPkg pa) then tag else none
  let c := match (if irv then none else live) with
    | none => s.noteBad u ls
    | some m => match captureAll m false pa u ls s with
      | .ok t => t.noteBad u ls
      | c => c
  match c, prot with
  | .ok t, none => .ok (t.writeBytes pa (u.on (t.peeks pa u.size)))
  | .ok t, some g =>
    let v := t.writeBytes pa (u.on (t.peeks pa u.size))
    .ok (ls.foldl (fun w l => w.sendDeltas l g (List.zipWith (· ^^^ ·) (t.peeks l 64) (v.peeks l 64)) live op fg) v)
  | c, _ => c

/-! ### Shadow pairs and migration at the home (R142, R145) -/

/-- SPTn and SPBn. -/
def State.spt (s : State) (pk n : Nat) : W64 := s.reg pk (0x20000 + 16 * n)
def State.spb (s : State) (pk n : Nat) : W64 := s.reg pk (0x20008 + 16 * n)
def pageOf (v : W64) : Nat := v.toNat % 2 ^ 57 / 4096 * 4096

/-- The valid pair whose public range holds the address. -/
def State.pairOf (s : State) (pa : Nat) : Option Nat :=
  (List.range 64).find? fun n =>
    let t := s.spt (paPkg pa) n
    t.getLsbD 0 && decide (pageOf t ≤ pa ∧ pa < pageOf t + 2 ^ (t.toNat / 2 % 32))

/-- The address in the current backing, or for a shadow write in the other one (R142). -/
def State.backing (s : State) (pa : Nat) (shadow : Bool) : Nat :=
  if paSpace pa ≠ 0 then pa
  else match s.pairOf pa with
    | none => pa
    | some n =>
      let t := s.spt (paPkg pa) n
      if t.getLsbD 6 = shadow then pa else pageOf (s.spb (paPkg pa) n) + (pa - pageOf t)

/-- STATE of the migration whose old frame holds the address: 0 for none (R145). -/
def State.migState (s : State) (pa : Nat) : Nat :=
  ((List.range 16).findSome? fun n =>
    let v := s.reg (paPkg pa) (0x21000 + 16 * n)
    let sz := 2 ^ ([12, 16, 21, 12].getD (v.toNat / 8 % 4) 12)
    if v.getLsbD 0 ∧ pageOf v / sz * sz ≤ pa ∧ pa < pageOf v / sz * sz + sz ∧ paSpace pa = 0 ∧ v.toNat / 2 % 4 ≠ 0 then some (v.toNat / 2 % 4) else none).getD 0

/-- Where a moved address now lies: at the same offset of NEW of the migration whose old frame holds it (R145). -/
def State.movedTo (s : State) (pa : Nat) : Nat :=
  ((List.range 16).findSome? fun n =>
    let v := s.reg (paPkg pa) (0x21000 + 16 * n)
    let sz := 2 ^ ([12, 16, 21, 12].getD (v.toNat / 8 % 4) 12)
    let old := pageOf v / sz * sz
    if v.getLsbD 0 ∧ old ≤ pa ∧ pa < old + sz ∧ paSpace pa = 0 ∧ v.toNat / 2 % 4 = 2
    then some (pageOf (s.reg (paPkg pa) (0x21008 + 16 * n)) / sz * sz + (pa - old)) else none).getD pa

/-- Entries of a package's staging buffer, oldest first. -/
def State.staged (s : State) (pk : Nat) : List Staged := s.ms.staged.get [] pk

/-! ### Scratchpad partitions (R116, R402) -/

/-- SPPn of a memory-port die. -/
def State.spp (s : State) (mp n : Nat) : W64 := s.reg (mp / 16) (0x41000 + 64 * (mp % 16) + 8 * n)

/-- Bank and offset of a partition address (R116). -/
def sppMap (v : W64) (a : Nat) : Nat × Nat :=
  let first := v.toNat % 64
  let cnt := 2 ^ (v.toNat / 64 % 8)
  match v.toNat / 512 % 4 with
  | 0 => (first + a / 2 ^ 20, a % 2 ^ 20)
  | i =>
    let g := [64, 64, 256, 4096].getD i 64
    (first + a / g % cnt, a / (g * cnt) * g + a % g)
/-- The granule that an access must not cross (R116). -/
def sppGranule (v : W64) : Nat := [2 ^ 20, 64, 256, 4096].getD (v.toNat / 512 % 4) 64
/-- The bank that a partition address maps to has been withdrawn (R468). -/
def State.sppGone (s : State) (mp n a : Nat) : Bool :=
  let v := s.spp mp n
  v.getLsbD 11 && decide (a < 2 ^ (20 + v.toNat / 64 % 8)) && (s.reg (mp / 16) (0x16A08 + 16 * (mp % 16))).getLsbD (sppMap v a).1
/-- Why a partition address is out of place (R402): 1 beyond, 2 uninitialised or a withdrawn bank (R468). An address of a partition
with EN = 0 is uninitialised, whatever LOG2CNT holds (DEDUCED, log 73). -/
def State.sppCause (s : State) (mp n a : Nat) : Option Nat :=
  let v := s.spp mp n
  if v.getLsbD 11 = false then some 2
  else if 2 ^ (20 + v.toNat / 64 % 8) ≤ a then some 1
  else if s.sppGone mp n a then some 2
  else none

/-- SPERR records an access out of place (R403); ECNT12 counts it. -/
def State.noteSperr (s : State) (rg : Nat) (write : Bool) (cause part a : Nat) : State :=
  let r := s.region rg
  let v : W32 := if r.sperr.getLsbD 0 then r.sperr ||| 0x80
    else BitVec.ofNat 32 (1 + (if write then 2 else 0) + 4 * cause + 16 * part + 256 * (a / 4 % 2 ^ 24))
  (s.setRegion rg { r with sperr := v }).count r.pk 12 1

end Sys2Proof.Machine
end

