-- ==== Sys2Proof/Machine/Image.lean ====
section
/-! DEFINITION. Stripe images (R190 to R192): the checks that the loader makes on the bytes of one (R394), in ascending offset, and the plane that they load as; base-slice images (R313, R314). -/
namespace Sys2Proof.Machine
open Sys2Proof

/-- The number in `n` bytes at an offset. -/
def bnum (b : List Byte) (off n : Nat) : Nat := leNat ((b.drop off).take n)

/-- A check of the loader: the offset it concerns, the code of its breach, and whether it holds. -/
abbrev Chk := Nat × BitVec 16 × Bool
/-- The first breach of a list of checks. -/
def breach : List Chk → Option (Nat × BitVec 16)
  | [] => none
  | (o, c, ok) :: r => if ok then breach r else some (o, c)

/-! ### The header (Table 8.14) -/

def imgMode (b : List Byte) : Bool := (bnum b 4 4).testBit 16
def imgSys (b : List Byte) : Bool := (bnum b 4 4).testBit 17
def imgLc (b : List Byte) (l : Nat) : Nat := bnum b (0x14 + 4 * l) 4
def lcIn (v pos : Nat) : Bool := v.testBit 16 && decide (v % 16 ≤ pos ∧ pos < v % 16 + v / 16 % 32)
/-- The loop context that owns a plane position. -/
def imgOwner (b : List Byte) (pos : Nat) : Option Nat := (List.range 4).find? fun l => lcIn (imgLc b l) pos
/-- The length of an element record at `off` (R191). -/
def recLen (b : List Byte) (off : Nat) : Nat :=
  let m := bnum b off 2
  160 + (4 * ((List.range 16).filter fun i => m.testBit i).length + 7) / 8 * 8
/-- The element records, each with its offset, and the offset after the last. -/
def imgRecs (b : List Byte) : List (Nat × Nat) × Nat :=
  (List.range 64).foldl (fun acc e => if (bnum b 8 8).testBit e then (acc.1 ++ [(e, acc.2)], acc.2 + recLen b acc.2) else acc) ([], 64)
/-- The matrix records, each with its offset. -/
def imgMxs (b : List Byte) : List (Nat × Nat) :=
  let js := (List.range 16).filter fun j => (bnum b 0x10 2).testBit j
  js.zip ((List.range js.length).map fun k => bnum b 0x38 2 + 72 * k)

/-- Loop-context entry `l` meets R52 and R190. -/
def lcEntryOk (b : List Byte) (l : Nat) : Bool :=
  let v := imgLc b l
  if imgMode b then decide (v = 0)
  else !(v.testBit 16)
    || (decide (1 ≤ v / 16 % 32 ∧ v / 16 % 32 ≤ 16 ∧ 1 ≤ v / 512 % 128 ∧ v / 512 % 128 ≤ 64 ∧ v % 16 + v / 16 % 32 ≤ 16)
        && (List.range l).all fun m => (List.range 16).all fun p => !(lcIn (imgLc b m) p && lcIn v p))

/-- The checks of a header. -/
def headerChecks (b : List Byte) : List Chk :=
  let w4 := bnum b 4 4
  let lanev := bnum b 0x28 4
  let laneo := bnum b 0x30 8
  [(0, 0x1002, decide (bnum b 0 4 = 0x494D524E)),
   (4, 0x1002, decide (w4 % 65536 = b.length ∧ b.length % 8 = 0 ∧ 88 ≤ b.length ∧ b.length ≤ 12288 ∧ w4 / 2 ^ 19 % 32 = 0 ∧ w4 / 2 ^ 24 = 2)),
   (8, 0x1002, decide ((imgRecs b).2 = bnum b 0x38 2)),
   (0x10, 0x1002, decide (bnum b 0x12 2 = 0 ∧ bnum b 0x38 2 + 72 * (imgMxs b).length = bnum b 0x3A 2))]
  ++ (List.range 4).map (fun l => (0x14 + 4 * l, (if imgLc b l / 2 ^ 17 ≠ 0 then 0x1002 else 0x1005), decide (imgLc b l / 2 ^ 17 = 0) && lcEntryOk b l))
  ++ [(0x24, 0x1002, decide (bnum b 0x24 4 < 4)),
      (0x2C, 0x1002, decide (bnum b 0x2C 4 = 0)),
      (0x30, 0x1005, imgMode b || (List.range 32).all fun i => !(lanev.testBit i) || (imgLc b (laneo / 4 ^ i % 4)).testBit 16),
      (0x38, 0x1002, decide (bnum b 0x3C 4 = 0 ∧ bnum b 0x3A 2 + 24 = b.length))]

/-! ### Element records (Table 8.15) -/

/-- Instructions that no event-mode image may hold. -/
def moduloOnly : SlotOp → Bool
  | .ctokIlast | .itr | .lastp | .stagev | .lnsend | .lntap => true
  | _ => false

/-- The channel table entry `c` of an element record. -/
def imgChan (b : List Byte) (off c : Nat) : Nat := bnum b (off + 0x80 + 2 * c) 2
/-- The stage of slot `i`. -/
def imgStage (b : List Byte) (off i : Nat) : Nat := bnum b (off + 0x80) 12 / 64 ^ i % 64

/-- The position of a nonzero slot word is owned, with a stage below STG, or covered by an enabled channel (R190, R191). -/
def posOk (b : List Byte) (off i : Nat) : Bool :=
  if imgMode b then (List.range 16).any fun c => let v := imgChan b off c; v.testBit 11 && decide (v % 16 ≤ i ∧ i ≤ v / 16 % 16)
  else match imgOwner b i with
    | some l => decide (imgStage b off i < imgLc b l / 512 % 128)
    | none => false

/-- Slot word `i`, where it decodes to one. -/
def imgSlot (b : List Byte) (off i : Nat) : Option (SlotOp × Slot) :=
  match decodeSlot (BitVec.ofNat 48 (bnum b (off + 8 + 6 * i) 6)) with
  | .ok ins => ins.slot?
  | .error _ => none

/-- The constant `i` of an element record; 0 where it has none. -/
def imgConst (b : List Byte) (off i : Nat) : W32 :=
  if (bnum b off 2).testBit i then BitVec.ofNat 32 (bnum b (off + 0xA0 + 4 * ((List.range i).filter fun j => (bnum b off 2).testBit j).length) 4) else 0

/-- Slot word `i` pops `qX` (R64); an access word in a local register is not known to the loader. -/
def imgPopsX (b : List Byte) (off i : Nat) : Bool :=
  match imgSlot b off i with
  | some (op, f) => popsX (match f.r with | .c => imgConst b off f.cidx.toNat | _ => 0) op f
  | none => false

/-- A handler that contains `merge` pops `qX` in no other slot (R219): no other slot of an enabled channel of slot `i`
below `i` pops `qX` where it or slot `i` is a `merge`. The later slot of the two is the breach. -/
def mergeOk (b : List Byte) (off i : Nat) : Bool :=
  let isMerge (j : Nat) : Bool := match imgSlot b off j with | some (.merge, _) => true | _ => false
  !(imgMode b) || !(imgPopsX b off i) || (List.range 16).all fun c =>
    let v := imgChan b off c
    !(v.testBit 11 && decide (v % 16 ≤ i ∧ i ≤ v / 16 % 16))
    || (List.range i).all fun j => decide (j < v % 16) || !(imgPopsX b off j && (isMerge i || isMerge j))

/-- The `ctok.ilast` slots that loop context `l` owns in an image: the word's offset and the stage. -/
def ilastSlots (b : List Byte) (l : Nat) : List (Nat × Nat) :=
  ((imgRecs b).1.map fun r => ((List.range 16).filter fun i =>
    (match imgSlot b r.2 i with | some (.ctokIlast, _) => decide (imgOwner b i = some l) | _ => false)).map fun i => (r.2 + 8 + 6 * i, imgStage b r.2 i)).flatten
/-- Their stages. -/
def ilastStages (b : List Byte) (l : Nat) : List Nat := (ilastSlots b l).map Prod.snd

/-- What an opcode asks of the slot beyond its word: the `ctok.ilast` slots of a loop context lie in one stage, the first
one's (R223), and `lnsend` and `lntap` name a lane that the slot's own loop context owns (R266). Each image is checked on its
own (R394). DEDUCED (DEDUCED, log 68). -/
def ownerOk (b : List Byte) (off i : Nat) (op : SlotOp) (f : Slot) : Bool :=
  imgMode b || match imgOwner b i with
    | none => true
    | some l => match op with
      | .ctokIlast => decide ((ilastStages b l).headD (imgStage b off i) = imgStage b off i)
      | .lnsend | .lntap =>
        (bnum b 0x28 4).testBit (laneOf f).toNat && decide (bnum b 0x30 8 / 4 ^ (laneOf f).toNat % 4 = l)
      | _ => true

/-- The checks of slot word `i`. -/
def slotChecks (b : List Byte) (off i : Nat) : List Chk :=
  let o := off + 8 + 6 * i
  let w := bnum b o 6
  if w = 0 then []
  else match decodeSlot (BitVec.ofNat 48 w) with
    | .error .reservedOpc => [(o, 0x1003, false)]
    | .error _ => [(o, 0x1004, false)]
    | .ok ins =>
      match ins.slot? with
      | none => [(o, 0x1004, false)]
      | some (op, f) => [(o, 0x1004, !(imgMode b && f.sq) && ownerOk b off i op f && mergeOk b off i), (o, 0x1005, !(imgMode b && moduloOnly op) && posOk b off i)]

/-- The targets of slot word `i`; none for a zero word. -/
def slotTargets (b : List Byte) (off i : Nat) : Target × Target :=
  match decodeSlot (BitVec.ofNat 48 (bnum b (off + 8 + 6 * i) 6)) with
  | .ok ins => (match ins.slot? with | some (_, f) => (f.t1, f.t2) | none => (.none, .none))
  | .error _ => (.none, .none)

/-- The checks of an element record. -/
def elemChecks (b : List Byte) (off : Nat) : List Chk :=
  let route := bnum b (off + 0x68) 24
  let n := ((List.range 16).filter fun i => (bnum b off 2).testBit i).length
  ([(off, 0x1005, decide (bnum b (off + 3) 5 = 0))] : List Chk)
  ++ ((List.range 16).map (slotChecks b off)).flatten
  ++ ((List.range 16).map fun (i : Nat) => show List Chk from
      let (t1, t2) := slotTargets b off i
      [(off + 0x68 + 12 * i / 8, 0x1005, decide (t1 ≠ .none) || decide (route / 64 ^ (2 * i) % 64 = 0)),
       (off + 0x68 + (12 * i + 6) / 8, 0x1005, decide (t2 ≠ .none) || decide (route / 64 ^ (2 * i + 1) % 64 = 0))]).flatten
  ++ (if imgMode b then (List.range 16).map fun (c : Nat) => show Chk from
        (off + 0x80 + 2 * c, 0x1005, decide (imgChan b off c / 2 ^ 14 = 0 ∧ imgChan b off c % 16 ≤ imgChan b off c / 16 % 16))
      else [(off + 0x8C, 0x1005, decide (bnum b (off + 0x8C) 20 = 0))])
  ++ [(off + 0xA0 + 4 * n, 0x1005, decide (n % 2 = 0) || decide (bnum b (off + 0xA0 + 4 * n) 4 = 0))]

/-! ### Matrix records, pass-in block (R192, R476) -/

/-- The operation is valid under the image's SYS bit, with its DTGT (Table 12.3, R476). -/
def dtgtOk (sys : Bool) (op : MOp) (t : Target) : Bool :=
  match op with
  | .mma | .mmasc | .mpass =>
    if sys then (match t with | .none => true | .sp _ => true | _ => false)
    else match op with
      | .mpass => decide (t ≠ .none)
      | _ => decide (t = .none)
  | .mdrain | .mpromo => !sys
  | _ => true

/-- The checks of a matrix record. -/
def mxChecks (b : List Byte) (off : Nat) : List Chk :=
  ((List.range 8).map fun j =>
    let o := off + 8 * j
    let w := bnum b o 8
    (o, (0x1006 : BitVec 16), decide (w = 0) ||
      (match decodeMatrix (BitVec.ofNat 64 w) with
       | .ok ins => (match ins.mword? with
         | some (.bgmv, _) => false
         | some (.bred, _) => false
         | some (op, m) => dtgtOk (imgSys b) op m.dtgt
         | none => false)
       | .error _ => false)))
  ++ [(off + 0x40, 0x1006, decide (bnum b (off + 0x46) 2 = 0))]

/-- The checks of the pass-in block. -/
def passChecks (b : List Byte) : List Chk :=
  let p := bnum b 0x3A 2
  (p + 2, 0x1005, decide (bnum b (p + 2) 6 = 0))
  :: (List.range 16).map fun i => (p + 8 + i, 0x1005, (bnum b p 2).testBit i || decide (bnum b (p + 8 + i) 1 = 0))

/-- The first breach of a stripe image (R394): offset and code. -/
def imgBreach (b : List Byte) : Option (Nat × BitVec 16) :=
  match breach (headerChecks b) with
  | some x => some x
  | none => breach (((imgRecs b).1.map fun r => elemChecks b r.2).flatten ++ ((imgMxs b).map fun r => mxChecks b r.2).flatten ++ passChecks b)

/-! ### The plane -/

/-- The element record at `off`, as a plane holds it. -/
def imgElem (b : List Byte) (off : Nat) : ElPlane :=
  let m := bnum b off 2
  let cs := (List.range 16).filter fun i => m.testBit i
  { words := (List.range 16).foldl (fun w i => w.put 0 i (BitVec.ofNat 48 (bnum b (off + 8 + 6 * i) 6))) []
    consts := (cs.zip (List.range cs.length)).foldl (fun c p => c.put 0 p.1 (BitVec.ofNat 32 (bnum b (off + 0xA0 + 4 * p.2) 4))) []
    seqb := BitVec.ofNat 256 (bnum b (off + 0x80) 32)
    route := BitVec.ofNat 192 (bnum b (off + 0x68) 24)
    sqd := BitVec.ofNat 8 (bnum b (off + 2) 1) }
/-- The matrix record at `off`. -/
def imgMx (b : List Byte) (off : Nat) : MxPlane :=
  { words := (List.range 8).foldl (fun w j => w.put 0 j (BitVec.ofNat 64 (bnum b (off + 8 * j) 8))) []
    rids := BitVec.ofNat 64 (bnum b (off + 0x40) 8) }

/-- The plane that an image loads as. -/
def imgPlane (b : List Byte) (img : Nat) : Plane :=
  let p := bnum b 0x3A 2
  let w4 := bnum b 4 4
  { valid := true, img := img, event := w4.testBit 16, sys := w4.testBit 17, stf := w4.testBit 18
    lcs := (List.range 4).foldl (fun m l => m.put 0 l (BitVec.ofNat 32 (imgLc b l))) []
    dlc := BitVec.ofNat 2 (bnum b 0x24 1), lanev := BitVec.ofNat 32 (bnum b 0x28 4), laneo := BitVec.ofNat 64 (bnum b 0x30 8)
    emask := BitVec.ofNat 64 (bnum b 8 8)
    els := (imgRecs b).1.foldl (fun m r => m.put {} r.1 (imgElem b r.2)) []
    mxs := (imgMxs b).foldl (fun m r => m.put {} r.1 (imgMx b r.2)) []
    pimask := BitVec.ofNat 16 (bnum b p 2)
    passin := (List.range 16).foldl (fun m i => m.put 0 i (BitVec.ofNat 8 (bnum b (p + 8 + i) 1))) [] }

/-! ### Base-slice images (R313, R314) -/

/-- The opcodes of Table 12.6. -/
def baseOp : SlotOp → Bool
  | .nop | .add | .sub | .mul | .mulh | .mad | .abs | .neg | .min | .max | .clz | .popc | .brev | .bperm | .addc | .subb | .mov => true
  | .and | .or | .xor | .andn | .not | .lop3 | .shl | .shr | .rot | .fsh | .bfx | .bfi | .bswap => true
  | .cmp | .sel | .steer | .merge | .gate | .inv | .join => true
  | .loopgen | .loopgen2 | .cnt | .ldb => true
  | _ => false
/-- The targets that R313 allows. -/
def baseTarget : Target → Bool
  | .none | .queue .. | .kreg _ => true
  | .sp i => decide (i = 0)
  | .mx i => decide (i = 0)
  | _ => false

/-- Matrix record 0 of a base-slice image meets R314. -/
def baseRecOk (b : List Byte) (off : Nat) : Bool :=
  let w (j : Nat) : Nat := bnum b (off + 8 * j) 8
  let dec (j : Nat) : Option (MOp × MWord) := match decodeMatrix (BitVec.ofNat 64 (w j)) with | .ok i => i.mword? | .error _ => none
  let tgt : Target → Bool
    | .queue .. => true
    | .sp i => decide (i = 0)
    | _ => false
  ((List.range 8).all fun j => decide (j < 2) || decide (w j = 0))
  && (match dec 0 with
      | some (.bgmv, m) =>
        if w 1 = 0 then tgt m.dtgt
        else match dec 1 with
          | some (.bred, r) => decide (r.fmt = m.fmt ∧ m.dtgt = .none) && tgt r.dtgt
          | _ => false
      | _ => decide (w 0 = 0 ∧ w 1 = 0))
  && decide (bnum b (off + 0x46) 2 = 0)

/-- A base-slice image breaks nothing (0x100A). -/
def baseImgOk (b : List Byte) : Bool :=
  (breach (headerChecks b)).isNone && imgMode b && decide (bnum b 0x10 2 ≤ 1)
  && ((imgRecs b).1.all fun r =>
    (breach (elemChecks b r.2)).isNone
    && (List.range 16).all fun i =>
      let w := bnum b (r.2 + 8 + 6 * i) 6
      decide (w = 0) || (match decodeSlot (BitVec.ofNat 48 w) with
        | .ok ins => (match ins.slot? with | some (op, f) => baseOp op && baseTarget f.t1 && baseTarget f.t2 | none => false)
        | .error _ => false))
  && ((imgMxs b).all fun r => baseRecOk b r.2)
  && (breach (passChecks b)).isNone

/-- The image of program `n` of stack `sk` is read and checked (R312, R394): a valid one becomes plane 0 of the program's
nodes, which start empty. -/
def State.loadBase (s : State) (sk n : Nat) : State :=
  let m := 64 * sk + n
  let x := s.ms.mults.get {} m
  let v := s.reg (sk / 16) (0x50000 + 0x800 * (sk % 16) + 32 * n)
  let a := v.toNat % 2 ^ 57 / 4096 * 4096
  let st := 32 * (baseRing + m)
  let size := s.readN (a + 4) 2
  let b := s.peeks a size
  if x.img ≠ 0 ∨ v.getLsbD 0 = false then s
  else if size ≤ 12288 ∧ baseImgOk b then
    let s1 := (List.range 64).foldl (fun t e => t.setElem (128 * st + e) { av := true }) s
    let s2 := s1.setMx (128 * st + 64) { av := true }
    let s3 := s2.setStripe st { planes := FMap.put {} [] 0 (imgPlane b 0), av := true }
    { s3 with ms := { s3.ms with mults := s3.ms.mults.put {} m { img := 1 } } }
  else { s with ms := { s.ms with mults := s.ms.mults.put {} m { x with img := 2 } } }

end Sys2Proof.Machine
end

