-- ==== Sys2Proof/Machine/MemEv.lean ====
section
/-! DEFINITION. The steps of accesses: issue from a stream (R129, R271 to R274), translation (R108, R109), the home (R126 to R137), completion tokens (R133), deltas (R169), irrevocable writes (R164 to R166). -/
namespace Sys2Proof.Machine
open Sys2Proof

/-! ### Order (R129, R130) -/

/-- An access is performed, or bound and all its tokens emitted. -/
def Access.settled (a : Access) : Bool :=
  match a.kind, a.phase with
  | .load _, _ => false
  | _, .performed => true
  | _, .staged => true
  | _, _ => false

/-- The bytes of two accesses meet, where their addresses lead now: to the current backing and past a migration (R129, R142, R146);
by their virtual addresses too. -/
def State.meets (s : State) (a b : Access) : Bool :=
  let pa (x : Access) : Nat := s.movedTo (s.backing x.pa false)
  a.scr.isSome || b.scr.isSome || a.base.isSome || b.base.isSome || decide (pa a < pa b + b.size ∧ pa b < pa a + a.size)
  || decide (a.asid = b.asid ∧ a.va.toNat < b.va.toNat + b.size ∧ b.va.toNat < a.va.toNat + a.size)

/-- An earlier access `b` holds back access `a`: of the same stream (R129), or of the same element's bank port, or of
another element to the same bank in the same cycle (R130). -/
def State.holdsBack (s : State) (b a : Access) : Bool :=
  !b.settled &&
  match a.rs, b.rs with
  | some r, some r' => decide (r = r') && (match b.kind with
    | .store _ => a.kind.writes || s.meets a b
    | _ => true)
  | none, none => decide (b.ret.el = a.ret.el) || (decide (b.fired = a.fired) && decide (b.pa / 2 ^ 21 = a.pa / 2 ^ 21))
  | _, _ => false

/-- Access `q` comes before access `a`: of a stream, in issue order (R129); of ring-bank ports, by the cycle of their firing and in
it by element (R130). -/
def State.accBefore (s : State) (q : Nat × Access) (a : Access) : Bool :=
  match q.2.rs, a.rs with
  | none, none => decide (q.2.fired < a.fired ∨ (q.2.fired = a.fired ∧ ordBefore (s.elOrd q.2.ret.el) (s.elOrd a.ret.el)))
  | some _, some _ => decide (q.2.iss < a.iss)
  | _, _ => false

/-- An earlier access holds back access `a`, or a rollback of its home does (R447); one of a ring-bank port waits for the end of
the cycle that it fired in (R130). -/
def State.heldBack (s : State) (a : Access) : Bool :=
  decide ((s.members.get {} (if a.scr.isSome then (s.region a.rg).pk else paPkg a.pa)).step ≠ 0)
  || (a.rs.isNone && decide (s.cyc ≤ a.fired))
  || s.fl.accs.any fun p => s.accBefore p a && s.holdsBack p.2 a

/-! ### Operations of redundant Figures (R426) -/

/-- One reserved entry of an operation at a place is given up. -/
def dropOne (op : Nat) (d : Dest) : List (Nat × Dest) → List (Nat × Dest)
  | [] => []
  | r :: rs => if r = (op, d) then rs else r :: dropOne op d rs
def State.unreserveAt (s : State) (op : Nat) (ds : List Dest) : State :=
  { s with fl := { s.fl with resv := ds.foldl (fun l d => dropOne op d l) s.fl.resv } }

/-- The places of a return address. -/
def State.retDests (s : State) (r : Ret) (w1 w2 : Bool) : List Dest :=
  (if w1 then (s.destOf r.el r.t1).toList else []) ++ (if w2 then (s.destOf r.el r.t2).toList else [])

/-- An operation of region `rg` may be performed: its Figure runs as one instance, or its compare point agreed. -/
def State.mayPerform (s : State) (rg op : Nat) : Bool := decide ((s.fig (figOf rg)).insts ≤ 1) || s.fl.agreed.contains op
/-- An agreed operation is over: nothing is left to tell. -/
def State.forget (s : State) (op : Nat) : State :=
  { s with fl := { s.fl with agreed := s.fl.agreed.filter fun x => decide (x ≠ op), twins := s.fl.twins.put [] op [] } }

/-- Tokens of one operation reach another instance: to its targets, or to the bound port that it has reserved. -/
def State.tellTwin (s : State) (taint : Bool) (outs : List Out) (t : Nat × Nat × Ret) : State :=
  let r := t.2.2
  if r = {} then
    match s.fl.resv.find? fun y => decide (y.1 = t.1) with
    | some (_, .port p) => outs.foldl (fun u o => (u.unreserveAt t.1 [.port p]).addEmit { due := s.cyc, ord := 0, src := portSrc p, dst := .port p, tok := { o.tok with et := o.tok.et || taint } }) s
    | _ => s
  else
    let ds := s.retDests r (outs.any fun o => decide (o.which ≠ 2)) (outs.any fun o => decide (o.which ≠ 1))
    (s.unreserveAt t.1 ds).emitAll { r with taint := r.taint || taint, squash := false } (s.opqCycle r) outs
/-- Tokens of operation `op` reach every instance that it stands for, and are kept for one that is late. -/
def State.tellTwins (s : State) (op : Nat) (taint : Bool) (outs : List Out) : State :=
  let s1 := (s.fl.twins.get [] op).foldl (fun u t => u.tellTwin taint outs t) s
  if s.figs.any fun f => f.2.owed.any fun q => q.2.contains op then
    { s1 with fl := { s1.fl with results := s1.fl.results.put [] op (s1.fl.results.get [] op ++ outs.map fun o => (o.which, { o.tok with et := o.tok.et || taint })) } }
  else s1
/-- The other instances have room for one more token of a wide load. -/
def State.twinsFit (s : State) (op : Nat) : Bool := (s.fl.twins.get [] op).all fun t => decide (t.2.2 = {}) || s.fits (s.retDests t.2.2 true true) []

/-! ### Fault conditions of accesses (R395, R396, R442) -/

/-- The record of a condition of an access. -/
def accRecord (code : BitVec 16) (tier : BitVec 4) (point : BitVec 3) (rs : Option Nat) (ret : Ret) (rg : Nat) (va : W64) : FaultRec :=
  { fcode := code, tier := tier, point := point, place := placeOf ret.el, region := BitVec.ofNat 6 rg,
    detail := BitVec.ofNat 32 (rs.getD 0 % 32), addr := va }

/-- The access may still be withdrawn: it is not performed, nor bound with tokens still to leave (R395). -/
def Access.undone (a : Access) : Bool := !a.settled && decide (a.phase ≠ .performed)
/-- The entries of a stream's order are given up, with what they have reserved. -/
def State.dropOrder (s : State) (rs : Nat) : State :=
  let s1 := ((s.strm rs).q.filterMap SOp.access).foldl (fun u p => u.unreserve p.1) s
  s1.setStrm rs { s1.strm rs with q := [], fault := true, parked := none }
/-- The accesses of a stream that are not performed are withdrawn, from place `n` of its order of issue on (R395). -/
def State.withdrawFrom (s : State) (rs n : Nat) : State :=
  let gone := s.fl.accs.filter fun p => decide (p.2.rs = some rs ∧ n ≤ p.2.iss) && p.2.undone
  (gone.foldl (fun t p => (t.delAcc p.1).unreserve p.1) s).dropOrder rs
def State.withdraw (s : State) (rs : Nat) : State := s.withdrawFrom rs 0

/-- A condition at the Home point: the access is not performed and its stream withdrawn. -/
def State.homeFault (s : State) (id : Nat) (a : Access) (code : BitVec 16) : State :=
  let s1 := s.detect (s.region a.rg).pk (.figure (figOf a.rg)) (s.elOrd a.ret.el) (accRecord code 4 2 a.rs a.ret a.rg a.va)
  match a.rs with
  | some rs => s1.withdraw rs
  | none => (s1.delAcc id).unreserve id

/-- A condition at the Stream point, where `keep` says that the accesses are held (R442), else withdrawn. -/
def State.streamFault (s : State) (rs : Nat) (ret : Ret) (rg : Nat) (va : W64) (code : BitVec 16) (keep : Bool) : State :=
  let s1 := s.detect (s.region rg).pk (.figure (figOf rg)) (s.elOrd ret.el) (accRecord code 4 1 (some rs) ret rg va)
  if keep then s1.setStrm rs { s1.strm rs with fault := true, parked := none } else s1.dropOrder rs

/-! ### Issue (R271, R272) -/

/-- Extent `d`; 0 is 2^32. -/
def Strm.extent (t : Strm) (d : Nat) : Nat := let e := (t.ext.get 0 d).toNat; if e = 0 then 2 ^ 32 else e

/-- The offset of an access and the stream with its pattern advanced (R272). -/
def Strm.offset (t : Strm) (idx : Option W32) : Int × Strm :=
  match idx with
  | some x => (x.toInt * t.esz, t)
  | none =>
    let off := (t.i0 : Int) * (t.str.get 0 0).toInt + t.i1 * (t.str.get 0 1).toInt + t.i2 * (t.str.get 0 2).toInt
    let i0 := t.i0 + 1
    let (i0, i1) := if i0 = t.extent 0 then (0, t.i1 + 1) else (i0, t.i1)
    let (i1, i2) := if i1 = t.extent 1 then (0, t.i2 + 1) else (i1, t.i2)
    (off, { t with i0 := i0, i1 := i1, i2 := if i2 = t.extent 2 then 0 else i2 })

/-- The tag of a dispatched access (R151): a write of the device to HBM of a member, an atomic always, a store where it is not
staged. -/
def State.tagFor (s : State) (pk pa : Nat) (k : AKind) (irv : Bool) : Option W32 :=
  if k.writes ∧ paSpace pa = 0 ∧ s.pvEn pk ∧ s.rdMember pk (paPkg pa) ∧ (irv = false ∨ k.isAtomic) then some (s.open_ pk) else none

/-- The newest tag of a Figure's stores (R138). -/
def State.noteTag (s : State) (rg : Nat) (t : Option W32) : State :=
  match t with
  | none => s
  | some v =>
    let x := s.fig (figOf rg)
    match x.lastTag with
    | some u => if ivLe v u then s else s.setFig (figOf rg) { x with lastTag := some v }
    | none => s.setFig (figOf rg) { x with lastTag := some v }

/-- The earliest cycle of a global load's token, from the cycle `f` in which it fired (R274). -/
def loadMin (pa f : Nat) : Nat := if paSpace pa ≤ 1 then f + 90 else f + 24

/-- An access as its stream hands it on. -/
structure Issue where
  id : Nat
  kind : AKind
  scope : BitVec 3
  word : W32
  data : List W32
  cmp : W32
  ret : Ret
  f : Nat
  rg : Nat
  port : Option Nat := none
  deriving Repr, Inhabited

/-- The fault code of an access before translation (Tables 18.4, R398). -/
def issueFault (t : Strm) (i : Issue) (addr : W64) : Option (BitVec 16) :=
  if addr.toNat % t.esz ≠ 0 then some 0x4001
  else if t.mode ≠ 1 ∧ addr.toNat / 2 ^ 56 ≠ 0 ∧ addr.toNat / 2 ^ 56 ≠ 255 then some 0x4002
  else if (match i.kind with | .load _ => t.isStore | .pfg => false | _ => !t.isStore) then some 0x4003
  else match i.kind with
    | .atom aop _ => if 12 ≤ aop.toNat then some 0x5001 else if t.esz ≠ 4 then some 0x5002 else none
    | .cas => if t.esz ≠ 4 ∨ i.word.toNat / 256 ≠ 0 then some 0x5002 else none
    | _ => none

/-- The bytes of a store or the operand of an atomic: the access size's low bytes. -/
def issueBytes (i : Issue) (esz : Nat) : List Byte := ((i.data.map wordBytes).flatten).take esz

/-- The tagged writes on their way to an HBM stack, deltas included: what may yet need a capture there (R162). -/
def State.capturesDue (s : State) (sk : Nat) : Nat :=
  (s.fl.accs.filter fun p => p.2.tag.isSome && p.2.undone && decide (paStack p.2.pa = sk)).length
  + (s.ms.deltas.filter fun d => decide (d.2.dst = sk / 16)).length
/-- What issuing the head access comes to. -/
inductive Issued where
  /-- issued -/
  | gone (s : State)
  /-- a translation miss (R109) -/
  | miss
  /-- a fault condition; `keep` for a translation fault (R442) -/
  | fault (code : BitVec 16) (keep : Bool)
  /-- the program's image was read and rejected (0x100A) -/
  | reject (s : State)
  /-- the stack has as many captures outstanding as R162 allows -/
  | wait
  deriving Repr, Inhabited

/-- A translated access is checked and sent (R106, R112, R118, R439). `t` is the stream with its pattern advanced. -/
def State.sendAccess (s : State) (rs : Nat) (t : Strm) (i : Issue) (va : W64) (off : W32) (x : Xlat) : Issued :=
  let pk := pkOf (rs / 32)
  let pa := x.phys va.toNat
  let asid := (s.fig (figOf i.rg)).asid
  if x.permits i.kind = false then .fault 0xC003 true
  else if (s.members.get {} (paPkg pa)).noSpare then .fault 0xC006 false
  else if s.badPA pk pa then .fault 0x4006 false
  else if paPkg pa = pk ∧ s.poisoned pa then .fault 0xC005 false
  else
    let sk := paStack pa
    let v := (s.reg (sk / 16) (0x50000 + 0x800 * (sk % 16) + 32 * t.bsp)).getLsbD 0
    -- the image of a program is checked when a stream first names it (R394)
    let first := decide (t.mode = 2 ∧ paSpace pa = 0) && v && decide ((s.ms.mults.get {} (64 * sk + t.bsp)).img = 0)
    let s := if first then s.loadBase sk t.bsp else s
    let ok := decide ((s.ms.mults.get {} (64 * sk + t.bsp)).img = 1)
    if t.mode = 2 ∧ first ∧ !ok then .reject s
    else if t.mode = 2 ∧ (paSpace pa ≠ 0 ∨ v = false ∨ !ok) then .fault 0x4005 false
    else
      let tag := if t.mode = 2 then none else s.tagFor pk pa i.kind x.irv
      if tag.isSome ∧ 262144 ≤ s.capturesDue sk then .wait else
      let a : Access := {
        rs := some rs, minAt := loadMin pa i.f, rg := i.rg, kind := i.kind, scope := i.scope, va := va, pa := pa, size := t.esz,
        data := issueBytes i t.esz, cmp := i.cmp, ret := i.ret, asid := asid, prot := x.prot, irv := x.irv, pgrp := x.pgrp, log2 := x.log2,
        via := viaDie (unitOf rs).1 pa, home := homeDie pa, tag := tag, fired := i.f, at_ := s.cyc, toPort := i.port,
        base := if t.mode = 2 then some (sk, t.bsp) else none, off := off, iss := s.fl.next }
      .gone ((((s.setStrm rs t).keepXlat rs x).setAcc i.id a |>.noteTag i.rg tag).bump)

/-- The access at the head of a stream forms its address and is issued (R129, R272). An access of 1 or 2 bytes in scratchpad
mode is performed like any other (DESIGN CHOICE, log 57). -/
def State.issueHead (s : State) (rs : Nat) (i : Issue) (idx : Option W32) : W64 × Issued :=
  let t := s.strm rs
  let (off, t1) := t.offset idx
  let va := t.base + BitVec.ofInt 64 off
  match issueFault t i va with
  | some c => (va, .fault c false)
  | none =>
    if t.mode = 1 then
      let mp := (unitOf rs).1
      let v := s.spp mp t.part
      let g := sppGranule v
      let inPlace := (s.sppCause mp t.part va.toNat).isNone
      if v.getLsbD 11 ∧ va.toNat % g + t.esz > g then (va, .fault 0x4007 false)
      else
        let a : Access := {
          rs := some rs, minAt := i.f + 24, rg := i.rg, kind := i.kind, scope := i.scope, va := va, size := t.esz,
          data := issueBytes i t.esz, cmp := i.cmp, ret := i.ret, fired := i.f, at_ := s.cyc, toPort := i.port,
          scr := some (mp, t.part, va.toNat, inPlace), iss := s.fl.next }
        (va, .gone ((s.setStrm rs t1).setAcc i.id a).bump)
    else
      let asid := (s.fig (figOf i.rg)).asid
      match s.lookup rs asid va.toNat with
      | none => (va, .miss)
      | some x => (va, s.sendAccess rs t1 i va (BitVec.ofInt 32 off) x)

/-- An access translated again takes its new address (R146, R442), unless a check fails. -/
def State.retarget (s : State) (rs : Nat) (a : Access) (x : Xlat) : Except (BitVec 16) Access :=
  let mp := (unitOf rs).1
  let pa := x.phys a.va.toNat
  if x.permits a.kind = false then .error 0xC003
  else if (s.members.get {} (paPkg pa)).noSpare then .error 0xC006
  else if s.badPA (mp / 16) pa then .error 0x4006
  else if paPkg pa = mp / 16 ∧ s.poisoned pa then .error 0xC005
  else .ok { a with
    pa := pa, prot := x.prot, irv := x.irv, pgrp := x.pgrp, log2 := x.log2
    via := viaDie mp pa, home := homeDie pa, tag := s.tagFor (mp / 16) pa a.kind x.irv, phase := .sent, link := none }

/-- The accesses of a stream from place `n` of its order of issue on that may still be withdrawn, in that order. -/
def insertIss (p : Nat × Access) : List (Nat × Access) → List (Nat × Access)
  | [] => [p]
  | q :: qs => if p.2.iss < q.2.iss then p :: q :: qs else q :: insertIss p qs
def State.undoneFrom (s : State) (rs n : Nat) : List (Nat × Access) :=
  (s.fl.accs.filter fun p => decide (p.2.rs = some rs ∧ n ≤ p.2.iss) && p.2.undone).foldl (fun l p => insertIss p l) []

/-- A condition of an access that is translated again, at the Stream point: a translation fault parks the stream with the access and
its successors (R442); any other withdraws them (R395). -/
def State.againFault (s : State) (rs : Nat) (a : Access) (code : BitVec 16) : State :=
  let s1 := s.detect (s.region a.rg).pk (.figure (figOf a.rg)) (s.elOrd a.ret.el) (accRecord code 4 1 (some rs) a.ret a.rg a.va)
  if 0xC001 ≤ code.toNat ∧ code.toNat ≤ 0xC004 then
    let l := s.undoneFrom rs a.iss
    let t := s1.strm rs
    l.foldl (fun u p => u.delAcc p.1) (s1.setStrm rs { t with q := (l.map fun p => SOp.again p.1 p.2) ++ t.q, fault := true, parked := none })
  else s1.withdrawFrom rs a.iss

/-- A `pfg` is accepted, or dropped and counted (R273, R398): both emit its completion. -/
def State.pfgDone (s : State) (rs : Nat) (i : Issue) (dropped : Bool) : State :=
  let s1 := (((s.delAcc i.id).complete i.id i.ret [{ tok := doneTok i.ret.seq }]).tellTwins i.id false [{ tok := doneTok i.ret.seq }]).forget i.id
  let s2 := s1.setStrm rs { s1.strm rs with q := (s1.strm rs).q.tail }
  if dropped then s2.count (pkOf (rs / 32)) 14 1 else s2

/-- An `agen.ctl` with MODE = 10 names a program of the stack that BASE then leads to (R118, R394; DESIGN CHOICE, log 86): the stream
after the write, and the state once the program's image has been read, where this is the first to name it. -/
def State.namedBase (s : State) (rs : Nat) (t : Strm) : Option (State × Bool) :=
  let asid := match t.rg with | some rg => (s.fig (figOf rg)).asid | none => 0
  if t.mode ≠ 2 then none
  else match s.walkPage (pkOf (rs / 32)) asid t.base.toNat with
  | .error _ => none
  | .ok x =>
    let pa := x.phys t.base.toNat
    let sk := paStack pa
    let v := (s.reg (sk / 16) (0x50000 + 0x800 * (sk % 16) + 32 * t.bsp)).getLsbD 0
    if paSpace pa = 0 ∧ v ∧ (s.ms.mults.get {} (64 * sk + t.bsp)).img = 0 then
      let u := s.loadBase sk t.bsp
      some (u, decide ((u.ms.mults.get {} (64 * sk + t.bsp)).img = 1))
    else none

/-- STREAM_ACCESS_ISSUE (R129, R271, R272): the head of the stream's order, once the cycle of its firing is over, one access in a cycle
(R274). -/
def execStreamAccessIssue (rs : Nat) (s : State) : Host.Outcome State Fault Refusal :=
  let t := s.strm rs
  if t.fault ∨ t.parked.isSome ∨ s.ringUp (rs / 32) = false then .next s
  else match t.q with
    | [] => .next s
    | .bar .. :: _ => .next s
    | .cfg m v f el :: q =>
      -- a bound load stream starts its pattern at the write of CTL (R79)
      let n := t.extent 0 * t.extent 1 * t.extent 2
      let bound := decide (m = 8) && t.port.isSome && !(v.getLsbD 3)
      let t1 := { t.write m v with q := q, left := if bound then n else t.left, eos := if bound then true else t.eos }
      if s.cyc ≤ f then .next s
      else match if m = 8 then s.namedBase rs t1 else none with
        | none => .next (s.setStrm rs t1)
        | some (u, true) => .next (u.setStrm rs t1)
        | some (u, false) => .next (u.streamFault rs { el := el } (t.rg.getD 0) t1.base 0x100A false)
    | .again id a :: q =>
      if s.cyc < t.issued then .next s
      else match s.lookup rs a.asid a.va.toNat with
        | none => .next (s.setStrm rs { t with parked := some (a.va.toNat % 2 ^ 57 / 4096) })
        | some x => match s.retarget rs a x with
          | .error c => .next (s.streamFault rs a.ret a.rg a.va c (decide (c = 0xC003)))
          | .ok b => .next (((((s.keepXlat rs x).setStrm rs { t with q := q, kept := some x, issued := s.cyc + 1 }).setAcc id { b with iss := s.fl.next }).noteTag a.rg b.tag).bump)
    | .acc id kind scope word idx data cmp ret f rg :: q =>
      let i : Issue := { id := id, kind := kind, scope := scope, word := word, data := data, cmp := cmp, ret := ret, f := f, rg := rg }
      if s.mayPerform rg id = false ∨ s.cyc ≤ f ∨ s.cyc < t.issued then .next s
      else match s.issueHead rs i idx with
      | (_, .gone s1) =>
        let out := match (s1.acc id).bind (·.scr) with | some (mp, n, a, _) => (s.sppCause mp n a).isSome | none => false
        let s2 := s1.setStrm rs { s1.strm rs with issued := s.cyc + 1 }
        if kind = .pfg then .next (s2.pfgDone rs i out)
        else .next (s2.setStrm rs { s2.strm rs with q := q })
      | (va, .miss) => .next (s.setStrm rs { t with parked := some (va.toNat % 2 ^ 57 / 4096) })
      | (va, .fault c keep) =>
        if kind = .pfg ∧ c ≠ 0x4005 then .next (s.pfgDone rs i true)
        else .next (s.streamFault rs ret rg va c keep)
      | (_, .wait) => .next s
      | (va, .reject s1) => .next (s1.streamFault rs ret rg va 0x100A false)

/-- The access that a parked stream waits with. -/
def Strm.headAcc (t : Strm) : Option (AKind × Ret × Nat × W64) :=
  match t.q with
  | .acc _ kind _ _ idx _ _ ret _ rg :: _ => some (kind, ret, rg, t.base + BitVec.ofInt 64 (t.offset idx).1)
  | .again _ a :: _ => some (a.kind, a.ret, a.rg, a.va)
  | _ => if t.port.isSome then some (if t.isStore then .store false else .load false, {}, t.rg.getD 0, t.base + BitVec.ofInt 64 (t.offset none).1) else none

/-- PAGE_WALK_COMPLETE (R107 to R109): the walk for the page that stream `rs` waits for returns; every stream of its
memory-port die that joined it resumes. A fault stops each of them (R442); so does an uncorrectable line that the walk reads, which
delivers no translation (R437; DESIGN CHOICE, log 91). -/
def execPageWalkComplete (rs : Nat) (s : State) : Host.Outcome State Fault Refusal :=
  let t := s.strm rs
  match t.parked with
  | none => .next s
  | some page =>
    let mp := (unitOf rs).1
    let asidOf (r : Nat) : BitVec 12 := match (s.strm r).headAcc with | some (_, _, rg, _) => (s.fig (figOf rg)).asid | none => 0
    let asid := asidOf rs
    let joined := (s.fab.strms.filter fun p => decide ((unitOf p.1).1 = mp ∧ p.2.parked = some page) && decide (asidOf p.1 = asid)).map Prod.fst
    let s := (s.walkReads (mp / 16) asid (page * 4096)).foldl (fun u a => u.correct a 8) s
    match s.walkBad (mp / 16) asid (page * 4096), s.walkPage (mp / 16) asid (page * 4096) with
    | some l, _ =>
      let rg := match t.headAcc with | some (_, _, rg, _) => rg | none => 0
      .next (joined.foldl (fun u r => u.withdraw r) ((s.uncorrectable l).blame s.det.length rg))
    | none, .ok x =>
      .next (joined.foldl (fun u r => (u.keepXlat r x).setStrm r { (u.keepXlat r x).strm r with parked := none }) s)
    | none, .error c =>
      .next (joined.foldl (fun u r =>
        match (u.strm r).headAcc with
        | some (.pfg, ret, rg, _) =>
          match (u.strm r).q with
          | .acc id _ _ word _ _ _ _ f _ :: _ =>
            let u1 := u.setStrm r { u.strm r with parked := none }
            u1.pfgDone r { id := id, kind := .pfg, scope := 0, word := word, data := [], cmp := 0, ret := ret, f := f, rg := rg } true
          | _ => u
        | some (_, ret, rg, va) => u.streamFault r ret rg va c true
        | none => u.setStrm r { u.strm r with parked := none }) s)

/-! ### At the home (R126, R129, R137, R142, R145) -/

/-- An access that received the moved reply translates again and is reissued (R146); one of a base node, which has no translation, goes
where its frame has gone. -/
def execMovedReplyReissue (ac : Nat) (s : State) : Host.Outcome State Fault Refusal :=
  match s.acc ac with
  | none => .next s
  | some a =>
    match a.phase, a.rs with
    | .moved, some rs =>
      let (mp, u) := unitOf rs
      let keep (l : List Xlat) : List Xlat := l.filter fun x => !(x.covers a.asid a.va.toNat)
      let s1 := { s with ms := { s.ms with
        tlb1 := s.ms.tlb1.put [] (mp * 16 + u) (keep (s.ms.tlb1.get [] (mp * 16 + u)))
        tlb2 := s.ms.tlb2.put [] mp (keep (s.ms.tlb2.get [] mp)) } }
      let s2 := s1.setStrm rs { s1.strm rs with kept := ((s1.strm rs).kept).filter fun x => !(x.covers a.asid a.va.toNat) }
      match s2.walkPage (mp / 16) a.asid a.va.toNat with
      | .error c => .next (s2.againFault rs a c)
      | .ok x => match s2.retarget rs a x with
        | .error c => .next (s2.againFault rs a c)
        | .ok b => .next (((s2.keepXlat rs x).setAcc ac b).noteTag a.rg b.tag)
    | .moved, none => .next (s.setAcc ac { a with pa := s.movedTo (s.backing a.pa false), phase := .sent, link := none })
    | _, _ => .next s

/-- The group of a protected access. -/
def Access.grp (a : Access) : Option Nat := if a.prot then some a.pgrp.toNat else none
/-- The write of an access is irrevocable (R163). -/
def Access.irrevocable (a : Access) : Bool :=
  a.scr.isNone && a.base.isNone && (match a.kind with | .store _ => true | _ => false) && (decide (paSpace a.pa = 1) || a.irv)

/-- A write reached its home: performed, held, barred for good (R444), or stopped. -/
def State.afterWrite (id : Nat) (a : Access) : Capture → State
  | .ok t => t.setAcc id { a with phase := .performed }
  | .hold t => t.setAcc id { a with phase := .home }
  | .full t =>
    (t.setAcc id { a with phase := .barred }).detect (paPkg a.pa) .none (2 ^ 90)
      { fcode := 0xE203, tier := 2, point := 2, addr := BitVec.ofNat 64 a.pa }
  | .bad t => match a.rs with | some rs => t.withdraw rs | none => t.delAcc id

/-- A store at its home. -/
def State.storeAtHome (s : State) (id : Nat) (a : Access) : State :=
  (State.afterWrite id a (s.homeWrite (s.backing a.pa false) (.set a.data) a.tag a.irv a.grp id (figOf a.rg))).blame s.det.length a.rg

/-- An access stands at its home, where it is numbered by its arrival (R137). -/
def State.reach (s : State) (id : Nat) (a : Access) : State :=
  (s.setAcc id { a with phase := .home, arr := s.fl.next, home := if paSpace a.pa = 0 then homeDie (s.backing a.pa false) else a.home }).bump
/-- A frame that migrates holds an access that has not been performed, or gives it the moved reply (R145, R146). -/
def State.atFrame (s : State) (id : Nat) (a : Access) : Option State :=
  if a.scr.isSome ∨ paSpace a.pa ≠ 0 then none
  else match s.migState (s.backing a.pa false) with
    | 1 => some (s.setAcc id { a with phase := .held })
    | 2 => some (s.setAcc id { a with phase := .moved, tag := none })
    | _ => none

/-- An access to HBM reaches its home (R126, R142, R145, Table 18.7). -/
def State.atHbm (s : State) (id : Nat) (a : Access) : State :=
  let pa := s.backing a.pa false
  match s.atFrame id a with
  | some t => t
  | none =>
    if s.inArea pa a.size then s.homeFault id a 0xA002
    else if (paPkg pa ≠ (s.region a.rg).pk ∨ a.rs.isNone) ∧ s.poisoned pa then s.homeFault id a 0xC005
    else match (if a.prot then s.protFault pa a.log2 a.pgrp.toNat a.irv else none) with
      | some c => s.homeFault id a c
      | none =>
        match a.kind with
        | .store _ => if a.irrevocable ∧ s.pvEn (s.region a.rg).pk then s.reach id a else s.storeAtHome id a
        | _ => s.reach id a

/-- A scratchpad access reaches its partition (R117, R402): held while the partition is reassigned, answered out of
place, or mapped and queued at its bank. -/
def State.atPartition (s : State) (id : Nat) (a : Access) (mp n addr : Nat) (inPlace : Bool) : State :=
  if (s.ms.parts.get none (mp * 8 + n)).isSome then s
  else match s.sppCause mp n addr with
    | some c =>
      let s1 := s.noteSperr a.rg a.kind.writes (if inPlace && !(s.sppGone mp n addr) then 3 else c) n addr
      match a.kind with
      | .load _ => s1.setAcc id { a with scr := none, phase := .home, pa := 0, value := zeros a.size }
      | .store _ => s1.setAcc id { a with phase := .performed }
      | _ => s1.setAcc id { a with scr := none, phase := .home, pa := 0, value := zeros 4 }
    | none =>
      let (bank, off) := sppMap (s.spp mp n) addr
      s.reach id { a with pa := scrPA (mp / 16) (mp % 16 * 2 ^ 26 + bank * 2 ^ 20 + off) }

/-- A store of a program's input stream delivers its next word to `x0` (R313): the data to `qL`, and with the first word
the offset to `qR`. -/
def State.atBase (s : State) (id : Nat) (a : Access) (sk n : Nat) : State :=
  match a.kind with
  | .store _ =>
    let el := 128 * (32 * (baseRing + 64 * sk + n))
    let w : W32 := BitVec.ofNat 32 (leNat ((a.data.drop (4 * a.emitted)).take 4))
    let put (s : State) (q : BitVec 2) (v : W32) : State :=
      s.addEmit { due := s.cyc, ord := 0, src := el, dst := .queue el q, tok := { dataTok v 0 with et := a.ret.taint } }
    if s.room (.queue el 0) = 0 ∨ (a.emitted = 0 ∧ s.room (.queue el 1) = 0) then s
    else
      let s1 := put s 0 w
      let s2 := if a.emitted = 0 then put s1 1 a.off else s1
      if 4 * (a.emitted + 1) ≥ a.size then s2.setAcc id { a with phase := .performed }
      else s2.setAcc id { a with emitted := a.emitted + 1 }
  | _ => s.setAcc id { a with phase := .home }

/-- An access to another package leaves through a port of its route, or waits for one (R371, R466). -/
def State.leave (s : State) (id : Nat) (a : Access) : State :=
  let pk := (s.region a.rg).pk
  match s.linkPort pk (paPkg a.pa) (a.rs.getD (2 ^ 50)) with
  | some p => { s with out := { s.out with hash := s.out.hash.put 0 pk (s.hashSet pk) } }.setAcc id { a with link := some p, since := none }
  | none => if s.linked pk (paPkg a.pa) then s else s.setAcc id { a with since := some (a.since.getD s.cyc) }

/-- A host address whose link is down: its accesses wait (R369). -/
def State.hostWaits (s : State) (pa : Nat) : Bool := decide (paSpace pa = 1) && s.out.hostDown.get false (paPkg pa)

/-- ACCESS_AT_HOME (R126): an access reaches its home, bank or partition in the order that R129 and R130 leave it; a
store is performed there. A protected page outside HBM is a fault condition (R165, R167, R170). -/
def execAccessAtHome (ac : Nat) (s : State) : Host.Outcome State Fault Refusal :=
  match s.acc ac with
  | none => .next s
  | some a =>
    if s.heldBack a then .next s
    else
      let plainStore : Bool := match a.kind with | .store _ => true | _ => false
      match a.phase with
      | .sent =>
        if a.scr.isNone ∧ paPkg a.pa ≠ (s.region a.rg).pk ∧ a.link.isNone then .next (s.leave ac a)
        else match a.scr, a.base with
        | some (mp, n, addr, inPlace), _ => .next (s.atPartition ac a mp n addr inPlace)
        | none, some (sk, n) => .next (s.atBase ac a sk n)
        | none, none =>
          if paSpace a.pa = 0 then .next (s.atHbm ac a)
          else if paSpace a.pa = 1 ∧ a.kind.isAtomic then .next (s.homeFault ac a 0x5003)
          else match (if a.prot then s.protFault a.pa a.log2 a.pgrp.toNat a.irv else none) with
          | some c => .next (s.homeFault ac a c)
          | none =>
          if a.irrevocable ∧ s.pvEn (s.region a.rg).pk then .next (s.reach ac a)
          else if plainStore ∧ s.hostWaits a.pa then .next s
          else if plainStore then .next ((s.writeBytes a.pa a.data).setAcc ac { a with phase := .performed })
          else .next (s.reach ac a)
      | .held => if a.scr.isNone ∧ paSpace a.pa = 0 ∧ s.migState (s.backing a.pa false) ≠ 1 then .next (s.atHbm ac { a with phase := .sent }) else .next s
      | .home =>
        if plainStore ∧ (a.irrevocable = false ∨ s.pvEn (s.region a.rg).pk = false) then
          if paSpace a.pa = 0 then .next ((s.atFrame ac a).getD (s.storeAtHome ac a))
          else if s.hostWaits a.pa then .next s
          else .next ((s.writeBytes a.pa a.data).setAcc ac { a with phase := .performed })
        else .next s
      | _ => .next s

/-! ### Tokens (R133, R153, R273) -/

/-- Word `i` of a load's value: sizes below 4 zero- or sign-extended (R273). -/
def loadWord (v : List Byte) (size i : Nat) (sx : Bool) : W32 :=
  if size < 4 then
    let n := leNat v
    if sx ∧ 2 ^ (8 * size - 1) ≤ n then BitVec.ofInt 32 ((n : Int) - 2 ^ (8 * size)) else BitVec.ofNat 32 n
  else BitVec.ofNat 32 (leNat ((v.drop (4 * i)).take 4))

/-- Words that a load delivers. -/
def Access.words (a : Access) : Nat := max 1 (a.size / 4)

/-- The next token of a bound load leaves, where its targets have space, and at an operand input in the first cycle that takes one more
(R298); the last one ends the access. -/
def State.emitLoad (s : State) (id : Nat) (a : Access) : State :=
  let sx := match a.kind with | .load b => b | _ => false
  let w := loadWord a.value a.size a.emitted sx
  let last := decide (a.words ≤ a.emitted + 1)
  let out : Out := { tok := if a.ret.squash then dataTok 0 a.ret.seq else dataTok w a.ret.seq }
  let next (s : State) : State :=
    let t := s.tellTwins id a.ret.taint [out]
    if last then ((t.delAcc id).unreserve id).forget id else t.setAcc id { a with emitted := a.emitted + 1, at_ := s.cyc + 1 }
  match a.toPort with
  | some p =>
    let s1 := s.unreserveAt id [.port p]
    next (s1.addEmit { due := s.cyc, ord := 0, src := portSrc p, dst := .port p, tok := { dataTok w 0 with et := a.ret.taint } })
  | none =>
    let ds := s.retDests a.ret true true
    if a.emitted = 0 then next ((s.unreserve id).emitRet { a.ret with squash := false } (s.opqCycle a.ret) out)
    else if s.fits ds [] ∧ s.twinsFit id then next (s.emitRet { a.ret with squash := false } s.cyc out)
    else s

/-- An earlier load of the stream still has tokens to emit, or an earlier load to the same port. -/
def State.tokensBefore (s : State) (a : Access) : Bool :=
  s.fl.accs.any fun p => decide (p.2.iss < a.iss ∧ p.2.rs = a.rs ∧ a.rs.isSome) && (match p.2.kind with | .load _ => true | _ => false)

/-- The interval whose writes a line's newest capture covers, while intervals run at its home (R154). -/
def State.lineTag (s : State) (line : Nat) : Option W32 :=
  let t := s.ltag line
  let o := s.open_ (paPkg line)
  if s.pvEn (paPkg line) ∧ t.getLsbD 15 then some (o - ((o.setWidth 15 - t.setWidth 15 : BitVec 15).zeroExtend 32)) else none
/-- Bytes of a host address as a staged store leaves them. -/
def Staged.over (pa : Nat) (v : List Byte) (e : Staged) : List Byte :=
  (List.range v.length).map fun i => if e.pa ≤ pa + i ∧ pa + i < e.pa + e.bytes.length then e.bytes.getD (pa + i - e.pa) 0 else v.getD i 0
/-- A load is bound: its value is fixed and the first token leaves. Bytes of host memory that the stream itself has stored and that
are still staged come from the staging buffer (R129, R166; DESIGN CHOICE, log 54); the intervals of the lines it reads
count among those that its Figure's fences cover (R136). -/
def State.bind (s : State) (id : Nat) (a : Access) : State :=
  if a.pa = 0 ∧ a.value ≠ [] then s.emitLoad id { a with phase := .performed }
  else
    let pa := s.backing a.pa false
    let (s0, v, bad) := s.readBytes pa a.size
    let s1 := s0.blame s.det.length a.rg
    let mine := if paSpace a.pa = 1 ∧ a.irv = false then (s.staged (s.region a.rg).pk).filter fun e => e.src.isSome && decide (e.src = a.rs.map fun r => (r, figOf a.rg)) else []
    let read := if paSpace pa = 0 then (linesOf pa a.size).foldl (fun u l => u.noteTag a.rg (u.lineTag l)) s1 else s1
    read.emitLoad id { a with phase := .performed, value := mine.foldl (Staged.over a.pa) v, ret := { a.ret with taint := a.ret.taint || bad } }

/-- LOAD_BOUND (R129, R133, R273, R274): a load at its home is bound and emits; a wide one emits its further tokens in
later cycles. -/
def execLoadBound (ac : Nat) (s : State) : Host.Outcome State Fault Refusal :=
  match s.acc ac with
  | none => .next s
  | some a =>
    match a.kind, a.phase with
    | .load _, .home =>
      if a.minAt ≤ s.cyc ∧ paSpace a.pa ≠ 1 ∧ a.base.isNone ∧ !(s.tokensBefore a) ∧ !(s.heldBack a) then .next ((s.atFrame ac a).getD (s.bind ac a)) else .next s
    | .load _, .performed => if a.at_ ≤ s.cyc then .next (s.emitLoad ac a) else .next s
    | _, _ => .next s

/-- HOST_READ_COMPLETION (R369): a load of host memory is bound when its completion returns. -/
def execHostReadCompletion (ac : Nat) (s : State) : Host.Outcome State Fault Refusal :=
  match s.acc ac with
  | none => .next s
  | some a =>
    match a.kind, a.phase with
    | .load _, .home =>
      if a.minAt ≤ s.cyc ∧ paSpace a.pa = 1 ∧ a.base.isNone ∧ !(s.tokensBefore a) ∧ !(s.heldBack a)
        ∧ s.out.hostDown.get false (paPkg a.pa) = false then .next (s.bind ac a) else .next s
    | _, _ => .next s

/-- Tokens that result from an access tagged with the open interval wait while the close window lasts (R153). -/
def State.windowHolds (s : State) (pk : Nat) (tag : Option W32) : Bool := (s.pav pk).window && decide (tag = some (s.open_ pk))

/-- The completion condition of a performed store or atomic (R133, R138). -/
def State.scopeMet (s : State) (id : Nat) (a : Access) : Bool :=
  let pk := (s.region a.rg).pk
  let acked := !(s.ms.deltas.any fun d => decide (d.2.op = id))
  let sealed_ := match a.tag with | some t => !(s.pvEn pk) || ivLe t (s.sealed pk) | none => true
  !(s.windowHolds pk a.tag) && (decide (a.scope.toNat < 6) || (acked && (decide (a.scope.toNat = 6) || sealed_)))

/-- The completion token of an access leaves; an `atom` or `cas` sends it to TGT2 only. -/
def State.completeStore (s : State) (id : Nat) (a : Access) : State :=
  let tok := if a.ret.squash then nullTok else doneTok a.ret.seq
  let two : Bool := match a.kind with | .atom _ old => old | .cas => true | _ => false
  let out : Out := { which := if two then 2 else 0, tok := tok }
  ((((s.delAcc id).unreserve id).emitRet { a.ret with squash := false } (s.opqCycle a.ret) out).tellTwins id a.ret.taint [out]).forget id

/-- A bank access has a first cycle for its token (R264); a stream's store has none. -/
def Access.minAtStore (a : Access) : Nat := if a.rs.isNone then a.minAt else 0

/-- STORE_PERFORMED (R134, R138): a store or an atomic is performed at its scope and emits its completion token. -/
def execStorePerformed (ac : Nat) (s : State) : Host.Outcome State Fault Refusal :=
  match s.acc ac with
  | none => .next s
  | some a =>
    match a.kind, a.phase with
    | .load _, _ => .next s
    | _, .performed => if a.minAtStore ≤ s.cyc ∧ s.scopeMet ac a then .next (s.completeStore ac a) else .next s
    | _, .staged => if s.scopeMet ac a then .next (s.completeStore ac a) else .next s
    | _, _ => .next s

/-- An earlier atomic to the same location stands at the home (R137). -/
def State.atomBefore (s : State) (a : Access) : Bool :=
  s.fl.accs.any fun p => p.2.kind.isAtomic && decide (p.2.phase = .home ∧ p.2.arr < a.arr ∧ p.2.value = [] ∧ p.2.pa = a.pa)

/-- ATOMIC_AT_HOME (R137, R275, R276): the read and the write are one step, in the order of arrival; the old value leaves. In the close
window one tagged n waits at a line tagged n + 1 (R153); after the window it is performed there (DESIGN CHOICE, log 87). -/
def execAtomicAtHome (ac : Nat) (s : State) : Host.Outcome State Fault Refusal :=
  match s.acc ac with
  | none => .next s
  | some a =>
    if a.kind.isAtomic ∧ a.phase = .home ∧ !(s.heldBack a) then
      let pk := (s.region a.rg).pk
      let pa := s.backing a.pa false
      let hbm := decide (paSpace pa = 0 ∧ a.pa ≠ 0)
      let newer : Bool := match a.tag with | some m => decide (s.ltag (lineOf pa) = ltagOf (m + 1) ∧ m ≠ s.open_ (paPkg pa)) && (s.pav (paPkg pa)).window | none => false
      let answer (s : State) (a : Access) (old : W32) : State :=
        let two : Bool := match a.kind with | .atom _ o => o | .cas => true | _ => false
        let out : Out := { which := 1, tok := dataTok old a.ret.seq }
        let s1 := if two then ((s.unreserveAt ac (s.retDests a.ret true false)).emitRet a.ret (s.opqCycle a.ret) out).tellTwins ac a.ret.taint [out] else s
        s1.setAcc ac { a with phase := .performed }
      if s.windowHolds pk a.tag ∨ newer then .next s
      else if a.value ≠ [] then .next (answer s a 0)
      else match s.atFrame ac a with
      | some t => .next t
      | none =>
        if s.atomBefore a then .next s
        else if hbm ∧ s.damagedIn (lineOf pa) 64 then
          let s1 := (s.uncorrectable (lineOf pa)).blame s.det.length a.rg
          .next (match a.rs with | some rs => s1.withdraw rs | none => s1.delAcc ac)
        else
          let (s1, v, bad) := s.readBytes pa 4
          let old : W32 := BitVec.ofNat 32 (leNat v)
          let u : Upd := .atom a.kind (BitVec.ofNat 32 (leNat a.data)) a.cmp
          let b := { a with ret := { a.ret with taint := a.ret.taint || bad } }
          if hbm then
            match s1.homeWrite pa u a.tag a.irv a.grp ac (figOf a.rg) with
            | .ok t => .next (answer t b old)
            | c => .next ((State.afterWrite ac a c).blame s.det.length a.rg)
          else .next (answer (s1.writeBytes pa (u.on v)) b old)
    else .next s

end Sys2Proof.Machine
end

