-- ==== Sys2Proof/Machine/Waits.lean ====
section
/-! DEFINITION. What waits outside the elements: fences and barriers (R131, R136), `publish` (R143), circular buffers (R120 to R123, R269, R270), counters, records, seals and messages (R283 to R287), the staging buffer (R164, R165) and host messages (R370), and deltas at parity members (R169, R445). -/
namespace Sys2Proof.Machine
open Sys2Proof

/-- A waiting operation emits its tokens and is gone. -/
def State.finishWait (s : State) (w : Nat) (ret : Ret) (outs : List Out) : State := (((s.delWait w).complete w ret outs).tellTwins w ret.taint outs).forget w

/-! ### Fences and barriers (R131, R136) -/

/-- An access is bound or performed, whatever its tokens still wait for. -/
def Access.past (a : Access) : Bool :=
  match a.phase with
  | .performed | .staged => true
  | _ => false

/-- Every access of element `el` fired before operation `w` is bound or performed: those of its streams and its bank port, its puts,
gets and publishes (R124, R125, R136). -/
def State.elPast (s : State) (el w : Nat) : Bool :=
  !(s.fl.accs.any fun p => decide (p.1 < w ∧ p.2.ret.el = el ∧ p.2.toPort.isNone) && !p.2.past)
  && !(s.fab.strms.any fun t => t.2.q.any fun o => match o.access with | some (id, ret) => decide (id < w ∧ ret.el = el) | none => false)
  && !(s.fl.waits.any fun p => decide (p.1 < w) && (match p.2.kind with
      | .cbput _ _ _ _ e | .cbget _ _ e => decide (e = el)
      | .publish .. => decide (p.2.ret.el = el)
      | _ => false))
  && !(s.fl.twins.any fun p => p.2.any (fun q => decide (q.1 < w ∧ q.2.2.el = el)) && (match s.acc p.1 with | some a => !a.past | none => (s.wait p.1).isNone))

/-- The durability part of R138 for a fence or barrier whose covered accesses were performed when the operations numbered below
`mark` existed: `last` is the newest interval of their writes and of what their loads read. Every parity delta then on its way is
waited for, whoever's write formed it (R136). -/
def State.durable (s : State) (pk : Nat) (scope : BitVec 3) (mark : Nat) (last : Option W32) : Bool :=
  decide (scope.toNat < 6)
  || (!(s.ms.deltas.any fun d => decide (d.1 < mark))
      && (decide (scope.toNat = 6) || !(s.pvEn pk) || (match last with | none => true | some t => ivLe t (s.sealed pk))))

/-- The completion of a fence or barrier whose covered accesses are performed: the first step to find them so fixes `last` and the
mark; in a close window it waits where an access of the new interval is covered (R136, R138, R153). -/
def State.coveredDone (s : State) (w : Nat) (x : Wait) (scope : BitVec 3) (last : Option W32) (again : Option W32 → WKind)
    (free : State → State) : State :=
  let pk := (s.region x.rg).pk
  let last := if x.held then last else (s.fig (figOf x.rg)).lastTag
  let y := if x.held then x else { x with kind := again last, held := true, ord := s.fl.next }
  if s.durable pk scope y.ord last && !(s.windowHolds pk last) then
    (free s).finishWait w { x.ret with squash := false } [{ tok := if x.ret.squash then nullTok else doneTok x.ret.seq }]
  else s.setWait w y

/-- FENCE_CONDITION_MET (R136, R277). -/
def execFenceConditionMet (w : Nat) (s : State) : Host.Outcome State Fault Refusal :=
  match s.wait w with
  | none => .next s
  | some x =>
    match x.kind with
    | .fence scope el last => if s.elPast el w then .next (s.coveredDone w x scope last (.fence scope el) id) else .next s
    | _ => .next s

/-- Every access of the named streams before the barrier is bound or performed: the barrier stands at the head of each, and what
each has issued is past. -/
def State.barMet (s : State) (ring w : Nat) (mask : W32) : Bool :=
  (List.range 32).all fun k =>
    !(mask.getLsbD k)
    || ((match (s.strm (ring * 32 + k)).q with | .bar v _ :: _ => decide (v = w) | _ => false)
        && !(s.fl.accs.any fun p => decide (p.2.rs = some (ring * 32 + k)) && !p.2.past))

/-- A barrier leaves the streams that it held. -/
def State.dropBars (ring w : Nat) (mask : W32) (s : State) : State :=
  (List.range 32).foldl (fun t k =>
    let y := t.strm (ring * 32 + k)
    if mask.getLsbD k then t.setStrm (ring * 32 + k) { y with q := y.q.filter fun o => match o with | .bar v _ => decide (v ≠ w) | _ => true } else t) s

/-- SBAR_RELEASE (R131, R278): not in the cycle of its firing, whose accesses come before the barrier. -/
def execSbarRelease (w : Nat) (s : State) : Host.Outcome State Fault Refusal :=
  match s.wait w with
  | none => .next s
  | some x =>
    match x.kind with
    | .sbar scope ring mask last =>
      if s.barMet ring w mask ∧ x.f < s.cyc then .next (s.coveredDone w x scope last (.sbar scope ring mask) (State.dropBars ring w mask)) else .next s
    | _ => .next s

/-- PUBLISH_PERFORMED (R143, R281): CUR is exchanged in one step. -/
def execPublishPerformed (w : Nat) (s : State) : Host.Outcome State Fault Refusal :=
  match s.wait w with
  | none => .next s
  | some x =>
    match x.kind with
    | .publish pk n =>
      let v := s.spt pk n.toNat
      if s.mayPerform x.rg w = false then .next s
      else if v.getLsbD 0 = false then
        .next (((s.delWait w).unreserve w).detect (s.region x.rg).pk (.figure (figOf x.rg)) (s.elOrd x.ret.el)
          { fcode := 0x200A, point := 2, place := placeOf x.ret.el, region := BitVec.ofNat 6 x.rg, detail := BitVec.ofNat 32 (pk * 64 + n.toNat) })
      else
        .next ((s.setReg pk (0x20000 + 16 * n.toNat) (v ^^^ 0x40)).finishWait w { x.ret with squash := false }
          [{ tok := if x.ret.squash then nullTok else doneTok x.ret.seq }])
    | _ => .next s

/-! ### Circular buffers (R120 to R123, R269, R270) -/

/-- CBPUT_PLACEMENT (R122, R269). -/
def execCbputPlacement (w : Nat) (s : State) : Host.Outcome State Fault Refusal :=
  match s.wait w with
  | none => .next s
  | some x =>
    match x.kind with
    | .cbput desc _ len tag el => if x.held ∨ s.cbBefore w x desc true then .next s else .next (s.placePut w x desc len tag el)
    | _ => .next s

/-- CBPUT_RETRY (R122): a held put after a change of HEAD. -/
def execCbputRetry (w : Nat) (s : State) : Host.Outcome State Fault Refusal :=
  match s.wait w with
  | none => .next s
  | some x =>
    match x.kind with
    | .cbput desc _ len tag el => if x.held = false ∨ s.cbBefore w x desc true then .next s else .next (s.placePut w x desc len tag el)
    | _ => .next s

/-- CBGET_DELIVERY (R123, R270): the next message in claim order, stepping over a skip marker. -/
def execCbgetDelivery (w : Nat) (s : State) : Host.Outcome State Fault Refusal :=
  match s.wait w with
  | none => .next s
  | some x =>
    match x.kind with
    | .cbget desc _ el =>
      if s.cbBefore w x desc false then .next s
      else if s.cbOk desc el x.rg = false then .next (s.cbFault w x el 0x3006)
      else
        let size := s.cbSize desc
        let b := s.bufs.get {} desc
        let head := ((s.read32 (desc + 8)).toNat + amounts b.gets) % 2 ^ 32
        let base := cbSpace desc + (s.read32 desc).toNat
        if head = (s.read32 (desc + 12)).toNat then .next (s.setWait w { x with held := true })
        else
          let pos := head % size
          let skip := (s.read32 (base + pos)).getLsbD 16
          let at_ := if skip then 0 else pos
          let len := (s.read32 (base + at_)).toNat % 65536
          let need := 16 + 16 * ((len + 15) / 16)
          let gets := b.gets ++ (if skip then [(w, size - pos, true)] else []) ++ [(w, need, false)]
          let s1 := s.advanceHead desc gets
          let e := s1.elem el
          let s2 := s1.setElem el { e with get := e.get.map fun g => if g.wait = w then { g with placed := true, len := len, addr := base + at_ + 16, need := need } else g }
          .next (s2.finishWait w { x.ret with squash := false }
            [{ which := 1, tok := dataTok (BitVec.ofNat 32 len) x.ret.seq }, { which := 2, tok := dataTok (s.read32 (base + at_ + 4)) x.ret.seq }])
    | _ => .next s

/-! ### Counters, records and seals (R283, R284, R287) -/

/-- SECW_COUNT_REACHED (R283). -/
def execSecwCountReached (w : Nat) (s : State) : Host.Outcome State Fault Refusal :=
  match s.wait w with
  | none => .next s
  | some x =>
    match x.kind with
    | .secw c v => if s.mayPerform x.rg w ∧ (s.secs.get 0 c - v).toNat < 2 ^ 31 then .next (s.finishWait w x.ret [{ tok := doneTok x.ret.seq }]) else .next s
    | _ => .next s

/-- The entry of completion ring `r` in the package's table (R340). -/
def State.ringEntry (s : State) (pk r : Nat) : Nat := (s.reg pk 0x15010).toNat % 2 ^ 57 / 65536 * 65536 + 16 * r

/-- CRD_RECORD_ARRIVAL (R284): record b of the ring is performed. -/
def execCrdRecordArrival (w : Nat) (s : State) : Host.Outcome State Fault Refusal :=
  match s.wait w with
  | none => .next s
  | some x =>
    match x.kind with
    | .crd c v => if s.mayPerform x.rg w ∧ (s.reg (c / 4096) 0x15010).getLsbD 0 ∧ (s.read32 (s.backing (s.ringEntry (c / 4096) (c % 4096) + 8) false) - v - 1).toNat < 2 ^ 31 then .next (s.finishWait w x.ret [{ tok := dataTok v x.ret.seq }]) else .next s
    | _ => .next s

/-- PVSTAT.REQ is set (R159). -/
def State.noteReq (s : State) (pk : Nat) : State := (s.raiseSeal pk).setReg pk 0x11018 (s.reg pk 0x11018 ||| 8)

/-- SEALREQ_RECORDED (R287): the request is recorded, or a CLOSE has begun since the firing. -/
def execSealreqRecorded (w : Nat) (s : State) : Host.Outcome State Fault Refusal :=
  match s.wait w with
  | none => .next s
  | some x =>
    match x.kind with
    | .sealreq pk =>
      let done (s : State) : State := s.finishWait w x.ret [{ tok := doneTok x.ret.seq }]
      if s.mayPerform x.rg w = false then .next s
      else if s.pvEn pk = false ∨ x.f < (s.pav pk).begun then .next (done s) else .next (done (s.noteReq pk))
    | _ => .next s

/-! ### The staging buffer and host messages (R164, R165, R286, R370) -/

/-- The staging buffer holds the list; STGCTL.USED counts it. -/
def State.setStaged (s : State) (pk : Nat) (l : List Staged) : State :=
  let s1 := { s with ms := { s.ms with staged := s.ms.staged.put [] pk l } }
  s1.setReg pk 0x11020 ((s.reg pk 0x11020 &&& 0xFFFFFFFF) ||| (BitVec.ofNat 64 l.length <<< 32))
/-- The buffer accepts an entry; at STGCTL.SRQ sixteenths it raises a seal request. -/
def State.stage (s : State) (pk : Nat) (e : Staged) : State :=
  let l := s.staged pk ++ [e]
  let s1 := s.setStaged pk l
  if (s.reg pk 0x11020).toNat % 16 * 131072 ≤ 16 * l.length then s1.raiseSeal pk else s1

/-- A ring of host slots takes the next 64 bytes (R370, R405): base, control, produced and consumed counts; none while
it is full or the link is down. Its MSI-X message is counted (DESIGN CHOICE, log 26). -/
def State.hostRing (s : State) (pk base ctl prod cons : Nat) (bytes : List Byte) : Option State :=
  let c := s.reg pk ctl
  let n := 2 ^ (c.toNat / 2 % 16)
  let p := (s.reg pk prod).toNat
  if s.out.hostDown.get false pk ∨ (p + 2 ^ 32 - (s.reg pk cons).toNat) % 2 ^ 32 = n then none
  else
    let b := (s.reg pk base).toNat % 2 ^ 40 / 4096 * 4096
    let s1 := s.poke (hostPA pk (b + 64 * (p % n))) bytes
    let p1 := (p + 1) % 2 ^ 32
    let s2 := (s1.setReg pk prod (BitVec.ofNat 64 p1)).poke (hostPA pk (b + 64 * n)) (leBytes 8 p1)
    let vec := 64 * pk + c.toNat / 32 % 64
    some (if c.getLsbD 11 then { s2 with out := { s2.out with msix := s2.out.msix.put 0 vec (s2.out.msix.get 0 vec + 1) } } else s2)

/-- A host message is delivered (R370); discarded while HMCTL.EN = 0. -/
def State.deliverMsg (s : State) (pk : Nat) (m : List W32) : Option State :=
  if (s.reg pk 0x30).getLsbD 0 = false then some s
  else s.hostRing pk 0x28 0x30 0x38 0x40 ((m.map wordBytes).flatten)

/-- MSEND_ACCEPTED (R286): the staging buffer accepts the message; with `.sl` the completion follows the seal. Without
intervals the message is posted at once. -/
def execMsendAccepted (w : Nat) (s : State) : Host.Outcome State Fault Refusal :=
  match s.wait w with
  | none => .next s
  | some x =>
    match x.kind with
    | .msend pk m sl tag =>
      let done (s : State) : State := s.finishWait w { x.ret with squash := false } [{ tok := if x.ret.squash then nullTok else doneTok x.ret.seq }]
      match tag with
      | some t => if !(s.pvEn pk) ∨ ivLe t (s.sealed pk) then .next (done s) else .next s
      | none =>
        if s.mayPerform x.rg w = false then .next s
        else if s.pvEn pk then
          if 131072 ≤ (s.staged pk).length ∨ (s.pav pk).window then .next s
          else
            let s1 := s.stage pk { tag := some (s.open_ pk), msg := m }
            if sl then .next (s1.setWait w { x with kind := .msend pk m sl (some (s.open_ pk)) }) else .next (done s1)
        else if (s.staged pk).isEmpty then
          match s.deliverMsg pk m with
          | some s1 => .next (done s1)
          | none => .next s
        else .next s
    | _ => .next s

/-- IRREVOCABLE_WRITE_ACCEPT (R164): the buffer accepts the write, which takes the tag of OPEN, once it has room. -/
def execIrrevocableWriteAccept (ac : Nat) (s : State) : Host.Outcome State Fault Refusal :=
  match s.acc ac with
  | none => .next s
  | some a =>
    let pk := (s.region a.rg).pk
    if a.irrevocable ∧ a.phase = .home ∧ s.pvEn pk ∧ (s.staged pk).length < 131072 ∧ (s.pav pk).window = false ∧ !(s.heldBack a) then
      let t := s.open_ pk
      let s1 := (s.stage pk { tag := some t, pa := a.pa, bytes := a.data, src := a.rs.map fun r => (r, figOf a.rg) }).noteTag a.rg (some t)
      let b := { a with phase := .staged, tag := some t }
      if a.scope.toNat = 7 then .next (s1.setAcc ac b) else .next (s1.completeStore ac b)
    else .next s

/-- The oldest entry may be released (R165). -/
def State.releasable (s : State) (pk : Nat) (e : Staged) : Bool :=
  match e.tag with
  | none => true
  | some t => !(s.pvEn pk) || ivLe t (s.sealed pk)

/-- Both copies of the oldest entry are damaged (R435): an error stands at the entry's own number. -/
def State.stagedBad (s : State) (pk : Nat) : Bool := decide (s.ms.errs.get none (2 ^ 61 + pk) = some .double)
/-- The oldest entry is lost: it is discarded, and 0xE206 raised (R435). -/
def State.stagedLost (s : State) (pk : Nat) (e : Staged) (es : List Staged) : State :=
  ((s.setMark (2 ^ 61 + pk) none).setStaged pk es).detect pk .none (2 ^ 90) { fcode := 0xE206, tier := 2, point := 3, addr := BitVec.ofNat 64 e.pa }

/-- STAGING_RELEASE (R165, R435): the oldest releasable write is performed at its destination, untagged: in the backing that it names
(R142), and at the new frame of a page that has moved (R145, R146). -/
def execStagingRelease (pk : Nat) (s : State) : Host.Outcome State Fault Refusal :=
  match s.staged pk with
  | [] => .next s
  | e :: es =>
    if e.msg ≠ [] ∨ s.releasable pk e = false then .next s
    else if s.stagedBad pk then .next (s.stagedLost pk e es)
    else if paSpace e.pa = 1 then
      if s.out.hostDown.get false (paPkg e.pa) then .next s else .next ((s.poke e.pa e.bytes).setStaged pk es)
    else
      let pa := s.backing e.pa e.shadow
      if s.migState pa = 1 then .next s else .next ((s.writeBytes (s.movedTo pa) e.bytes).setStaged pk es)

/-- HOST_MESSAGE_DELIVERY (R370, R435): the oldest releasable entry is a message and goes to the host ring. -/
def execHostMessageDelivery (pk : Nat) (s : State) : Host.Outcome State Fault Refusal :=
  match s.staged pk with
  | [] => .next s
  | e :: es =>
    if e.msg = [] ∨ s.releasable pk e = false then .next s
    else if s.stagedBad pk then .next (s.stagedLost pk e es)
    else match s.deliverMsg pk e.msg with
      | none => .next s
      | some s1 => .next (s1.setStaged pk es)

/-! ### Deltas (R169, R445) -/

/-- PARITY_DELTA_ARRIVAL (R169, R437): the delta is XORed into the parity line as a tagged access and acknowledged. -/
def execParityDeltaArrival (d : Nat) (s : State) : Host.Outcome State Fault Refusal :=
  match s.ms.deltas.find? fun p => decide (p.1 = d) with
  | none => .next s
  | some (_, x) =>
    let pa := x.dst * 2 ^ 40 + pgOff (s.pgtb x.dst x.grp) + x.off
    let line := lineOf pa
    let newer : Bool := match x.tag with | some m => (s.pav x.dst).window && decide (s.ltag line = ltagOf (m + 1) ∧ m ≠ s.open_ x.dst) | none => false
    if newer ∨ x.barred then .next s
    else if s.damagedIn line 64 then
      if (s.stack (paStack line)).damage.contains line then .next s else .next (s.uncorrectable line)
    else
      let bs := List.zipWith (· ^^^ ·) (s.peeks pa 32) x.data
      let c := match (if s.pvEn x.dst then x.tag else none) with | none => Capture.ok s | some m => s.capture line m true pa (.xor x.data)
      match c with
      | .ok t =>
        let u := t.writeBytes pa bs
        .next { u with ms := { u.ms with deltas := u.ms.deltas.del d } }
      | .hold t => .next t
      | .full t =>
          .next (({ t with ms := { t.ms with deltas := (d, { x with barred := true }) :: t.ms.deltas.del d } }).detect x.dst .none (2 ^ 90)
            { fcode := 0xE203, tier := 2, point := 2, addr := BitVec.ofNat 64 pa })
      | .bad t => .next t

/-- A package was declared lost (R451). -/
def State.isLost (s : State) (pk : Nat) : Bool := (s.members.get {} pk).lost

/-- PARITY_DELTA_TIMEOUT (R445): 2^20 cycles without an acknowledgement; for a member declared lost the record is that of its loss. -/
def execParityDeltaTimeout (d : Nat) (s : State) : Host.Outcome State Fault Refusal :=
  match s.ms.deltas.find? fun p => decide (p.1 = d) with
  | none => .next s
  | some (_, x) =>
    if x.late ∨ s.cyc < x.sent + 2 ^ 20 then .next s
    else
      .next (({ s with ms := { s.ms with deltas := (d, { x with late := true }) :: s.ms.deltas.del d } }).detect x.src .none (2 ^ 90)
        (if s.isLost x.dst then { fcode := 0xE301, tier := 3, point := 6, detail := BitVec.ofNat 32 x.dst }
        else { fcode := 0xE204, tier := 2, point := 2 }))

end Sys2Proof.Machine
end

