-- ==== Sys2Proof/Machine/Base.lean ====
section
/-! DEFINITION. Streams bound to ports (R79), base-slice programs and their multipliers (R118, R312 to R317), and the upkeep of the stacks: refresh (R115), activation counts (R441), scrub (R436) and the sweep of line tags (R154, R173). -/
namespace Sys2Proof.Machine
open Sys2Proof

/-! ### Bound streams (R79) -/

/-- The bound stream may issue: nothing stands before it in its order, and it is not parked or stopped. -/
def State.boundReady (s : State) (rs : Nat) : Bool :=
  let t := s.strm rs
  !t.fault && t.parked.isNone && s.ringUp (rs / 32) && t.q.isEmpty && decide (t.issued ≤ s.cyc)

/-- The number under which the next access of a bound stream is compared, and the hand-over to the access's own (R426). -/
def boundOp (rs : Nat) : Nat := 2 ^ 60 + rs
def State.passTwins (s : State) (op id : Nat) : State :=
  let l := s.fl.twins.get [] op
  let owe (q : List Nat) : List Nat := q.map fun n => if n = op then id else n
  let s1 := s.forget op
  { s1 with
    fl := { s1.fl with twins := s1.fl.twins.put [] id l }
    figs := s1.figs.map fun f => if f.2.owed = [] then f else (f.1, { f.2 with owed := f.2.owed.map fun q => (q.1, owe q.2) }) }

/-- BOUND_LOAD_STREAM_ISSUE (R79): the next load of the pattern, while the port has room for its tokens; behind the last
load's tokens, the end-of-stream token. -/
def execBoundLoadStreamIssue (rs : Nat) (s : State) : Host.Outcome State Fault Refusal :=
  let t := s.strm rs
  match t.port with
  | none => .next s
  | some p =>
    if s.boundReady rs = false ∨ t.isStore then .next s
    else if t.left = 0 then
      if t.eos ∧ !(s.fl.accs.any fun a => decide (a.2.rs = some rs)) ∧ 0 < s.room (.port p) then
        .next ((s.setStrm rs { t with eos := false }).addEmit { due := s.cyc, ord := 0, src := portSrc p, dst := .port p, tok := ctlTok 0x20000000 })
      else .next s
    else if s.room (.port p) < max 1 (t.esz / 4) ∨ s.mayPerform (((s.port p).rg).getD 0) (boundOp rs) = false then .next s
    else
      let id := s.fl.next
      let rg := ((s.port p).rg).getD 0
      let i : Issue := { id := id, kind := .load false, scope := 4, word := 0, data := [], cmp := 0, ret := {}, f := s.cyc, rg := rg, port := some p }
      match s.issueHead rs i none with
      | (_, .gone s1) =>
        let s2 := (s1.setStrm rs { s1.strm rs with left := t.left - 1, issued := s.cyc + 1 }).reserve id (List.replicate (max 1 (t.esz / 4)) (.port p))
        .next (s2.passTwins (boundOp rs) id).bump
      | (va, .miss) => .next (s.setStrm rs { t with parked := some (va.toNat % 2 ^ 57 / 4096), rg := some rg })
      | (_, .wait) => .next s
      | (va, .fault c keep) => .next (s.streamFault rs {} rg va c keep)
      | (va, .reject s1) => .next (s1.streamFault rs {} rg va 0x100A false)

/-- A wavefront at the head of a bound outbound port has reached that sink (R68). -/
def State.portSink (s : State) (p : Nat) (t : Token) : State :=
  match (s.port p).rg with
  | some rg => s.reachSink rg (.port p) t
  | none => s

/-- BOUND_STORE_STREAM_ACCESS (R79, R421): the token at the port's head joins the store at hand, which issues when it is
whole; headers and null completions are discarded, and a wavefront once the stores ahead of it have issued. -/
def execBoundStoreStreamAccess (rs : Nat) (s : State) : Host.Outcome State Fault Refusal :=
  let t := s.strm rs
  match t.port with
  | none => .next s
  | some p =>
    let words := max 1 (t.esz / 4)
    let rg := ((s.port p).rg).getD 0
    if s.boundReady rs = false ∨ t.isStore = false then .next s
    else if words ≤ t.words.length ∧ s.mayPerform rg (boundOp rs) = false ∧ !(t.words.any Prod.snd) then .next s
    else if words ≤ t.words.length then
      let id := s.fl.next
      let i : Issue := { id := id, kind := .store false, scope := 4, word := 0, data := t.words.map Prod.fst, cmp := 0, ret := {}, f := s.cyc, rg := rg }
      if t.words.any Prod.snd then
        let s1 := s.setStrm rs { (t.offset none).2 with words := [] }
        .next ((s1.setRegion rg { s1.region rg with stop := some ((s1.region rg).stop.getD s.cyc), drain := false }).detect (pkOf (rs / 32)) (.figure (figOf rg)) (2 ^ 80)
          { fcode := 0xE104, tier := 2, region := BitVec.ofNat 6 rg })
      else match s.issueHead rs i none with
      | (_, .gone s1) => .next ((s1.setStrm rs { s1.strm rs with words := [], issued := s.cyc + 1 }).passTwins (boundOp rs) id).bump
      | (va, .miss) => .next (s.setStrm rs { t with parked := some (va.toNat % 2 ^ 57 / 4096), rg := some rg })
      | (_, .wait) => .next s
      | (va, .fault c keep) => .next (s.streamFault rs {} rg va c keep)
      | (va, .reject s1) => .next (s1.streamFault rs {} rg va 0x100A false)
    else
      let q := s.port p
      match q.fifo with
      | [] => .next s
      | h :: r =>
        let s1 := s.setPort p { q with fifo := r }
        if h.k = false then .next (s1.setStrm rs { t with words := t.words ++ [(h.payload, h.et)] })
        else if h.et then .next (s.elFault (32 * (rs / 32) * 128) 0xE104 2 0 h.payload)
        else if h.wave then .next (if t.words.isEmpty then s1.portSink p h else s)
        else .next s1

/-! ### Base-slice programs (R118, R313) -/

/-- BASE_NODE_STREAM_DELIVERY (R118, R313): the oldest load of stream `rs` that a program serves takes the next token of
the program's output. -/
def execBaseNodeStreamDelivery (rs : Nat) (s : State) : Host.Outcome State Fault Refusal :=
  let mine := s.fl.accs.filter fun p => decide (p.2.rs = some rs ∧ p.2.base.isSome) && (match p.2.kind with | .load _ => true | _ => false)
  match mine.find? fun p => mine.all fun q => decide (p.1 ≤ q.1) with
  | none => .next s
  | some (id, a) =>
    match a.base with
    | none => .next s
    | some (sk, n) =>
      let p := 16 * (baseRing + 64 * sk + n)
      match (s.port p).fifo with
      | [] => .next s
      | tok :: rest =>
        let ok : Bool := match a.toPort with | some _ => true | none => decide (a.emitted = 0) || (s.fits (s.retDests a.ret true true) [] && s.twinsFit id)
        if (a.phase = .home ∨ a.phase = .performed) ∧ ok ∧ a.minAt ≤ s.cyc then
          let b := { a with phase := .performed, value := a.value ++ leBytes (min 4 a.size) tok.payload.toNat, ret := { a.ret with taint := a.ret.taint || tok.et } }
          .next ((s.setPort p { s.port p with fifo := rest }).emitLoad id b)
        else .next s

/-! ### The multipliers (R314 to R317) -/

/-- Part `n` of the descriptor registers of a program's stack: row offset, blocks in a row, rows (Table 12.5). -/
def State.bmd (s : State) (sk n : Nat) : Nat × Nat × Nat :=
  let b := 0x50000 + 0x800 * (sk % 16) + 32 * n
  let a := (s.reg (sk / 16) (b + 0x10)).toNat
  (a % 2 ^ 36 / 128 * 128, a / 2 ^ 36 % 2048 + 1, (s.reg (sk / 16) (b + 0x18)).toNat)

/-- The multipliers of program `n` of stack `sk`, by 64·sk + n. -/
def State.mult (s : State) (m : Nat) : Mult := s.ms.mults.get {} m
def State.setMult (s : State) (m : Nat) (x : Mult) : State := { s with ms := { s.ms with mults := s.ms.mults.put {} m x } }
/-- The stripe of a program's base nodes. -/
def multStripe (m : Nat) : Nat := 32 * (baseRing + m)
/-- Matrix record 0 of a program's image. -/
def State.multRec (s : State) (m : Nat) : MxPlane := ((s.stripe (multStripe m)).planes.get {} 0).mxs.get {} 0
/-- The program is valid and drives the multipliers. -/
def State.multRuns (s : State) (m : Nat) : Bool :=
  let v := s.reg (m / 1024) (0x50000 + 0x800 * (m / 64 % 16) + 32 * (m % 64))
  v.getLsbD 0 && v.getLsbD 1 && ((s.stripe (multStripe m)).planes.get {} 0).valid

/-- The partial dot of one block (R315). -/
def blockDot (fmt : Nat) (act wgt : List W32) : W32 :=
  let w := mxWidth fmt
  let g := if w = 16 then 8 else 16
  (List.range 8).foldl (fun acc k =>
    let is := (List.range g).map fun i => g * k + i
    if fmt = 4 then kstepInt acc (is.map (packedAt w act)) (is.map (packedAt w wgt))
    else kstepFP acc (is.map fun i => (fdecode (mxFmt fmt) (packedAt w act i)).mul (fdecode (mxFmt fmt) (packedAt w wgt i)))) 0

/-- A 128-byte block of a row, as words. -/
def blockWords (v : List Byte) : List W32 := (List.range 32).map fun i => BitVec.ofNat 32 (leNat ((v.drop (4 * i)).take 4))

/-- One token of the multipliers leaves for the word's DTGT; its SEQ is a free value (DESIGN CHOICE, log 12). A tainted one that meets a
kind-00 target is dropped and counted (R420). -/
def multEmit (s : State) (m : Nat) (w : MWord) (wpos : Nat) (v : W32) (taint : Bool) : State :=
  let el := 128 * multStripe m + 64
  match s.destOf el w.dtgt with
  | none => if taint then s.count (m / 1024) 1 1 else s
  | some d =>
    { (s.addEmit { due := s.cyc, ord := 1, src := el, dst := d,
                   tok := { dataTok v (Config.freeSeq s.free) with rid := mxRid (s.multRec m) wpos, et := taint } }) with free := s.free + 1 }

/-- The row is complete: the next row, the next vector, or the sequence again. -/
def Mult.nextRow (x : Mult) (nrow cnt : Nat) : Mult :=
  if x.row + 1 < nrow then { x with row := x.row + 1, blk := 0, parts := [], wpos := 0 }
  else { vec := (x.vec + 1) % max 1 cnt }

/-- `bgmv` (R315): takes one activation word, or makes one partial dot, which it emits or, before a `bred`, keeps. Its row reads are
loads of the current backing (R142) that wait for a copy of their frame and follow it (R145), and are checked for poison at the home
(R439). -/
def execBgmv (w : MWord) (s : State) : Host.Outcome State Fault Refusal :=
  let m := s.act.el
  let x := s.mult m
  let el := 128 * multStripe m + 64
  let (off, kb, nrow) := s.bmd (m / 64) (w.opx.toNat % 64)
  let red := decide ((s.multRec m).words.get 0 1 ≠ 0)
  if s.multRuns m = false then .next s
  else if x.buf.length < 32 * kb then
    match (s.mx el).opq with
    | [] => .next s
    | t :: ts =>
      let b := x.buf ++ [(t.payload, t.et)]
      .next ((s.setMx el { s.mx el with opq := ts }).setMult m { x with buf := b, full := if b.length = 32 * kb then s.cyc else x.full })
  else
    let a := off + 128 * (x.row * kb + x.blk)
    let pa := stackPA (m / 64) a
    if 2 ^ 36 < a + 128 ∨ s.inArea pa 128 then
      let (o, rg) := s.baseOwner m
      .next ((s.setMult m {}).detect (m / 1024) o (2 ^ 80)
        { fcode := 0x6003, point := 3, region := BitVec.ofNat 6 rg })
    else if s.cyc < x.full + 96 ∨ s.migState (s.backing pa false) = 1 then .next s
    else if s.poisoned (s.movedTo (s.backing pa false)) then
      let (o, rg) := s.baseOwner m
      .next ((s.setMult m {}).detect (m / 1024) o (2 ^ 80)
        { fcode := 0xC005, point := 2, region := BitVec.ofNat 6 rg, addr := BitVec.ofNat 64 pa })
    else
      let d := s.destOf el w.dtgt
      if red = false ∧ mxRoom s el d = false then .next s
      else
        let (s1, v, bad) := s.readBytes (s.movedTo (s.backing pa false)) 128
        let act := (x.buf.drop (32 * x.blk)).take 32
        let dot := blockDot w.fmt.toNat (act.map Prod.fst) (blockWords v)
        let taint := bad || act.any Prod.snd
        let x1 := { x with blk := x.blk + 1 }
        if red then
          .next (s1.setMult m { x1 with parts := x.parts ++ [(dot, taint)], wpos := if x1.blk = kb then 1 else 0 })
        else .next ((multEmit s1 m w 0 dot taint).setMult m (if x1.blk = kb then x1.nextRow nrow w.cnt.toNat else x1))

/-- The tree of R98 over a list: neighbours combine, an odd last one passes up. -/
def pairUp (c : W32 → W32 → W32) : List W32 → List W32
  | a :: b :: r => c a b :: pairUp c r
  | l => l
def treeOf (c : W32 → W32 → W32) : Nat → List W32 → W32
  | 0, l => l.headD 0
  | n + 1, l => treeOf c n (pairUp c l)

/-- `bred` (R316): one root of the row's partials in each step. -/
def execBred (w : MWord) (s : State) : Host.Outcome State Fault Refusal :=
  let m := s.act.el
  let x := s.mult m
  let el := 128 * multStripe m + 64
  match mwordOf ((s.multRec m).words.get 0 0) with
  | none => .next s
  | some (_, g) =>
    let (_, _, nrow) := s.bmd (m / 64) (g.opx.toNat % 64)
    if s.multRuns m = false ∨ x.wpos ≠ 1 ∨ mxRoom s el (s.destOf el w.dtgt) = false then .next s
    else
      let sz := 2 ^ (w.opx.toNat % 32)
      let seg := x.parts.take sz
      let c : W32 → W32 → W32 := if w.fmt = 4 then fun a b => a + b else combine 0 0
      let s1 := multEmit s m w 1 (treeOf c (w.opx.toNat % 32) (seg.map Prod.fst)) (seg.any Prod.snd)
      let rest := x.parts.drop sz
      .next (s1.setMult m (if rest.isEmpty then x.nextRow nrow g.cnt.toNat else { x with parts := rest }))

/-! ### The stacks' upkeep -/

/-- HBM_REFRESH (R115): in compatibility mode with CBW = 1 a refresh is pulled forward up to the allowance; a bank that has
taken its allowance is refreshed in rotation, which repays one, until all of it is repaid. Only timing follows from it. -/
def execHbmRefresh (sk bank : Nat) (s : State) : Host.Outcome State Fault Refusal :=
  let v := s.reg (sk / 16) (0x40000 + 8 * (sk % 16))
  let x := s.stack sk
  let n := x.pulled.get 0 bank
  let most := v.toNat / 2 % 16
  let k := if v.getLsbD 0 ∧ v.getLsbD 5 ∧ n < most ∧ x.repay.get false bank = false then n + 1 else n - 1
  let owes := decide (0 < k) && (decide (most ≤ k) || x.repay.get false bank)
  .next (s.setStack sk { x with pulled := x.pulled.put 0 bank k, repay := x.repay.put false bank owes })

/-- The scrub of one line (R436, R437). -/
def State.scrubLine (s : State) (line : Nat) : State :=
  let s1 := s.correct line 64
  if s1.damagedIn line 64 then s1.uncorrectable line else s1

/-- ROW_ACTIVATION_REFRESH (R441): one more activation of a row. At THR its neighbours are refreshed and the count
starts again; a saturated or corrupt count has the neighbouring rows scrubbed as well and is counted in SATCNT; a correctable error of the
count is corrected and counted (R436). -/
def execRowActivationRefresh (sk bank row : Nat) (s : State) : Host.Outcome State Fault Refusal :=
  let k := bank % 1024 * 65536 + row % 65536
  let mark := 2 ^ 62 + sk * 2 ^ 26 + k
  let s := if s.ms.errs.get none mark = some .single then (s.setMark mark none).count (sk / 16) 2 1 else s
  let x := s.stack sk
  let off := 0x40080 + 8 * (sk % 16)
  let v := s.reg (sk / 16) off
  let n := min 4095 ((x.rows.get 0 k).toNat + 1)
  let corrupt := decide (s.ms.errs.get none mark = some .double)
  if (n = 4095 ∧ v.toNat % 4096 ≠ 4095) ∨ corrupt then
    let s1 := s.setStack sk { x with rows := x.rows.put 0 k 0 }
    let s2 := (List.range 5).foldl (fun t i => if 2 ≤ row + i ∧ row + i < 65538 then (rowLines sk bank (row + i - 2)).foldl State.scrubLine t else t) s1
    let sat := min 0xFFFFFFFF (v.toNat / 2 ^ 32 + 1)
    .next (((s2.setMark mark none).markRow (sk * 2 ^ 26 + k)).setReg (sk / 16) off (BitVec.ofNat 64 (sat * 2 ^ 32 + v.toNat % 2 ^ 32)))
  else if v.toNat % 4096 ≤ n then .next (s.setStack sk { x with rows := x.rows.put 0 k 0 })
  else .next (s.setStack sk { x with rows := x.rows.put 0 k (BitVec.ofNat 12 n) })

/-- PATROL_SCRUB (R436). -/
def execPatrolScrub (sk line : Nat) (s : State) : Host.Outcome State Fault Refusal :=
  .next (s.scrubLine (stackPA sk (64 * (line % 2 ^ 30))))

/-- LTAG_SWEEP (R154, R173): line tags 2^13 or more intervals older than OPEN become invalid; all of them after a
disable request. -/
def execLtagSweep (sk : Nat) (s : State) : Host.Outcome State Fault Refusal :=
  let x := s.stack sk
  if x.sweep then .next (s.setStack sk { x with sweep := false, ltag := [] })
  else .next (s.sweepTags sk (s.open_ (sk / 16)) (2 ^ 13))

end Sys2Proof.Machine
end

