-- ==== Sys2Proof/Machine/Transfer.lean ====
section
/-! DEFINITION. The Transfer Engine (R332 to R341, R397): packets at a port, the start of a request with the checks made before any access, the ten kinds, the completion record, the sector counters. A step of a kind performs every remaining part of its request; it stops early only where a part must wait. -/
namespace Sys2Proof.Machine
open Sys2Proof

def State.req (s : State) (rq : Nat) : Option Req := (s.eng.reqs.find? fun p => decide (p.1 = rq)).map Prod.snd
def State.setReq (s : State) (rq : Nat) (r : Req) : State := { s with eng := { s.eng with reqs := (rq, r) :: s.eng.reqs.del rq } }
/-- A task's record. -/
def State.task (s : State) (tk : Nat) : Option Task := (s.work.tasks.find? fun p => decide (p.1 = tk)).map Prod.snd
def State.setTask (s : State) (tk : Nat) (x : Task) : State := { s with work := { s.work with tasks := (tk, x) :: s.work.tasks.del tk } }
/-- A task completes faulted once it is over (R396, R397). -/
def State.taskFault (s : State) (tk : Nat) : State :=
  match s.task tk with
  | some x => s.setTask tk { x with faulted := true }
  | none => s
def State.delReq (s : State) (rq : Nat) : State := { s with eng := { s.eng with reqs := s.eng.reqs.del rq } }
/-- The package of a port. -/
def tpPk (tp : Nat) : Nat := tp / 64

/-- XREQ_PACKET_ACCEPTED (R279): the port takes the packets in the order of their firing, those of one cycle by element, with 16
queued at most. -/
def execXreqPacketAccepted (w : Nat) (s : State) : Host.Outcome State Fault Refusal :=
  match s.wait w with
  | none => .next s
  | some x =>
    match x.kind with
    | .packet tp el ws =>
      let q := s.eng.queues.get [] tp
      let before := s.fl.waits.any fun p => decide (p.2.f < x.f ∨ (p.2.f = x.f ∧ ordBefore (s.elOrd p.2.ret.el) (s.elOrd el))) && (match p.2.kind with | .packet t _ _ => decide (t = tp) | _ => false)
      if before ∨ s.cyc ≤ x.f ∨ 16 ≤ q.length ∨ s.mayPerform x.rg w = false then .next s
      else
        let p : Packet := { bits := BitVec.ofNat 256 (leNat ((ws.map wordBytes).flatten)), asid := (s.fig (figOf x.rg)).asid, fg := some (figOf x.rg), el := el, rg := x.rg }
        let s1 := { s with eng := { s.eng with queues := s.eng.queues.put [] tp (q ++ [p]) } }
        .next (s1.finishWait w { x.ret with squash := false } [{ tok := if x.ret.squash then nullTok else doneTok x.ret.seq }])
    | _ => .next s

/-! ### Memory as a request reaches it -/

/-- What a part of a request comes to; `bar`: its capture failed, it is never performed (R444). A fault names the address concerned
(R404). -/
inductive Part where
  | ok (s : State)
  | hold (s : State)
  | bar (s : State)
  | fault (s : State) (code : BitVec 16) (addr : W64)
  deriving Repr, Inhabited

/-- The translation of a request's address (R332): a request never parks. -/
def State.xlate (s : State) (pk : Nat) (asid : BitVec 12) (va : W64) (write : Bool) : Except (BitVec 16) (Nat × Xlat) :=
  if va.toNat / 2 ^ 56 ≠ 0 ∧ va.toNat / 2 ^ 56 ≠ 255 then .error 0x8002
  else if (s.walkBad pk asid va.toNat).isSome then .error 0xE201
  else match s.walkPage pk asid va.toNat with
    | .error _ => .error 0x8002
    | .ok x =>
      let pa := x.phys va.toNat
      if (if write then x.wr else x.rd) = false then .error 0x8002
      else if (s.members.get {} (paPkg pa)).noSpare then .error 0xC006
      else if s.badPA pk pa then .error 0x8002
      else .ok (pa, x)

/-- In the close window of its home a line tagged n + 1 is read by nothing that goes on under tag n (R152, R153). -/
def State.newerIn (s : State) (pa n : Nat) : Bool :=
  decide (paSpace pa = 0) && (s.pav (paPkg pa)).window && (linesOf pa n).any fun l => decide (s.ltag l = ltagOf (s.open_ (paPkg pa)))

/-- Bytes at a physical address for a request: `none` where the access must wait. -/
def State.xpeek (s : State) (pa n : Nat) : Except (BitVec 16) (Option (State × List Byte)) :=
  if s.inArea pa n then .error 0x8008
  else if s.poisoned pa then .error 0xC005
  else if (s.members.get {} (paPkg pa)).step ≠ 0 then .ok none
  else if paSpace pa = 1 ∧ s.out.hostDown.get false (paPkg pa) then .ok none
  else
    let a := s.backing pa false
    if s.migState a ≠ 0 ∨ s.newerIn a n then .ok none
    else
      let (s1, v, bad) := s.readBytes a n
      if bad then .error (if paSpace a = 0 then 0xE201 else 0xE202) else .ok (some (s1, v))

/-- What a damaged read leaves where the request ends: the record of 0xE201 is the request's (R397, R437). -/
def State.xdamage (s : State) (pa n : Nat) (code : BitVec 16) : State :=
  let t := (s.readBytes (s.backing pa false) n).1
  if code = 0xE201 ∨ code = 0xE202 then { t with det := s.det } else s

/-- The tag of an engine write (R151). -/
def State.engineTag (s : State) (pk pa : Nat) : Option W32 := s.tagFor pk pa (.store false) false
/-- The tag of an engine write that may keep one from its dispatch (R161), until that interval has closed. -/
def State.tagOr (s : State) (pk pa : Nat) (kept : Option W32) : Option W32 :=
  match s.engineTag pk pa, kept with
  | some o, some t => some (if t = o ∨ (s.pav pk).window then t else o)
  | o, _ => o

/-- The group of a protected page. -/
def Xlat.grp (x : Xlat) : Option Nat := if x.prot then some x.pgrp.toNat else none
/-- The fault of a protected page at an address of it (R165, R167, R170). -/
def State.pageFault (s : State) (pa : Nat) (x : Xlat) : Option (BitVec 16) := if x.prot then s.protFault pa x.log2 x.pgrp.toNat x.irv else none

/-- A write is irrevocable: to host memory, or to an irrevocable page (R163). -/
def irrevocable (pa : Nat) (x : Option Xlat) : Bool := decide (paSpace pa = 1) || (match x with | some x => x.irv | none => false)
/-- The port that the requests of transfer request or walk `who` hash to is in service (R371). -/
def State.carries (s : State) (pk q who : Nat) : Bool := decide (q = pk) || (s.linkPort pk q (2 ^ 51 + who)).isSome
/-- A write for package `pk` may go to its home now: no rollback runs there, it can be reached, and no migration of its frame (R145,
R371, R447, R466). -/
def State.wayOpen (s : State) (pk who pa : Nat) (shadow : Bool) : Bool :=
  decide ((s.members.get {} (paPkg pa)).step = 0) && s.carries pk (paPkg pa) who
  && (decide (paSpace pa ≠ 0) || decide (s.migState (s.backing pa shadow) = 0))

/-- Bytes written for a request under tag `tag` (R139, R142, R163): staged where irrevocable, but an atomic. A write that names no page
updates the group whose window holds it (R169). -/
def State.xpoke (s : State) (pk pa : Nat) (bs : List Byte) (x : Option Xlat) (shadow atomic : Bool) (tag : Option W32) (rq fg : Nat) : Part :=
  let irv := irrevocable pa x
  let stages := irv && !atomic && s.pvEn pk
  if s.inArea pa bs.length then .fault s 0x8008 (BitVec.ofNat 64 pa)
  else if s.poisoned pa then .fault s 0xC005 (BitVec.ofNat 64 pa)
  else if s.wayOpen pk rq pa shadow = false then .hold s
  else match x.bind (s.pageFault pa) with
    | some c => .fault s c (BitVec.ofNat 64 pa)
    | none =>
      if stages then
        if 131072 ≤ (s.staged pk).length then .hold s
        else .ok (s.stage pk { tag := some (s.open_ pk), pa := pa, bytes := bs, shadow := shadow, op := some rq })
      else if paSpace pa = 1 ∧ s.out.hostDown.get false (paPkg pa) then .hold s
      else if paSpace pa ≠ 0 then .ok (s.writeBytes pa bs)
      else
        let a := s.backing pa shadow
        match s.homeWrite a (.set bs) tag irv (match x with | some x => x.grp | none => s.groupAt a) rq fg with
        | .ok t => .ok t
        | .hold t => .hold t
        | .full t => .bar (t.detect (paPkg pa) .none (2 ^ 90) { fcode := 0xE203, tier := 2, point := 2, addr := BitVec.ofNat 64 pa })
        | .bad t => .fault { t with det := s.det } 0xE201 (BitVec.ofNat 64 pa)

/-- One end of a move: a virtual address, a physical SRAM address, or constant bytes. -/
inductive End where
  | va (a : W64)
  | pa (a : Nat)
  | const (v : List Byte)
  deriving DecidableEq, Repr, Inhabited

/-- A range cut at a page boundary: the bytes up to it, and the rest. -/
def cutPage (a n : Nat) : List (Nat × Nat) :=
  let k := min n (4096 - a % 4096)
  if k = n then [(0, n)] else [(0, k), (k, n - k)]

/-- The bytes of a source. -/
def State.readEnd (s : State) (pk : Nat) (asid : BitVec 12) (who : Nat) (e : End) (n : Nat) : Except (State × BitVec 16 × W64) (Option (State × List Byte)) :=
  match e with
  | .const v => .ok (some (s, v))
  | .pa a =>
    match s.xpeek a n with
    | .error c => .error (s.xdamage a n c, c, BitVec.ofNat 64 a)
    | .ok r => .ok r
  | .va va =>
    (cutPage va.toNat n).foldl (fun acc p =>
      match acc with
      | .ok (some (s, v)) =>
        let at_ := va + BitVec.ofNat 64 p.1
        match s.xlate pk asid at_ false with
        | .error c => .error (s, c, at_)
        | .ok (a, x) =>
          if s.carries pk (paPkg a) who = false then .ok none
          else match s.pageFault a x, s.xpeek a p.2 with
          | some c, _ => .error (s, c, at_)
          | none, .error c => .error (s.xdamage a p.2 c, c, at_)
          | none, .ok none => .ok none
          | none, .ok (some (t, w)) => .ok (some (t, v ++ w))
      | e => e) (.ok (some (s, [])))

/-- The physical address of an end, for a range within one page. -/
def State.endPA (s : State) (pk : Nat) (asid : BitVec 12) (e : End) (write : Bool) : Except (BitVec 16) (Nat × Option Xlat) :=
  match e with
  | .va va => (s.xlate pk asid va write).map fun p => (p.1, some p.2)
  | .pa a => .ok (a, none)
  | .const _ => .ok (0, none)

def End.plus (e : End) (n : Nat) : End :=
  match e with
  | .va a => .va (a + BitVec.ofNat 64 n)
  | .pa a => .pa (a + n)
  | .const v => .const (v.drop n)
def End.addr (e : End) : Nat :=
  match e with
  | .va a => a.toNat
  | .pa a => a
  | .const _ => 0

/-- The sectors of a written range join the list (R339). -/
def addSectors (pa n : Nat) (l : List Nat) : List Nat :=
  (List.range ((pa % 32 + n + 31) / 32)).foldl (fun l i => if l.contains (pa / 32 + i) then l else l ++ [pa / 32 + i]) l

/-- The request's own bytes at a place: where it has written one, what the place held before (R332). Places are told apart by where
they lead, past a shadow pair (R142). -/
def State.oldBytes (s : State) (old : FMap (Option Byte)) (pa : Nat) (v : List Byte) : List Byte :=
  (List.range v.length).map fun i => (old.get none (s.backing (pa + i) false)).getD (v.getD i 0)
/-- The bytes of a source as they stood before the request's own writes. -/
def State.olds (s : State) (pk : Nat) (asid : BitVec 12) (old : FMap (Option Byte)) (e : End) (v : List Byte) : List Byte :=
  match e with
  | .const _ => v
  | _ => ((cutPage e.addr v.length).map fun p =>
      let w := (v.drop p.1).take p.2
      match s.endPA pk asid (e.plus p.1) false with
      | .ok (pa, _) => s.oldBytes old pa w
      | .error _ => w).flatten

/-- The next write at `pa` begins an aligned 8-byte part of the destination (R139). -/
def Req.fresh (r : Req) (pa : Nat) : Bool := decide (r.span.2 % 8 = 0 ∨ pa / 8 ≠ (r.span.2 - 1) / 8)
/-- The move at hand belongs to the part that was held for undo capacity. -/
def Req.atHeld (r : Req) (pa : Nat) : Bool := decide (r.held.map (fun h => h.pa / 8) = some (pa / 8))
/-- In a close window only a part that was dispatched before it goes on (R153, R161). -/
def State.elsewhere (s : State) (r : Req) (pa : Nat) : Bool := (s.pav (tpPk r.tp)).window && !(r.atHeld pa)

/-- A write of a request to its destination, counted. A part that is held for undo capacity keeps the tag of its dispatch and the value
read for it (R152, R161). -/
def State.writeEnd (s : State) (rq : Nat) (r : Req) (e : End) (v : List Byte) (shadow : Bool) (atomic : Bool := false) : Part × Req :=
  let pk := tpPk r.tp
  let mine := r.atHeld r.at_
  let kept := if mine then r.held.map HeldPart.tag else none
  (cutPage e.addr v.length).foldl (fun acc p =>
    match acc with
    | (.ok s, r) =>
      match s.endPA pk r.pkt.asid (e.plus p.1) true with
      | .error c => (.fault s c (BitVec.ofNat 64 (e.plus p.1).addr), r)
      | .ok (pa, x) =>
        let bs := (v.drop p.1).take p.2
        let tag := s.tagOr pk pa kept
        match s.xpoke pk pa bs x shadow atomic tag rq (r.pkt.fg.getD 0) with
        | .ok t =>
          let old := (List.range bs.length).foldl (fun m i =>
            let a := s.backing (pa + i) shadow
            if (m.get none a).isSome then m else m.put none a (some (s.peek a))) r.old
          (.ok t, { r with bytes := r.bytes + bs.length, sects := addSectors pa bs.length r.sects, old := old,
                           held := if mine then r.held.map fun h => { h with val := none } else none,
                           span := (pa, pa + bs.length), tag := if paSpace pa = 0 then tag else r.tag })
        | .hold t =>
          let at_ := paSpace pa = 0 ∧ s.wayOpen pk rq pa shadow ∧ !(irrevocable pa x)
          (.hold t, { r with held := if at_ then tag.map fun t => { pa := r.at_, tag := t, val := some v } else r.held })
        | .fault t c _ => (.fault t c (BitVec.ofNat 64 (e.plus p.1).addr), r)
        | c => (c, r)
    | c => c) (.ok s, r)

/-- A part of a request: bytes from a source to a destination. -/
structure Move where
  src : End
  dst : End
  n : Nat
  shadow : Bool := false
  /-- a later row of a scatter may leave bytes that an earlier one wrote -/
  scatter : Bool := false
  deriving Repr, Inhabited

/-- One part (R332), its sources read `before` or after the request's own writes where it begins an aligned 8-byte part of the
destination; a part that an earlier row of a scatter wrote may `stay`, its row's bytes counted all the same (R339). -/
def State.moveWith (before stay : Bool) (s : State) (rq : Nat) (r : Req) (m : Move) : Part × Req :=
  let pk := tpPk r.tp
  match s.endPA pk r.pkt.asid m.dst true with
  | .error c => (.fault s c (BitVec.ofNat 64 m.dst.addr), r)
  | .ok (pa, _) =>
    let r := { r with at_ := pa }
    if s.elsewhere r pa then (.hold s, r)
    else match r.held.bind HeldPart.val with
    | some v => s.writeEnd rq r m.dst v m.shadow
    | none =>
      match s.readEnd pk r.pkt.asid rq m.src m.n with
      | .error (t, c, a) => (.fault t c a, r)
      | .ok none => (.hold s, r)
      | .ok (some (t, v)) =>
        let pick := if r.fresh pa then before else r.pick
        let v := if pick then s.olds pk r.pkt.asid r.old m.src v else v
        let again := m.scatter && (r.old.get none (s.backing pa false)).isSome
        let t := if r.old.isEmpty then t else { t with free := s.free + 1 }
        let r := { r with pick := pick }
        if again && stay then (.ok t, { r with bytes := r.bytes + m.n }) else t.writeEnd rq r m.dst v m.shadow
/-- One part: which reads come first and which row's part stays are free values (DESIGN CHOICE, logs 4, 5; DEDUCED, log 22). -/
def State.doMove (s : State) : Nat → Req → Move → Part × Req := s.moveWith (Config.freeBefore s.free) (Config.freeScatter s.free)

/-- The moves from part `k` on: each done, until one must wait or ends the request. A wait falls between aligned 8-byte parts of
the destination: `back` is where the part that is only half written began (R139). -/
def runMoves (rq : Nat) (f : Nat → State → Req → Part × Req) : Nat → Nat → State × Req → State → Req → Part × Req
  | 0, _, _, s, r => (.ok s, r)
  | fuel + 1, k, back, s, r =>
    match f k s r with
    | (.ok t, r1) =>
      let r2 := { r1 with done := k + 1 }
      let b := if r2.span.2 % 8 = 0 then (t, r2) else if r.fresh r2.span.1 then (s, r) else back
      runMoves rq f fuel (k + 1) b t r2
    | (.hold t, r1) =>
      if r.fresh r1.at_ then (.hold { s with iv := t.iv, det := t.det }, r1)
      else (.hold { back.1 with iv := t.iv, det := t.det }, back.2)
    | c => c

/-- A condition ends the request (R397): the record waits for the handler; nothing further is performed. DETAIL is the packet's TAG for
the codes of class 0x8 (R404). -/
def State.endReq (s : State) (rq : Nat) (r : Req) (code : BitVec 16) (addr : W64) : State :=
  let s1 := (s.walkDamage (tpPk r.tp) r.pkt.asid addr.toNat code).setReq rq { r with isOver := true, fcode := code, overAt := s.cyc }
  let tag : W32 := match r.pkt.fg, r.pkt.task with
    | some f, _ => (s.fig f).tag
    | none, some tk => ((s.task tk).bind fun t => (s.work.walks.find? fun w => decide (w.1 = t.walk)).map fun w => w.2.tag).getD 0
    | none, none => 0
  s1.detect (tpPk r.tp) (.request rq) (2 ^ 85)
    { fcode := code, tier := if code.toNat / 4096 = 14 then 2 else 4, point := if code = 0xE201 then 2 else 3,
      place := if r.pkt.fg.isSome then placeOf r.pkt.el else 0, region := BitVec.ofNat 6 r.pkt.rg, asid := r.pkt.asid,
      detail := if code.toNat / 4096 = 8 then field r.pkt.bits 0 24 |>.zeroExtend 32 else 0, addr := addr, tag := tag }

/-- A range of bytes is moved in the aligned 8-byte parts of its destination (R139): how many there are, the offset of part `k`,
and its length. -/
def partsOf (dst len : Nat) : Nat := if len = 0 then 0 else (dst % 8 + len + 7) / 8
def partOff (dst k : Nat) : Nat := if k = 0 then 0 else 8 * k - dst % 8
def partLen (dst len k : Nat) : Nat := min (partOff dst (k + 1)) len - partOff dst k

/-- The virtual addresses at which a request stands, sources first with how many of them are sources, and the package of a
remote flag. -/
def reqPlaces (r : Req) : List W64 × List W64 × Option Nat :=
  match decodeRequest r.pkt.bits with
  | .ok (.transferCopy _ a) | .ok (.shadowCopy _ a) | .ok (.remoteCopy _ a _) =>
    ([a.src + BitVec.ofNat 64 (partOff a.dst.toNat r.done)], [a.dst + BitVec.ofNat 64 (partOff a.dst.toNat r.done)], none)
  | .ok (.fill _ dst _ _) => ([], [dst + BitVec.ofNat 64 (partOff dst.toNat r.done)], none)
  | .ok (.reduceCopy _ src dst _ _) => ([src + BitVec.ofNat 64 (4 * r.done)], [dst + BitVec.ofNat 64 (4 * r.done)], none)
  | .ok (.setRemoteFlag _ _ q _ _) => ([], [], some q.toNat)
  | .ok (.gather _ a) => ([a.idx.signExtend 64, a.tab.signExtend 64], [], none)
  | .ok (.scatter _ a) => ([a.idx.signExtend 64], [a.tab.signExtend 64], none)
  | .ok (.tensorLoad ..) => ([BitVec.ofNat 64 (leNat (r.lr.take 8))], [], none)
  | .ok (.tensorStore ..) => ([], [BitVec.ofNat 64 (leNat (r.lr.take 8))], none)
  | _ => ([], [], none)
/-- The physical addresses of a list of places. -/
def State.placesPA (s : State) (r : Req) (l : List W64) : List Nat :=
  l.filterMap fun v => match s.walkPage (tpPk r.tp) r.pkt.asid v.toNat with | .ok x => some (x.phys v.toNat) | .error _ => none
/-- The virtual address at which a request stands in package `q`; 0 for none. -/
def State.reqVA (s : State) (r : Req) (q : Nat) : W64 :=
  let p := reqPlaces r
  ((p.1 ++ p.2.1).find? fun v => decide ((s.placesPA r [v]).map paPkg = [q])).getD 0
/-- The request waits for a destination that no port reaches (R466): that package. -/
def State.reqCut (s : State) (r : Req) : Option Nat :=
  let p := reqPlaces r
  (((s.placesPA r (p.1 ++ p.2.1)).map paPkg) ++ p.2.2.toList).find? fun q => !(s.linked (tpPk r.tp) q)

/-- Every write of request `rq` that was staged has been released: it is performed at dom (R140, R165). -/
def State.landed (s : State) (pk rq : Nat) : Bool := !((s.staged pk).any fun e => decide (e.op = some rq))

/-- The step of a kind: the parts that remain, then `fin`. A part that has outlived the close window it was held in is dispatched
anew (DESIGN CHOICE, log 90). -/
def State.runReq (s : State) (total : Nat) (f : Nat → State → Req → Part × Req) (fin : State → Req → Part × Req) : State :=
  let rq := s.act.el
  match s.req rq with
  | none => s
  | some r0 =>
    let pk := tpPk r0.tp
    let window := (s.pav pk).window
    let r := { r0 with held := r0.held.filter fun h => window || decide (h.tag = s.open_ pk) }
    let waits (u : State) (q : Req) : State := u.setReq rq { q with since := if (u.reqCut q).isSome then some (q.since.getD s.cyc) else none }
    if r.isOver ∨ r.barred ∨ (window ∧ r.held.isNone) then s
    else
      match runMoves rq f (total - r.done) r.done (s, r) s r with
      | (.ok t, r1) =>
        match fin t r1 with
        | (.ok u, r2) => u.setReq rq { r2 with isOver := true, old := [], held := none, overAt := u.cyc }
        | (.hold u, r2) => waits u r2
        | (.bar u, r2) => u.setReq rq { r2 with barred := true }
        | (.fault u c a, r2) => u.endReq rq r2 c a
      | (.hold t, r1) => waits t r1
      | (.bar t, r1) => t.setReq rq { r1 with barred := true }
      | (.fault t c a, r1) => t.endReq rq r1 c a

/-- Part `k` of a copy. -/
def copyMove (src dst : W64) (len : Nat) (shadow : Bool) (k : Nat) : Move :=
  let i := partOff dst.toNat k
  { src := .va (src + BitVec.ofNat 64 i), dst := .va (dst + BitVec.ofNat 64 i), n := partLen dst.toNat len k, shadow := shadow }
/-- Nothing further. -/
def noMore (s : State) (r : Req) : Part × Req := (.ok s, r)

/-! ### The kinds (R334 to R338) -/

/-- `TRANSFER_COPY` (R334). -/
def execTransferCopy (_h : XHead) (a : CopyArgs) (s : State) : Host.Outcome State Fault Refusal :=
  .next (s.runReq (partsOf a.dst.toNat a.len.toNat) (fun k t r => t.doMove s.act.el r (copyMove a.src a.dst a.len.toNat false k)) noMore)

/-- `SHADOW_COPY` (R334): every write is a shadow write (R142). -/
def execShadowCopy (_h : XHead) (a : CopyArgs) (s : State) : Host.Outcome State Fault Refusal :=
  .next (s.runReq (partsOf a.dst.toNat a.len.toNat) (fun k t r => t.doMove s.act.el r (copyMove a.src a.dst a.len.toNat true k)) noMore)

/-- An atomic of the Transfer Engine on a flag of package `q` (R338): 0 add, 2 or, 8 exchange; after every data write of the request is
performed at dom (R140). -/
def State.flagOp (s : State) (rq : Nat) (r : Req) (q flag : Nat) (aop : Nat) (v : W32) : Part × Req :=
  let pk := tpPk r.tp
  let pa := (s.reg q 0x15008).toNat % 2 ^ 57 / 2 ^ 18 * 2 ^ 18 + 4 * flag
  let tag := s.tagOr pk pa (if r.atHeld pa then r.held.map HeldPart.tag else none)
  if s.carries pk q rq = false ∨ s.landed pk rq = false ∨ s.elsewhere r pa then (.hold s, r)
  else match s.xpeek pa 4 with
  | .error c => (.fault (s.xdamage pa 4 c) c (BitVec.ofNat 64 pa), r)
  | .ok none => (.hold s, r)
  | .ok (some (t, bs)) =>
    let old : W32 := BitVec.ofNat 32 (leNat bs)
    let new := if aop = 0 then old + v else if aop = 2 then old ||| v else v
    match t.xpoke pk pa (wordBytes new) none false true tag rq (r.pkt.fg.getD 0) with
    | .ok u => (.ok u, { r with tag := tag })
    | .hold u => (.hold u, { r with held := if s.wayOpen pk rq pa false then tag.map (fun t => { pa := pa, tag := t }) else r.held })
    | c => (c, r)

/-- `REMOTE_COPY` (R334): a copy, then 1 added to the flag of the destination's package. -/
def execRemoteCopy (_h : XHead) (a : CopyArgs) (flag : BitVec 16) (s : State) : Host.Outcome State Fault Refusal :=
  .next (s.runReq (partsOf a.dst.toNat a.len.toNat) (fun k t r => t.doMove s.act.el r (copyMove a.src a.dst a.len.toNat false k))
    fun t r =>
      match t.xlate (tpPk r.tp) r.pkt.asid a.dst true with
      | .error c => (.fault t c a.dst, r)
      | .ok (pa, _) => t.flagOp s.act.el r (paPkg pa) flag.toNat 0 1)

/-- `SET_REMOTE_FLAG` (R334). -/
def execSetRemoteFlag (_h : XHead) (flag : BitVec 16) (pkg : BitVec 13) (val : W32) (aop : BitVec 4) (s : State) : Host.Outcome State Fault Refusal :=
  .next (s.runReq 0 (fun _ t r => (.ok t, r)) fun t r => t.flagOp s.act.el r pkg.toNat flag.toNat aop.toNat val)

/-- `FILL` (R334): the byte at offset A is byte A mod 4 of PAT. -/
def execFill (_h : XHead) (dst : W64) (len : BitVec 40) (pat : W32) (s : State) : Host.Outcome State Fault Refusal :=
  .next (s.runReq (partsOf dst.toNat len.toNat) (fun k t r =>
    let i := partOff dst.toNat k
    let n := partLen dst.toNat len.toNat k
    t.doMove s.act.el r { src := .const (((wordBytes pat ++ wordBytes pat ++ wordBytes pat).drop (i % 4)).take n), dst := .va (dst + BitVec.ofNat 64 i), n := n }) noMore)

/-- Element `k` of a reduce-copy: its read and write at the destination are one step at its home, as an atomic's are (R137; DEDUCED,
log 55). -/
def State.reduceMove (rq : Nat) (src dst : W64) (rop : BitVec 4) (k : Nat) (t : State) (r : Req) : Part × Req :=
  let pk := tpPk r.tp
  let se : End := .va (src + BitVec.ofNat 64 (4 * k))
  let de : End := .va (dst + BitVec.ofNat 64 (4 * k))
  match t.endPA pk r.pkt.asid de true with
  | .error c => (.fault t c (BitVec.ofNat 64 de.addr), r)
  | .ok (pa, _) =>
    let r := { r with at_ := pa }
    if paSpace pa = 1 then (.fault t 0x8008 (BitVec.ofNat 64 de.addr), r)
    else if t.elsewhere r pa then (.hold t, r)
    else match t.readEnd pk r.pkt.asid rq se 4, t.readEnd pk r.pkt.asid rq de 4 with
    | .error (u, c, a), _ => (.fault u c a, r)
    | _, .error (u, c, a) => (.fault u c a, r)
    | .ok (some (_, v)), .ok (some (_, w)) =>
      let a : W32 := BitVec.ofNat 32 (leNat w)
      let b : W32 := BitVec.ofNat 32 (leNat v)
      let x := match rop.toNat with
        | 0 => combine 0 0 a b
        | 1 => a + b
        | 2 => combine 1 0 a b
        | 3 => combine 2 0 a b
        | _ => fLanesR 4 (fun a b _ => fsum 0 [a, b]) a b 0
      t.writeEnd rq r de (wordBytes x) false true
    | _, _ => (.hold t, r)

/-- `REDUCE_COPY` (R337). -/
def execReduceCopy (_h : XHead) (src dst : W64) (nel : W32) (rop : BitVec 4) (s : State) : Host.Outcome State Fault Refusal :=
  .next (s.runReq nel.toNat (State.reduceMove s.act.el src dst rop) noMore)

/-! ### Tensors, gathers and scatters (R335, R336) -/

/-- The physical address of a package-local SRAM offset (R333). -/
def localPA (pk : Nat) (lsp : Bool) (off : Nat) : Nat :=
  if lsp then 2 * 2 ^ 53 + pk * 2 ^ 40 + off else 3 * 2 ^ 53 + pk * 2 ^ 40 + off

/-- The fields of a layout record (Table 8.13). -/
def lrNum (b : List Byte) (off n : Nat) : Nat := leNat ((b.drop off).take n)
def lrNdim (b : List Byte) : Nat := lrNum b 8 8 % 8
def lrEsz (b : List Byte) : Nat := 2 ^ (lrNum b 8 8 / 8 % 8)
def lrSwz (b : List Byte) : Nat := lrNum b 8 8 / 64 % 16
def lrClip (b : List Byte) : Nat := lrNum b 8 8 / 1024 % 4
def lrExt (b : List Byte) (d : Nat) : Nat := lrNum b (0x10 + 8 * d) 8
def lrStr (b : List Byte) (d : Nat) : Int := (BitVec.ofNat 64 (lrNum b (0x40 + 8 * d) 8)).toInt
def lrBox (b : List Byte) (d : Nat) : Nat := if d < lrNdim b then lrNum b (0x70 + 4 * d) 4 else 1
def lrBst (b : List Byte) (d : Nat) : Nat := lrNum b (0x88 + 4 * d) 4

/-- The record breaks no limit of Table 8.13 (0x8003). -/
def lrOk (b : List Byte) (o : BitVec 96) : Bool :=
  let w := lrNum b 8 8
  let n := lrNdim b
  decide (1 ≤ n ∧ n ≤ 6 ∧ w / 8 % 8 ≤ 4 ∧ lrSwz b ≤ 3 ∧ lrClip b ≤ 1 ∧ w / 4096 = 0 ∧ lrNum b 0xA4 28 = 0)
  && (List.range 6).all fun d =>
    if d < n then decide (lrBox b d ≠ 0 ∧ lrBst b d ≠ 0)
    else decide (lrExt b d = 0 ∧ lrNum b (0x40 + 8 * d) 8 = 0 ∧ lrNum b (0x70 + 4 * d) 4 = 0 ∧ lrNum b (0x88 + 4 * d) 4 = 0 ∧ (field o (16 * d) 16 : BitVec 16) = 0)

/-- Positions of the box. -/
def lrTotal (b : List Byte) : Nat := ((List.range 6).map (lrBox b)).foldl (· * ·) 1

/-- Position `k` of the box: the element's address where it is in range, and its local offset. -/
def lrAt (b : List Byte) (o : BitVec 96) (k : Nat) : Option W64 × Nat :=
  let idx (d : Nat) : Nat := k / (((List.range d).map (lrBox b)).foldl (· * ·) 1) % lrBox b d
  let c (d : Nat) : Int := (field o (16 * d) 16 : BitVec 16).toInt + (idx d : Int) * lrBst b d
  let dims := List.range (lrNdim b)
  let inb := dims.all fun d => decide (0 ≤ c d ∧ c d < lrExt b d)
  let a := BitVec.ofInt 64 ((lrNum b 0 8 : Int) + (dims.map fun d => c d * lrStr b d).foldl (· + ·) 0)
  let l0 := lrEsz b * k
  let l := if lrSwz b = 0 then l0 else l0 ^^^ (l0 / 128 % 2 ^ lrSwz b * 16)
  (if inb then some a else none, l)

/-- `TENSOR_LOAD` (R335). -/
def execTensorLoad (_h : XHead) (a : TensorArgs) (s : State) : Host.Outcome State Fault Refusal :=
  let b := ((s.req s.act.el).map Req.lr).getD []
  .next (s.runReq (lrTotal b) (fun k t r =>
    let (at_, l) := lrAt b a.o k
    let dst : End := .pa (localPA (tpPk r.tp) a.lsp (a.loc.toNat + l))
    match at_ with
    | some va => t.doMove s.act.el r { src := .va va, dst := dst, n := lrEsz b }
    | none =>
      let r := { r with clipped := true }
      if lrClip b = 1 then t.doMove s.act.el r { src := .const (leBytes (lrEsz b) (lrNum b 0xA0 4)), dst := dst, n := lrEsz b } else (.ok t, r)) noMore)

/-- `TENSOR_STORE` (R335). -/
def execTensorStore (_h : XHead) (a : TensorArgs) (s : State) : Host.Outcome State Fault Refusal :=
  let b := ((s.req s.act.el).map Req.lr).getD []
  .next (s.runReq (lrTotal b) (fun k t r =>
    let (at_, l) := lrAt b a.o k
    match at_ with
    | some va => t.doMove s.act.el r { src := .pa (localPA (tpPk r.tp) a.lsp (a.loc.toNat + l)), dst := .va va, n := lrEsz b }
    | none => (.ok t, { r with clipped := true })) noMore)

/-- Pieces of a row, at most, when it is cut at the aligned 8-byte parts of its destination (R139). -/
def rowParts (a : RowArgs) : Nat := 2 ^ a.log2rsz.toNat / 8 + 2
/-- Index `row` of a gather or scatter, read once for its row. -/
def State.rowIdx (s : State) (pk : Nat) (rq : Nat) (idx : BitVec 57) (row : Nat) (r : Req) : Except (State × BitVec 16 × W64) (Option (State × W32)) :=
  match r.idx with
  | some (k, x) => if k = row then .ok (some (s, x)) else read
  | none => read
where
  read : Except (State × BitVec 16 × W64) (Option (State × W32)) :=
    if (s.pav pk).window then .ok none
    else match s.readEnd pk r.pkt.asid rq (.va (idx.signExtend 64 + BitVec.ofNat 64 (4 * row))) 4 with
    | .error e => .error e
    | .ok none => .ok none
    | .ok (some (u, v)) => .ok (some (u, BitVec.ofNat 32 (leNat v)))
/-- The rows of a gather or scatter: part `k` is piece `k mod p` of row `k div p`. -/
def rowMove (a : RowArgs) (gather : Bool) (rq : Nat) (k : Nat) (t : State) (r : Req) : Part × Req :=
  let pk := tpPk r.tp
  let rsz : Nat := 2 ^ a.log2rsz.toNat
  let p := rowParts a
  let row := k / p
  match t.rowIdx pk rq a.idx row r with
  | .error (u, c, va) => (.fault u c va, r)
  | .ok none => (.hold t, r)
  | .ok (some (u, x)) =>
    let r := { r with idx := some (row, x) }
    if x = 0xFFFFFFFF then (.ok u, { r with clipped := true })
    else
      let far := a.tab.signExtend 64 + BitVec.ofInt 64 (x.toInt * (rsz : Int))
      let near := localPA pk a.lsp (a.loc.toNat + row * rsz)
      let dst := if gather then near else far.toNat
      let j := min rsz (partOff dst (k % p))
      let n := partLen dst rsz (k % p)
      let mem : End := .va (far + BitVec.ofNat 64 j)
      let loc : End := .pa (near + j)
      if n = 0 then (.ok u, r)
      else u.doMove rq r (if gather then { src := mem, dst := loc, n := n } else { src := loc, dst := mem, n := n, scatter := true })

/-- `GATHER` (R336). -/
def execGather (_h : XHead) (a : RowArgs) (s : State) : Host.Outcome State Fault Refusal :=
  .next (s.runReq (a.nix.toNat * rowParts a) (rowMove a true s.act.el) noMore)

/-- `SCATTER` (R336). -/
def execScatter (_h : XHead) (a : RowArgs) (s : State) : Host.Outcome State Fault Refusal :=
  .next (s.runReq (a.nix.toNat * rowParts a) (rowMove a false s.act.el) noMore)

/-! ### The start of a request (R332, R341, R397) -/

/-- A local range lies within one ring's, or one die's, SRAM window (0x8004). -/
def localOk (lsp : Bool) (loc n : Nat) : Bool :=
  (!lsp || decide (loc < 2 ^ 30)) && (decide (n = 0) || decide (loc / 2 ^ 26 = (loc + n - 1) / 2 ^ 26))

/-- A doubleword, or word, that the engine reads at a physical address: in the current backing of a shadow pair (R142). -/
def State.look64 (s : State) (pa : Nat) : W64 := s.read64 (s.backing pa false)
def State.look32 (s : State) (pa : Nat) : W32 := s.read32 (s.backing pa false)
/-- The completion ring of a request is valid (0x8007). -/
def State.ringOk (s : State) (pk r : Nat) : Bool := (s.reg pk 0x15010).getLsbD 0 && (s.look64 (s.ringEntry pk r)).getLsbD 0

/-- Why a request does not start: a breach, with the state it leaves and the address concerned, or a record that cannot be read yet. -/
inductive NoStart where
  | breach (s : State) (code : BitVec 16) (addr : W64)
  | wait
  deriving Repr, Inhabited

/-- The layout record of a request: cached, or read and cached (R341). -/
def State.layout (s : State) (tp : Nat) (asid : BitVec 12) (va : W64) : Except NoStart (State × List Byte) :=
  let mp := tp / 4
  let key := va.toNat % 2 ^ 57
  match (s.ms.layouts.get [] mp).find? fun x => decide (x.1 = asid ∧ x.2.1 = key) with
  | some (_, _, b) => .ok (s, b)
  | none =>
    match s.readEnd (tpPk tp) asid s.fl.next (.va va) 192 with
    | .error (t, c, a) => .error (.breach t c a)
    | .ok none => .error .wait
    | .ok (some (t, b)) =>
      .ok ({ t with ms := { t.ms with layouts := t.ms.layouts.put [] mp (((asid, key, b) :: t.ms.layouts.get [] mp).take 64) } }, b)

/-- The virtual addresses at which the pages of a range begin, the first at the range's start, and the last byte's. -/
def rangePages (va : W64) (len : Nat) : List W64 :=
  va :: ((List.range ((va.toNat % 4096 + len - 1) / 4096)).map fun i => va - BitVec.ofNat 64 (va.toNat % 4096) + BitVec.ofNat 64 (4096 * (i + 1))) ++ [va + BitVec.ofNat 64 (len - 1)]
/-- Every page of a destination range translates, and `ok` holds of its physical address there; else the address that does not. -/
def State.pagesOk (s : State) (pk : Nat) (asid : BitVec 12) (va : W64) (len : Nat) (ok : Nat → Bool) : Except (BitVec 16 × W64) Bool :=
  (rangePages va len).foldl (fun acc v => match acc with
    | .ok b => match s.xlate pk asid v true with
      | .ok p => .ok (b && ok p.1)
      | .error c => .error (c, v)
    | e => e) (.ok true)

/-- The checks made before any access, for the kinds that have any (R334 to R338, Table 18.6), each with the address concerned. -/
def State.reqCheck (s : State) (tp : Nat) (p : Packet) (i : Instr) : Except NoStart (State × List Byte) :=
  let pk := tpPk tp
  let bad (c : BitVec 16) (a : W64) : Except NoStart (State × List Byte) := .error (.breach s c a)
  let loc (lsp : Bool) (off : Nat) : W64 := BitVec.ofNat 64 (localPA pk lsp off)
  let tensor (a : TensorArgs) : Except NoStart (State × List Byte) :=
    match s.layout tp p.asid (a.lr.signExtend 64) with
    | .error c => .error c
    | .ok (t, b) =>
      if lrOk b a.o = false then bad 0x8003 (a.lr.signExtend 64)
      else if localOk a.lsp a.loc.toNat (lrEsz b * lrTotal b) = false then bad 0x8004 (loc a.lsp a.loc.toNat)
      else match ((List.range (lrTotal b)).filterMap fun k => (lrAt b a.o k).1).find? fun v => decide (v.toNat % lrEsz b ≠ 0) with
        | some v => bad 0x8004 v
        | none => .ok (t, b)
  let rows (a : RowArgs) : Except NoStart (State × List Byte) :=
    if 20 < a.log2rsz.toNat ∨ localOk a.lsp a.loc.toNat (a.nix.toNat * 2 ^ a.log2rsz.toNat) = false then bad 0x8004 (loc a.lsp a.loc.toNat) else .ok (s, [])
  match i with
  | .tensorLoad _ a => tensor a
  | .tensorStore _ a => tensor a
  | .gather _ a => rows a
  | .scatter _ a => rows a
  | .reduceCopy _ src dst _ rop =>
    if src.toNat % 4 ≠ 0 then bad 0x8004 src else if dst.toNat % 4 ≠ 0 then bad 0x8004 dst
    else if 5 ≤ rop.toNat then bad 0x8008 dst else .ok (s, [])
  | .shadowCopy _ a =>
    if a.len = 0 then .ok (s, [])
    else match s.xlate pk p.asid a.dst true with
      | .error c => bad c a.dst
      | .ok (x, _) =>
        match s.pagesOk pk p.asid a.dst a.len.toNat fun y => decide (paSpace y = 0 ∧ s.pairOf y = s.pairOf x) with
        | .error (c, v) => bad c v
        | .ok b => if b && (s.pairOf x).isSome then .ok (s, []) else bad 0x8005 a.dst
  | .remoteCopy _ a _ =>
    match s.xlate pk p.asid a.dst true with
    | .error c => bad c a.dst
    | .ok (x, _) =>
      match s.pagesOk pk p.asid a.dst a.len.toNat fun y => decide (paPkg y = paPkg x) with
      | .error (c, v) => bad c v
      | .ok b => if b = false then bad 0x8005 a.dst else if (s.reg (paPkg x) 0x15008).getLsbD 0 = false then bad 0x8006 a.dst else .ok (s, [])
  | .setRemoteFlag _ _ q _ aop =>
    if s.reaches pk q.toNat = false then bad 0x8002 0
    else if (s.reg q.toNat 0x15008).getLsbD 0 = false ∨ (aop ≠ 0 ∧ aop ≠ 2 ∧ aop ≠ 8) then bad 0x8006 0 else .ok (s, [])
  | _ => .ok (s, [])

/-- Requests in execution at a port. -/
def State.portLoad (s : State) (tp : Nat) : Nat := (s.eng.reqs.filter fun p => decide (p.2.tp = tp)).length

/-- TRANSFER_REQUEST_START (R332): the port's oldest packet begins; a breach found before any access ends it (R397). The checks that
R397 places at acceptance are made as the port takes the packet up (DESIGN CHOICE, log 72). -/
def execTransferRequestStart (tp : Nat) (s : State) : Host.Outcome State Fault Refusal :=
  match s.eng.queues.get [] tp with
  | [] => .next s
  | p :: ps =>
    if 64 ≤ s.portLoad tp then .next s
    else
      let rq := s.fl.next
      let s1 := ({ s with eng := { s.eng with queues := s.eng.queues.put [] tp ps } }).bump
      let r : Req := { tp := tp, pkt := p }
      let cring := (field p.bits 224 12 : BitVec 12).toNat
      match decodeRequest p.bits with
      | .error _ => .next (s1.endReq rq r 0x8001 0)
      | .ok i =>
        if p.bits.getLsbD 27 ∧ s.ringOk (tpPk tp) cring = false then .next (s1.endReq rq r 0x8007 0)
        else match s1.reqCheck tp p i with
          | .error (.breach t c a) => .next (t.endReq rq r c a)
          | .error .wait => .next s
          | .ok (t, b) => .next (t.setReq rq { r with lr := b })

/-! ### Completion (R139, R140, R339, R340) -/

/-- The request has nothing further to report: it leaves, and a COPY task that it served learns of a fault. -/
def State.retireReq (s : State) (rq : Nat) : State :=
  match s.req rq with
  | none => s
  | some r =>
    let sc := r.pkt.bits.getLsbD 26
    if r.isOver ∧ r.told ∧ (sc = false ∨ r.sects.length ≤ r.counted) then
      let s1 := s.delReq rq
      match r.pkt.task with
      | some tk => if r.fcode = 0 then s1 else s1.taskFault tk
      | none => s1
    else s

/-- The record and COUNT of a completion are written (R340): `w` is the ring's entry, `c` its COUNT; every write keeps the tag of the
record's dispatch where the log held it (R161). -/
def State.writeRecord (s : State) (rq : Nat) (r : Req) (e : Nat) (w : W64) (c : Nat) : Part :=
  let pk := tpPk r.tp
  let slots := 2 ^ (w.toNat / 2 % 16)
  let pa := w.toNat % 2 ^ 57 / 4096 * 4096 + 32 * (c % slots)
  let status := if r.fcode ≠ 0 then 2 else if r.clipped then 1 else 0
  let word0 := r.pkt.bits.toNat % 2 ^ 24 + (r.pkt.bits.toNat / 2 ^ 28 % 16) * 2 ^ 24 + status * 2 ^ 28
  let first := leBytes 8 r.bytes ++ leBytes 4 r.sects.length ++ zeros 4 ++ leBytes 4 word0 ++ leBytes 2 r.fcode.toNat ++ zeros 2
  let ph := if c / slots % 2 = 0 then 1 else 0
  let put (t : State) (a : Nat) (bs : List Byte) : Part := t.xpoke pk a bs none false false (s.tagOr pk a (r.held.map HeldPart.tag)) rq (r.pkt.fg.getD 0)
  match put s pa first with
  | .ok t =>
    match put t (pa + 24) (leBytes 8 ph) with
    | .ok u => put u (e + 8) (leBytes 4 (c + 1))
    | p => p
  | p => p

/-- TRANSFER_COMPLETION (R140, R188, R340): the completion record is written as two strong stores, and COUNT advances, once every data
write is performed at dom. A request that names no ring, or a ring it cannot use, writes none. -/
def execTransferCompletion (rq : Nat) (s : State) : Host.Outcome State Fault Refusal :=
  match s.req rq with
  | none => .next s
  | some r =>
    let pk := tpPk r.tp
    let n := (field r.pkt.bits 224 12 : BitVec 12).toNat
    let e := s.ringEntry pk n
    -- of the records that begin in one cycle the one of the lowest port comes first (R340)
    let ahead := s.eng.reqs.any fun q => q.2.isOver && !q.2.told && q.2.pkt.bits.getLsbD 27
      && decide (tpPk q.2.tp = pk ∧ q.2.overAt < s.cyc ∧ q.2.tp < r.tp ∧ (field q.2.pkt.bits 224 12 : BitVec 12).toNat = n)
      && !(q.2.barred || s.windowHolds pk q.2.tag) && s.landed pk q.1
    if r.isOver = false ∨ r.told ∨ r.barred ∨ s.windowHolds pk r.tag ∨ s.landed pk rq = false ∨ s.cyc ≤ r.overAt ∨ (r.pkt.bits.getLsbD 27 ∧ ahead) then .next s
    else
      let told (t : State) : State := (t.setReq rq { r with told := true }).retireReq rq
      if r.pkt.bits.getLsbD 27 = false ∨ s.ringOk pk n = false then .next (told s)
      else if (r.held.isSome ∧ s.newerIn e 16) then .next s
      else match s.writeRecord rq r e (s.look64 e) (s.look32 (e + 8)).toNat with
        | .ok t => .next (told t)
        | .hold t => .next { s.setReq rq { r with held := (s.tagOr pk e (r.held.map HeldPart.tag)).map fun t => { pa := e, tag := t } } with iv := t.iv }
        | .bar t => .next { s.setReq rq { r with barred := true } with iv := t.iv, det := t.det }
        | .fault t c a => .next (told (if c = 0xE201 then t.detect pk .none (2 ^ 90) { fcode := c, tier := 2, point := 2, addr := a } else t))

/-- SECTOR_COUNTER_INCREMENT (R140, R339): one counted sector, once its writes are performed at dom. -/
def execSectorCounterIncrement (rq : Nat) (s : State) : Host.Outcome State Fault Refusal :=
  match s.req rq with
  | none => .next s
  | some r =>
    let pk := tpPk r.tp
    if r.pkt.bits.getLsbD 26 ∧ r.isOver ∧ r.counted < r.sects.length ∧ s.windowHolds pk r.tag = false ∧ s.landed pk rq then
      let c := pk * 4096 + (field r.pkt.bits 236 12 : BitVec 12).toNat
      let s1 := { s with secs := s.secs.put 0 c (s.secs.get 0 c + 1) }
      .next ((s1.setReq rq { r with counted := r.counted + 1 }).retireReq rq)
    else .next s

end Sys2Proof.Machine
end

