-- ==== Sys2Proof/Machine/Window.lean ====
section
/-! DEFINITION. The management window and the host aperture: the checks on a register write (R408), accepted values (R367, R378, R406), scratchpad partitions (R116, R117), invalidations (R110), page migration (R145), frame clearing (R440), counters, and host loads and stores through BAR4 (R368, R409, R467). -/
namespace Sys2Proof.Machine
open Sys2Proof

/-! ### Checks (R408) -/

/-- A record of the window (POINT 7), and its count in ECNT13 (DEDUCED, log 52). -/
def State.windowRecord (s : State) (pk : Nat) (code : BitVec 16) (detail addr : Nat) : State :=
  (s.count pk 13 1).detect pk .none (2 ^ 90) { fcode := code, point := 7, detail := BitVec.ofNat 32 detail, addr := BitVec.ofNat 64 addr }
/-- A write is discarded whole with its record. -/
def State.discard (s : State) (pk off : Nat) : State := s.windowRecord pk 0x9008 off 0

/-- BAR0 is enabled: once step 1 of the boot is done, except while a reset of the configuration space stands (R374, R467) (DEDUCED, log 17). -/
def State.windowOn (s : State) (pk : Nat) : Bool := decide (2 ≤ (s.reg pk 0x18).toNat % 16) && !(s.out.barsOff.get false pk)
/-- BAR2 and BAR4 are enabled (R367, R467). -/
def State.barsOn (s : State) (pk : Nat) : Bool := (s.reg pk 0x18).getLsbD 4 && !(s.out.barsOff.get false pk)

/-- A host read of `size` bytes of the window at `off` (R367, R378, R408): 0 where no register lies, the bytes of a register's slot
elsewhere, the upper half of a narrow register's reading as zero; one of another size or alignment is discarded and counted. -/
def State.windowRead (s : State) (pk off size : Nat) : State × Option Nat :=
  if s.windowOn pk = false then (s, none)
  else if (size ≠ 4 ∧ size ≠ 8) ∨ off % size ≠ 0 then (s.count pk 13 1, none)
  else
    let slot := off / 8 * 8
    (s, some (if (regAt slot).isSome then (s.reg pk slot).toNat / 2 ^ (8 * (off % 8)) % 2 ^ (8 * size) else 0))
/-- A host read of BAR2 before READY (R367); what a launch channel reads as afterwards is not stated. -/
def State.bar2Read (s : State) (pk n : Nat) : Option (List Byte) :=
  if (s.reg pk 0x18).getLsbD 4 then none else some (List.replicate n 0xFF)

/-- A translated access of the package is in flight for which `p` holds. -/
def State.anyAccess (s : State) (pk : Nat) (p : Access → Bool) : Bool :=
  s.fl.accs.any fun a => decide ((s.region a.2.rg).pk = pk) && a.2.scr.isNone && a.2.rs.isSome && p a.2

/-- An access to `n` bytes at `lo` is in flight. -/
def State.rangeBusy (s : State) (lo n : Nat) : Bool :=
  s.fl.accs.any fun a => a.2.scr.isNone && decide (a.2.pa < lo + n ∧ lo < a.2.pa + a.2.size)

/-- A resident ring stream names program `n` of stack `sk` (R312). -/
def State.baseNamed (s : State) (sk n : Nat) : Bool :=
  s.fab.strms.any fun t => decide (t.2.mode = 2 ∧ t.2.bsp = n) && (match t.2.rg with
    | none => false
    | some rg => match s.walkPage (pkOf (t.1 / 32)) (s.fig (figOf rg)).asid t.2.base.toNat with
      | .ok x => decide (paStack (x.phys t.2.base.toNat) = sk)
      | .error _ => false)
  || s.fl.accs.any fun a => decide (a.2.base = some (sk, n))

/-- A Figure of the package is halting, halted, or in a save record (R361). -/
def State.savePoolBusy (s : State) (pk : Nat) : Bool :=
  s.figs.any fun f => decide (f.2.pk = pk) && (decide (f.2.phase ≠ .placed ∧ ¬ f.2.ended) || f.2.save.isSome)

/-- The banks of a partition value. -/
def sppBanks (v : W64) : Nat × Nat := (v.toNat % 64, 2 ^ (v.toNat / 64 % 8))
/-- Two bank ranges share a bank. -/
def banksMeet (a b : Nat × Nat) : Bool := decide (a.1 < b.1 + b.2 ∧ b.1 < a.1 + a.2)

/-- Two ranges of memory share a byte. -/
def rangesMeet (a b : Nat × Nat) : Bool := decide (a.1 < b.1 + b.2 ∧ b.1 < a.1 + a.2)
/-- The backings of a shadow pair with the given SPTn. -/
def State.backings (s : State) (pk n : Nat) (v : W64) : List (Nat × Nat) := [pageOf v, pageOf (s.spb pk n)].map fun a => (a, 2 ^ (v.toNat / 2 % 32))
/-- The backings lie in HBM of the package, aligned to their size, and share no byte with another valid pair (R141). -/
def State.pairFits (s : State) (pk n : Nat) (v : W64) : Bool :=
  (s.backings pk n v).all fun a => decide (paSpace a.1 = 0 ∧ paPkg a.1 = pk ∧ a.1 % a.2 = 0)
    && (List.range 64).all fun m => decide (m = n) || !((s.spt pk m).getLsbD 0) || (s.backings pk m (s.spt pk m)).all fun b => !(rangesMeet a b)

/-- The device-state conditions on a write of register `k`, number `i` (R372, R408, and the register's own rule) (DEDUCED, log 23). -/
def State.writeAllowed (s : State) (pk : Nat) (k : RKind) (i off : Nat) (v : W64) : Bool :=
  let old := s.reg pk off
  let pvOff := !(s.enBit pk)
  match k with
  | .pvcfg | .rdmap => pvOff && decide ((s.reg pk 0x11018).toNat % 8 = 0)
  | .undo => pvOff
  | .surtb => !((s.reg pk 0x48).getLsbD 0)
  | .sucfg => !(old.getLsbD 0)
      || (decide (v = old &&& ~~~1) && pvOff && !(s.anyAccess pk fun a => decide (paPkg a.pa ≠ pk))
        && !(s.ms.deltas.any fun d => decide (d.2.src = pk ∧ d.2.dst ≠ pk)))
  | .spt => (!(old.getLsbD 0) || decide (v = old &&& ~~~1)) && (old.getLsbD 0
      || (!(v.getLsbD 0) || s.pairFits pk i v) && !(s.rangeBusy (pageOf v) (2 ^ (v.toNat / 2 % 32)) || s.rangeBusy (pageOf (s.spb pk i)) (2 ^ (v.toNat / 2 % 32))))
  | .spb => !((s.spt pk i).getLsbD 0)
  | .asidtb => !(s.anyAccess pk fun _ => true)
  | .pgta | .pgtb | .pgtc | .pgtd =>
    !(s.fl.accs.any fun a => a.2.prot && decide (a.2.pgrp.toNat = i ∧ paPkg a.2.pa = pk))
    && (match k with
        | .pgta => !(old.getLsbD 0) || decide (v ||| 1 = old)
        | .pgtd => true
        | _ => !((s.pgta pk i).getLsbD 0) || decide (v = old))
  | .bsp | .bsw | .bmda | .bmdb => !(s.baseNamed (pk * 16 + i / 64) (i % 64))
  | .svpool => !(s.savePoolBusy pk)
  | .sprnow => pvOff || !(v.getLsbD 0)
  | .spp =>
    let mp := pk * 16 + i / 8
    let x := s.reg pk (0x16A08 + 16 * (i / 8))
    !(v.getLsbD 11)
    || ((List.range 8).all fun m => decide (m = i % 8) || !((s.spp mp m).getLsbD 11) || !(banksMeet (sppBanks v) (sppBanks (s.spp mp m))))
        && (List.range 64).all fun b => !(x.getLsbD b) || !(banksMeet (sppBanks v) (b, 1))
  | _ => true

/-- The value that an accepted write leaves: read-only bits keep what they hold. -/
def RKind.accept (k : RKind) (old v : W64) : W64 := (old &&& k.ro) ||| (v &&& ~~~k.ro)

/-- A write of 8 bytes to the register at `off`: discarded whole where a check fails, else `act` with the accepted value. -/
def State.windowWrite (s : State) (pk off : Nat) (v : W64) (act : W64 → State → State) : State :=
  if s.windowOn pk = false then s
  else match regAt off with
  | none => s.count pk 13 1
  | some (k, i) =>
    if v &&& k.rsv ≠ 0 ∨ k.bad (s.reg pk off) v ∨ s.writeAllowed pk k i off v = false then s.discard pk off
    else act (k.accept (s.reg pk off) v) s

/-- The register takes the accepted value and nothing else happens. -/
def plainWrite (pk off : Nat) (v : W64) (s : State) : State := s.setReg pk off v

/-! ### Scratchpad partitions (R117) -/

/-- A write of SPPn: one that changes the mapping is a reassignment of the banks covered before or after it. A write while
an earlier one of the entry is still being carried out waits for it. -/
def State.sppWrite (s : State) (mp n : Nat) (v : W64) : State :=
  let pk := mp / 16
  let off := 0x41000 + 64 * (mp % 16) + 8 * n
  if (s.ms.parts.get none (mp * 8 + n)).isSome then s
  else s.windowWrite pk off v fun w t =>
    let old := t.reg pk off
    let covered := (if old.getLsbD 11 then [sppBanks old] else []) ++ (if w.getLsbD 11 then [sppBanks w] else [])
    let t1 := t.setReg pk off w
    if w = old then t1
    else ({ t1 with ms := { t1.ms with parts := t1.ms.parts.put none (mp * 8 + n) (some (covered, t1.fl.next)) } }).bump

/-- SPP_WRITE (R117). -/
def execSppWrite (mp n : Nat) (v : W64) (s : State) : Host.Outcome State Fault Refusal :=
  .next (s.sppWrite mp n v)

/-- PARTITION_ENTRY_RELEASE (R117): no access queued before the write is left at an affected bank. -/
def execPartitionEntryRelease (mp n : Nat) (s : State) : Host.Outcome State Fault Refusal :=
  match s.ms.parts.get none (mp * 8 + n) with
  | none => .next s
  | some (banks, op) =>
    let left := s.fl.accs.any fun a => decide (a.1 < op ∧ a.2.phase = .home) && (match a.2.scr with
      | some (m, _) => decide (m = mp) && banks.any fun b => banksMeet b (a.2.pa % 2 ^ 26 / 2 ^ 20, 1)
      | none => false)
    if left then .next s else .next { s with ms := { s.ms with parts := s.ms.parts.put none (mp * 8 + n) none } }

/-! ### Invalidation (R110) -/

/-- A write of TLBIV, held while BUSY; GO starts an invalidation. -/
def State.tlbivWrite (s : State) (pk : Nat) (v : W64) : State :=
  if (s.reg pk 0x10000).getLsbD 15 then s
  else s.windowWrite pk 0x10000 v fun w t =>
    if v.getLsbD 14 then
      let t1 := t.setReg pk 0x10000 (w ||| 0x8000)
      { t1 with ms := { t1.ms with inval := t1.ms.inval.put none pk (some ((t1.reg pk 0x10008).toNat % 2 ^ 57)) } }
    else t.setReg pk 0x10000 w

/-- TLBIV_GO (R110). -/
def execTlbivGo (pk : Nat) (v : W64) (s : State) : Host.Outcome State Fault Refusal :=
  .next (s.tlbivWrite pk v)

/-- A translation falls under an invalidation: 0 all, 1 an ASID, 2 a page of an ASID, whatever its size. -/
def Xlat.hit (x : Xlat) (scope : Nat) (asid : BitVec 12) (va : Nat) : Bool :=
  decide (scope = 0) || (decide (scope = 1 ∧ x.asid = asid)) || (decide (scope = 2) && x.covers asid va)

/-- INVALIDATION_COMPLETE (R110): every cached and kept translation in scope is gone, and BUSY reads 0. -/
def execInvalidationComplete (pk : Nat) (s : State) : Host.Outcome State Fault Refusal :=
  match s.ms.inval.get none pk with
  | none => .next s
  | some va =>
    let r := s.reg pk 0x10000
    let scope := r.toNat % 4
    let asid : BitVec 12 := field r 2 12
    let keep (l : List Xlat) : List Xlat := l.filter fun x => !(x.hit scope asid va)
    let clean (m : FMap (List Xlat)) (per : Nat) : FMap (List Xlat) :=
      (m.map fun p => if p.1 / per / 16 = pk then (p.1, keep p.2) else p).filter fun p => !p.2.isEmpty
    let s1 := { s with ms := { s.ms with tlb1 := clean s.ms.tlb1 16, tlb2 := clean s.ms.tlb2 1, inval := s.ms.inval.put none pk none } }
    let s2 := s1.fab.strms.foldl (fun (t : State) p =>
      if pkOf (p.1 / 32) = pk then t.setStrm p.1 { t.strm p.1 with kept := (t.strm p.1).kept.filter fun x => !(x.hit scope asid va) } else t) s1
    .next (s2.setReg pk 0x10000 (r &&& ~~~(0x8000 : W64)))

/-! ### Migration (R145) -/

/-- A write of MVFn: GO starts the copy of a valid idle entry; clearing V ends the entry. -/
def State.mvfWrite (s : State) (pk n : Nat) (v : W64) : State :=
  let off := 0x21000 + 16 * n
  s.windowWrite pk off v fun w t =>
    let idle := decide (w.toNat / 2 % 4 = 0)
    if w.getLsbD 0 = false then t.setReg pk off (w &&& ~~~(6 : W64))
    else if v.getLsbD 5 ∧ idle then t.setReg pk off (w ||| 2)
    else t.setReg pk off w

/-- MVF_GO (R145). -/
def execMvfGo (pk n : Nat) (v : W64) (s : State) : Host.Outcome State Fault Refusal := .next (s.mvfWrite pk n v)

/-- An engine write outside a request is held for undo capacity, or barred, or neither any more (R161, R444). -/
def State.setKept (s : State) (key : Nat) (k : Option Kept) : State := { s with ms := { s.ms with kept := s.ms.kept.put none key k } }
/-- The tag that an engine write keeps from its dispatch. -/
def keptTag : Option Kept → Option W32
  | some (.tag t) => some t
  | _ => none
/-- An engine write may go on: it is not barred, and in a close window only where it was dispatched before it (R153). -/
def State.mayGo (s : State) (pk key : Nat) : Bool :=
  let k := s.ms.kept.get none key
  decide (k ≠ some .barred) && (!(s.pav pk).window || k.isSome)

/-- MIGRATION_COPY_DONE (R145): the frame's bytes stand at NEW, written as tagged engine writes (R151), and STATE
becomes moved. A damaged frame is reported and the copy does not complete. -/
def execMigrationCopyDone (pk n : Nat) (s : State) : Host.Outcome State Fault Refusal :=
  let off := 0x21000 + 16 * n
  let v := s.reg pk off
  let key := 2 * (16 * pk + n)
  if v.getLsbD 0 ∧ v.toNat / 2 % 4 = 1 ∧ s.mayGo pk key then
    let sz := 2 ^ ([12, 16, 21, 12].getD (v.toNat / 8 % 4) 12)
    let src := pageOf v / sz * sz
    let dst := pageOf (s.reg pk (off + 8))
    let tag := s.tagOr pk dst (keptTag (s.ms.kept.get none key))
    let (s1, bs, bad) := s.readBytes src sz
    if bad then .next s1
    else match s1.homeWrite dst (.set bs) tag false (s1.groupAt dst) s1.fl.next 0 with
      | .ok t => .next ((t.setReg pk off ((v &&& ~~~(6 : W64)) ||| 4)).setKept key none)
      | .hold t => .next { s.setKept key (tag.map Kept.tag) with iv := t.iv }
      | .full t => .next ({ s.setKept key (some .barred) with iv := t.iv }.detect (paPkg dst) .none (2 ^ 90) { fcode := 0xE203, tier := 2, point := 2, addr := BitVec.ofNat 64 dst })
      | .bad t => .next { s with ms := t.ms, det := t.det, mem := t.mem }
  else .next s

/-! ### Frame clearing and counters (R406, R440, R466, R467) -/

/-- Frame `f` of a package is zeroed: its lines' tags, its poison bit, and what was known of damage in it are cleared (DEDUCED, log 24). -/
def State.clearFrame (s : State) (pk f : Nat) : State :=
  let pa := pk * 2 ^ 40 + 4096 * f
  let s1 := s.writeBytes pa (zeros 4096)
  let s2 := (linesOf pa 4096).foldl (fun t l => t.setLtag l 0) s1
  let sk := paStack pa
  let s3 := s2.setStack sk { s2.stack sk with damage := (s2.stack sk).damage.filter fun l => decide (l / 4096 ≠ pa / 4096) }
  s3.setPoison pa false

/-- A write of PSNCLR (R440): the four actions in order, as one step. -/
def State.psnclrWrite (s : State) (pk : Nat) (v : W64) : State :=
  s.windowWrite pk 0x16608 v fun w t =>
    let t1 := t.setReg pk 0x16608 w
    if v.getLsbD 0 then t1.clearFrame pk (v.toNat / 4096 % 2 ^ 28) else t1

/-- PSNCLR_GO (R440). -/
def execPsnclrGo (pk : Nat) (v : W64) (s : State) : Host.Outcome State Fault Refusal := .next (s.psnclrWrite pk v)

/-- ECNT_WRITE (R406): any write clears the counter. -/
def execEcntWrite (pk n : Nat) (v : W64) (s : State) : Host.Outcome State Fault Refusal :=
  .next (s.windowWrite pk (0x16040 + 8 * n) v fun _ t => t.setReg pk (0x16040 + 8 * n) 0)

/-- A write of FLTSTAT: 0 clears LOST. -/
def State.fltstatWrite (s : State) (pk : Nat) (v : W64) : State :=
  s.windowWrite pk 0x16020 v fun _ t => if v.toNat % 65536 = 0 then t.setReg pk 0x16020 (t.reg pk 0x16020 &&& 0x1FF0000) else t
/-- FLTSTAT_WRITE (R406). -/
def execFltstatWrite (pk : Nat) (v : W64) (s : State) : Host.Outcome State Fault Refusal := .next (s.fltstatWrite pk v)

/-- HOSTERR_WRITE (R467): any write clears it. -/
def execHosterrWrite (pk : Nat) (v : W64) (s : State) : Host.Outcome State Fault Refusal :=
  .next (s.windowWrite pk 0x16630 v fun _ t => t.setReg pk 0x16630 0)

/-- LNKST_WRITE (R466): a write clears RETRY. -/
def execLnkstWrite (pk n : Nat) (v : W64) (s : State) : Host.Outcome State Fault Refusal :=
  .next (s.windowWrite pk (0x16700 + 8 * n) v fun _ t => t.setReg pk (0x16700 + 8 * n) (t.reg pk (0x16700 + 8 * n) &&& 0xFFFFFFFF))

/-- HMCONS_WRITE (R370): messages consumed; a waiting message may then be delivered. -/
def execHmconsWrite (pk : Nat) (v : W64) (s : State) : Host.Outcome State Fault Refusal :=
  .next (s.windowWrite pk 0x40 v (plainWrite pk 0x40))

/-- FLTCONS_WRITE (R405). -/
def execFltconsWrite (pk : Nat) (v : W64) (s : State) : Host.Outcome State Fault Refusal :=
  .next (s.windowWrite pk 0x16018 v (plainWrite pk 0x16018))

/-- SUCFG_LINK_DISABLE (R372): a write that clears EN and changes nothing else. -/
def execSucfgLinkDisable (pk : Nat) (v : W64) (s : State) : Host.Outcome State Fault Refusal :=
  if (s.reg pk 0x48).getLsbD 0 ∧ v.getLsbD 0 = false then .next (s.windowWrite pk 0x48 v (plainWrite pk 0x48)) else .next s

/-! ### The host aperture (R368, R409, R439) -/

/-- The physical address of an aperture offset (Table 15.1). -/
def State.aperture (s : State) (pk off : Nat) : Nat := (s.reg pk 0x20).toNat % 2 ^ 57 / 2 ^ 36 * 2 ^ 36 + off % 2 ^ 36

/-- Why the aperture refuses an access. -/
def State.apertureFault (s : State) (pk pa n : Nat) : Option (BitVec 16) :=
  if paSpace pa = 1 ∨ s.badPA pk pa then some 0x4006
  else if s.inArea pa n then some 0xA002
  else if s.poisoned pa then some 0xC005
  else none

/-- The host link receives the bytes of a load. -/
def State.hostReads (s : State) (pk : Nat) (v : List Byte) : State := { s with out := { s.out with readData := s.out.readData.put [] pk v } }

/-- BAR4_LOAD (R368, R409, R437): bound at the home of its bytes; a migrating frame holds it, as R145 says of every access (DESIGN
CHOICE, log 94). -/
def execBar4Load (pk off len : Nat) (s : State) : Host.Outcome State Fault Refusal :=
  let ones := List.replicate len (0xFF : Byte)
  if s.barsOn pk = false then .next (s.hostReads pk ones)
  else
    let pa := s.aperture pk off
    match s.apertureFault pk pa len with
    | some c => .next ((s.windowRecord pk c 0 pa).hostReads pk ones)
    | none =>
      let a := s.backing pa false
      if s.migState a ≠ 0 then .next s
      else
        let (t, v, bad) := s.readBytes a len
        .next (t.hostReads pk (if bad ∧ paSpace a = 0 then ones else v))

/-- BAR4_STORE (R368, R409, R447): a weak, untagged store at pkg. A rollback or a migrating frame withholds it. -/
def execBar4Store (pk off len : Nat) (data : List Byte) (s : State) : Host.Outcome State Fault Refusal :=
  if s.barsOn pk = false then .next s
  else if (s.members.get {} pk).step ≠ 0 then .next s
  else
    let pa := s.aperture pk off
    match s.apertureFault pk pa len with
    | some c => .next (s.windowRecord pk c 0 pa)
    | none =>
      let a := s.backing pa false
      if s.migState a ≠ 0 then .next s else .next (s.writeBytes a (data.take len))

/-- HOSTERR counts an event: 0 link down, 1 poisoned writes, 2 failed reads. -/
def State.hosterr (s : State) (pk i : Nat) : State :=
  let v := s.reg pk 0x16630
  if v.toNat / 65536 ^ i % 65536 = 65535 then s else s.setReg pk 0x16630 (v + BitVec.ofNat 64 (65536 ^ i))

/-- POISONED_HOST_WRITE (R467): discarded whole. -/
def execPoisonedHostWrite (pk bar off : Nat) (s : State) : Host.Outcome State Fault Refusal :=
  if bar = 2 ∨ bar = 4 then .next ((s.hosterr pk 1).windowRecord pk 0x9009 off 0) else .next s

end Sys2Proof.Machine
end

