-- ==== Sys2Proof/Machine/Graph.lean ====
section
/-! DEFINITION. Launch channels and the launch receiver (R349 to R351), graph walks and the ten node kinds (R342 to R348, R160), and where a walk ends (R399). -/
namespace Sys2Proof.Machine
open Sys2Proof

def State.walk (s : State) (wk : Nat) : Option Walk := (s.work.walks.find? fun p => decide (p.1 = wk)).map Prod.snd
def State.setWalk (s : State) (wk : Nat) (w : Walk) : State := { s with work := { s.work with walks := (wk, w) :: s.work.walks.del wk } }
def State.delWalk (s : State) (wk : Nat) : State := { s with work := { s.work with walks := s.work.walks.del wk } }
def State.delTask (s : State) (tk : Nat) : State := { s with work := { s.work with tasks := s.work.tasks.del tk } }
def State.sched (s : State) (pk : Nat) : Sched := s.work.scheds.get {} pk
def State.setSched (s : State) (pk : Nat) (x : Sched) : State := { s with work := { s.work with scheds := s.work.scheds.put {} pk x } }

/-- The tasks of a walk not yet completed, created from operation number `mark` on. -/
def State.walkTasks (s : State) (wk mark : Nat) : List Nat :=
  (s.work.tasks.filter fun p => decide (p.2.walk = wk ∧ mark ≤ p.1)).map Prod.fst
/-- An ended walk frees its slot once every task that it created has completed (R351, R399). -/
def State.reapWalk (s : State) (wk : Nat) : State :=
  match s.walk wk with
  | some w => if w.isOver ∧ (s.walkTasks wk 0).isEmpty then s.delWalk wk else s
  | none => s

/-- A walk ends at a fault condition (R399): it reports only its first one. -/
def State.walkFault (s : State) (wk : Nat) (w : Walk) (code : BitVec 16) (tier : BitVec 4) (point : BitVec 3) (node : Nat) (va : W64) : State :=
  if w.faulted then s
  else
    let s1 := ((s.walkDamage w.pk w.asid va.toNat code).setWalk wk { w with isOver := true, faulted := true }).detect w.pk (.walk wk) (2 ^ 86)
      { fcode := code, tier := tier, point := point, asid := w.asid, detail := BitVec.ofNat 32 node, addr := va, tag := w.tag }
    s1.reapWalk wk

/-! ### Memory as a walker reaches it -/

/-- The code of a node's access that fails: a translation that fails is 0x9006, an undo or parity area 0xA002. -/
def nodeCode (c : BitVec 16) : BitVec 16 := if c = 0x8002 then 0x9006 else if c = 0x8008 then 0xA002 else c
/-- The record of a node's access that fails. -/
def State.nodeFault (s : State) (wk : Nat) (w : Walk) (c : BitVec 16) (node : Nat) (va : W64) : State :=
  let c := nodeCode c
  s.walkFault wk w c (if c.toNat / 4096 = 14 then 2 else 4) (if c.toNat / 4096 = 9 then 6 else 2) node va

/-- What a walker's access comes to. -/
inductive Reach where
  | done (s : State) (v : List Byte)
  | wait (s : State)
  | stop (s : State) (code : BitVec 16)
  deriving Repr, Inhabited

/-- A load of `n` bytes by a graph of package `pk`; `who` is the walk (R371). -/
def State.graphRead (s : State) (pk : Nat) (asid : BitVec 12) (who : Nat) (va : W64) (n : Nat) : Reach :=
  match s.readEnd pk asid who (.va va) n with
  | .error (t, c, _) => .stop t c
  | .ok none => .wait s
  | .ok (some (t, v)) => .done t v

/-- An add has changed the counter at `pa`: every WAIT that found it short reads it again (R347). -/
def State.nudge (s : State) (pa : Nat) : State :=
  let here (w : Walk) : Bool := match w.node.map decodeNode with
    | some (.ok (.nodeWait _ ctr _)) => (match s.walkPage w.pk w.asid ctr.toNat with | .ok x => decide (x.phys ctr.toNat = pa) | .error _ => false)
    | _ => false
  { s with work := { s.work with walks := s.work.walks.map fun p => if p.2.short && here p.2 then (p.1, { p.2 with short := false }) else p } }

/-- A wrapping 64-bit add at dom (R343, R347) by walk or task `who`: an atomic, which host memory does not take (R137). One held for
undo capacity keeps its tag (R161). -/
def State.graphAdd (s : State) (pk : Nat) (asid : BitVec 12) (who : Nat) (va v : W64) : Reach :=
  let key := 2 * who + 1
  match s.xlate pk asid va true, s.xlate pk asid va false with
  | .error c, _ => .stop s c
  | _, .error c => .stop s c
  | .ok (pa, x), .ok _ =>
    if paSpace pa = 1 then .stop s 0x5003
    else if s.mayGo pk key = false then .wait s
    else match s.xpeek pa 8 with
      | .error c => .stop (s.xdamage pa 8 c) c
      | .ok none => .wait s
      | .ok (some (t, bs)) =>
        let tag := s.tagOr pk pa (keptTag (s.ms.kept.get none key))
        match t.xpoke pk pa (leBytes 8 (BitVec.ofNat 64 (leNat bs) + v).toNat) (some x) false true tag who 0 with
        | .ok u => .done ((u.setKept key none).nudge pa) []
        | .hold u => .wait { s.setKept key (if s.wayOpen pk who pa false then tag.map Kept.tag else none) with iv := u.iv }
        | .bar u => .wait { s.setKept key (some .barred) with iv := u.iv, det := u.det }
        | .fault u c _ => .stop u c

/-! ### The walker (R342) -/

/-- The walk that the step processes a node of. -/
def State.walkNow (s : State) : Option Walk := (s.walk s.act.el).filter fun w => !w.isOver
/-- The walk goes to node `i` of its graph. -/
def State.walkTo (s : State) (w : Walk) (i : Nat) : State :=
  s.setWalk s.act.el { w with idx := i, node := none, task := none, msg := none, thr := none, short := false }

/-- What reading the walk's node comes to. -/
inductive NodeAt where
  | word (s : State) (v : BitVec 512)
  | stop (s : State)
  deriving Repr, Inhabited

/-- The node of a walk: read as one 64-byte load when the walker reaches it, and kept while it is processed. A node index
whose address leaves the half of the address space that the graph lies in has run past the graph (0x9004, DEDUCED, log 30). -/
def State.nodeAt (s : State) (wk : Nat) : NodeAt :=
  match s.walk wk with
  | none => .stop s
  | some w =>
    if w.isOver then .stop s
    else match w.node with
      | some v => .word s v
      | none =>
        let va := w.graph + BitVec.ofNat 64 (64 * w.idx)
        if va.getLsbD 63 ≠ w.graph.getLsbD 63 ∨ (va.toNat / 2 ^ 56 ≠ 0 ∧ va.toNat / 2 ^ 56 ≠ 255 ∧ (w.graph.toNat / 2 ^ 56 = 0 ∨ w.graph.toNat / 2 ^ 56 = 255)) then
          .stop (s.walkFault wk w 0x9004 4 6 w.idx va)
        else match s.graphRead w.pk w.asid wk va 64 with
          | .done t bs => .word (t.setWalk wk { w with node := some (BitVec.ofNat 512 (leNat bs)) }) (BitVec.ofNat 512 (leNat bs))
          | .wait t => .stop t
          | .stop t c => .stop (t.nodeFault wk w c w.idx va)

/-- A node that encodes no kind has no effect (R395, Table 18.6). -/
def State.badNode (s : State) (wk : Nat) : State :=
  match s.walk wk with
  | some w => if w.isOver then s else s.walkFault wk w 0x9003 4 6 w.idx 0
  | none => s

/-- A node that waits for a task it created, or goes on at once. -/
def State.afterTask (s : State) (w : Walk) (n : Nat) (async : Bool) (next : Nat) : State :=
  if async then s.walkTo w next else s.setWalk s.act.el { w with task := some n }

/-- A node creates its task, then waits for it unless ASYNC (R343). -/
def taskNode (g : GHead) (async : Bool) (s : State) (mk : Walk → Task) : Host.Outcome State Fault Refusal :=
  match s.walkNow with
  | none => .next s
  | some w =>
    match w.task with
    | some t => if (s.task t).isNone then .next (s.walkTo w g.next.toNat) else .next s
    | none =>
      let n := s.fl.next
      let t := { mk w with pk := w.pk, walk := s.act.el, node := w.idx, prio := if g.prio ≤ w.ceil then g.prio else w.ceil, ready := s.cyc, since := s.cyc }
      .next ((s.setTask n t).bump.afterTask w n async g.next.toNat)

/-- `NODE_KERNEL` (R343, R345). -/
def execNodeKernel (g : GHead) (fig : BitVec 64) (async : Bool) (done : BitVec 64) (ua : BitVec 128) (s : State) : Host.Outcome State Fault Refusal :=
  taskNode g async s fun _ => { kernel := true, obj := fig, ua := ua, done := done }

/-- `NODE_COPY` (R343): the request goes to port PORT of memory-port die DIE. -/
def execNodeCopy (g : GHead) (async : Bool) (die : BitVec 4) (port : BitVec 2) (done : BitVec 64) (req : BitVec 256) (s : State) :
    Host.Outcome State Fault Refusal :=
  taskNode g async s fun w => { kernel := false, tp := (w.pk * 16 + die.toNat) * 4 + port.toNat, req := req, done := done }

/-- `NODE_COND` (R346). -/
def execNodeCond (g : GHead) (pred : BitVec 64) (alt : BitVec 32) (s : State) : Host.Outcome State Fault Refusal :=
  match s.walkNow with
  | none => .next s
  | some w =>
    match s.graphRead w.pk w.asid s.act.el pred 4 with
    | .wait t => .next t
    | .stop t c => .next (t.nodeFault s.act.el w c w.idx pred)
    | .done t v => .next (t.walkTo w (if leNat v ≠ 0 then g.next.toNat else alt.toNat))

/-- A frame is pushed; a ninth one is a fault condition (R342, R348). -/
def State.pushFrame (s : State) (w : Walk) (f : Frame) (graph : W64) (entry : Nat) : State :=
  if 8 ≤ w.frames.length then s.walkFault s.act.el w 0x9004 4 6 w.idx 0
  else s.walkTo { w with frames := f :: w.frames, graph := graph } entry

/-- `NODE_LOOP` (R346). -/
def execNodeLoop (g : GHead) (body count : BitVec 32) (pred : BitVec 64) (s : State) : Host.Outcome State Fault Refusal :=
  match s.walkNow with
  | none => .next s
  | some w =>
    if count = 0 ∧ pred = 0 then .next (s.walkFault s.act.el w 0x9005 4 6 w.idx 0)
    else .next (s.pushFrame w { graph := w.graph, node := w.idx, next := g.next.toNat, loop := some (body.toNat, count.toNat, pred), mark := s.fl.next }
      w.graph body.toNat)

/-- `NODE_SUB` (R348): a GRAPH of 0 names the same graph. -/
def execNodeSub (g : GHead) (graph : BitVec 64) (entry : BitVec 32) (s : State) : Host.Outcome State Fault Refusal :=
  match s.walkNow with
  | none => .next s
  | some w =>
    .next (s.pushFrame w { graph := w.graph, node := w.idx, next := g.next.toNat, mark := s.fl.next }
      (if graph = 0 then w.graph else graph) entry.toNat)

/-- The walk leaves its newest frame and goes on behind the node that pushed it. -/
def State.popFrame (s : State) (w : Walk) (f : Frame) (fs : List Frame) : State :=
  s.walkTo { w with frames := fs, graph := f.graph } f.next

/-- The loop test of R346, after the body's END. -/
def State.loopTest (s : State) (w : Walk) (f : Frame) (fs : List Frame) (body count : Nat) (pred : W64) : State :=
  let k := f.k + 1
  let again (s : State) : State := s.walkTo { w with frames := { f with k := k } :: fs } body
  if count ≠ 0 ∧ count ≤ k then s.popFrame w f fs
  else if pred = 0 then again s
  else match s.graphRead w.pk w.asid s.act.el pred 4 with
    | .wait t => t
    | .stop t c => t.nodeFault s.act.el w c f.node pred
    | .done t v => if leNat v ≠ 0 then again t else t.popFrame w f fs

/-- `NODE_END` (R348): waits for the tasks created since its frame was pushed; then ends the walk, or returns. -/
def execNodeEnd (_g : GHead) (s : State) : Host.Outcome State Fault Refusal :=
  match s.walkNow with
  | none => .next s
  | some w =>
    match w.frames with
    | [] => if (s.walkTasks s.act.el 0).isEmpty then .next (s.delWalk s.act.el) else .next s
    | f :: fs =>
      if (s.walkTasks s.act.el f.mark).isEmpty = false then .next s
      else match f.loop with
        | none => .next (s.popFrame w f fs)
        | some (body, count, pred) => .next (s.loopTest w f fs body count pred)

/-- `NODE_WAIT` (R347): a counter found short is read again later. -/
def execNodeWait (g : GHead) (ctr thr : BitVec 64) (s : State) : Host.Outcome State Fault Refusal :=
  match s.walkNow with
  | none => .next s
  | some w =>
    if w.short then .next s
    else match s.graphRead w.pk w.asid s.act.el ctr 8 with
      | .wait t => .next t
      | .stop t c => .next (t.nodeFault s.act.el w c w.idx ctr)
      | .done t v =>
        if (BitVec.ofNat 64 (leNat v) - thr).toNat < 2 ^ 63 then .next (t.walkTo w g.next.toNat)
        else .next (t.setWalk s.act.el { w with short := true })

/-- WAIT_COUNTER_REREAD (R347): the walker reads the counter again. -/
def execWaitCounterReread (wk : Nat) (s : State) : Host.Outcome State Fault Refusal :=
  match s.walk wk with
  | some w => .next (if w.short then s.setWalk wk { w with short := false } else s)
  | none => .next s

/-- `NODE_SIGNAL` (R347). -/
def execNodeSignal (g : GHead) (ctr add : BitVec 64) (s : State) : Host.Outcome State Fault Refusal :=
  match s.walkNow with
  | none => .next s
  | some w =>
    match s.graphAdd w.pk w.asid s.act.el ctr add with
    | .wait t => .next t
    | .stop t c => .next (t.nodeFault s.act.el w c w.idx ctr)
    | .done t _ => .next (t.bump.walkTo w g.next.toNat)

/-- `NODE_SEAL` (R160, R348): completes at once while PVCFG.EN = 0. -/
def execNodeSeal (g : GHead) (req : Bool) (s : State) : Host.Outcome State Fault Refusal :=
  match s.walkNow with
  | none => .next s
  | some w =>
    if s.enBit w.pk = false then .next (s.walkTo w g.next.toNat)
    else match w.thr with
      | none =>
        let s1 := s.setWalk s.act.el { w with thr := some (s.open_ w.pk) }
        .next (if req then s1.noteReq w.pk else s1)
      | some thr => if ivLe thr (s.sealed w.pk) then .next (s.walkTo w g.next.toNat) else .next s

/-- `NODE_MSG` (R348): completes when the staging buffer accepts the message. -/
def execNodeMsg (g : GHead) (w : BitVec 448) (s : State) : Host.Outcome State Fault Refusal :=
  match s.walkNow with
  | none => .next s
  | some x =>
    match x.msg with
    | none =>
      let n := s.fl.next
      let ws := (List.range 14).map (fun i => (field w (32 * i) 32 : W32)) ++ [x.tag, BitVec.ofNat 32 x.idx]
      .next (((s.setWait n { kind := .msend x.pk ws false none, ord := n, f := s.cyc }).setWalk s.act.el { x with msg := some n }).bump)
    | some n => if (s.wait n).isNone then .next (s.walkTo x g.next.toNat) else .next s

/-! ### Launch channels and the launch receiver (R349 to R351) -/

/-- The LM64s held in channel `n`. -/
def State.chan (s : State) (pk n : Nat) : List Lm := (s.sched pk).chans.get [] n
/-- The channel holds the list; LNCHCn.DEPTH counts it. -/
def State.setChan (s : State) (pk n : Nat) (l : List Lm) : State :=
  let x := s.sched pk
  let off := 0x14000 + 8 * n
  let s1 := s.setSched pk { x with chans := x.chans.put [] n l }
  s1.setReg pk off ((s1.reg pk off &&& 0xFFFFFFFFFFE0FFFF) ||| (BitVec.ofNat 64 l.length <<< 16))

/-- A condition of the launch receiver: the channel in DETAIL. -/
def State.launchFault (s : State) (pk n : Nat) (code : BitVec 16) : State :=
  s.detect pk .none (2 ^ 88) { fcode := code, point := 6, detail := BitVec.ofNat 32 n }

/-- LM64_WRITE (R350, R367): a host write to the message window. Into a full channel, or during a rollback, the window
withholds the credit, so the write has not arrived. -/
def execLm64Write (pk off len : Nat) (data : List Byte) (s : State) : Host.Outcome State Fault Refusal :=
  let n := off / 64
  let c := s.reg pk (0x14000 + 8 * n)
  let l := s.reg pk 0x13000
  if s.barsOn pk = false ∨ 16384 ≤ off then .next s
  else if (s.members.get {} pk).step ≠ 0 then .next s
  else if off % 64 ≠ 0 ∨ len ≠ 64 ∨ l.getLsbD 0 = false ∨ l.toNat / 2 % 256 < n ∨ c.getLsbD 0 = false
      ∨ bnum data 8 2 % 4096 ≠ c.toNat / 2 % 4096 then .next (s.launchFault pk n 0x9001)
  else if 16 ≤ (s.chan pk n).length then .next s
  else .next (s.setChan pk n (s.chan pk n ++ [{ cyc := s.cyc, bits := BitVec.ofNat 512 (leNat (data.take 64)) }]))

/-- The channels of a package with the oldest LM64 for which `p` holds, as cycle, channel and place. -/
def State.lms (s : State) (pk : Nat) (p : Lm → Bool) : List (Nat × Nat × Nat) :=
  ((s.sched pk).chans.map fun c => ((c.2.zip (List.range c.2.length)).filter fun x => p x.1).map fun x => (x.1.cyc, c.1, x.2)).flatten
/-- The first in the order of acceptance (R351). -/
def firstLm : List (Nat × Nat × Nat) → Option (Nat × Nat × Nat)
  | [] => none
  | x :: xs =>
    match firstLm xs with
    | none => some x
    | some y => if y.1 < x.1 ∨ (y.1 = x.1 ∧ (y.2.1 < x.2.1 ∨ (y.2.1 = x.2.1 ∧ y.2.2 < x.2.2))) then some y else some x

/-- Element `i` of a list leaves it. -/
def dropAt {α : Type} : Nat → List α → List α
  | _, [] => []
  | 0, _ :: xs => xs
  | i + 1, x :: xs => x :: dropAt i xs
/-- Element `i` of a list changes. -/
def mapAt {α : Type} (f : α → α) : Nat → List α → List α
  | _, [] => []
  | 0, x :: xs => f x :: xs
  | i + 1, x :: xs => x :: mapAt f i xs

/-- An LM64 meets Table 8.11 (0x9002). -/
def lmOk (b : BitVec 512) : Bool :=
  decide ((field b 0 6 : BitVec 6) = 0 ∧ (field b 76 3 : BitVec 3) ≠ 7 ∧ (field b 79 17 : BitVec 17) = 0 ∧ (field b 384 128 : BitVec 128) = 0)

/-- LM64_TAKE (R350, R399): the receiver checks the oldest LM64 that it has not taken; a rejected one is discarded. -/
def execLm64Take (pk : Nat) (s : State) : Host.Outcome State Fault Refusal :=
  match firstLm (s.lms pk fun m => !m.taken) with
  | none => .next s
  | some (_, n, i) =>
    let l := s.chan pk n
    if lmOk ((l.getD i {}).bits) then .next (s.setChan pk n (mapAt (fun m => { m with taken := true }) i l))
    else .next ((s.setChan pk n (dropAt i l)).launchFault pk n 0x9002)

/-- WALK_START (R351): at most 1024 walks run on a package. -/
def execWalkStart (pk : Nat) (s : State) : Host.Outcome State Fault Refusal :=
  match firstLm (s.lms pk fun m => m.taken) with
  | none => .next s
  | some (_, n, i) =>
    if 1024 ≤ (s.work.walks.filter fun w => decide (w.2.pk = pk)).length then .next s
    else
      let l := s.chan pk n
      let b := (l.getD i {}).bits
      let prio : BitVec 3 := field b 76 3
      let pmax : BitVec 3 := field (s.reg pk (0x14000 + 8 * n)) 13 3
      .next (((s.setChan pk n (dropAt i l)).setWalk s.fl.next
        { pk := pk, asid := field b 64 12, graph := field b 0 64, ceil := if prio ≤ pmax then prio else pmax, tag := field b 96 32,
          args := field b 128 256 }).bump)

end Sys2Proof.Machine
end

