-- ==== Sys2Proof/Machine/Object.lean ====
section
/-! DEFINITION. The Figure object (R198, Table 8.17): reading it, its validation in the order of R394 (Table 18.2), and the logical regions and stream instances that it stands for (R473). -/
namespace Sys2Proof.Machine
open Sys2Proof

/-! ### Layout (0x1001) -/

/-- Offset and count of section `i`: images, regions, streams, reel words, blob, fixups, symbols. -/
def secOff (h : List Byte) (i : Nat) : Nat := bnum h (8 + 8 * i) 4
def secCnt (h : List Byte) (i : Nat) : Nat := bnum h (12 + 8 * i) 4
/-- Bytes of an entry of section `i`. -/
def secEnt (i : Nat) : Nat := [8, 32, 8, 8, 1, 8, 32].getD i 1
def secEnd (h : List Byte) (i : Nat) : Nat := secOff h i + secCnt h i * secEnt i
/-- The header and the section descriptors meet R198; the first breach by offset. -/
def objHeader (h : List Byte) : List Chk :=
  [(0, 0x1001, decide (bnum h 0 4 = 0x4F464D4E)), (4, 0x1001, decide (bnum h 4 4 = 1))]
  ++ (List.range 7).map fun i => (8 + 8 * i, (0x1001 : BitVec 16),
      decide (secOff h i % (if i = 4 then 64 else 8) = 0 ∧ (if i = 0 then 64 else secEnd h (i - 1)) ≤ secOff h i ∧ secEnd h i ≤ 2 ^ 32))

/-- Offset and size of image `i`, from the bytes up to the last section's end. -/
def imgOff (h : List Byte) (i : Nat) : Nat := bnum h (secOff h 0 + 8 * i) 4
def imgSize (h : List Byte) (i : Nat) : Nat := bnum h (secOff h 0 + 8 * i + 4) 4
/-- The first offset after image `i` − 1, or after the last section. -/
def imgFrom (h : List Byte) (i : Nat) : Nat := if i = 0 then secEnd h 6 else imgOff h (i - 1) + imgSize h (i - 1)
/-- No byte of a gap that begins at offset `a` is set (R394); the offset of the first that is. -/
def gapCheck (a : Nat) (b : List Byte) : Chk :=
  match b.findIdx? fun x => decide (x ≠ 0) with
  | some i => (a + i, 0x1001, false)
  | none => (a, 0x1001, true)
/-- The image table, the fixups and the symbols meet R198, and no byte between sections is set (R394). -/
def objTables (h : List Byte) : List Chk :=
  (List.range (secCnt h 0)).map (fun i => (secOff h 0 + 8 * i, (0x1001 : BitVec 16),
      decide (imgOff h i % 64 = 0 ∧ imgFrom h i ≤ imgOff h i ∧ imgOff h i + imgSize h i ≤ 2 ^ 32)))
  ++ (List.range (secCnt h 5)).map (fun i => (secOff h 5 + 8 * i, 0x1001, decide (bnum h (secOff h 5 + 8 * i) 8 + 8 ≤ secCnt h 4)))
  ++ (List.range (secCnt h 6)).map (fun i => (secOff h 6 + 32 * i, 0x1001,
      decide (bnum h (secOff h 6 + 32 * i) 8 % 64 = 0 ∧ bnum h (secOff h 6 + 32 * i) 8 + 64 ≤ secCnt h 4)))
  ++ (List.range 7).map fun i =>
      let a := if i = 0 then 64 else secEnd h (i - 1)
      gapCheck a ((h.drop a).take (secOff h i - a))

/-! ### Regions and streams (Table 8.17) -/

/-- A region entry with the words of its program. -/
structure ORegion where
  tmpl : W64 := 0
  c : Nat := 0
  skew : Nat := 0
  first : Nat := 0
  bytes : Nat := 0
  mask : W32 := 0
  words : List W64 := []
  deriving DecidableEq, Repr, Inhabited

/-- A stream entry: `out` for the writing end. -/
structure OStream where
  id : Nat := 0
  rg : Nat := 0
  out : Bool := false
  port : Nat := 0
  ext : Nat := 0
  mem : Option Nat := none
  deriving DecidableEq, Repr, Inhabited

/-- A Figure object. -/
structure Obj where
  imgs : List (List Byte) := []
  words : List W64 := []
  regs : List ORegion := []
  strs : List OStream := []
  deriving DecidableEq, Repr, Inhabited

/-- First reel word of object region `k`, and the first word after its program (R320). -/
def rgFirst (h : List Byte) (k : Nat) : Nat := bnum h (secOff h 1 + 32 * k + 10) 2
def rgPast (h : List Byte) (k : Nat) : Nat := if k + 1 < secCnt h 1 then rgFirst h (k + 1) else secCnt h 3

/-- The object, from the bytes of its sections and its images. -/
def parseObj (h : List Byte) (imgs : List (List Byte)) : Obj :=
  let ws := (List.range (secCnt h 3)).map fun i => (BitVec.ofNat 64 (bnum h (secOff h 3 + 8 * i) 8) : W64)
  { imgs := imgs, words := ws
    regs := (List.range (secCnt h 1)).map fun k =>
      let o := secOff h 1 + 32 * k
      { tmpl := BitVec.ofNat 64 (bnum h o 8), c := bnum h (o + 8) 1, skew := bnum h (o + 9) 1, first := rgFirst h k,
        bytes := bnum h (o + 12) 4, mask := BitVec.ofNat 32 (bnum h (o + 16) 4),
        words := (ws.drop (rgFirst h k)).take (rgPast h k - rgFirst h k) }
    strs := (List.range (secCnt h 2)).map fun i =>
      let w := bnum h (secOff h 2 + 8 * i) 8
      let out := w.testBit 22
      { id := w % 256, rg := if out then w / 2 ^ 8 % 64 else w / 2 ^ 16 % 64, out := out, port := w / 2 ^ 24 % 16, ext := w / 2 ^ 32 % 64,
        mem := if w.testBit 45 then some (w / 2 ^ 40 % 32) else none } }

/-- COUNT and LINK of a region's template. -/
def ORegion.count (r : ORegion) : Nat := (field r.tmpl 13 8 : BitVec 8).toNat
def ORegion.link (r : ORegion) : Bool := r.tmpl.getLsbD 21

/-- The decoded words of a program. -/
def ORegion.instrs (r : ORegion) : List Instr := r.words.filterMap fun w => okOf (decodeReel w)

/-- The images that a program names by number. One named through a register is known only when the word executes, so no check
of the loader counts it (DESIGN CHOICE, log 71). -/
def ORegion.images (r : ORegion) : List Nat :=
  (r.instrs.map fun i => match i with
    | .stripe _ (.imm v) _ => [v.toNat]
    | .dwell _ v img => (List.range (v.toNat + 1)).map fun k => img.toNat + k
    | _ => []).flatten
/-- The `dwell` words of a program: D, V and the first image. -/
def ORegion.dwells (r : ORegion) : List (Nat × Nat × Nat) :=
  r.instrs.filterMap fun i => match i with
    | .dwell d v img => some (d.toNat + 1, v.toNat + 1, img.toNat)
    | _ => none

/-- The pipeline length and the dwell of a region: the greatest that a `dwell` of its program gives (DEDUCED, log 31). -/
def ORegion.vlen (r : ORegion) : Nat := r.dwells.foldl (fun m d => max m d.2.1) 0
def ORegion.depth (r : ORegion) : Nat := r.dwells.foldl (fun m d => max m d.1) 1

/-- The DLC of a region's images (R31, R325): that of the first one its program names by number, where they disagree; of the
first one of the object, where it names its images through registers alone. DESIGN CHOICE (DESIGN CHOICE, log 71). -/
def ORegion.dlc (r : ORegion) (o : Obj) : BitVec 2 := BitVec.ofNat 2 (bnum (o.imgs.getD (r.images.headD 0) []) 0x24 1)
/-- Images of the region set SYS. -/
def ORegion.sys (r : ORegion) (o : Obj) : Bool := r.images.any fun i => imgSys (o.imgs.getD i [])
/-- The region runs only resident (R310, R474): SYS is set, or a loop context other than the distributed one is valid. -/
def ORegion.resident (r : ORegion) (o : Obj) : Bool :=
  r.sys o || r.images.any fun i =>
    let b := o.imgs.getD i []
    (List.range 4).any fun l => decide (l ≠ bnum b 0x24 1) && (imgLc b l).testBit 16
/-- The program has a `stripe` or direct `swap` word. -/
def ORegion.fixed (r : ORegion) : Bool := r.instrs.any fun i => match i with
  | .stripe .. | .swap _ | .swapAll => true
  | _ => false
/-- R354. -/
def ORegion.shrinks (r : ORegion) (o : Obj) : Bool := !(r.sys o) && !r.fixed
/-- The program has a `save` or `rest` word. -/
def ORegion.saves (r : ORegion) : Bool := r.instrs.any fun i => match i with
  | .save .. | .rest .. => true
  | _ => false

/-! ### Validation (R394) -/

/-- The reel words (0x1007). -/
def reelChecks (h : List Byte) (o : Obj) : List Chk :=
  (o.words.zip (List.range o.words.length)).map fun p => (secOff h 3 + 8 * p.2, (0x1007 : BitVec 16),
    match decodeReel p.1 with
    | .error _ => false
    | .ok (.dwell _ v img) => decide (img.toNat + v.toNat + 1 ≤ o.imgs.length)
    | .ok _ => true)

/-- The region entries (0x1008). -/
def regionChecks (h : List Byte) (o : Obj) : List Chk :=
  ((o.regs.zip (List.range o.regs.length)).map fun p =>
    let r := p.1
    let a := secOff h 1 + 32 * p.2
    ([(a, 0x1008, decide (r.tmpl.toNat % 2 ^ 13 = 1 ∧ r.tmpl.toNat / 2 ^ 22 = 0 ∧ 1 ≤ r.count ∧ r.count ≤ (if r.link then 128 else 32))),
      (a + 8, 0x1008, decide (1 ≤ r.c ∧ r.c ≤ 32 ∧ r.skew ≤ 63 ∧ r.first ≤ rgPast h p.2 ∧ rgPast h p.2 ≤ o.words.length)),
      (a + 0x14, 0x1008, decide (bnum h (a + 0x14) 12 = 0))] : List Chk)).flatten
  ++ [(secOff h 1, 0x1008, decide ((o.regs.map fun r => r.c).sum ≤ 64))]

/-- The entries of logical stream `id`. -/
def Obj.ends (o : Obj) (id : Nat) : List OStream := o.strs.filter fun e => decide (e.id = id)
/-- Copies of object region `k`. -/
def Obj.copies (o : Obj) (k : Nat) : Nat := (o.regs.getD k {}).c
/-- The logical streams, ascending. -/
def Obj.ids (o : Obj) : List Nat := (List.range 256).filter fun i => !(o.ends i).isEmpty
/-- The entries of one logical stream can be joined: one of each direction between regions of equal copy counts, or one
with a memory end. -/
def endsOk (o : Obj) (l : List OStream) : Bool :=
  match l with
  | [e] => e.mem.isSome
  | [e, f] => decide (e.mem = none ∧ f.mem = none ∧ e.out ≠ f.out ∧ o.copies e.rg = o.copies f.rg)
  | _ => false

/-- The stream entries (0x1008). The region field that an entry does not use, and the ring stream of one without a memory end, may hold
any value (DESIGN CHOICE, log 96). -/
def streamChecks (h : List Byte) (o : Obj) : List Chk :=
  ((o.strs.zip (List.range o.strs.length)).map fun p =>
    let e := p.1
    let w := bnum h (secOff h 2 + 8 * p.2) 8
    (secOff h 2 + 8 * p.2, (0x1008 : BitVec 16),
      decide (w.testBit 14 ≠ w.testBit 22 ∧ w / 2 ^ 15 % 2 = 0 ∧ w / 2 ^ 23 % 2 = 0 ∧ w / 2 ^ 28 % 16 = 0 ∧ w / 2 ^ 38 % 4 = 0 ∧ w / 2 ^ 46 = 0
        ∧ e.id < 192 ∧ e.rg < o.regs.length)
      && !((o.strs.take p.2).any fun f => decide (f.rg = e.rg ∧ f.port = e.port)) && endsOk o (o.ends e.id)))
  ++ [(secOff h 2, 0x1008, decide ((o.ids.map fun i => o.copies ((o.ends i).headD {}).rg).sum ≤ 192))]

/-- The direction that region `k` binds a port in: true for outbound. -/
def Obj.portDir (o : Obj) (k port : Nat) : Option Bool := (o.strs.find? fun e => decide (e.rg = k ∧ e.port = port)).map OStream.out

/-- The stream-port uses of an image: offset, port, outbound (R268). -/
def portUses (b : List Byte) : List (Nat × Nat × Bool) :=
  let tgt (o : Nat) : Target → List (Nat × Nat × Bool)
    | .sp i => [(o, i.toNat, true)]
    | _ => []
  ((imgRecs b).1.map fun r => ((List.range 16).map fun i =>
    let o := r.2 + 8 + 6 * i
    let (t1, t2) := slotTargets b r.2 i
    (match decodeSlot (BitVec.ofNat 48 (bnum b o 6)) with
     | .ok (.spop f) => [(o, f.mod.toNat, false)]
     | .ok (.spush f) => [(o, f.mod.toNat, true)]
     | _ => []) ++ tgt o t1 ++ tgt o t2).flatten).flatten
  ++ ((imgMxs b).map fun r => ((List.range 8).map fun j =>
    match decodeMatrix (BitVec.ofNat 64 (bnum b (r.2 + 8 * j) 8)) with
    | .ok ins => (match ins.mword? with | some (_, m) => if bnum b (r.2 + 8 * j) 8 = 0 then [] else tgt (r.2 + 8 * j) m.dtgt | none => [])
    | .error _ => []).flatten).flatten

/-- The first breach of R268 over every region and the images that it names: image and offset. -/
def portBreach (o : Obj) : Option (Nat × Nat) :=
  (o.regs.zip (List.range o.regs.length)).findSome? fun p =>
    p.1.images.findSome? fun i =>
      ((portUses (o.imgs.getD i [])).find? fun u => decide (o.portDir p.2 u.2.1 ≠ some u.2.2)).map fun u => (i, u.1)

/-- The first `ctok.ilast` slot that does not lie in the stage of the others of its loop context, which is its region's, over the images
that the region names (R223; DEDUCED, log 68): image and offset. -/
def ilastBreach (o : Obj) : Option (Nat × Nat) :=
  o.regs.findSome? fun r => (List.range 4).findSome? fun l =>
    let all := (r.images.map fun i => if imgMode (o.imgs.getD i []) then [] else (ilastSlots (o.imgs.getD i []) l).map fun x => (i, x)).flatten
    match all with
    | [] => none
    | a :: _ => (all.find? fun x => decide (x.2.2 ≠ a.2.2)).map fun x => (x.1, x.2.1)

/-- A region that runs only resident must not be dwelt longer than its COUNT (0x1009). -/
def dwellChecks (h : List Byte) (o : Obj) : List Chk :=
  (o.regs.zip (List.range o.regs.length)).map fun p =>
    (secOff h 1 + 32 * p.2, 0x1009, !(p.1.resident o) || p.1.dwells.all fun d => decide (d.2.1 ≤ p.1.count))

/-- DETAIL of a loader record (R404). -/
def loadDetail (img : Option Nat) (off : Nat) : Nat := (img.getD 0xFFFF) % 65536 * 65536 + off % 65536

/-- The first breach of an object whose layout stands: DETAIL and code (Table 18.2). -/
def objBreach (h : List Byte) (o : Obj) : Option (Nat × BitVec 16) :=
  let out (c : List Chk) : Option (Nat × BitVec 16) := (breach c).map fun x => (loadDetail none x.1, x.2)
  (((o.imgs.zip (List.range o.imgs.length)).findSome? fun p => (imgBreach p.1).map fun x => (loadDetail (some p.2) x.1, x.2))
  |>.orElse fun _ => ((ilastBreach o).map fun p => (loadDetail (some p.1) p.2, 0x1004))
  |>.orElse fun _ => out (reelChecks h o)
  |>.orElse fun _ => out (regionChecks h o ++ streamChecks h o)
  |>.orElse fun _ => (portBreach o).map fun p => (loadDetail (some p.1) p.2, 0x1008))
  |>.orElse fun _ => out (dwellChecks h o)

/-! ### Reading (R394, R342) -/

/-- The loader among the requesters of its package (R371). -/
def loaderWho : Nat := 2 ^ 40
/-- `n` bytes of virtual memory from an address, in 64-byte loads. -/
def State.objRead (s : State) (pk : Nat) (asid : BitVec 12) (va : W64) (off n : Nat) : Reach :=
  (List.range ((n + 63) / 64)).foldl (fun acc i =>
    match acc with
    | .done t v =>
      match t.graphRead pk asid loaderWho (va + BitVec.ofNat 64 (off + 64 * i)) (min 64 (n - 64 * i)) with
      | .done u w => .done u (v ++ w)
      | r => r
    | r => r) (.done s [])

/-- What loading an object comes to: the object, a wait, a failed read, or a rejection with its DETAIL. -/
inductive Loaded where
  | obj (s : State) (o : Obj)
  | wait
  | stop (s : State) (code : BitVec 16)
  | reject (s : State) (code : BitVec 16) (detail : Nat)
  deriving Repr, Inhabited

/-- The parts of an object at the listed offsets and sizes, in order. -/
def State.readParts (s : State) (pk : Nat) (asid : BitVec 12) (va : W64) (ps : List (Nat × Nat)) : Except Reach (State × List (List Byte)) :=
  ps.foldl (fun acc p =>
    match acc with
    | .ok (t, l) =>
      match t.objRead pk asid va p.1 p.2 with
      | .done u b => .ok (u, l ++ [b])
      | r => .error r
    | r => r) (.ok (s, []))

/-- The loader reads and validates the object at `va` (R394). -/
def State.loadObj (s : State) (pk : Nat) (asid : BitVec 12) (va : W64) : Loaded :=
  let back : Reach → Loaded
    | .done t _ => .stop t 0
    | .wait _ => .wait
    | .stop t c => .stop t c
  match s.objRead pk asid va 0 64 with
  | .done t h0 =>
    match breach (objHeader h0) with
    | some (o, c) => .reject t c (loadDetail none o)
    | none =>
      match t.objRead pk asid va 0 (secEnd h0 6) with
      | .done u h =>
        match breach (objTables h) with
        | some (o, c) => .reject u c (loadDetail none o)
        | none =>
          let is := List.range (secCnt h 0)
          match u.readParts pk asid va (is.map fun i => (imgFrom h i, imgOff h i - imgFrom h i)) with
          | .error r => back r
          | .ok (w, gaps) =>
            match breach ((is.zip gaps).map fun g => gapCheck (imgFrom h g.1) g.2) with
            | some (o, c) => .reject w c (loadDetail none o)
            | none =>
              match w.readParts pk asid va (is.map fun i => (imgOff h i, imgSize h i)) with
              | .error r => back r
              | .ok (v, imgs) =>
                let o := parseObj h imgs
                match objBreach h o with
                | some (d, c) => .reject v c d
                | none => .obj v o
      | r => back r
  | r => back r

end Sys2Proof.Machine
end

