-- ==== Sys2Proof/Machine/Place.lean ====
section
/-! DEFINITION. Placement (R353, R354, R433, R468): what each logical region asks for, the resources in use, the first fit, the allotments of ring banks (R104), and the binding of a placed Figure (R33, R77, R355). -/
namespace Sys2Proof.Machine
open Sys2Proof

/-- What a logical region asks of a placement: the COUNTs to try in order (R354), its ring-bank bytes, ring-stream mask
and ports with their extensions, the pipeline length and dwell of its `dwell`, whether its program saves stripes, the
address its bytes must keep, and the logical regions that a stream joins it to. -/
structure Ask where
  obj : Nat := 0
  copy : Nat := 0
  copies : Nat := 1
  skew : Nat := 0
  link : Bool := false
  counts : List Nat := []
  bytes : Nat := 0
  mask : W32 := 0
  ports : List (Nat × Nat) := []
  vlen : Nat := 0
  depth : Nat := 1
  saves : Bool := false
  at_ : Option Nat := none
  joins : List Nat := []
  stamp : Nat := 0
  deriving DecidableEq, Repr, Inhabited

/-- A place found: the ring of the first stripe, FIRST, COUNT, and the ring-bank allotments. -/
structure Spot where
  ring : Nat := 0
  first : Nat := 0
  count : Nat := 0
  link : Bool := false
  data : List Allot := []
  park : List Allot := []
  save : List Allot := []
  exts : List (Nat × Allot) := []
  deriving DecidableEq, Repr, Inhabited

/-! ### Windows -/

/-- The stripes of a window, in window order (R34). -/
def windowStripes (ring first count : Nat) (link : Bool) : List Nat :=
  (List.range count).map fun i => if link then ring * 32 + first + i else ring * 32 + (first + i) % 32
/-- A list of numbers without repeats. -/
def nub : List Nat → List Nat
  | [] => []
  | x :: xs => x :: (nub xs).filter fun y => decide (y ≠ x)
/-- The rings of a window. -/
def windowRings (sts : List Nat) : List Nat := nub (sts.map ringOf)
def Spot.stripes (p : Spot) : List Nat := windowStripes p.ring p.first p.count p.link

/-! ### What is in use -/

def Occ.add (a b : Occ) : Occ :=
  { stripes := a.stripes ++ b.stripes, ports := a.ports ++ b.ports, masks := a.masks ++ b.masks, banks := a.banks ++ b.banks }

/-- What a resident region holds: its ports and ring streams are those of the ring it is placed on (R178; DEDUCED, log 92). -/
def State.regionOcc (s : State) (rg : Nat) (r : Region) : Occ :=
  { stripes := r.stripes
    ports := (s.fab.ports.filter fun p => decide (p.2.rg = some rg)).map Prod.fst
    masks := [(r.ring, r.rsmask)]
    banks := r.allot ++ r.parkAllot ++ r.saveAllot }

/-- The stripes that no placement may take (R433, R468, R119): withdrawn ones, and those of a ring without a bank or of a
die in reset. -/
def State.withdrawn (s : State) (pk : Nat) : List Nat :=
  ((List.range 64).map fun g =>
    let all := decide ((s.reg pk (0x16800 + 8 * g)).getLsbD 7) || (s.ring (pk * 64 + g)).inReset
    ((List.range 32).filter fun i => all || (s.reg pk (0x16400 + 8 * g)).getLsbD (9 + i)).map fun i => (pk * 64 + g) * 32 + i).flatten

/-- The resources in use on a package, those of the Figures that `skip` names left out. -/
def State.occ (s : State) (pk : Nat) (skip : Nat → Bool) : Occ :=
  (s.regions.filter fun p => decide (p.2.pk = pk) && !(skip (figOf p.1))).foldl (fun o p => o.add (s.regionOcc p.1 p.2))
    { stripes := s.withdrawn pk }

/-- Resident Figures of a package (R353). -/
def State.residents (s : State) (pk : Nat) (skip : Nat → Bool) : Nat :=
  (s.figs.filter fun f => decide (f.2.pk = pk ∧ f.2.phase ≠ .saved) && !(skip f.1)).length

/-! ### First fit -/

/-- The lowest multiple of `al` not below `a`. -/
def alignUp (a al : Nat) : Nat := (a + al - 1) / al * al
/-- The least of a list. -/
def leastOf : List Nat → Option Nat
  | [] => none
  | x :: xs => match leastOf xs with | none => some x | some y => some (min x y)
/-- The lowest free range of `n` bytes between `lo` and `hi`. -/
def gapIn (used : List (Nat × Nat)) (lo hi al n : Nat) : Option Nat :=
  leastOf (((lo :: used.map fun u => u.1 + u.2).map fun a => alignUp (max a lo) al).filter fun a =>
    decide (a + n ≤ hi) && used.all fun u => decide (a + n ≤ u.1 ∨ u.1 + u.2 ≤ a ∨ u.2 = 0))

/-- The ranges in use in the banks of a ring. -/
def bankUse (l : List Allot) (ring : Nat) : List (Nat × Nat) := (l.filter fun a => decide (a.ring = ring)).map fun a => (a.base, a.len)

/-- Room for a range in one bank of a ring. -/
def bankGap (l : List Allot) (ring bank n : Nat) : Option Allot :=
  (gapIn (bankUse l ring) (bank * 2 ^ 21) ((bank + 1) * 2 ^ 21) 64 n).map fun b => { ring := ring, base := b, len := n }
/-- Each of a list of ranges, given by ring, bank and length, is allotted in turn. -/
def allotEach : List (Nat × Nat × Nat) → List Allot → Option (List Allot)
  | [], _ => some []
  | (ring, bank, n) :: xs, l =>
    match bankGap l ring bank n with
    | none => none
    | some a => (allotEach xs (l ++ [a])).map fun r => a :: r

/-- An extension of a port lies in one bank, in units of 512 bytes (Table 3.6). -/
def extGap (l : List Allot) (ring n : Nat) : Option Allot :=
  ((List.range 32).findSome? fun b => gapIn (bankUse l ring) (b * 2 ^ 21) ((b + 1) * 2 ^ 21) 512 n).map fun b => { ring := ring, base := b, len := n }
def allotExts (ring : Nat) : List (Nat × Nat) → List Allot → Option (List (Nat × Allot))
  | [], _ => some []
  | (p, e) :: xs, l =>
    if e = 0 then allotExts ring xs l
    else match extGap l ring (512 * e) with
      | none => none
      | some a => (allotExts ring xs (l ++ [a])).map fun r => (p, a) :: r

/-- The allotments of a window (R36, R40, R77, R104): the region's bytes at one address in every ring of the window,
followed, for a program that saves, by a save slot for each window stripe (DEDUCED, log 34); a park buffer for each group boundary
in the bank behind the last stripe, a save slot for each virtual stripe of a scrolled placement behind its physical
stripe, and the extensions. R40 lets the loader leave out the slot of a virtual stripe that it can prove stateless and names no
proof: this loader proves none, and every virtual stripe has a slot (DESIGN CHOICE, log 70). -/
def allotAll (a : Ask) (sts : List Nat) (ring : Nat) (l : List Allot) : Option (List Allot × List Allot × List Allot × List (Nat × Allot)) :=
  let rings := windowRings sts
  let w := sts.length
  let used := (rings.map fun g => bankUse l g).flatten
  let own := alignUp a.bytes 64
  let all := own + (if a.saves then 16384 * w else 0)
  let data := if all = 0 then some 0 else match a.at_ with
    | some b => if (gapIn used b (b + all) 1 all).isSome then some b else none
    | none => gapIn used 0 (2 ^ 26) 64 all
  match data with
  | none => none
  | some b =>
    let d := if a.bytes = 0 then [] else rings.map fun g => { ring := g, base := b, len := a.bytes : Allot }
    let sv0 := if a.saves then (List.range w).map fun i => ({ ring := ring, base := b + own + 16384 * i, len := 16384 } : Allot) else []
    let l1 := l ++ d ++ sv0
    let last := sts.getLastD 0
    let parks := if a.vlen ≤ w then [] else List.replicate ((a.vlen + w - 1) / w - 1) (ringOf last, last % 32, 128 * a.depth)
    match allotEach parks l1 with
    | none => none
    | some pk =>
      let slots := if a.vlen ≤ w then [] else (List.range a.vlen).map fun v => let st := sts.getD (v % w) 0; (ringOf st, st % 32, 16384)
      match allotEach slots (l1 ++ pk) with
      | none => none
      | some sv => (allotExts ring a.ports (l1 ++ pk ++ sv)).map fun x => (d, pk, sv ++ sv0, x)

/-- A window is tried at one place (R353). -/
def spotAt (o : Occ) (a : Ask) (ring first count : Nat) : Option Spot :=
  let sts := windowStripes ring first count a.link
  if (if a.link then ring % 4 * 32 + first + count ≤ 128 else count ≤ 32)
    ∧ sts.all (fun st => !(o.stripes.contains st))
    ∧ a.ports.all (fun p => !(o.ports.contains (ring * 16 + p.1)))
    ∧ o.masks.all (fun m => decide (m.1 ≠ ring) || decide (m.2 &&& a.mask = 0)) then
    (allotAll a sts ring o.banks).map fun x =>
      { ring := ring, first := first, count := count, link := a.link, data := x.1, park := x.2.1, save := x.2.2.1, exts := x.2.2.2 }
  else none

/-- What a place holds: its ports stand on its ring RING alone, also in a linked window (DEDUCED, log 33). -/
def Spot.occ (p : Spot) (a : Ask) : Occ :=
  { stripes := p.stripes
    ports := a.ports.map fun q => p.ring * 16 + q.1
    masks := [(p.ring, a.mask)]
    banks := p.data ++ p.park ++ p.save ++ p.exts.map Prod.snd }

/-- Two dies that a logical stream can join (R353). -/
def diesJoin (m n : Nat) : Bool := decide (m = n ∨ (m + 1) % 16 = n ∨ (n + 1) % 16 = m)

/-- A region's place: COUNT by COUNT, then die, ring and FIRST ascending. `avoid` names dies that another instance of the
region holds (R425). -/
def placeOne (o : Occ) (pk : Nat) (spots : List (Option Spot)) (avoid : List Nat) (a : Ask) : Option Spot :=
  a.counts.findSome? fun c =>
    (List.range 64).findSome? fun g =>
      let ok := !(avoid.contains (g / 4)) && a.joins.all fun j => match spots.getD j none with
        | some p => diesJoin (dieOf p.ring) (g / 4)
        | none => true
      if ok then (List.range 32).findSome? fun f => spotAt o a (pk * 64 + g) f c else none

/-- The regions of one instance, in ascending number; `none` in the list is a region that has retired. -/
def placeList (pk : Nat) (avoid : Nat → List Nat) : List (Option Ask) → Occ → List (Option Spot) → Option (List (Option Spot) × Occ)
  | [], o, l => some (l, o)
  | none :: as, o, l => placeList pk avoid as o (l ++ [none])
  | some a :: as, o, l =>
    match placeOne o pk l (avoid l.length) a with
    | none => none
    | some p => placeList pk avoid as (o.add (p.occ a)) (l ++ [some p])

/-- Every instance in turn, all or nothing. -/
def placeAll (pk : Nat) : List (List (Option Ask)) → Occ → List (List (Option Spot)) → Option (List (List (Option Spot)))
  | [], _, l => some l
  | as :: rest, o, l =>
    match placeList pk (fun i => l.filterMap fun ps => (ps.getD i none).map fun p => dieOf p.ring) as o [] with
    | none => none
    | some (ps, o1) => placeAll pk rest o1 (l ++ [ps])

/-! ### What a Figure asks -/

/-- The first logical region of object region `k` (R473). -/
def Obj.base (o : Obj) (k : Nat) : Nat := ((o.regs.take k).map fun r => r.c).sum

/-- The COUNTs of R354. -/
def shrinkCounts (w v : Nat) (shrink resident : Bool) : List Nat :=
  if shrink then
    let lo := max ((w + 1) / 2) (if resident then min v w else 1)
    (List.range (w + 1 - lo)).map fun i => w - i
  else [w]

/-- The logical regions of an object, each with what it asks. -/
def Obj.asks (o : Obj) : List Ask :=
  ((List.range o.regs.length).map fun k =>
    let r := o.regs.getD k {}
    (List.range r.c).map fun j =>
      { obj := k, copy := j, copies := r.c, skew := r.skew, link := r.link
        counts := shrinkCounts r.count r.vlen (r.shrinks o) (r.resident o), bytes := r.bytes, mask := r.mask
        ports := (o.strs.filter fun e => decide (e.rg = k)).map fun e => (e.port, e.ext), vlen := r.vlen, depth := r.depth
        saves := r.saves, stamp := o.base k
        joins := (o.strs.filter fun e => decide (e.rg = k)).map (fun e => (o.ends e.id).filter fun f => decide (f.rg ≠ k))
          |>.flatten.map fun f => o.base f.rg + j }).flatten

/-! ### Binding (R33, R77, R355) -/

/-- SPCFG of a port end. -/
def spcfg (ext : Nat) (a : Option Allot) (out : Bool) : W32 :=
  let b := match a with | some x => x.base | none => 0
  BitVec.ofNat 32 (ext + b / 2 ^ 21 % 32 * 2 ^ 6 + b % 2 ^ 21 / 512 * 2 ^ 11 + (if out then 2 ^ 23 else 0))

/-- The stream instances of an object whose regions stand at the given places, by relocation entry (R473). -/
def Obj.instances (o : Obj) (spots : List (Option Spot)) : FMap SInst :=
  let port (e : OStream) (j : Nat) : Option Nat := (spots.getD (o.base e.rg + j) none).map fun p => p.ring * 16 + e.port
  let all := (o.ids.map fun i => (List.range (o.copies ((o.ends i).headD {}).rg)).map fun j =>
    let l := o.ends i
    ({ wport := (l.find? fun e => e.out).bind fun e => port e j, rport := (l.find? fun e => !e.out).bind fun e => port e j } : SInst)).flatten
  (all.zip (List.range all.length)).foldl (fun (m : FMap SInst) p => m.put {} (64 + p.2) p.1) []

/-- A part of a window comes to a region, nothing in it (R54): the registers of its elements stay as they are (DEDUCED, log 32). -/
def State.takeStripe (s : State) (st rg ws : Nat) : State :=
  let t := s.stripe st
  let s1 := (List.range 16).foldl (fun u j => u.setMx (st * 128 + 64 + j) { u.mx (st * 128 + 64 + j) with tcnt := 0 }) s
  s1.setStripe st { t with rg := some rg, ws := ws }

/-- The stripes of a window come to region `rg`, and every ring of it wakes (R376). -/
def State.takeWindow (s : State) (rg : Nat) (sts : List Nat) : State :=
  let s1 := (sts.zip (List.range sts.length)).foldl (fun u p => u.takeStripe p.1 rg p.2) s
  (windowRings sts).foldl (fun u g => u.setRing g { u.ring g with gated := false }) s1

/-- The ring streams of the mask take the reset values of Table 11.3 (R355 step 2). -/
def State.takeStreams (s : State) (rg ring : Nat) (mask : W32) : State :=
  (List.range 32).foldl (fun v k => if mask.getLsbD k then v.setStrm (ring * 32 + k) { rg := some rg } else v) s

/-- The ports that a region's stream entries name, bound on its ring as the entries say (R77, R178);
a linked window's on RING alone (DEDUCED, log 33). -/
def State.takePorts (s : State) (rg : Nat) (p : Spot) (es : List OStream) : State :=
  es.foldl (fun u e =>
    let n := p.ring * 16 + e.port
    let x := (p.exts.find? fun q => decide (q.1 = e.port)).map Prod.snd
    let u1 := u.setPort n { cfg := spcfg e.ext x e.out, rg := some rg, mem := e.mem }
    match e.mem with
      | some k => u1.setStrm (p.ring * 32 + k) { u1.strm (p.ring * 32 + k) with port := some n, rg := some rg }
      | none => u1) s

/-- USR0-USR15 at a launch (R345). -/
def launchUsr (ua : BitVec 128) (args : BitVec 256) : FMap W32 :=
  let m : FMap W32 := (List.range 4).foldl (fun m i => m.put 0 i (field ua (32 * i) 32)) ([] : FMap W32)
  (List.range 8).foldl (fun m i => m.put 0 (8 + i) (field args (32 * i) 32)) m

/-- The loader binds one region (R355); the values at arming are set here (DEDUCED, log 50). -/
def State.bindRegion (s : State) (pk rg : Nat) (o : Obj) (a : Ask) (p : Spot) (usr : FMap W32) : State :=
  let r := o.regs.getD a.obj {}
  let es := o.strs.filter fun e => decide (e.rg = a.obj)
  let s1 := ((s.takeWindow rg p.stripes).takeStreams rg p.ring a.mask).takePorts rg p es
  s1.setRegion rg
    { pk := pk, ring := p.ring, first := p.first, count := p.count, link := p.link, copy := a.copy, copies := a.copies, skew := a.skew
      stamp := a.stamp, obj := a.obj, ioff := BitVec.ofNat 64 a.copy, dlc := r.dlc o, rsmask := a.mask, allot := p.data
      saveAllot := p.save, parkAllot := p.park ++ p.exts.map Prod.snd, usr := usr
      reel := { words := (r.words.zip (List.range r.words.length)).foldl (fun (m : FMap W64) w => m.put 0 w.2 w.1) [], count := r.words.length, live := true }
      live := true, vlen := a.vlen, shrinkable := r.shrinks o, template := r.count }

/-- One instance of a placed Figure. -/
def State.bindFigure (s : State) (fg : Nat) (x : Fig) (o : Obj) (spots : List (Option Spot)) (usr : FMap W32) : State :=
  let s1 := s.setFig fg { x with
    streams := o.instances spots
    imgs := (o.imgs.zip (List.range o.imgs.length)).foldl (fun (m : FMap Plane) p => m.put {} p.2 (imgPlane p.1 p.2)) []
    nimg := o.imgs.length, nreg := o.asks.length, placedAt := s.cyc, retired := o.regs.isEmpty }
  let as := o.asks
  (List.range as.length).foldl (fun u i =>
    match spots.getD i none with
    | some p => u.bindRegion x.pk (fg * 64 + i) o (as.getD i {}) p usr
    | none => u) s1

end Sys2Proof.Machine
end

