-- ==== Sys2Proof/Machine/Sched.lean ====
section
/-! DEFINITION. The scheduler's order of tasks (R47), dispatch (R352), the rejection of an object (R394), and the completion of tasks (R343, R396). -/
namespace Sys2Proof.Machine
open Sys2Proof

/-! ### The order of tasks (R47) -/

/-- Fabric cycles in a millisecond (R356: 1440 cycles are 800 ns). -/
def msCycles : Nat := 1800000

/-- Every ready task of the package has risen a level for each millisecond it has waited. -/
def State.ageTasks (s : State) (pk : Nat) : State :=
  { s with work := { s.work with tasks := s.work.tasks.map fun p =>
      if p.2.pk = pk ∧ p.2.phase = .ready then (p.1, { p.2 with aged := max p.2.aged (min (6 - p.2.prio.toNat) ((s.cyc - p.2.since) / msCycles)) }) else p } }

/-- TASK_AGING (R47). -/
def execTaskAging (pk : Nat) (s : State) : Host.Outcome State Fault Refusal := .next (s.ageTasks pk)

/-- The dispatch level of a task. -/
def Task.level (t : Task) : Nat := min 6 (t.prio.toNat + t.aged)
/-- Task `a` stands before task `b`: the higher level, then the earlier readiness (R47; below level 6 DESIGN CHOICE, log 67), then
the earlier creation. -/
def taskBefore (a b : Nat × Task) : Bool :=
  decide (b.2.level < a.2.level) || (decide (b.2.level = a.2.level) && (decide (a.2.ready < b.2.ready) || decide (a.2.ready = b.2.ready ∧ a.1 < b.1)))
def insertTask (t : Nat × Task) : List (Nat × Task) → List (Nat × Task)
  | [] => [t]
  | x :: xs => if taskBefore t x then t :: x :: xs else x :: insertTask t xs
/-- The ready tasks of a package, in order. -/
def State.readyTasks (s : State) (pk : Nat) : List (Nat × Task) :=
  (s.work.tasks.filter fun p => decide (p.2.pk = pk ∧ p.2.phase = .ready)).foldl (fun l t => insertTask t l) []

/-- The ready KERNEL task that resources are reserved for (R358). -/
def State.reservedReady (s : State) (pk : Nat) : Option (Nat × Task) :=
  match (s.sched pk).victim with
  | none => none
  | some tk => (s.readyTasks pk).find? fun p => decide (p.1 = tk ∧ p.2.kernel = true)

/-! ### Ends of tasks (R343, R396, R399) -/

/-- A reservation for a task is given up once the task has its place, or is over. -/
def State.placedTask (s : State) (pk tk : Nat) : State :=
  let x := s.sched pk
  if x.victim = some tk then s.setSched pk { x with victim := none, held := {} } else s

/-- A task is over: a faulted one ends its walk. -/
def State.endTask (s : State) (tk : Nat) (faulted : Bool) : State :=
  match s.task tk with
  | none => s
  | some t =>
    let s1 := (s.placedTask t.pk tk).delTask tk
    let s2 := if faulted then (match s1.walk t.walk with
      | some w => s1.setWalk t.walk { w with isOver := true, faulted := true }
      | none => s1) else s1
    s2.reapWalk t.walk

/-- A task whose object is rejected (R394): the record, and the task is over, faulted. -/
def State.rejectTask (s : State) (tk : Nat) (t : Task) (w : Walk) (code : BitVec 16) (point : BitVec 3) (detail : Nat) : State :=
  (s.detect t.pk (.figure tk) (2 ^ 87) {
    fcode := code, tier := (if code.toNat / 4096 = 14 then 2 else 4), point := point, asid := w.asid,
    detail := BitVec.ofNat 32 detail, addr := t.obj, tag := w.tag }).endTask tk true

/-! ### Dispatch (R352, R353, R425, R429) -/

/-- How many instances a Figure runs as: three for a tie-break entry, two under a valid DUPn, else one. -/
def State.instancesOf (s : State) (pk : Nat) (asid : BitVec 12) (obj : W64) : Nat :=
  if (s.sched pk).ties.any fun p => decide (p = (asid, obj)) then 3
  else if (List.range 16).any fun n => let d := s.reg pk (0x16200 + 8 * n); d.getLsbD 0 && decide ((field d 1 12 : BitVec 12) = asid) then 2
  else 1

/-- The resources that a placement for task `tk` finds in use: those of the Figures that `skip` leaves, and what is
reserved for another task (R358). -/
def State.occFor (s : State) (pk tk : Nat) (skip : Nat → Bool) : Occ :=
  let x := s.sched pk
  (s.occ pk skip).add (if x.victim.isSome ∧ x.victim ≠ some tk then x.held else {})

/-- Places for `n` instances, where the package takes as many Figures more. -/
def State.tryPlace (s : State) (pk tk : Nat) (skip : Nat → Bool) (as : List (List (Option Ask))) : Option (List (List (Option Spot))) :=
  if s.residents pk skip + as.length ≤ 128 then placeAll pk as (s.occFor pk tk skip) [] else none

/-- The instances of a Figure take their places (R355, R425). -/
def State.launch (s : State) (tk : Nat) (t : Task) (w : Walk) (o : Obj) (spots : List (List (Option Spot))) : State :=
  let lead := s.fl.next
  let n := spots.length
  let usr := launchUsr t.ua w.args
  let s1 := (spots.zip (List.range n)).foldl (fun u p =>
    (u.bindFigure u.fl.next
      { pk := t.pk, asid := w.asid, tag := w.tag, task := tk, obj := t.obj, prio := t.prio, inst := p.2, insts := n, lead := lead } o p.1 usr).bump) s
  let x := s1.sched t.pk
  let s2 := s1.setSched t.pk { x with ties := x.ties.filter fun p => decide (p ≠ (w.asid, t.obj)) }
  (s2.setTask tk { t with phase := .running, fg := some lead }).placedTask t.pk tk

/-- A KERNEL task is loaded and placed: the state after a dispatch or a rejection, `none` where it must wait. -/
def State.dispatchKernel (s : State) (tk : Nat) (t : Task) : Option State :=
  match t.fg, s.walk t.walk with
  | some _, _ => none
  | none, none => some (s.delTask tk)
  | none, some w =>
    match s.loadObj t.pk w.asid t.obj with
    | .wait => none
    | .stop u c => some (u.rejectTask tk t w (nodeCode c) (if (nodeCode c).toNat / 4096 = 9 then 6 else 2) t.node)
    | .reject u c d => some (u.rejectTask tk t w c 5 d)
    | .obj u o =>
      let as := List.replicate (u.instancesOf t.pk w.asid t.obj) (o.asks.map some)
      match u.tryPlace t.pk tk (fun _ => false) as with
      | some spots => some (u.launch tk t w o spots)
      | none =>
        if (placeAll t.pk as ({ stripes := u.withdrawn t.pk } : Occ) []).isNone then some (u.rejectTask tk t w 0x9007 6 t.node) else none

/-- A COPY task's request goes to its port, where that has room (R332, R352). -/
def State.dispatchCopy (s : State) (tk : Nat) (t : Task) : Option State :=
  let q := s.eng.queues.get [] t.tp
  match s.walk t.walk with
  | none => some (s.delTask tk)
  | some w =>
    if 16 ≤ q.length then none
    else
      let p : Packet := { bits := t.req, asid := w.asid, task := some tk }
      some (({ s with eng := { s.eng with queues := s.eng.queues.put [] t.tp (q ++ [p]) } }).setTask tk { t with phase := .running })

/-- The first of the ready tasks is dispatched. Behind a KERNEL task that finds no place only COPY tasks go on; a COPY
task without room at its port keeps the head. -/
def State.dispatchList (s : State) (blocked : Bool) : List (Nat × Task) → Option State
  | [] => none
  | (tk, t) :: ts =>
    if t.kernel then
      if blocked then s.dispatchList true ts
      else match s.dispatchKernel tk t with
        | some u => some u
        | none => s.dispatchList true ts
    else s.dispatchCopy tk t

/-- TASK_DISPATCH (R352, R353): the task that resources are reserved for is placed in them as soon as it can be, whatever has come to
stand ahead of it meanwhile (R358; DEDUCED, log 97). -/
def execTaskDispatch (pk : Nat) (s : State) : Host.Outcome State Fault Refusal :=
  let s1 := s.ageTasks pk
  if (s.members.get {} pk).step ≠ 0 then .next s
  else match (s1.reservedReady pk).bind fun p => s1.dispatchKernel p.1 p.2 with
    | some u => .next u
    | none => .next ((s1.dispatchList false (s1.readyTasks pk)).getD s1)

/-! ### Completion (R343) -/

/-- The instances of a Figure. -/
def State.group (s : State) (fg : Nat) : List Nat :=
  (s.figs.filter fun f => decide (f.2.lead = (s.fig fg).lead ∧ f.2.task = (s.fig fg).task ∧ f.2.pk = (s.fig fg).pk)).map Prod.fst
/-- The regions of a Figure that hold stripes. -/
def State.regionsOf (s : State) (fg : Nat) : List Nat := (s.regions.filter fun p => decide (figOf p.1 = fg)).map Prod.fst

/-- An access, a delta, a pending write or a bound store of the Figure is not yet performed; an
irrevocable write counts as performed when the staging buffer has accepted it (R343). -/
def State.figBusy (s : State) (fg : Nat) : Bool :=
  s.fl.accs.any (fun a => decide (figOf a.2.rg = fg ∧ a.2.rg ≠ 0 ∧ a.2.phase ≠ .performed ∧ a.2.phase ≠ .staged))
  || s.ms.deltas.any (fun d => decide (d.2.fg = fg))
  || s.fl.waits.any (fun w => decide (figOf w.2.rg = fg) && (match w.2.kind with
      | .packet .. | .publish .. | .cbput .. => true
      | .msend _ _ _ accepted => accepted.isNone
      | _ => false))
  || s.fab.strms.any (fun t => (match t.2.rg with | some rg => decide (figOf rg = fg) | none => false)
      && t.2.q.any fun o => o.access.isSome)
  || s.fab.ports.any (fun p => (match p.2.rg with | some rg => decide (figOf rg = fg) | none => false)
      && p.2.mem.isSome && p.2.cfg.getLsbD 23 && !p.2.fifo.isEmpty)

/-- What is left of a Figure on its stripes may go (R291, R364): its regions are free for release, its tokens go nowhere,
and its waits are over. -/
def State.dropFigure (s : State) (fg : Nat) : State :=
  let mine (rg : Nat) : Bool := decide (figOf rg = fg)
  let gone := (s.fl.waits.filter fun w => mine w.2.rg && decide (w.2.ret ≠ {} ∨ w.2.rg ≠ 0)).map Prod.fst
  let regs := s.regionsOf fg
  let s1 := regs.foldl (fun u rg => u.setRegion rg { u.region rg with live := false, halted := true, saved := true }) s
  let stOf' (st : Nat) : Bool := match (s.stripe st).rg with | some rg => mine rg | none => false
  { s1 with
    fl := { s1.fl with
      emits := s1.fl.emits.filter fun e => !(stOf' (srcStripe e.src)) || (match e.dst with | .port _ => true | _ => false)
      resv := s1.fl.resv.filter fun r => !(gone.contains r.1) && !(s.fl.accs.any fun a => decide (a.1 = r.1) && mine a.2.rg) && !(match r.2 with
        | .queue el _ | .opq el | .kreg el _ | .evmask el => stOf' (stOf el)
        | .pass st _ | .lane st _ => stOf' st
        | .port p => (match (s.port p).rg with | some rg => mine rg | none => false)
        | .pn rg _ | .cr rg _ => mine rg)
      twins := s1.fl.twins.map fun p => (p.1, p.2.filter fun q => !(mine q.2.1))
      accs := s1.fl.accs.map fun a => if mine a.2.rg then (a.1, { a.2 with ret := {}, toPort := none }) else a
      waits := s1.fl.waits.filter fun w => !(gone.contains w.1)
      hops := s1.fl.hops.filter fun h => !(stOf' (srcStripe h.src)) }
    fab := { s1.fab with strms := s1.fab.strms.map fun t =>
      match t.2.rg with
      | some rg => if mine rg then (t.1, { t.2 with q := [], parked := none, left := 0, eos := false }) else t
      | none => t } }

/-- The tainted tokens on their way to the queues, pass registers and lanes of a retired Figure, which are discarded, are counted
(R291, R420). -/
def State.countLost (s : State) (fg : Nat) : State :=
  let lost := s.fl.emits.filter fun e => e.tok.et && (match e.dst with | .port _ => false | _ => true)
    && (match (s.stripe (srcStripe e.src)).rg with | some rg => decide (figOf rg = fg) | none => false)
  s.count (s.fig fg).pk 1 lost.length

/-- Every region of the Figure and of its other instances has retired. -/
def State.groupRetired (s : State) (fg : Nat) : Bool := (s.group fg).all fun g => (s.fig g).retired

/-- A task completes; where its counter cannot be reached the walk ends (R343, Table 18.6). An error is the state in which it must
wait. -/
def State.countDone (s : State) (tk : Nat) (t : Task) : Except State State :=
  match s.walk t.walk with
  | none => .ok s
  | some w =>
    if t.done = 0 then .ok s
    else match s.graphAdd t.pk w.asid tk t.done 1 with
      | .wait u => .error u
      | .stop u c => .ok (u.nodeFault t.walk w c t.node t.done)
      | .done u _ => .ok u.bump

/-- KERNEL_TASK_COMPLETE (R343, R360, R396): a Figure that has retired and whose accesses are performed, or a COPY task
whose request is over, completes its task. -/
def execKernelTaskComplete (tk : Nat) (s : State) : Host.Outcome State Fault Refusal :=
  match s.task tk with
  | none => .next s
  | some t =>
    if t.phase ≠ .running then .next s
    else if t.kernel then
      match t.fg with
      | none => .next s
      | some fg =>
        if (s.fig fg).phase ≠ .placed ∨ s.groupRetired fg = false ∨ (s.group fg).any s.figBusy then .next s
        else match s.countDone tk t with
          | .error u => .next u
          | .ok u0 =>
            let u := (u0.group fg).foldl (fun v g => v.countLost g) u0
            let v := (u.group fg).foldl (fun v g => (v.dropFigure g).setFig g { (v.dropFigure g).fig g with phase := .saved, ended := true }) u
            .next (v.endTask tk false)
    else if (s.eng.queues.any fun q => q.2.any fun p => decide (p.task = some tk)) || (s.eng.reqs.any fun r => decide (r.2.pkt.task = some tk)) then .next s
    else if t.faulted then .next (s.endTask tk true)
    else match s.countDone tk t with
      | .error u => .next u
      | .ok u => .next (u.endTask tk false)

end Sys2Proof.Machine
end

