-- ==== Sys2Proof/Machine/Preempt.lean ====
section
/-! DEFINITION. Halting (R359, R360), the choice of victims (R358), `yld` (R331), save records (R361 to R363), the release of stripes (R291, R364) and the ends of Figures (R396). -/
namespace Sys2Proof.Machine
open Sys2Proof

/-! ### The queue of the fault log (R405) -/

/-- The records that wait for the log; FLTSTAT.HELD counts them. -/
def State.setLog (s : State) (pk : Nat) (l : List FaultRec) : State :=
  (s.setSched pk { s.sched pk with log := l }).setReg pk 0x16020 ((s.reg pk 0x16020 &&& 0xFFFF) ||| (BitVec.ofNat 64 l.length <<< 16))
/-- A record is queued and takes its NUM; where 256 wait it is dropped and counted in FLTSTAT.LOST. -/
def State.queueRec (s : State) (pk : Nat) (r : FaultRec) : State × Option W32 :=
  let x := s.sched pk
  if 256 ≤ x.log.length then
    (s.setReg pk 0x16020 ((s.reg pk 0x16020 &&& ~~~(0xFFFF : W64)) ||| BitVec.ofNat 64 (min 0xFFFF ((s.reg pk 0x16020).toNat % 65536 + 1))), none)
  else
    let n : W32 := BitVec.ofNat 32 x.num
    ((s.setSched pk { x with num := x.num + 1 }).setLog pk (x.log ++ [{ r with num := n }]), some n)

/-! ### Halting (R359) -/

/-- A region is asked to stop: a running handler finishes, unless a condition has stopped the region at a cycle. -/
def Region.halt (r : Region) (cyc : Nat) : Region :=
  { r with drain := r.drain || r.stop.isNone, stop := some (r.stop.getD cyc) }
def State.haltFig (s : State) (fg : Nat) : State :=
  if (s.fig fg).phase = .placed then
    (s.regionsOf fg).foldl (fun u rg => u.setRegion rg ((u.region rg).halt s.cyc)) (s.setFig fg { s.fig fg with phase := .halting, pausedAt := s.cyc })
  else s
/-- Every instance of a Figure is halted, with the disposition of a rank (Table 21.2). -/
def State.haltGroup (s : State) (fg rank : Nat) : State :=
  (s.group fg).foldl (fun u g =>
    let x := u.fig g
    (u.setFig g { x with rank := if x.rank = 0 then rank else min x.rank rank }).haltFig g) s

/-! ### The save pool (R361) -/

/-- Bytes of a Figure's save record (R362). -/
def State.recSize (s : State) (fg : Nat) : Nat :=
  4096 + ((s.regionsOf fg).map fun rg => if (s.region rg).exitWord.isSome then 0 else 65536 * (1 + (s.region rg).count)).sum
/-- Ranges of the pool in use. -/
def State.poolUse (s : State) (pk : Nat) : List (Nat × Nat) := s.figs.filterMap fun f => if f.2.pk = pk then f.2.save else none
/-- A record for each Figure of a list, in turn; `none` where the pool cannot hold them or SVPOOL.V = 0. -/
def State.poolAllot (s : State) (pk : Nat) : List Nat → List (Nat × Nat) → Option (List (Nat × (Nat × Nat)))
  | [], _ => some []
  | fg :: fs, used =>
    let v := s.reg pk 0x15000
    let base := pageOf v
    let n := s.recSize fg
    if v.getLsbD 0 then
      match gapIn used base (base + 2 ^ (v.toNat / 2 % 64)) 4096 n with
      | none => none
      | some a => (s.poolAllot pk fs ((a, n) :: used)).map fun r => (fg, (a, n)) :: r
    else none
/-- Records are allotted to the Figures of a list. -/
def State.giveRecords (s : State) (pk : Nat) (fs : List Nat) : Option State :=
  (s.poolAllot pk fs (s.poolUse pk)).map fun l => l.foldl (fun u p => u.setFig p.1 { u.fig p.1 with save := some p.2, openAt := s.open_ pk }) s

/-! ### What a saved region asks (R365) -/

def State.savedRegion (s : State) (rg : Nat) : Option SavedRegion := (s.work.saved.find? fun p => decide (p.1 = rg)).map Prod.snd

/-- The COUNTs that a saved region may take: its saved one first, then those of R354 not below its pipeline length,
unless it was scrolling (DEDUCED, log 36). -/
def Region.resumeCounts (r : Region) : List Nat :=
  if r.scroll.isSome ∨ r.shrinkable = false then [r.count]
  else r.count :: (shrinkCounts r.template r.vlen true true).filter fun c => decide (c ≠ r.count ∧ r.vlen ≤ c)

/-- The regions of a saved Figure that its logical streams join to region `i`. -/
def State.savedJoins (s : State) (fg i : Nat) : List Nat :=
  let at_ (p : Option Nat) : Option Nat := p.bind fun n => (s.work.saved.find? fun q => decide (figOf q.1 = fg) && q.2.ports.any fun y => decide (y.1 = n)).map fun q => q.1 % 64
  ((s.fig fg).streams.filterMap fun e =>
    match at_ e.2.wport, at_ e.2.rport with
    | some a, some b => if a = i then some b else if b = i then some a else none
    | _, _ => none).filter fun j => decide (j ≠ i)

/-- What region `i` of a saved Figure asks of a placement; `none` where it retired. -/
def State.savedAsk (s : State) (fg i : Nat) : Option Ask :=
  (s.savedRegion (fg * 64 + i)).map fun x =>
    let r := x.region
    { obj := r.obj, copy := r.copy, copies := r.copies, skew := r.skew, link := r.link, counts := r.resumeCounts
      bytes := ((r.allot.head?).map fun a => a.len).getD 0, mask := r.rsmask
      ports := (x.ports.filter fun p => decide (p.1 / 16 = r.ring)).map fun p => (p.1 % 16, (field p.2.cfg 0 6 : BitVec 6).toNat)
      vlen := r.vlen
      depth := if r.count < r.vlen then ((r.parkAllot.head?).map fun a => a.len / 128).getD 1 else 1
      saves := decide ((if r.count < r.vlen then r.vlen else 0) < r.saveAllot.length)
      at_ := (r.allot.head?).map fun a => a.base
      joins := s.savedJoins fg i, stamp := r.stamp }
def State.savedAsks (s : State) (fg : Nat) : List (Option Ask) := (List.range (s.fig fg).nreg).map fun i => s.savedAsk fg i

/-- What a ready KERNEL task asks of a placement, for every instance. -/
def State.wants (s : State) (t : Task) : Option (State × List (List (Option Ask))) :=
  match t.fg with
  | some fg => if (s.fig fg).phase = .saved then some (s, (s.group fg).map fun g => s.savedAsks g) else none
  | none =>
    match s.walk t.walk with
    | none => none
    | some w =>
      match s.loadObj t.pk w.asid t.obj with
      | .obj u o => some (u, List.replicate (u.instancesOf t.pk w.asid t.obj) (o.asks.map some))
      | _ => none

/-! ### Victims (R358) -/

/-- Candidate `a` comes before candidate `b`: lower base priority, then placed later. -/
def victimBefore (a b : Nat × Fig) : Bool :=
  decide (a.2.prio.toNat < b.2.prio.toNat) || (decide (a.2.prio = b.2.prio) && decide (b.2.placedAt < a.2.placedAt ∨ (b.2.placedAt = a.2.placedAt ∧ b.1 < a.1)))
def insertVictim (x : Nat × Fig) : List (Nat × Fig) → List (Nat × Fig)
  | [] => [x]
  | y :: ys => if victimBefore x y then x :: y :: ys else y :: insertVictim x ys
/-- The candidates below a base priority, each by its first instance. -/
def State.candidates (s : State) (pk : Nat) (prio : BitVec 3) : List Nat :=
  ((s.figs.filter fun f => decide (f.2.pk = pk ∧ f.1 = f.2.lead ∧ f.2.phase = .placed ∧ f.2.prio < prio)).foldl
    (fun l f => insertVictim f l) []).map Prod.fst

/-- The task at the head of the order, where it is a KERNEL task. -/
def State.headKernel (s : State) (pk : Nat) : Option (Nat × Task) :=
  match (s.ageTasks pk).readyTasks pk with
  | (tk, t) :: _ => if t.kernel then some (tk, t) else none
  | [] => none

/-- The KERNEL task that may be placed next: one that resources are reserved for, which no other task may claim, whatever has come
to stand ahead of it meanwhile (DEDUCED, log 97); else the one at the head. -/
def State.nextKernel (s : State) (pk : Nat) : Option (Nat × Task) :=
  match (s.ageTasks pk).reservedReady pk with
  | some p => some p
  | none => s.headKernel pk

/-- The Figures of a prefix, and those already halting, are left out of what is in use (R463). -/
def State.without (s : State) (pre : List Nat) (fg : Nat) : Bool :=
  decide ((s.fig fg).phase ≠ .placed) || pre.contains (s.fig fg).lead
/-- The place that task `tk` would find without the Figures of a prefix. -/
def State.placeWithout (s : State) (pk tk : Nat) (as : List (List (Option Ask))) (pre : List Nat) : Option (List (List (Option Spot))) :=
  s.tryPlace pk tk (s.without pre) as

/-- The resources of a prefix and of the place found are reserved for the task. -/
def State.reserved (s : State) (pk : Nat) (pre : List Nat) (as : List (List (Option Ask))) (spots : List (List (Option Spot))) : Occ :=
  let v := (s.regions.filter fun p => decide (p.2.pk = pk) && pre.contains (s.fig (figOf p.1)).lead).foldl (fun (o : Occ) p => o.add (s.regionOcc p.1 p.2)) {}
  (spots.zip as).foldl (fun o p => (p.1.zip p.2).foldl (fun o q =>
    match q.1, q.2 with
    | some x, some a => o.add (x.occ a)
    | _, _ => o) o) v

/-- A prefix is committed: its Figures are victims of task `tk`. -/
def State.commit (s : State) (pk tk : Nat) (as : List (List (Option Ask))) (pre : List Nat) : Option State :=
  match s.placeWithout pk tk as pre with
  | none => none
  | some spots =>
    (s.giveRecords pk ((pre.map fun g => if s.groupRetired g then [] else s.group g).flatten)).map fun u =>
      let v := pre.foldl (fun v g => ((v.group g).foldl (fun v h => v.setFig h { v.fig h with forTask := some tk }) v).haltGroup g 5) u
      v.setSched pk { v.sched pk with victim := some tk, held := s.reserved pk pre as spots }

/-- A pre-emption may begin on the package. -/
def State.preemptOk (s : State) (pk : Nat) : Bool :=
  (s.reg pk 0x15000).getLsbD 0 && (s.sched pk).victim.isNone && decide ((s.members.get {} pk).step = 0)

/-- PREEMPT_COMMIT (R358): the first prefix of the candidates that lets the task at the head be placed. -/
def execPreemptCommit (pk : Nat) (s : State) : Host.Outcome State Fault Refusal :=
  match s.headKernel pk with
  | none => .next s
  | some (tk, t) =>
    if s.preemptOk pk = false then .next s
    else match s.wants t with
      | none => .next s
      | some (u, as) =>
        let c := u.candidates pk t.prio
        match (List.range (c.length + 1)).find? fun k => (u.placeWithout pk tk as (c.take k)).isSome with
        | none => .next u
        | some k => if k = 0 then .next u else .next ((u.commit pk tk as (c.take k)).getD u)

/-- `yld` (R331): completes; the Figure makes way for a task of its own base priority that waits for its stripes. -/
def execYld (s : State) : Host.Outcome State Fault Refusal :=
  if s.reelRuns then
    let s1 := s.reelNext
    let fg := (s1.fig (figOf s.act.rg)).lead
    let pk := (s1.fig fg).pk
    match s1.headKernel pk with
    | none => .next s1
    | some (tk, t) =>
      if s1.preemptOk pk = false ∨ t.prio ≠ (s1.fig fg).prio ∨ (s1.fig fg).phase ≠ .placed then .next s1
      else match s1.wants t with
        | none => .next s1
        | some (u, as) =>
          if (u.placeWithout pk tk as []).isSome then .next u else .next ((u.commit pk tk as [fg]).getD u)
  else .next s

/-! ### The halt of a region (R359, R360) -/

/-- Everything that R359 lets finish has finished. -/
def State.regionQuiet (s : State) (rg : Nat) (r : Region) : Bool :=
  (match r.stop with | some c => decide (c < s.cyc) | none => false)
  && (!r.drain || r.stripes.all fun st => (List.range 64).all fun e => (s.elem (st * 128 + e)).run.isNone)
  && (match r.scroll with | none => true | some sc => sc.phase.all fun p => decide (p.2 ≠ 1 ∧ p.2 ≠ 3))
  && r.stripes.all (fun st => !(s.stripePending st) && !(s.replaying st))
  && decide (figOf rg ≠ 0)

/-- A Figure has ended, or is discarded: nothing of it stays but what its stripes hold until their release. -/
def State.endFig (s : State) (fg : Nat) : State :=
  let u := s.dropFigure fg
  let keep := (s.fig fg).save.isSome && (s.fig fg).kept
  let v := u.setFig fg { u.fig fg with phase := .saved, ended := true, kept := keep, save := if keep then (s.fig fg).save else none, recs := [], trapNum := none, pageNum := none }
  { v with work := { v.work with saved := if keep then v.work.saved else v.work.saved.filter fun p => decide (figOf p.1 ≠ fg) } }
/-- Ended Figures that hold no stripe are gone, but for those with a kept record. -/
def State.reapFig (s : State) (fg : Nat) : State :=
  let x := s.fig fg
  if x.ended ∧ x.kept = false ∧ (s.regionsOf fg).isEmpty then { s with figs := s.figs.del fg } else s
/-- The Figure ends faulted in every instance; its held records are queued with SAVE = 0, and its task completes (R396). -/
def State.endGroup (s : State) (fg : Nat) : State :=
  let x := s.fig (s.fig fg).lead
  let s1 := x.recs.foldl (fun u r => (u.queueRec x.pk { r with save := 0 }).1) s
  let s2 := (s.group fg).foldl (fun u g => (u.endFig g).reapFig g) s1
  s2.endTask x.task true

/-- The regions of a Figure that have not retired. -/
def State.openRegions (s : State) (fg : Nat) : List Nat := (s.regionsOf fg).filter fun rg => (s.region rg).exitWord.isNone

/-- Every region of every instance has halted: the Figure retires, ends, or is saved next. -/
def State.groupHalted (s : State) (fg : Nat) : State :=
  let gs := s.group fg
  if gs.all fun g => (s.regionsOf g).all fun rg => (s.region rg).halted || (s.region rg).exitWord.isSome then
    let x := s.fig (s.fig fg).lead
    if s.groupRetired fg ∧ 4 ≤ x.rank then
      gs.foldl (fun u g => u.setFig g { u.fig g with phase := .placed, rank := 4, save := none, forTask := none }) s
    else if x.save.isNone ∨ (x.rank ≤ 2 ∧ x.kept = false) then s.endGroup fg
    else gs.foldl (fun u g => u.setFig g { u.fig g with phase := .halted }) s
  else s

/-- REGION_HALTED (R359, R360, R147, R293, R331): the region is halted; the fills that it has not had are recorded as
abandoned, and its waiting operations as pending. -/
def execRegionHalted (rg : Nat) (s : State) : Host.Outcome State Fault Refusal :=
  let r := s.region rg
  let fg := figOf rg
  if (s.fig fg).phase ≠ .halting ∨ r.live = false ∨ r.halted then .next s
  else if r.exitWord.isSome then .next ((s.setRegion rg { r with halted := true }).groupHalted fg)
  else if s.regionQuiet rg r = false then .next s
  else
    let mine := s.fillsOf rg
    let s1 := s.setRegion rg { r with halted := true, redo := mine }
    let s2 := { s1 with
      fab := { s1.fab with rings := s1.fab.rings.map fun (g : Nat × Ring) => (g.1, { g.2 with fills := g.2.fills.filter fun f => decide (f.rg ≠ rg) }) }
      fl := { s1.fl with waits := s1.fl.waits.filter fun w => decide (w.2.rg ≠ rg) }
      work := { s1.work with saved := (rg, { waits := s.fl.waits.filter fun w => decide (w.2.rg = rg) }) :: s1.work.saved.del rg } }
    .next (s2.groupHalted fg)

/-! ### Save records (Tables 14.4 to 14.6) -/

/-- Bytes whose inner layout the specification does not state are free values. -/
def freeBytes (k off n : Nat) : List Byte := (List.range n).map fun i => Config.saveByte k (off + i)
/-- Token bytes of an optional token. -/
def tokenBytes : Option (Token × Bool) → List Byte
  | none => zeros 8
  | some (t, _) => leBytes 8 (tokNat t)

/-- The region header: `pn0`-`pn15` stand in the first word of 0x100, then USR0-USR15, BRKEN and SPERR in a word each
(DESIGN CHOICE, log 35). -/
def regionHeader (k : Nat) (r : Region) : List Byte :=
  freeBytes k 0 256
  ++ leBytes 4 r.pn.toNat ++ numBytes 4 ((List.range 16).map fun i => (r.usr.get 0 i).toNat) ++ leBytes 4 (if r.brken then 1 else 0)
  ++ leBytes 4 r.sperr.toNat ++ zeros 52 ++ zeros 128
  ++ freeBytes k 0x200 512
  ++ ((List.range 32).map fun i => if r.rsmask.getLsbD i then freeBytes k (0x400 + 64 * i) 64 else zeros 64).flatten
  ++ freeBytes k 0xC00 4096 ++ zeros 1024 ++ freeBytes k 0x2000 16384 ++ freeBytes k 0x6000 32768 ++ zeros 8192

/-- The stripe record. -/
def stripeRecord (k : Nat) (s : State) (st vs iter : Nat) : List Byte :=
  let t := s.stripe st
  let el (e : Nat) := s.elem (st * 128 + e)
  slotBytes s st vs t.act iter
  ++ numBytes 4 ((List.range 4).map fun p =>
      let pl := t.planes.get {} p
      pl.img % 65536 + (if pl.valid then 0x10000 else 0) + (if t.av ∧ t.act.toNat = p then 0x20000 else 0))
  ++ ((List.range 32).map fun i => tokenBytes (t.lanes.get none i)).flatten ++ zeros 240
  ++ numBytes 2 ((List.range 64).map fun e => (el e).evmask.toNat) ++ zeros 384
  ++ freeBytes k 0x4400 4096 ++ freeBytes k 0x5400 9216
  ++ ((List.range 64).map fun e => numBytes 4 ((List.range 14).map fun i => ((el e).msg.get 0 i).toNat) ++ zeros 8).flatten
  ++ ((List.range 64).map fun e => ((List.range 8).map fun p =>
      numBytes 4 (padTo 8 ((((el e).pkt.get [] ((p + 4) % 8)).take 8).map fun w => w.toNat))).flatten).flatten
  ++ freeBytes k 0xC800 6144 ++ zeros 8192

/-- The entry of a relocation table for a region (Table 2.4). -/
def regionEntry (r : Region) : Nat :=
  1 + 4 * dieOf r.ring + 64 * (r.ring % 4) + 256 * r.first + 8192 * r.count + (if r.link then 2 ^ 21 else 0) + 2 ^ 22 * r.copy
/-- The entry for a stream instance: the port at which it is delivered. -/
def streamEntry (i : SInst) : Nat :=
  match i.rport.orElse fun _ => i.wport with
  | none => 0
  | some p => 2 + 4 * dieOf (p / 16) + 64 * (p / 16 % 4) + 256 * (p % 16)
/-- Entry `i` of a Figure's relocation table (R33): a region that has retired and given up its stripes is bound to none. -/
def State.relocEntry (s : State) (fg i : Nat) : Nat :=
  let r := s.region (fg * 64 + i)
  if i < 64 then (if i < (s.fig fg).nreg ∧ r.count ≠ 0 then regionEntry r else 0) else streamEntry ((s.fig fg).streams.get {} i)

/-- The offset of each open region's header: one follows another, in region order. -/
def State.recOffsets (s : State) (fg : Nat) : List (Nat × Nat) :=
  ((s.openRegions fg).foldl (fun (a : List (Nat × Nat) × Nat) rg => (a.1 ++ [(rg % 64, a.2)], a.2 + 65536 * (1 + (s.region rg).count))) ([], 4096)).1

/-- The Figure header. The walk's identity stands in the low word of 0x018, TAG in the high word (DESIGN CHOICE, log 35). -/
def State.figHeader (s : State) (fg : Nat) : List Byte :=
  let x := s.fig fg
  let t := (s.task x.task).getD {}
  let offs := s.recOffsets fg
  leBytes 4 0x53564B46 ++ leBytes 4 1 ++ leBytes 8 x.obj.toNat ++ leBytes 4 (x.asid.toNat + 4096 * x.prio.toNat + 65536 * x.nreg) ++ zeros 4
  ++ leBytes 4 t.walk ++ leBytes 4 x.tag.toNat ++ leBytes 8 t.ready ++ leBytes 4 x.openAt.toNat ++ zeros 212
  ++ numBytes 8 ((List.range 64).map fun i => ((offs.find? fun p => decide (p.1 = i)).map Prod.snd).getD 0)
  ++ ((List.range 64).map fun i => if i < x.nreg ∧ ((s.region (fg * 64 + i)).exitWord.isSome ∨ (s.region (fg * 64 + i)).count = 0) then (1 : Byte) else 0)
  ++ zeros 1216 ++ numBytes 8 ((List.range 256).map fun i => s.relocEntry fg i)

/-- A write of a save record: a tagged access (R363). `none` while it is held; a log without room asks for a rollback
(R444, R463). -/
def State.recWrite (s : State) (pk fg pa : Nat) (bs : List Byte) : Option State × State :=
  let tag := if s.pvEn pk then some (s.open_ pk) else none
  if (s.pav pk).window ∨ s.migState pa = 1 then (none, s)
  else match s.homeWrite pa (.set bs) tag false none s.fl.next 0 with
    | .ok t => (some t.bump, t)
    | .hold t => (none, t)
    | .full t => (none, if (s.members.get {} pk).report ∨ s.det.any (fun d => decide (d.own = .figure fg ∧ d.info.fcode = 0xE203)) then t else
        t.detect pk (.figure fg) (2 ^ 90) { fcode := 0xE203, tier := 2, point := 2, addr := BitVec.ofNat 64 pa })
    | .bad t => (none, t)

/-! ### The save of a region (R363) -/

/-- A part of memory, rebased; and its removal. -/
def cutMap {α : Type} (m : FMap α) (lo n base : Nat) : FMap α := (m.filter fun p => decide (lo ≤ p.1 ∧ p.1 < lo + n)).map fun p => (p.1 - lo + base, p.2)
/-- A list with numbers from `n` on. -/
def numbered {α : Type} (n : Nat) (l : List α) : List (Nat × α) := (List.range l.length).zip l |>.map fun p => (n + p.1, p.2)
/-- The contents of the allotments of a region: by 2^27·number + offset. -/
def State.bankBytes (s : State) (l : List (Nat × Allot)) : FMap Byte :=
  (l.map fun a => cutMap s.mem (ringPA a.2.ring a.2.base) a.2.len (a.1 * 2 ^ 27)).flatten
def State.bankMarks (s : State) (l : List (Nat × Allot)) : FMap (Option Mark) :=
  (l.map fun a => cutMap s.ms.errs (ringPA a.2.ring a.2.base / 8) (a.2.len / 8) (a.1 * 2 ^ 27)).flatten

/-- Accesses of the region are on their way, tokens are on their way to it, or a stream of it can still issue. -/
def State.regionOpen (s : State) (rg : Nat) (r : Region) : Bool :=
  s.fl.accs.any (fun a => decide (a.2.rg = rg))
  || r.stripes.any (fun st => s.stripePending st || s.replaying st)
  || s.fl.emits.any (fun e => match e.dst with
      | .port p => decide ((s.port p).rg = some rg)
      | .queue el _ => decide ((s.stripe (stOf el)).rg = some rg)
      | .opq el => decide ((s.stripe (stOf el)).rg = some rg)
      | .pass st _ => decide ((s.stripe st).rg = some rg)
      | _ => false)
  || s.fab.strms.any (fun t => decide (t.2.rg = some rg ∧ t.2.parked = none ∧ t.2.fault = false) && (match t.2.q with
      | [] => false
      | .bar .. :: _ => false
      | .acc id .. :: _ => s.mayPerform rg id
      | _ => true))
  || s.fl.twins.any fun p => p.2.any (fun q => decide (q.2.1 = rg)) && (s.acc p.1).isSome

/-- The park buffers of a region, one for each group boundary of its pipeline (R36). -/
def Region.parks (r : Region) : List Allot := if r.vlen ≤ r.count then [] else r.parkAllot.take ((r.vlen + r.count - 1) / r.count - 1)
/-- What the record holds of a region. -/
def State.takeRegion (s : State) (rg : Nat) (r : Region) (off : Nat) : SavedRegion :=
  let x := (s.savedRegion rg).getD {}
  let all := numbered 0 r.allot ++ numbered (2 ^ 20) r.saveAllot ++ numbered (2 ^ 21) r.parks
  { x with
    region := r
    stripes := r.stripes.map fun st =>
      { stripe := s.stripe st
        elems := (List.range 64).foldl (fun (m : FMap Elem) e => m.put {} e (s.elem (st * 128 + e))) []
        mxs := (List.range 16).foldl (fun (m : FMap MxElem) j => m.put {} j (s.mx (st * 128 + 64 + j))) [] }
    ports := s.fab.ports.filter fun p => decide (p.2.rg = some rg)
    strms := (s.fab.strms.filter fun t => decide (t.2.rg = some rg)).map fun t => (t.1, { t.2 with parked := none, kept := none })
    bufs := s.bufs.filter fun b => decide (paSpace b.1 = 3) && r.allots (paPkg b.1 * 64 + b.1 / 2 ^ 26 % 64) (b.1 % 2 ^ 26) 32
    resv := s.fl.resv.filter fun y => (x.waits.any fun w => decide (w.1 = y.1))
      || (s.fab.strms.any fun t => decide (t.2.rg = some rg) && t.2.q.any fun o => match o.access with | some x => decide (x.1 = y.1) | none => false)
      || s.fl.twins.any fun p => p.2.any fun q => decide (q.1 = y.1 ∧ q.2.1 = rg)
    bytes := s.bankBytes all, marks := s.bankMarks all, off := off }

/-- Tokens in the outbound ports of retired regions are delivered (R291): they join the saved inbound ports. -/
def State.landRetired (s : State) (fg : Nat) : State :=
  (s.fig fg).streams.foldl (fun u e =>
    match e.2.wport, e.2.rport with
    | some w, some p =>
      match (u.port w).rg with
      | some rg =>
        if (u.region rg).exitWord.isSome then
          let toks := (u.port w).fifo
          { u with work := { u.work with saved := u.work.saved.map fun (q : Nat × SavedRegion) =>
              (q.1, { q.2 with ports := q.2.ports.map fun (y : Nat × Port) => if y.1 = p then (y.1, { y.2 with fifo := y.2.fifo ++ toks.map fun (t : Token) => t.resolve q.2.region.pn }) else y }) } }.setPort w { u.port w with fifo := [] }
        else u
      | none => u
    | _, _ => u) s

/-- The saves of every instance are complete: the disposition takes effect. -/
def State.groupSaved (s : State) (fg : Nat) : State :=
  let x := s.fig (s.fig fg).lead
  let addr : W64 := match x.save with | some p => BitVec.ofNat 64 p.1 | none => 0
  let s1 := (s.group fg).foldl (fun u g =>
    let v := (u.landRetired g).dropFigure g
    v.setFig g { v.fig g with phase := .saved }) s
  if x.rank ≤ 2 then s1.endGroup fg
  else if x.rank = 3 then
    let s2 := x.recs.foldl (fun u r =>
      let (v, n) := u.queueRec x.pk { r with save := addr }
      let trap := decide (r.fcode.toNat / 4096 = 13)
      (u.group fg).foldl (fun v g => v.setFig g { v.fig g with
        recs := [], trapNum := if trap then n else (v.fig g).trapNum, pageNum := if trap then (v.fig g).pageNum else n }) v) s1
    match s2.task x.task with
    | some t => s2.setTask x.task { t with phase := .held }
    | none => s2
  else match s1.task x.task with
    | some t => s1.setTask x.task { t with phase := .ready, since := s.cyc, aged := 0 }
    | none => s1

/-- No record is kept of the Figure. -/
def State.unsave (s : State) (fg : Nat) : State := (s.group fg).foldl (fun u g => u.setFig g { u.fig g with save := none, kept := false }) s

/-- FIGURE_SAVE (R363, R147, R424): the next region of a halted Figure is saved; then its header is written, and once
every instance is saved the disposition takes effect. -/
def execFigureSave (fg : Nat) (s : State) : Host.Outcome State Fault Refusal :=
  let x := s.fig fg
  match x.phase, x.save with
  | .halted, some (base, _) =>
    match (s.recOffsets fg).find? fun p => !(s.region (fg * 64 + p.1)).saved with
    | some (i, off) =>
      let rg := fg * 64 + i
      let r := s.region rg
      if s.regionOpen rg r then .next s
      else match r.stripes.findSome? s.taintedAt with
      | some el =>
        if s.det.any fun d => decide (d.own = .figure fg ∧ d.info.fcode = 0xE105) then .next s
        else if x.rank = 1 then .next ((s.unsave fg).endGroup fg)
        else .next (s.detectAt (r.stop.getD s.cyc) x.pk (.figure fg) (s.elOrd el)
          { fcode := 0xE105, tier := 2, point := 0, region := BitVec.ofNat 6 rg, place := placeOf el })
      | none =>
        let n := (r.lcs.get {} r.dlc.toNat).n.toNat
        let bytes := regionHeader s.free r
          ++ ((r.stripes.zip (List.range r.count)).map fun p => stripeRecord s.free s p.1 p.2 n).flatten
        match s.recWrite x.pk fg (base + off) bytes with
        | (none, t) => .next t
        | (some t, _) =>
          let u := { t with free := t.free + 1, work := { t.work with saved := (rg, s.takeRegion rg r off) :: t.work.saved.del rg } }
          .next (u.setRegion rg { r with saved := true })
    | none =>
      if s.det.any fun d => match d.own with | .figure g => (s.group fg).contains g | _ => false then .next s
      else match s.recWrite x.pk fg base (s.figHeader fg) with
      | (none, t) => .next t
      | (some t, _) =>
        let u := t.setFig fg { t.fig fg with phase := .saved, kinds := (List.range 256).map fun i => s.relocEntry fg i % 4 }
        if (u.group fg).all fun g => decide ((u.fig g).phase = .saved) then .next (u.groupSaved x.lead) else .next u
  | _, _ => .next s

/-! ### Release (R364) -/

/-- What an element keeps when its stripe is released: its registers (DEDUCED, log 32). -/
def Elem.bare (x : Elem) : Elem := { k := x.k, kTaint := x.kTaint, evmask := x.evmask, msg := x.msg, cychi := x.cychi }
def MxElem.bare (x : MxElem) : MxElem :=
  { acc := x.acc, afmt := x.afmt, lsa := x.lsa, lsw := x.lsw, p := x.p, step := x.step, tcnt := x.tcnt, wb := x.wb, wTaint := x.wTaint, aTaint := x.aTaint }
/-- A stripe without a region: no active plane, every plane invalid, no token. -/
def State.bareStripe (s : State) (st : Nat) : State :=
  let s1 := (List.range 64).foldl (fun u e => u.setElem (st * 128 + e) (u.elem (st * 128 + e)).bare) s
  let s2 := (List.range 16).foldl (fun u j => u.setMx (st * 128 + 64 + j) (u.mx (st * 128 + 64 + j)).bare) s1
  let t := s.stripe st
  s2.setStripe st { corr := t.corr, resent := t.resent }

/-- A region without stripes is gone, with its ports; the ring streams keep what they hold until a placement takes them (R355). -/
def State.dropRegion (s : State) (rg : Nat) : State :=
  { s with
    regions := s.regions.del rg
    fab := { s.fab with
      ports := s.fab.ports.filter fun p => decide (p.2.rg ≠ some rg)
      strms := s.fab.strms.map fun (t : Nat × Strm) => if t.2.rg = some rg then (t.1, { t.2 with rg := none, port := none }) else t
      rings := s.fab.rings.map fun (g : Nat × Ring) => (g.1, { g.2 with fills := g.2.fills.filter fun f => decide (f.rg ≠ rg) }) } }

/-- The tainted tokens that the queues, pass registers and lanes of a stripe hold. -/
def State.taintedTokens (s : State) (st : Nat) : Nat :=
  let t := s.stripe st
  ((List.range 64).map fun e => ((List.range 4).map fun q => (((s.elem (st * 128 + e)).queue (BitVec.ofNat 2 q)).filter Token.et).length).sum).sum
  + ((List.range 16).map fun j => ((s.mx (st * 128 + 64 + j)).opq.filter Token.et).length).sum
  + ((List.range 16).filter fun i => match t.pass.get none i with | some k => k.et | none => false).length
  + ((List.range 32).filter fun i => match t.lanes.get none i with | some (k, _) => k.et | none => false).length

/-- STRIPE_RELEASE (R291, R364): a stripe of a Figure that is saved or discarded. The tainted tokens that a retired region leaves are
counted (R420). -/
def execStripeRelease (st : Nat) (s : State) : Host.Outcome State Fault Refusal :=
  match (s.stripe st).rg with
  | none => .next s
  | some rg =>
    let fg := figOf rg
    if (s.fig fg).phase ≠ .saved ∨ s.fl.accs.any (fun a => decide (a.2.rg = rg)) then .next s
    else
      let lost := if (s.region rg).exitWord.isSome then s.taintedTokens st else 0
      let g := ringOf st
      let s0 := (s.bareStripe st).count (pkOf g) 1 lost
      let s1 := s0.setRing g { s0.ring g with busyAt := s.cyc }
      let r := s1.region rg
      let left := s1.fab.stripes.any fun t => decide (t.2.rg = some rg)
      if left then .next s1
      else
        let s2 := s1.dropRegion rg
        let s3 := { s2 with bufs := s2.bufs.filter fun b => !(decide (paSpace b.1 = 3) && r.allots (paPkg b.1 * 64 + b.1 / 2 ^ 26 % 64) (b.1 % 2 ^ 26) 32) }
        .next (s3.reapFig fg)

end Sys2Proof.Machine
end

