-- ==== Sys2Proof/Machine/Resume.lean ====
section
/-! DEFINITION. Resumption (R365, R42, R459): a saved Figure takes new places, and everything saved moves to the new stripes, rings and ports. -/
namespace Sys2Proof.Machine
open Sys2Proof

/-- The move of a region: its old stripes and rings with the new ones; the first pair of rings is that of the rings it is placed on,
whose ports and ring streams are its own (R178). -/
structure Reloc where
  pk : Nat := 0
  stripes : List (Nat × Nat) := []
  rings : List (Nat × Nat) := []
  deriving Repr, Inhabited

/-- What a number becomes. -/
def lookIn (l : List (Nat × Nat)) (n : Nat) : Nat := ((l.find? fun p => decide (p.1 = n)).map Prod.snd).getD n
def Reloc.st (m : Reloc) (st : Nat) : Nat := lookIn m.stripes st
def Reloc.el (m : Reloc) (el : Nat) : Nat := m.st (stOf el) * 128 + eOf el
def Reloc.ring (m : Reloc) (r : Nat) : Nat := lookIn m.rings r
def Reloc.port (m : Reloc) (p : Nat) : Nat := m.ring (p / 16) * 16 + p % 16
def Reloc.strm (m : Reloc) (rs : Nat) : Nat := m.ring (rs / 32) * 32 + rs % 32
/-- A ring-bank address of the region's package keeps its offset in the bank of the new ring; another stays. -/
def Reloc.pa (m : Reloc) (pa : Nat) : Nat :=
  let g := paPkg pa * 64 + pa / 2 ^ 26 % 64
  if paSpace pa = 3 ∧ m.rings.any fun p => decide (p.1 = g) then ringPA (m.ring g) (pa % 2 ^ 26) else pa
/-- The transfer port beside the new fabric die (R279). -/
def Reloc.tp (m : Reloc) (el tp : Nat) : Nat :=
  let f := dieOf (ringOf (stOf el))
  let f' := dieOf (ringOf (stOf (m.el el)))
  (m.pk * 16 + (if tp / 4 % 16 = f then f' else (f' + 15) % 16)) * 4 + tp % 4
def Reloc.dest (m : Reloc) : Dest → Dest
  | .queue el q => .queue (m.el el) q
  | .opq el => .opq (m.el el)
  | .kreg el i => .kreg (m.el el) i
  | .pass st i => .pass (m.st st) i
  | .lane st i => .lane (m.st st) i
  | .port p => .port (m.port p)
  | .pn rg i => .pn rg i
  | .cr rg i => .cr rg i
  | .evmask el => .evmask (m.el el)
def Reloc.ret (m : Reloc) (r : Ret) : Ret := if r = {} then r else { r with el := m.el r.el }
def Reloc.sop (m : Reloc) : SOp → SOp
  | .cfg f v c el => .cfg f v c (m.el el)
  | .acc id kind scope word idx data cmp ret f rg => .acc id kind scope word idx data cmp (m.ret ret) f rg
  | .bar w f => .bar w f
  | .again id a => .again id { a with rs := a.rs.map m.strm, ret := m.ret a.ret }
def Reloc.buf (m : Reloc) (b : OpenBuf) : OpenBuf := { b with desc := m.pa b.desc, addr := m.pa b.addr }
def Reloc.elem (m : Reloc) (x : Elem) : Elem :=
  { x with put := x.put.map m.buf, get := x.get.map m.buf, quant := { x.quant with ret := m.ret x.quant.ret, out := x.quant.out.map fun t => { t with ret := m.ret t.ret } } }
def Reloc.kind (m : Reloc) : WKind → WKind
  | .fence s el l => .fence s (m.el el) l
  | .sbar s r k l => .sbar s (m.ring r) k l
  | .packet tp el w => .packet (m.tp el tp) (m.el el) w
  | .cbput d s l t el => .cbput (m.pa d) s l t (m.el el)
  | .cbget d s el => .cbget (m.pa d) s (m.el el)
  | .cbtail d n => .cbtail (m.pa d) n
  | k => k
def Reloc.wait (m : Reloc) (w : Wait) : Wait := { w with kind := m.kind w.kind, ret := m.ret w.ret }

/-- The move of a saved region to its new place. -/
def moveOf (pk : Nat) (r : Region) (p : Spot) : Reloc :=
  let sts := p.stripes
  { pk := pk, stripes := r.stripes.zip sts, rings := (windowRings r.stripes).zip (windowRings sts) }

/-- Memory bytes and standing errors of the old allotments stand in the new ones of their number (R42). -/
def State.layBytes (s : State) (l : List (Nat × Allot)) (bytes : FMap Byte) (marks : FMap (Option Mark)) : State :=
  l.foldl (fun u a =>
    let pa := ringPA a.2.ring a.2.base
    let clean := u.mem.filter fun p => !(decide (pa ≤ p.1 ∧ p.1 < pa + a.2.len))
    let good := u.ms.errs.filter fun p => !(decide (pa / 8 ≤ p.1 ∧ p.1 < (pa + a.2.len) / 8))
    { u with
      mem := (cutMap bytes (a.1 * 2 ^ 27) a.2.len pa).foldl (fun (m : FMap Byte) p => m.put 0 p.1 p.2) clean
      ms := { u.ms with errs := (cutMap marks (a.1 * 2 ^ 27) a.2.len (pa / 8)).foldl (fun (m : FMap (Option Mark)) p => m.put none p.1 p.2) good } }) s
/-- The new allotments, each with the number of the old one whose bytes it takes: on a ring that the window did not have, the data of
the first ring (DESIGN CHOICE, log 93). -/
def Spot.takes (p : Spot) (r : Region) : List (Nat × Allot) :=
  (numbered 0 p.data).map (fun a => (if a.1 < r.allot.length then a.1 else 0, a.2)) ++ numbered (2 ^ 20) p.save ++ numbered (2 ^ 21) p.park

/-- A stripe of the window is restored from its record: structure as saved, registers and queues as the record's bytes
now stand (R41, R459). -/
def State.layStripe (s : State) (rg : Nat) (m : Reloc) (st ws addr : Nat) (x : SavedStripe) : State :=
  let t := s.stripe st
  let s1 := (List.range 64).foldl (fun u e => u.setElem (st * 128 + e) (m.elem (x.elems.get {} e))) s
  let s2 := (List.range 16).foldl (fun u j => u.setMx (st * 128 + 64 + j) (x.mxs.get {} j)) s1
  let s3 := s2.setStripe st { x.stripe with
    rg := some rg, ws := ws, corr := t.corr, resent := t.resent
    hold := x.stripe.hold.map fun h => { h with el := m.el h.el } }
  s3.loadSlot st addr

/-- One region of a saved Figure resumes at its new place; `base` is the record's address. Window stripes that it did not have are
bound without state (R42, R365). A Reel word that waited is executed again (R331; DEDUCED, log 75). The first issue of each loop
context after this release is not withheld (R377). -/
def State.layRegion (s : State) (pk rg base : Nat) (x : SavedRegion) (p : Spot) : State :=
  let r := x.region
  let m := moveOf pk r p
  let sts := p.stripes
  let hdr := base + x.off
  let s1 := (windowRings sts).foldl (fun u g => u.setRing g { u.ring g with gated := false }) s
  let s2 := (sts.zip (List.range sts.length)).foldl (fun u q => match x.stripes[q.2]? with
    | some y => u.layStripe rg m q.1 q.2 (hdr + 65536 * (1 + q.2)) y
    | none => u.setStripe q.1 { u.stripe q.1 with rg := some rg, ws := q.2 }) s1
  let s3 := s2.layBytes (p.takes r) x.bytes x.marks
  let s4 := x.ports.foldl (fun u (q : Nat × Port) =>
    let e := (p.exts.find? fun (y : Nat × Allot) => decide (y.1 = q.1 % 16)).map Prod.snd
    u.setPort (m.port q.1) { q.2 with cfg := spcfg ((field q.2.cfg 0 6 : BitVec 6).toNat) e (q.2.cfg.getLsbD 23) }) s3
  let s5 := x.strms.foldl (fun u (q : Nat × Strm) =>
    u.setStrm (m.strm q.1) { q.2 with q := q.2.q.map m.sop, port := q.2.port.map m.port, fault := false }) s4
  let s6 := x.waits.foldl (fun u w => u.setWait w.1 (m.wait w.2)) s5
  let s7 := { s6 with
    fl := { s6.fl with
      resv := s6.fl.resv ++ x.resv.map fun (y : Nat × Dest) => (y.1, m.dest y.2)
      twins := s6.fl.twins.map fun (p : Nat × List (Nat × Nat × Ret)) => (p.1, p.2.map fun (q : Nat × Nat × Ret) => if q.2.1 = rg then (q.1, q.2.1, m.ret q.2.2) else q) }
    bufs := x.bufs.foldl (fun (b : FMap CBuf) (q : Nat × CBuf) => b.put {} (m.pa q.1) q.2) s6.bufs
    work := { s6.work with saved := s6.work.saved.del rg } }
  let s8 := s7.setRegion rg { r with
    lcs := r.lcs.map fun (c : Nat × LoopCtx) => (c.1, { c.2 with issued := 0 })
    wlcs := r.wlcs.map fun (c : Nat × LoopCtx) => (c.1, { c.2 with issued := 0 })
    pk := pk, ring := p.ring, first := p.first, count := p.count, link := p.link, allot := p.data, saveAllot := p.save
    parkAllot := p.park ++ p.exts.map Prod.snd, stop := if x.waits.any (fun w => match w.2.kind with | .halt .. => true | _ => false) then some s.cyc else none, drain := false, halted := false, saved := false, redo := [], live := true
    reel := { r.reel with live := true, thr := none }
    sinks := r.sinks.map fun (p : Nat × List Dest) => (p.1, p.2.map m.dest)
    usr := (List.range 16).foldl (fun (u : FMap W32) i => u.put 0 i (s.read32 (hdr + 0x104 + 4 * i))) []
    brken := (s.read32 (hdr + 0x144)).getLsbD 0 }
  -- messages that TAIL has passed meanwhile complete (R133)
  let s9 := x.waits.foldl (fun u w => match (m.wait w.2).kind with | .cbtail d _ => u.tailPassed d | _ => u) s8
  r.redo.foldl (fun u f =>
    let st := m.st f.st
    let g := u.ring (ringOf st)
    (u.setRing (ringOf st) { g with fills := g.fills ++ [{ f with ord := u.fl.next, st := st, begun := false }] }).bump) s9

/-- The stream instances of a Figure after its regions' moves (R473). -/
def movedStreams (l : FMap SInst) (ms : List (Reloc × SavedRegion)) : FMap SInst :=
  let mv (p : Option Nat) : Option Nat := p.bind fun n => (ms.find? fun q => q.2.ports.any fun y => decide (y.1 = n)).map fun q => q.1.port n
  l.foldl (fun (m : FMap SInst) e => m.put {} e.1 { wport := mv e.2.wport, rport := mv e.2.rport }) []

/-- One instance of a saved Figure resumes. -/
def State.layFigure (s : State) (fg : Nat) (spots : List (Option Spot)) : State :=
  let x := s.fig fg
  let base := (x.save.getD (0, 0)).1
  let parts := (List.range x.nreg).filterMap fun i =>
    match s.savedRegion (fg * 64 + i), spots.getD i none with
    | some y, some p => some (i, y, p)
    | _, _ => none
  let s1 := parts.foldl (fun u q => u.layRegion x.pk (fg * 64 + q.1) base q.2.1 q.2.2) s
  s1.setFig fg { x with
    phase := .placed, rank := 0, forTask := none, save := none, recs := [], trapNum := none, pageNum := none, placedAt := s.cyc
    late := x.late.map fun (c : Nat × Option Nat) => (c.1, c.2.map fun n => n + (s.cyc - x.pausedAt))
    streams := movedStreams x.streams (parts.map fun q => (moveOf x.pk q.2.1.region q.2.2, q.2.1)) }

/-- The record still carries its MAGIC, version, object address, region count and entry kinds (R459). -/
def State.recordOk (s : State) (fg : Nat) : Bool :=
  let x := s.fig fg
  let b := (x.save.getD (0, 0)).1
  decide (s.readN b 4 = 0x53564B46 ∧ s.readN (b + 4) 4 = 1 ∧ s.readN (b + 8) 8 = x.obj.toNat ∧ s.readN (b + 0x12) 2 % 128 = x.nreg)
  && (List.range 256).all fun i =>
    decide ((s.peek (b + 0x800 + 8 * i)).toNat % 4 = x.kinds.getD i 0)

/-- An uncorrectable line of the record (R463). -/
def State.badLine (s : State) (fg : Nat) : Option Nat :=
  let p := (s.fig fg).save.getD (0, 0)
  (linesOf p.1 p.2).find? fun l => s.damagedIn l 64

/-- A record that fails the checks of R459 ends its Figure with 0x100B. -/
def State.badRecord (s : State) (fg : Nat) : State :=
  let x := s.fig fg
  (s.detect x.pk (.figure fg) (2 ^ 87) { fcode := 0x100B, point := 5, addr := x.obj, detail := 0xFFFF0000 })

/-- RESUMPTION (R365, R459, R463): the saved Figure of the task at the head of the order (R352) takes
its places, with as many copies as it was saved with (R43; DESIGN CHOICE, log 53). -/
def execResumption (fg : Nat) (s : State) : Host.Outcome State Fault Refusal :=
  let x := s.fig fg
  let gs := s.group fg
  let first := (s.nextKernel x.pk).map Prod.fst
  if x.phase ≠ .saved ∨ x.ended ∨ first ≠ some x.task ∨ x.rank = 1 ∨ (s.members.get {} x.pk).step ≠ 0
    ∨ gs.any (fun g => !((s.regionsOf g).isEmpty)) ∨ s.det.any (fun d => decide (d.own = .figure fg)) then .next s
  else match s.task x.task with
    | none => .next s
    | some t =>
      match gs.findSome? s.badLine with
      | some line => .next (((s.damageLine line).detect x.pk (.figure x.lead) (2 ^ 90)
          { fcode := 0xE201, tier := 2, point := 2, addr := BitVec.ofNat 64 line }).setTask x.task { t with phase := .held })
      | none =>
        if gs.any fun g => !(s.recordOk g) then .next ((s.badRecord x.lead).setTask x.task { t with phase := .held })
        else
          match s.tryPlace x.pk x.task (fun _ => false) (gs.map fun g => s.savedAsks g) with
          | none => .next s
          | some spots =>
            let u := (gs.zip spots).foldl (fun v p => v.layFigure p.1 p.2) s
            .next ((u.setTask x.task { t with phase := .running }).placedTask x.pk x.task)

end Sys2Proof.Machine
end

