-- ==== Sys2Proof/Machine/Fault.lean ====
section
/-! DEFINITION. The fault handler (R391 to R405, R461, R462): the disposition of each detected condition, the fault log, and the registers that dispose of held Figures (R396, R443, R460). -/
namespace Sys2Proof.Machine
open Sys2Proof

/-! ### Dispositions (R461, R462) -/

/-- A recovery domain protects the package: a tier-2 condition starts a rollback (R446, R477). -/
def State.inDomain (s : State) (pk : Nat) : Bool := s.pvEn pk && s.rdMember pk pk

/-- The rank of the disposition that a condition raises for its Figure (Table 21.2). -/
def FaultRec.rank (r : FaultRec) : Nat :=
  if r.tier = 2 ∨ r.tier = 3 then 1
  else if r.fcode = 0xD001 ∨ r.fcode = 0xD002 ∨ r.fcode = 0xD003 then 3
  else if r.point = 1 ∧ 0xC001 ≤ r.fcode ∧ r.fcode ≤ 0xC004 then 3
  else 2

/-- The condition is counted in ECNT10 (Table 18.11). -/
def FaultRec.counted (r : FaultRec) : Bool := decide (r.tier = 4 ∧ r.point ≠ 7 ∧ r.fcode.toNat / 4096 ≠ 13)

/-- A tier-2 or tier-3 record asks for a rollback; while one runs it is only counted (R446). -/
def State.askRollback (s : State) (pk : Nat) : State :=
  let m := s.members.get {} pk
  if s.inDomain pk = false then s
  else if m.step ≠ 0 then s.count pk 10 1
  else ({ s with members := s.members.put {} pk { m with report := true } }).setPav pk { s.pav pk with cond := true }

/-- DETAIL[31] of a schedule fault that recurs at the same image, position and iteration after a rollback (R423). -/
def State.schedKey (s : State) (r : FaultRec) (x : Fig) : Nat × Nat × W64 :=
  let pl := r.place.toNat
  let st := (x.pk * 64 + 4 * (pl % 16) + pl / 16 % 4) * 32 + pl / 64 % 32
  (x.obj.toNat * 65536 + ((s.stripe st).planes.get {} r.plane.toNat).img, r.pos.toNat, r.iter)

/-- The record with what the handler adds: address space and TAG of the Figure, and the mark of R423. -/
def State.fillRec (s : State) (r : FaultRec) (x : Fig) : FaultRec :=
  let again := decide (r.fcode = 0xE103) && (s.sched x.pk).seen.any fun k => decide (k = s.schedKey r x)
  { r with asid := x.asid, tag := x.tag, detail := if again then r.detail ||| 0x80000000 else r.detail }

/-- A Figure ends: with FLTCTL.KEEP = 1 and room in the pool its save record is kept (R396). The record names it. -/
def State.endDisp (s : State) (lead rank : Nat) (r : FaultRec) : State :=
  let x := s.fig lead
  let gs := s.group lead
  let keep := (s.reg x.pk 0x16008).getLsbD 12
  let given := if keep then (if x.save.isSome then some s else s.giveRecords x.pk gs) else none
  let s1 := match given with
    | some u => gs.foldl (fun (v : State) g => v.setFig g { v.fig g with kept := true }) u
    | none => s.unsave lead
  let a : W64 := match (s1.fig lead).save with | some p => BitVec.ofNat 64 p.1 | none => 0
  let s2 := ((s1.queueRec x.pk { r with save := a }).1).haltGroup lead rank
  if x.phase = .halted then s2.groupHalted lead else s2

/-- A Figure is held (R442, R457): its record waits for the save. Without room for one the Figure ends instead (DEDUCED, log 25). -/
def State.holdDisp (s : State) (lead : Nat) (r : FaultRec) : State :=
  let x := s.fig lead
  let gs := s.group lead
  let note (u : State) : State := u.setFig lead { u.fig lead with recs := (u.fig lead).recs ++ [r] }
  match if x.save.isSome then some s else s.giveRecords x.pk gs with
  | some u => (note u).haltGroup lead 3
  | none => ((note s).unsave lead).haltGroup lead 2

/-- A condition of a Figure takes effect against the dispositions that stand; a tier-2 one raised while a rollback runs is recorded and
counted, whatever has become of the Figure (R446). -/
def State.figDisp (s : State) (lead : Nat) (r0 : FaultRec) : State :=
  let x := s.fig lead
  let r := s.fillRec r0 x
  let n := r.rank
  let s1 := if r.counted then s.count x.pk 10 1 else s
  let s1 := if r.fcode = 0xE103 ∧ s.inDomain x.pk then s1.setSched x.pk { s1.sched x.pk with seen := s.schedKey r x :: (s1.sched x.pk).seen } else s1
  if n = 1 ∧ s.inDomain x.pk ∧ (s.members.get {} x.pk).step ≠ 0 then ((s1.queueRec x.pk r).1).askRollback x.pk
  else if x.ended then s1
  else if x.phase = .saved then
    -- a saved Figure: only the loader's check and a failed read of its record end it (R459, R463)
    if n ≤ 2 then
      let s2 := (s1.queueRec x.pk r).1
      if n = 1 ∧ s.inDomain x.pk then s2.askRollback x.pk else (s2.unsave lead).endGroup lead
    else s1
  else if x.rank ≠ 0 ∧ x.rank ≤ n then
    if x.rank = 3 ∧ n = 3 then
      let other := x.recs.all fun y => decide (y.fcode.toNat / 4096 ≠ r.fcode.toNat / 4096)
      let s2 := if r.counted then s1 else s1.count x.pk 10 1
      if other then s2.setFig lead { x with recs := x.recs ++ [r] } else s2
    else if n = 1 then s1.count x.pk 10 1
    else s1
  else if n = 1 then
    if s.inDomain x.pk then (((s1.queueRec x.pk r).1).askRollback x.pk).haltGroup lead 1
    else s1.endDisp lead 1 r
  else if n = 2 then s1.endDisp lead 2 r
  else s1.holdDisp lead r

/-- The condition of an owner that the handler takes first among those of one cycle: the lowest region, then the lowest
POINT, then the element order (R400). -/
def detBefore (a b : Detected) : Bool :=
  decide (a.info.region.toNat < b.info.region.toNat) || (decide (a.info.region = b.info.region) &&
    (decide (a.info.point.toNat < b.info.point.toNat) || (decide (a.info.point = b.info.point) && decide (a.ord < b.ord))))
def bestDet : List Detected → Option Detected
  | [] => none
  | d :: ds => match bestDet ds with
    | none => some d
    | some e => if detBefore e d then some e else some d
/-- A list without the first entry equal to `d`. -/
def dropDet (d : Detected) : List Detected → List Detected
  | [] => []
  | x :: xs => if x = d then xs else x :: dropDet d xs

/-- FAULT_RECORD_DISPATCH (R396 to R400, R404): the handler takes the oldest condition of the package that an earlier cycle
detected. Walks and requests have ended where the condition arose (R397, R399). -/
def execFaultRecordDispatch (pk : Nat) (s : State) : Host.Outcome State Fault Refusal :=
  match s.det.find? fun d => decide (d.info.pkg.toNat = pk ∧ d.info.cyc.toNat < s.cyc) with
  | none => .next s
  | some d0 =>
    let same := s.det.filter fun d => decide (d.own = d0.own ∧ d.info.cyc = d0.info.cyc ∧ d.info.pkg = d0.info.pkg)
    let d := if d0.own = .none then d0 else (bestDet same).getD d0
    let s1 := { s with det := dropDet d s.det }
    let r := d.info
    let plain (u : State) : State :=
      let v := if r.counted then u.count pk 10 1 else u
      let w := (v.queueRec pk r).1
      if r.rank = 1 then w.askRollback pk else w
    match d.own with
    | .figure fg =>
      if s.figs.any fun f => decide (f.1 = fg) then .next (s1.figDisp (s.fig fg).lead r)
      else if d.ord = 2 ^ 87 ∨ r.rank = 1 then .next (plain s1)
      else .next (if r.counted then s1.count pk 10 1 else s1)
    | .request _ => .next ((plain s1).count pk 11 1)
    | _ => .next (plain s1)

/-! ### The fault log (R404, R405) -/

/-- The 64 bytes of a record (Table 18.9). -/
def recBytes (r : FaultRec) : List Byte :=
  leBytes 4 (r.fcode.toNat + 2 ^ 16 * r.tier.toNat + 2 ^ 20 * r.point.toNat) ++ leBytes 4 r.pkg.toNat
  ++ leBytes 4 (r.place.toNat + 2 ^ 17 * r.region.toNat + 2 ^ 23 * r.pos.toNat + 2 ^ 27 * r.plane.toNat) ++ leBytes 4 r.asid.toNat
  ++ leBytes 8 r.cyc.toNat ++ leBytes 4 r.open_.toNat ++ leBytes 4 r.detail.toNat ++ leBytes 8 r.addr.toNat ++ leBytes 8 r.iter.toNat
  ++ leBytes 8 r.save.toNat ++ leBytes 4 r.tag.toNat ++ leBytes 4 r.num.toNat

/-- FAULT_RECORD_POST (R405): the oldest queued record goes to the log in host memory. -/
def execFaultRecordPost (pk : Nat) (s : State) : Host.Outcome State Fault Refusal :=
  match (s.sched pk).log with
  | [] => .next s
  | r :: rs =>
    if (s.reg pk 0x16008).getLsbD 0 = false then .next s
    else match s.hostRing pk 0x16000 0x16008 0x16010 0x16018 (recBytes { r with cyc := BitVec.ofNat 64 (r.cyc.toNat - s.out.clock0.get 0 pk) }) with
      | none => .next s
      | some t => .next (t.setLog pk rs)

/-! ### Kept records and held Figures (R396, R443, R460) -/

/-- A write of FLTCTL: KEEP from 1 to 0 frees every kept record. -/
def State.fltctlWrite (s : State) (pk : Nat) (v : W64) : State :=
  s.windowWrite pk 0x16008 v fun w t =>
    let drop := (t.reg pk 0x16008).getLsbD 12 && !(w.getLsbD 12)
    let t1 := t.setReg pk 0x16008 w
    if drop then
      (t1.figs.filter fun f => decide (f.2.pk = pk) && f.2.ended && f.2.kept).foldl (fun u f =>
        let v := u.setFig f.1 { u.fig f.1 with kept := false, save := none }
        ({ v with work := { v.work with saved := v.work.saved.filter fun p => decide (figOf p.1 ≠ f.1) } }).reapFig f.1) t1
    else t1
/-- FLTCTL_KEEP_CLEAR (R396). -/
def execFltctlKeepClear (pk : Nat) (v : W64) (s : State) : Host.Outcome State Fault Refusal := .next (s.fltctlWrite pk v)

/-- The held Figure that a record number names: its first instance. -/
def State.heldBy (s : State) (pk : Nat) (trap : Bool) (num : W32) : Option Nat :=
  (s.figs.find? fun f => decide (f.2.pk = pk ∧ f.1 = f.2.lead ∧ f.2.phase = .saved ∧ f.2.ended = false)
    && decide ((if trap then f.2.trapNum else f.2.pageNum) = some num)).map Prod.fst

/-- A held Figure is released by one register; its task is ready once nothing else holds it (R462). -/
def State.releaseHold (s : State) (lead : Nat) (trap step : Bool) : State :=
  let s1 := (s.group lead).foldl (fun u g =>
    let x := u.fig g
    u.setFig g { x with
      trapNum := if trap then none else x.trapNum, pageNum := if trap then x.pageNum else none
      stepping := if trap then (if step then some 0 else none) else x.stepping }) s
  let x := s1.fig lead
  if x.trapNum.isNone ∧ x.pageNum.isNone then
    let s2 := (s1.group lead).foldl (fun u g => u.setFig g { u.fig g with rank := 0 }) s1
    match s2.task x.task with
    | some t => s2.setTask x.task { t with phase := .ready, since := s.cyc, aged := 0 }
    | none => s2
  else s1

/-- A held Figure ends under steps 3 to 5 of R396: its record is kept only while KEEP = 1 (DEDUCED, log 37). -/
def State.endHeld (s : State) (lead : Nat) : State :=
  let keep := (s.reg (s.fig lead).pk 0x16008).getLsbD 12
  ((s.group lead).foldl (fun u g => u.setFig g { u.fig g with kept := keep }) s).endGroup lead

/-- A write of PGFRES or DBGRES: action 01 resume, 10 end, 11 step. -/
def State.resWrite (s : State) (pk off : Nat) (trap : Bool) (v : W64) : State :=
  s.windowWrite pk off v fun w t =>
    let act := w.toNat / 2 ^ 32 % 4
    match t.heldBy pk trap (field w 0 32) with
      | none => t.discard pk off
      | some fg =>
        let t1 := t.setReg pk off w
        if act = 0 then t1 else if act = 2 then t1.endHeld fg else t1.releaseHold fg trap (decide (act = 3))

/-- PGFRES_RESUME (R443). -/
def execPgfresResume (pk num : Nat) (s : State) : Host.Outcome State Fault Refusal :=
  .next (s.resWrite pk 0x16610 false (BitVec.ofNat 64 (num % 2 ^ 32 + 2 ^ 32)))
/-- PGFRES_END (R443, R396). -/
def execPgfresEnd (pk num : Nat) (s : State) : Host.Outcome State Fault Refusal :=
  .next (s.resWrite pk 0x16610 false (BitVec.ofNat 64 (num % 2 ^ 32 + 2 * 2 ^ 32)))
/-- DBGRES_RESUME (R460). -/
def execDbgresResume (pk num : Nat) (s : State) : Host.Outcome State Fault Refusal :=
  .next (s.resWrite pk 0x16628 true (BitVec.ofNat 64 (num % 2 ^ 32 + 2 ^ 32)))
/-- DBGRES_END (R460, R396). -/
def execDbgresEnd (pk num : Nat) (s : State) : Host.Outcome State Fault Refusal :=
  .next (s.resWrite pk 0x16628 true (BitVec.ofNat 64 (num % 2 ^ 32 + 2 * 2 ^ 32)))
/-- DBGRES_STEP (R460). -/
def execDbgresStep (pk num : Nat) (s : State) : Host.Outcome State Fault Refusal :=
  .next (s.resWrite pk 0x16628 true (BitVec.ofNat 64 (num % 2 ^ 32 + 3 * 2 ^ 32)))

end Sys2Proof.Machine
end

