-- ==== Sys2Proof/Machine/Interval.lean ====
section
/-! DEFINITION. Recovery intervals (R149 to R173): the first interval, seal requests, the Pavane's four steps, and the disable request. -/
namespace Sys2Proof.Machine
open Sys2Proof

/-- PVCFG.LEADER and PVCFG.PERIOD. -/
def State.leader (s : State) (pk : Nat) : Nat := (field (s.reg pk 0x11000) 18 13 : BitVec 13).toNat
def State.period (s : State) (pk : Nat) : Nat := (field (s.reg pk 0x11000) 1 17 : BitVec 17).toNat
/-- Fabric cycles in a microsecond (R356). -/
def usCycles : Nat := 1800
/-- The members of the recovery domain that package `pk` lists, but for lost ones (R149, R451). -/
def State.domain (s : State) (pk : Nat) : List Nat := (List.range 8192).filter fun q => s.rdMember pk q && !(s.members.get {} q).lost

/-- PVSTAT.PHASE (Table 7.3): 0 idle, 1 CLOSE, 2 DRAIN, 3 VOTE, 4 SEAL. -/
def State.phase (s : State) (pk : Nat) : Nat := (s.reg pk 0x11018).toNat % 8
def State.setPhase (s : State) (pk n : Nat) : State := s.setReg pk 0x11018 ((s.reg pk 0x11018 &&& ~~~(7 : W64)) ||| BitVec.ofNat 64 n)
/-- INSTAT takes new values; what it held at the start of the cycle stays known (R287). -/
def State.setInstat (s : State) (pk : Nat) (open_ sealed_ : W32) : State :=
  let old := s.ms.instat.get (0, 0) pk
  let s1 := if old.1 = s.cyc + 1 then s else { s with ms := { s.ms with instat := s.ms.instat.put (0, 0) pk (s.cyc + 1, s.reg pk 0x11010) } }
  s1.setReg pk 0x11010 (open_.zeroExtend 64 ||| (sealed_.zeroExtend 64 <<< 32))
/-- PVSTAT.REQ. -/
def State.reqBit (s : State) (pk : Nat) : Bool := (s.reg pk 0x11018).getLsbD 3
def State.setReqBit (s : State) (pk : Nat) (b : Bool) : State :=
  s.setReg pk 0x11018 (if b then s.reg pk 0x11018 ||| 8 else s.reg pk 0x11018 &&& ~~~(8 : W64))

/-- No rollback runs or is asked for in the domain. -/
def State.domainCalm (s : State) (pk : Nat) : Bool := (s.domain pk).all fun q => let m := s.members.get {} q; decide (m.step = 0) && !m.report

/-- INTERVAL_ENABLE (R149, R150, R173): the leader begins the first interval once every member has EN = 1 and no sweep
of a stack is due. -/
def execIntervalEnable (pk : Nat) (s : State) : Host.Outcome State Fault Refusal :=
  let ms := s.domain pk
  if s.enBit pk ∧ s.leader pk = pk ∧ ms.contains pk ∧ ms.all (fun q => s.enBit q && !(s.pav q).started)
    ∧ ms.all (fun q => (List.range 16).all fun k => !(s.stack (q * 16 + k)).sweep) then
    .next (ms.foldl (fun t q => (t.setInstat q 1 0).setPav q { started := true, begun := s.cyc }) s)
  else .next s

/-- SEAL_REQUEST (R159): a member's request reaches the leader; it is pending there until a CLOSE begins. -/
def execSealRequest (pk : Nat) (s : State) : Host.Outcome State Fault Refusal :=
  if s.pvEn pk ∧ (s.pav pk).req then
    let s1 := s.setPav pk { s.pav pk with req := false }
    .next ((s1.setReqBit pk true).setReqBit (s.leader pk) true)
  else .next s

/-- A member's stacks. -/
def stacksOf (pk : Nat) : List Nat := (List.range 16).map fun k => pk * 16 + k

/-- CLOSE(n) reaches every member (R153, R157): OPEN switches, the close window begins, requests are satisfied, and the
counts of R468 start again. The sweep that every stack completes within 2^13 intervals has cleared the tags that are
2^14 older than the new OPEN (R154). -/
def State.closeAll (s : State) (pk : Nat) : State :=
  let s1 := (s.domain pk).foldl (fun t q =>
    let n := t.open_ q
    let v := (stacksOf q).foldl (fun t k => t.sweepTags k (n + 1) (2 ^ 14)) t
    (((v.setInstat q (n + 1) (v.sealed q)).setPav q
      { v.pav q with window := true, begun := v.cyc, drained := false, req := false, quitting := (v.pav q).disable }).setPhase q 1).setReqBit q false) s
  let mine (k : Nat) : Bool := (s.domain pk).contains k
  { s1 with
    fab := { s1.fab with
      stripes := s1.fab.stripes.map fun (t : Nat × Stripe) => if mine (t.1 / 2048) then (t.1, { t.2 with corr := 0, resent := 0 }) else t
      mxs := s1.fab.mxs.map fun (t : Nat × MxElem) => if mine (t.1 / 128 / 2048) then (t.1, { t.2 with corr := 0, resent := 0 }) else t }
    ms := { s1.ms with bankCnt := s1.ms.bankCnt.filter fun c => !(mine (if c.1 % 2 = 0 then c.1 / 4096 else c.1 / 2048)) }
    out := { s1.out with laneErrs := s1.out.laneErrs.filter fun c => !(mine (c.1 / 512)) } }

/-- A CLOSE may begin at the leader: none runs, and no rollback does. -/
def State.mayClose (s : State) (pk : Nat) : Bool :=
  s.pvEn pk && decide (s.leader pk = pk) && decide (s.phase pk = 0) && s.domainCalm pk && !(s.members.get {} pk).lost

/-- SEAL_PERIOD_EXPIRY (R159): PERIOD microseconds after the last CLOSE began, the next one begins; one that a running
Pavane outlasts begins when that completes. -/
def execSealPeriodExpiry (pk : Nat) (s : State) : Host.Outcome State Fault Refusal :=
  if s.mayClose pk ∧ (s.pav pk).begun + s.period pk * usCycles ≤ s.cyc then .next (s.closeAll pk) else .next s

/-- PAVANE_CLOSE (R157, R159, R173): CLOSE for a pending request (DESIGN CHOICE, log 19). -/
def execPavaneClose (pk : Nat) (s : State) : Host.Outcome State Fault Refusal :=
  if s.mayClose pk ∧ (s.reqBit pk ∨ (s.pav pk).disable) then .next (s.closeAll pk) else .next s

/-- The package of an engine write outside a request: of a migration, or of a walk or task. -/
def State.keptPk (s : State) (key : Nat) : Option Nat :=
  if key % 2 = 0 then some (key / 32)
  else ((s.walk (key / 2)).map Walk.pk).orElse fun _ => (s.task (key / 2)).map Task.pk

/-- Every access tagged with the closing interval that the member dispatched is performed, every delta of it is
acknowledged, and every irrevocable write of it is staged (R157). -/
def State.drainedAt (s : State) (pk : Nat) : Bool :=
  let n := s.open_ pk - 1
  !(s.fl.accs.any fun a => decide ((s.region a.2.rg).pk = pk ∧ a.2.tag = some n) && !a.2.past)
  && !(s.eng.reqs.any fun r => decide (tpPk r.2.tp = pk ∧ r.2.held.map HeldPart.tag = some n))
  && !(s.ms.kept.any fun k => decide (s.keptPk k.1 = some pk ∧ keptTag k.2 = some n))
  && !(s.ms.deltas.any fun d => decide ((d.2.src = pk ∨ d.2.dst = pk) ∧ d.2.tag = some n))

/-- The close-window tables of a member's stacks are cleared at CLOSE-complete (R155). -/
def State.noCwt (s : State) (q : Nat) : State :=
  (List.range 16).foldl (fun t k => t.setStack (q * 16 + k) { t.stack (q * 16 + k) with cwt := [] }) s

/-- PAVANE_DRAIN (R153, R157): after every die has switched, CLOSE-complete ends the close windows; then each member
reports drained, and the last report begins the vote. -/
def execPavaneDrain (pk : Nat) (s : State) : Host.Outcome State Fault Refusal :=
  let ms := s.domain pk
  if s.pvEn pk = false ∨ (s.members.get {} pk).step ≠ 0 then .next s
  else if s.phase pk = 1 then
    if s.leader pk = pk then .next (ms.foldl (fun t q => ((t.setPav q { t.pav q with window := false }).noCwt q).setPhase q 2) s) else .next s
  else if s.phase pk = 2 ∧ !(s.pav pk).drained ∧ s.drainedAt pk then
    let s1 := s.setPav pk { s.pav pk with drained := true }
    if ms.all fun q => (s1.pav q).drained then .next (ms.foldl (fun t q => t.setPhase q 3) s1) else .next s1
  else .next s

/-- PAVANE_VOTE (R157, R446): with a commit vote of every member the leader broadcasts SEAL(n). A member that has
recorded a condition votes abort, and no SEAL follows until the rollback has completed. -/
def execPavaneVote (pk : Nat) (s : State) : Host.Outcome State Fault Refusal :=
  let ms := s.domain pk
  if s.pvEn pk ∧ s.leader pk = pk ∧ s.phase pk = 3 ∧ (s.members.get {} pk).step = 0 ∧ ms.all (fun q => !(s.pav q).cond) then
    .next (ms.foldl (fun t q => t.setPhase q 4) s)
  else .next s

/-- The head of a stack's log passes every freed entry (R156). -/
def State.freeUndo (s : State) (sk : Nat) (n : W32) : State :=
  let x := s.stack sk
  let k := ((s.undoAll sk).takeWhile fun p => ivLe (s.undoTag sk p) n).length
  (s.setStack sk { x with head := x.head + k }).syncUsed sk
/-- A stack of a member leaves interval operation (R173): its entries are discarded without being applied, and a full
sweep is due. -/
def State.quitUndo (s : State) (sk : Nat) : State :=
  let x := s.stack sk
  (s.setStack sk { x with head := x.tail, cwt := [], sweep := true }).syncUsed sk
/-- The part of each kind that every unit of a package replaces at a replacement point: the lowest pending number (R470).
Stripes withdrawn without a spare are left at the same point (R433). -/
def State.pointParts (s : State) (pk : Nat) : List (Nat × Nat) :=
  let unit (x : Nat × Nat) : Nat := match x.1 with
    | 0 => x.2 / 32
    | 1 => x.2 / 4096
    | 2 => x.2 / 32
    | 3 => x.2 / 64
    | 4 => x.2 / 2 ^ 26
    | 5 => x.2
    | _ => x.2
  let pkg (x : Nat × Nat) : Nat := match x.1 with
    | 0 | 6 => x.2 / 2048
    | 1 => x.2 / 128 / 2048
    | 2 => x.2 / 2048
    | 3 => x.2 / 1024
    | 4 => x.2 / 2 ^ 30
    | _ => x.2 / 32
  let own := s.ms.pend.filter fun x => decide (pkg x = pk)
  own.filter fun x => own.all fun y => decide (y.1 ≠ x.1 ∨ unit y ≠ unit x ∨ x.2 ≤ y.2)
/-- A replacement point of a package (R470). -/
def State.point (s : State) (pk : Nat) : State :=
  let l := s.ms.due.get [] pk
  { s with ms := { s.ms with due := s.ms.due.put [] pk (l ++ (s.pointParts pk).filter fun x => !(l.contains x)) } }

/-- SEAL(n) on one member. -/
def State.sealAt (s : State) (q : Nat) : State :=
  let n := s.open_ q - 1
  let last : W64 := BitVec.ofNat 64 ((s.cyc - (s.pav q).begun) % 2 ^ 32)
  let s1 := (stacksOf q).foldl (fun t k => t.freeUndo k n) (s.setInstat q (s.open_ q) n)
  let s2 := (s1.setPhase q 0).setPav q { s1.pav q with drained := false, window := false }
  (s2.setReg q 0x11018 ((s2.reg q 0x11018 &&& 0xFFFFFFFF) ||| (last <<< 32))).point q
/-- A pending fence, barrier or message waits for no interval any more. -/
def WKind.untag : WKind → WKind
  | .fence scope el _ => .fence scope el none
  | .sbar scope ring mask _ => .sbar scope ring mask none
  | k => k
/-- What a member has on its way carries no tag any more, its Figures' newest tags and its SEAL nodes name no interval (R150,
R160). -/
def State.untag (s : State) (q : Nat) : State :=
  { s with
    fl := { s.fl with
      accs := s.fl.accs.map fun a => if (s.region a.2.rg).pk = q then (a.1, { a.2 with tag := none }) else a
      waits := s.fl.waits.map fun w => if (s.region w.2.rg).pk = q then (w.1, { w.2 with kind := w.2.kind.untag }) else w }
    figs := s.figs.map fun f => if f.2.pk = q then (f.1, { f.2 with lastTag := none }) else f
    work := { s.work with walks := s.work.walks.map fun w => if w.2.pk = q then (w.1, { w.2 with thr := none }) else w }
    ms := { s.ms with
      deltas := s.ms.deltas.map fun d => if d.2.src = q ∨ d.2.dst = q then (d.1, { d.2 with tag := none }) else d
      kept := s.ms.kept.filter fun k => decide (s.keptPk k.1 ≠ some q) }
    eng := { s.eng with reqs := s.eng.reqs.map fun r => if tpPk r.2.tp = q then (r.1, { r.2 with tag := none, held := none }) else r } }
/-- Interval operation ends on one member (R173). -/
def State.quitAt (s : State) (q : Nat) : State :=
  let s1 := (stacksOf q).foldl State.quitUndo (s.untag q)
  let s2 := s1.setStaged q ((s1.staged q).map fun e => { e with tag := none })
  let s3 := (s2.setReg q 0x11000 (s2.reg q 0x11000 &&& ~~~(1 : W64))).setInstat q 0 0
  (s3.setReqBit q false).setPav q {}

/-- PAVANE_SEAL (R157, R173): SEALED := n on every member, entries are freed and release begins. A disable request takes
effect at the SEAL of the Pavane begun for it, where no member has recorded a tier-2 condition; with one it is abandoned.
A request made while another Pavane runs waits for that one to complete. -/
def execPavaneSeal (pk : Nat) (s : State) : Host.Outcome State Fault Refusal :=
  let ms := s.domain pk
  if s.pvEn pk ∧ s.leader pk = pk ∧ s.phase pk = 4 then
    let s1 := ms.foldl (fun t q => t.sealAt q) s
    if (s.pav pk).quitting then
      if ms.all fun q => !(s.members.get {} q).report && !(s.det.any fun d => decide (d.info.pkg.toNat = q ∧ (d.info.tier = 2 ∨ d.info.tier = 3))) then
        .next (ms.foldl (fun t q => t.quitAt q) s1)
      else .next (s1.setPav pk { s1.pav pk with disable := false, quitting := false })
    else .next s1
  else .next s

/-- The disable request of R172 and R173: PVCFG.EN from 1 to 0 on the leader. -/
def State.disableNow (s : State) (pk : Nat) : State := (s.setReqBit pk true).setPav pk { s.pav pk with disable := true }
/-- A write of PVCFG. -/
def State.pvcfgWrite (s : State) (pk : Nat) (v : W64) : State :=
  let old := s.reg pk 0x11000
  if old.getLsbD 0 ∧ v = old &&& ~~~1 ∧ s.leader pk = pk ∧ s.windowOn pk then s.disableNow pk
  else s.windowWrite pk 0x11000 v (plainWrite pk 0x11000)
/-- DISABLE_REQUEST (R173): a write of PVCFG that clears EN and changes nothing else. -/
def execDisableRequest (pk : Nat) (s : State) : Host.Outcome State Fault Refusal :=
  if s.enBit pk then .next (s.pvcfgWrite pk (s.reg pk 0x11000 &&& ~~~1)) else .next s

end Sys2Proof.Machine
end

