-- ==== Sys2Proof/Machine/FabricFault.lean ====
section
/-! DEFINITION. Damage in the fabric and its repair (R410 to R417): replay windows, misrouted tokens, the retry of a result check, and the refill of a damaged plane. -/
namespace Sys2Proof.Machine
open Sys2Proof

/-! ### Hops (R410 to R413) -/

/-- The hop whose code is `h` among those with a token on its way in this cycle, with that token. -/
def State.arriving (s : State) (h : Nat) : Option Emit := s.fl.emits.find? fun e => decide (hopCode e.src e.dst = some h ∧ e.due = s.cyc)

/-- The receiver of a hop fails (R413, R431): 0xE102 at the receiving element, whose stripe is marked. The hop's window
goes with the Figure (DEDUCED, log 39). -/
def State.hopFails (s : State) (e : Emit) : State :=
  let drop (u : State) : State := { u with fl := { u.fl with
    hops := u.fl.hops.filter fun h => decide (¬ (h.src = e.src ∧ h.dst = e.dst))
    emits := u.fl.emits.filter fun x => decide (¬ (x.src = e.src ∧ x.dst = e.dst)) } }
  let s1 := drop s
  match e.dst with
  | .queue el _ => (s1.elFault el 0xE102 2 0 e.tok.payload).markStripe (stOf el)
  | .opq el => (s1.elFault el 0xE102 2 0 e.tok.payload).markMx el
  | .pass st _ => (s1.elFault (128 * st) 0xE102 2 0 e.tok.payload).markStripe st
  | .port p =>
    match (s1.port p).rg with
    | none => s1
    | some rg =>
      let r := s1.region rg
      (s1.setRegion rg { r with stop := some (r.stop.getD s.cyc), drain := false }).detect (pkOf (p / 16)) (.figure (figOf rg)) (2 ^ 80)
        { fcode := 0xE102, tier := 2, point := 0, region := BitVec.ofNat 6 rg, detail := e.tok.payload }
  | _ => s1

/-- The token that arrives in this cycle is discarded; the hop sends it and everything after it again from cycle `at_`, which moves on
with the receiver's full cycles where `slow` holds. -/
def State.replay (s : State) (e : Emit) (at_ : Nat) (slow : Bool) : State :=
  let mine (x : Emit) : Bool := decide (x.src = e.src ∧ x.dst = e.dst)
  let later := s.fl.emits.filter mine
  let at1 := match later.filter fun x => decide (s.cyc < x.due) with
    | [] => at_
    | x :: _ => min at_ (x.due + 2)
  let win := later.map fun x => { x with sends := if x.due < at1 then x.sends else 0 }
  let old := (s.fl.hops.filter fun h => decide (h.src = e.src ∧ h.dst = e.dst)).map fun h => h.win
  { s with fl := { s.fl with
    emits := s.fl.emits.filter fun x => !(mine x)
    hops := (s.fl.hops.filter fun h => decide (¬ (h.src = e.src ∧ h.dst = e.dst)))
      ++ [{ src := e.src, dst := e.dst, win := win ++ old.flatten, from_ := at1, slow := slow && decide (at1 = at_) }] } }

/-- HOP_CHECK_FAIL (R411, R412): the token that arrives over hop `hop` in this cycle fails a check. The request reaches
the source in the next cycle, and the resends begin in the one after. -/
def execHopCheckFail (hop : Nat) (s : State) : Host.Outcome State Fault Refusal :=
  match s.arriving hop with
  | none => .next s
  | some e => if 9 ≤ e.sends then .next (s.hopFails e) else .next (s.replay e (s.cyc + 2) false)

/-- MISROUTE_RESEND_TIMEOUT (R413): the token that arrives is misrouted and discarded without a request; it is sent again
after 512 cycles in which its receiver had space, or with the replay that the next token's LSN asks for. -/
def execMisrouteResendTimeout (hop : Nat) (s : State) : Host.Outcome State Fault Refusal :=
  match s.arriving hop with
  | none => .next s
  | some e => if 9 ≤ e.sends then .next (s.hopFails e) else .next (s.replay e (s.cyc + 512) true)

/-- A token received again is counted against the receiver, a stripe or a matrix element: more than 256 in an interval mark it (R431). -/
def State.countResent (s : State) (d : Dest) : State :=
  match d, d.stripe? with
  | .opq el, _ =>
    let x := s.mx el
    let s1 := s.setMx el { x with resent := x.resent + 1 }
    if 256 < x.resent + 1 then s1.markMx el else s1
  | _, none => s
  | _, some st =>
    let t := s.stripe st
    let s1 := s.setStripe st { t with resent := t.resent + 1 }
    if 256 < t.resent + 1 then s1.markStripe st else s1

/-- The package of a hop's receiver. -/
def Dest.pk (d : Dest) : Nat := match d with
  | .port p => pkOf (p / 16)
  | _ => match d.stripe? with | some st => pkOf (ringOf st) | none => 0

/-- HOP_RESEND (R412): the oldest unaccepted token of the window is sent, one in a cycle. -/
def execHopResend (hop : Nat) (s : State) : Host.Outcome State Fault Refusal :=
  match s.fl.hops.find? fun h => decide (hopCode h.src h.dst = some hop) with
  | none => .next s
  | some h =>
    match h.win with
    | [] => .next s
    | e :: es =>
      if h.from_ ≤ s.cyc ∧ e.due ≤ s.cyc then
        let h1 : Hop := { h with win := es, from_ := s.cyc + 1, slow := false }
        let s1 := { s with fl := { s.fl with hops := s.fl.hops.map fun x => if x = h then h1 else x } }
        let s2 := s1.sendEmit { e with due := s.cyc, sends := e.sends + 1 }
        if 1 ≤ e.sends then .next ((s2.count h.dst.pk 5 1).countResent h.dst) else .next s2
      else .next s

/-! ### Results (R415, R416) -/

/-- The results that element `el` made in this cycle. -/
def State.madeNow (s : State) (el : Nat) : List Emit := s.fl.emits.filter fun e => decide (e.src = el ∧ e.born = s.cyc) && !e.tok.wave

/-- The retained operands are back at the heads of their queues. -/
def putBack : List (BitVec 2 × Token) → Elem → Elem
  | [], e => e
  | (q, t) :: qs, e => let e1 := putBack qs e; e1.setQueue q (t :: e1.queue q)

/-- An element is marked failing: its stripe, or the matrix element itself (R431). -/
def State.markPart (s : State) (el : Nat) : State := if eOf el < 64 then s.markStripe (stOf el) else s.markMx el

/-- What a firing of this cycle has begun outside the element is taken back: accesses, issued or not, and waits (R416). -/
def State.takeBack (s : State) (el : Nat) : State :=
  let own (o : SOp) : Bool := match o with
    | .acc _ _ _ _ _ _ _ ret f _ => decide (ret.el = el ∧ f = s.cyc)
    | .cfg _ _ f e => decide (e = el ∧ f = s.cyc)
    | _ => false
  let ids := (s.fl.accs.filter fun a => decide (a.2.ret.el = el ∧ a.2.fired = s.cyc)).map Prod.fst
    ++ (s.fl.waits.filter fun w => decide (w.2.ret.el = el ∧ w.2.f = s.cyc)).map Prod.fst
  let strms := s.fab.strms.map fun (t : Nat × Strm) => (t.1, { t.2 with q := t.2.q.filter fun o => !own o })
  ids.foldl (fun t i => ((t.delAcc i).delWait i).unreserve i) { s with fab := { s.fab with strms := strms } }

/-- RESULT_RETRY (R416, R431): the check of the firing's result in this cycle fails. Its emits take place L cycles later,
and the element fires nothing until then; of a firing without emits only the time changes (DEDUCED, log 83). Where the retry also
fails, the firing has no effect and 0xE101 is raised. -/
def execResultRetry (el : Nat) (twice : Bool) (s : State) : Host.Outcome State Fault Refusal :=
  let made := s.madeNow el
  let x := s.elem el
  if made = [] ∧ (64 ≤ eOf el ∨ x.fired ≠ s.cyc + 1) then .next s
  else
    let rest := s.fl.emits.filter fun y => !(made.contains y)
    let s0 := { s with fl := { s.fl with emits := rest } }.count (elPk el) 5 1
    if twice then
      let s1 := (s0.takeBack el).setElem el { putBack x.kept x with kept := [] }
      .next ((s1.elFaultAt el 0xE101 2 0 0 x.firing.1 x.firing.2).markPart el)
    else
      let late (y : Emit) : Emit := { y with due := y.due + (y.due - y.born + 1) }
      let till := (made.map fun y => (late y).due + 1).foldl max (s.cyc + 2)
      let s1 := made.foldl (fun t y => t.sendEmit (late y)) s0
      if eOf el < 64 then .next (s1.setElem el { s1.elem el with hold := till })
      else .next (s1.setMx el { s1.mx el with ready := till })

/-! ### Storage (R414, R417, R418, R435, R436) -/

/-- A token as it is read with an uncorrectable error: its value is a free value (DESIGN CHOICE, log 7). -/
def Token.hurt (v : W32) (t : Token) : Token := { t with payload := v, res := resOf v, et := true }
/-- A word read with an uncorrectable error. -/
def State.hurtWord (s : State) : W32 := BitVec.ofNat 32 (leNat ((List.range 4).map fun i => Config.damagedByte s.free i))
/-- A single-bit error in a stripe's storage is corrected and counted; more than 4096 in an interval mark the stripe (R417, R431). -/
def State.corrected (s : State) (st : Nat) : State :=
  let t := s.stripe st
  let s1 := (s.setStripe st { t with corr := t.corr + 1 }).count (pkOf (ringOf st)) 1 1
  if 4096 < t.corr + 1 then s1.markStripe st else s1

/-- The same at the operand input of a matrix element, which is the part that is marked (R431). -/
def State.correctedMx (s : State) (el : Nat) : State :=
  let x := s.mx el
  let s1 := (s.setMx el { x with corr := x.corr + 1 }).count (elPk el) 1 1
  if 4096 < x.corr + 1 then s1.markMx el else s1

/-- An error arises in a place: an uncorrectable one taints what is read there, a correctable one is corrected and counted; errors of
memory stand until a read or a write meets them. A place that holds nothing has nothing to lose. -/
def State.damaged (s : State) (d : Damage) (double : Bool) : State :=
  let v := s.hurtWord
  let u := { s with free := s.free + 1 }
  let hit (st : Nat) (l : List Token) (i : Nat) (put : List Token → State) : State :=
    if l.length ≤ i then s else if double then put (l.modify i (Token.hurt v)) else s.corrected st
  match d with
  | .unit n => if double then s.setMark n (some .double) else if s.ms.errs.get none n = none then s.setMark n (some .single) else s
  | .ltag a => if double then s.setLtag a (s.ltag a &&& 0x7FFF) else s.count (paPkg a) 2 1
  | .queue el q i => hit (stOf el) ((s.elem el).queue q) i fun l => u.setElem el ((s.elem el).setQueue q l)
  | .opq el i =>
    if (s.mx el).opq.length ≤ i then s
    else if double then u.setMx el { s.mx el with opq := (s.mx el).opq.modify i (Token.hurt v) } else s.correctedMx el
  | .port p i =>
    if (s.port p).fifo.length ≤ i then s
    else if double then u.setPort p { s.port p with fifo := (s.port p).fifo.modify i (Token.hurt v) } else s.count (pkOf (p / 16)) 1 1
  | .hold st i =>
    let t := s.stripe st
    if t.hold.length ≤ i then s
    else if double then u.setStripe st { t with hold := t.hold.modify i fun h => { h with val := v, taint := true } } else s.corrected st
  | .quant el i =>
    let x := s.elem el
    if x.quant.vals.length ≤ i then s
    else if double then u.setElem el { x with quant := { x.quant with vals := x.quant.vals.modify i fun _ => (v, true) } } else s.corrected (stOf el)
  | .kreg el i => if double then u.setElem el ((s.elem el).setK i v true) else s.corrected (stOf el)
  | .pass st i =>
    let t := s.stripe st
    match t.pass.get none i with
    | none => s
    | some k => if double then u.setStripe st { t with pass := t.pass.put none i (some (k.hurt v)) } else s.corrected st
  | .lane st i =>
    let t := s.stripe st
    match t.lanes.get none i with
    | none => s
    | some (k, b) => if double then u.setStripe st { t with lanes := t.lanes.put none i (some (k.hurt v, b)) } else s.count (pkOf (ringOf st)) 1 1
  | .cache ring => s.count (pkOf ring) 1 1

/-! ### Planes (R417) -/

/-- PLANE_REFILL (R417, R431): a plane read with an uncorrectable error is filled again before the slot fires. -/
def execPlaneRefill (st p : Nat) (s : State) : Host.Outcome State Fault Refusal :=
  let t := s.stripe st
  match t.rg with
  | none => .next s
  | some rg =>
    let pl := t.planes.get {} p
    if pl.valid then
      let img := (s.fig (figOf rg)).imgs.get {} pl.img
      .next ((s.setStripe st { t with planes := t.planes.put {} p { img with valid := true, img := pl.img } }).corrected st)
    else .next s

end Sys2Proof.Machine
end

