-- ==== Sys2Proof/Machine/Redundant.lean ====
section
/-! DEFINITION. Redundant Figures (R425 to R430): compare points, disagreements, votes, and instances that come late. -/
namespace Sys2Proof.Machine
open Sys2Proof

/-! ### Points (R426)

A key is 256·region + class: 0-127 ring streams of the four rings that a linked window can span, 128-135 transfer ports, then
144 `publish`, 145 `lrflush`, 146 `secw`, 147 `crd`, 148 `msend`, 149 `sealreq`, 150 `halt`, 151 `msgr`, 152 `hlt`. -/

/-- A point that an instance has reached: its operation, where its tokens go, and what is compared. -/
structure Point where
  op : Nat
  ret : Ret := {}
  what : List Nat := []
  deriving DecidableEq, Repr, Inhabited

/-- The class of a waiting operation; none for one that belongs to its instance alone. -/
def Wait.cls (x : Wait) : Option Nat :=
  match x.kind with
  | .packet tp el _ => some (128 + tp % 4 + (if tp / 4 % 16 = dieOf (ringOf (stOf el)) then 0 else 4))
  | .publish .. => some 144
  | .lrflush .. => some 145
  | .secw .. | .secset .. => some 146
  | .crd .. => some 147
  | .msend .. => some (if x.ret = {} then 151 else 148)
  | .sealreq .. => some 149
  | .halt reel _ => some (if reel then 152 else 150)
  | _ => none

/-- What is compared of a waiting operation: its kind and its words. -/
def Wait.what (x : Wait) : List Nat :=
  match x.kind with
  | .packet _ _ ws => ws.map (·.toNat)
  | .publish pk n => [pk, n.toNat]
  | .lrflush _ va => [va]
  | .secw c v => [0, c, v.toNat]
  | .secset c v => [1, c, v.toNat]
  | .crd c v => [c, v.toNat]
  | .msend _ ws sl _ => (if sl then 1 else 0) :: ws.map (·.toNat)
  | .sealreq pk => [pk]
  | .halt _ w => [w.toNat]
  | _ => []

/-- A number for an access kind. -/
def AKind.code : AKind → Nat
  | .load sx => if sx then 1 else 0
  | .store strong => if strong then 3 else 2
  | .atom aop old => 16 + 2 * aop.toNat + (if old then 1 else 0)
  | .cas => 4
  | .pfg => 5

/-- The ring stream that a class names in a region. -/
def Region.clsStream (r : Region) (c : Nat) : Nat := (r.ring + c / 32) * 32 + c % 32

/-- The point that region `rg` has reached in a class of streams. -/
def State.streamPoint (s : State) (rg rs : Nat) : Option Point :=
  let t := s.strm rs
  let addr (idx : Option W32) : Nat := (t.base + BitVec.ofInt 64 (t.offset idx).1).toNat
  match t.q with
  | .acc id kind scope word idx data cmp ret _ rg' :: _ =>
    if rg' = rg ∧ !(s.fl.agreed.contains id) then
      some { op := id, ret := ret, what := [kind.code, scope.toNat, addr idx, t.esz, t.mode.toNat, t.part, word.toNat, cmp.toNat] ++ data.map (·.toNat) }
    else none
  | [] =>
    match t.port with
    | none => none
    | some p =>
      if (s.port p).rg ≠ some rg ∨ s.boundReady rs = false ∨ s.fl.agreed.contains (boundOp rs) then none
      else if t.isStore then
        if max 1 (t.esz / 4) ≤ t.words.length ∧ !(t.words.any Prod.snd) then some { op := boundOp rs, what := [2, addr none, t.esz] ++ t.words.map (·.1.toNat) } else none
      else if 0 < t.left then some { op := boundOp rs, what := [0, addr none, t.esz] } else none
  | _ => none

/-- The oldest operation of a class that region `rg` waits with and that is not agreed. -/
def State.waitPoint (s : State) (rg c : Nat) : Option Point :=
  let mine := s.fl.waits.filter fun w => decide (w.2.rg = rg ∧ w.2.cls = some c) && !(s.fl.agreed.contains w.1)
  (mine.find? fun w => mine.all fun v => decide (w.2.ord ≤ v.2.ord)).map fun w => { op := w.1, ret := w.2.ret, what := w.2.what }

/-- The point that instance `fg` has reached under a key. -/
def State.pointAt (s : State) (fg key : Nat) : Option Point :=
  let rg := fg * 64 + key / 256
  let c := key % 256
  if (s.region rg).live = false ∨ 64 ≤ key / 256 then none
  else if c < 128 then s.streamPoint rg ((s.region rg).clsStream c)
  else s.waitPoint rg c

/-! ### An agreement -/

/-- The point of an instance that does not perform it is taken from its order; `op` stands for it from now on. -/
def State.joinPoint (s : State) (fg key op : Nat) (p : Point) : State :=
  let rg := fg * 64 + key / 256
  let c := key % 256
  let twin (u : State) (id : Nat) (r : Ret) : State := { u with fl := { u.fl with twins := u.fl.twins.put [] op (u.fl.twins.get [] op ++ [(id, rg, r)]) } }
  if c < 128 then
    let rs := (s.region rg).clsStream c
    let t := s.strm rs
    match t.q with
    | .acc _ _ _ _ idx _ _ _ _ _ :: q => twin (s.setStrm rs { (t.offset idx).2 with q := q }) p.op p.ret
    | _ =>
      if t.isStore then s.setStrm rs { (t.offset none).2 with words := [], issued := s.cyc + 1 }
      else
        let id := s.fl.next
        let s1 := (s.setStrm rs { (t.offset none).2 with left := t.left - 1, issued := s.cyc + 1 }).reserve id (List.replicate (max 1 (t.esz / 4)) (.port (t.port.getD 0)))
        (twin s1 id {}).bump
  else twin (s.delWait p.op) p.op p.ret

/-- The element order of a halt that waits (R291). -/
def State.haltKey (s : State) (x : Wait) : Nat := match x.kind with | .halt false _ => 1 + s.elOrd x.ret.el | _ => 0
/-- What is performed at the compare point itself: the layout record's removal, the counter, the halt of every
instance's region. -/
def State.pointEffect (s : State) (op key : Nat) (gs : List Nat) : State :=
  match s.wait op with
  | none => s
  | some x =>
    match x.kind with
    | .lrflush pk va => (s.flushLayout pk (s.fig (figOf x.rg)).asid va).finishWait op x.ret [{ tok := doneTok x.ret.seq }]
    | .secset c v => ({ s with secs := s.secs.put 0 c v }).finishWait op x.ret [{ tok := doneTok x.ret.seq }]
    | .halt _ w => gs.foldl (fun u g => u.retireNow (g * 64 + key / 256) (s.haltKey x) w) ((s.delWait op).forget op)
    | _ => s

/-- The slot of a Figure's `late` that times the instance behind two agreeing points (R429). -/
def lateKey (key : Nat) (voted : Bool) : Nat := if voted then key + 2 ^ 30 else key
/-- The cycles that count while the instances run: none of those while they are halted (R428). -/
def State.runClock (s : State) (x : Fig) : Nat := if x.phase = .placed then s.cyc else min s.cyc x.pausedAt
/-- The start of a wait for another instance. -/
def State.setLate (s : State) (lead key : Nat) (c : Option Nat) : State :=
  let x := s.fig lead
  s.setFig lead { x with late := x.late.put none key c }

/-- Instance `w` performs its point for the listed others. -/
def State.agree (s : State) (lead key w : Nat) (p : Point) (others : List (Nat × Point)) : State :=
  let s1 := { s with fl := { s.fl with agreed := p.op :: s.fl.agreed } }
  let s2 := others.foldl (fun u q => u.joinPoint q.1 key p.op q.2) s1
  ((s2.setLate lead key none).setLate lead (lateKey key true) none).pointEffect p.op key (w :: others.map Prod.fst)

/-- An outvoted instance: the stripes of its region are marked failing, and ECNT6 counts (R429). -/
def State.outvote (s : State) (fg key : Nat) : State :=
  let r := s.region (fg * 64 + key / 256)
  (r.stripes.foldl (fun u st => u.markStripe st) s).count (s.fig fg).pk 6 1

/-- A disagreement (R428, R430): nothing is performed, every instance stops, and the condition waits for the handler. -/
def State.disagree (s : State) (lead key : Nat) (code : BitVec 16) : State :=
  let x := s.fig lead
  let rg := lead * 64 + key / 256
  let stopped := s.regions.map fun (p : Nat × Region) => if (s.fig (figOf p.1)).lead = lead ∧ (s.group lead).contains (figOf p.1) then (p.1, { p.2 with stop := some (p.2.stop.getD s.cyc), drain := false }) else p
  let s1 := { s with regions := stopped }
  let s2 := if code = 0xE108 then s1 else
    let l := (s1.sched x.pk).ties
    s1.setSched x.pk { s1.sched x.pk with ties := (if 16 ≤ l.length then l.tail else l) ++ [(x.asid, x.obj)] }
  (if code = 0xE108 then s2 else s2.count x.pk 6 1).detect x.pk (.figure lead) (rg * 2 ^ 14)
    { fcode := code, tier := 2, point := if key % 256 < 128 then 1 else 3, region := BitVec.ofNat 6 rg, addr := x.obj }

/-- The instances' vote: the agreeing ones, with those outvoted; none where no two agree. -/
def vote : List (Nat × Point) → Option (List (Nat × Point) × List (Nat × Point))
  | [] => none
  | a :: rest =>
    match rest.filter fun b => decide (b.2.what = a.2.what) with
    | [] => vote rest |>.map fun v => (v.1, a :: v.2)
    | b :: bs => some (a :: b :: bs, rest.filter fun c => decide (c.2.what ≠ a.2.what))

/-- A late instance reaches a point that was performed without it (R429): it continues with the delivered values. -/
def State.catchUp (s : State) (fg key op : Nat) (p : Point) : State :=
  let x := s.fig fg
  let s1 := s.setFig fg { x with owed := x.owed.put [] key (x.owed.get [] key).tail }
  let outs := (s.fl.results.get [] op).map fun o => ({ which := o.1, tok := o.2 } : Out)
  let s2 := s1.joinPoint fg key op p
  let s3 := match (s2.fl.twins.get [] op).getLast? with
    | some t => s2.tellTwin false outs t
    | none => s2
  let s4 := if (s.acc op).isSome ∨ (s.wait op).isSome ∨ s.fl.agreed.contains op then s3 else s3.forget op
  let s5 := { s4 with fl := { s4.fl with results := s4.fl.results.put [] op [] } }
  match s.wait p.op with
  | some x => match x.kind with
    | .halt _ w => s5.retireNow (fg * 64 + key / 256) (s.haltKey x) w
    | _ => s5
  | none => s5

/-- The Figure is compared: it runs in several instances, and no disagreement of it stands. -/
def State.compares (s : State) (lead : Nat) : Bool :=
  let x := s.fig lead
  decide (1 < x.insts ∧ x.lead = lead ∧ (x.phase = .placed ∨ x.phase = .halting) ∧ x.rank ≠ 1 ∧ x.rank ≠ 2)
  && !(s.det.any fun d => decide (d.own = .figure lead ∧ (d.info.fcode = 0xE106 ∨ d.info.fcode = 0xE107 ∨ d.info.fcode = 0xE108)))

/-- COMPARE_POINT (R426, R428 to R430) (DEDUCED, log 18). -/
def execComparePoint (fg key : Nat) (s : State) : Host.Outcome State Fault Refusal :=
  if s.compares fg = false then .next s
  else
    let gs := s.group fg
    match gs.findSome? fun g => match (s.fig g).owed.get [] key, s.pointAt g key with
      | op :: _, some p => some (g, op, p)
      | _, _ => none with
    | some (g, op, p) => .next (s.catchUp g key op p)
    | none =>
      let here := gs.filterMap fun g => if (s.fig g).owed.get [] key = [] then (s.pointAt g key).map fun p => (g, p) else none
      if here.length < gs.length then
        let k := lateKey key (vote here).isSome
        if here ≠ [] ∧ (s.fig fg).late.get none k = none then .next (s.setLate fg k (some s.cyc)) else .next s
      else if gs.length = 2 then
        match here with
        | [a, b] => if a.2.what = b.2.what then .next (s.agree fg key a.1 a.2 [b]) else .next (s.disagree fg key 0xE106)
        | _ => .next s
      else match vote here with
        | some (a :: as, out) => .next (out.foldl (fun u o => u.outvote o.1 key) (s.agree fg key a.1 a.2 (as ++ out)))
        | _ => .next (s.disagree fg key 0xE108)

/-- REDUNDANT_TIMEOUT (R428, R429): 2^22 cycles in which they ran after one instance began to wait for another; of three, after two
agreeing points stood. -/
def execRedundantTimeout (fg key : Nat) (s : State) : Host.Outcome State Fault Refusal :=
  if s.compares fg = false then .next s
  else
    let gs := s.group fg
    let here := gs.filterMap fun g => if (s.fig g).owed.get [] key = [] then (s.pointAt g key).map fun p => (g, p) else none
    match (s.fig fg).late.get none (lateKey key (vote here).isSome) with
    | none => .next s
    | some c =>
      if s.runClock (s.fig fg) < c + 2 ^ 22 ∨ here = [] ∨ gs.length ≤ here.length then .next s
      else match gs.length, vote here with
        | 3, some (a :: as, []) =>
          let behind := gs.filter fun g => here.all fun h => decide (h.1 ≠ g)
          let s1 := behind.foldl (fun u g => (u.setFig g { u.fig g with owed := (u.fig g).owed.put [] key ((u.fig g).owed.get [] key ++ [a.2.op]) }).outvote g key) s
          .next (s1.agree fg key a.1 a.2 as)
        | _, _ => .next (s.disagree fg key 0xE107)

end Sys2Proof.Machine
end

