-- ==== Sys2Proof/Machine/Spare.lean ====
section
/-! DEFINITION. Replacement points and spares (R432, R433, R468 to R470). -/
namespace Sys2Proof.Machine
open Sys2Proof

/-! ### The Figures that hold a part (R432, R463) -/

/-- The stripes that a part's replacement frees first: a stripe, a matrix element's stripe, every stripe of a ring bank's
ring, a withdrawn stripe; none for the other kinds. -/
def partStripes (x : Nat × Nat) : List Nat :=
  match x.1 with
  | 0 | 6 => [x.2]
  | 1 => [stOf x.2]
  | 2 => (List.range 32).map fun i => x.2 / 32 * 32 + i
  | _ => []

/-- The Figures that hold one of the stripes, by their first instances. -/
def State.holders (s : State) (sts : List Nat) : List Nat :=
  (sts.filterMap fun st => (s.stripe st).rg.map fun rg => (s.fig (figOf rg)).lead).foldl (fun l g => if l.contains g then l else l ++ [g]) []

/-- The holders still running are pre-empted whatever their priority, outside the victim order; a Figure that is halting
or held already is left to it (R463). Without room in the pool they run on and the replacement waits (DEDUCED, log 40). -/
def State.evict (s : State) (pk : Nat) (gs : List Nat) : State :=
  (gs.filter fun g => decide ((s.fig g).phase = .placed ∧ (s.fig g).retired = false)).foldl (fun u g =>
    match u.giveRecords pk (u.group g) with
    | some v => v.haltGroup g 5
    | none => u) s

/-! ### The replacement itself (R468, R469) -/

/-- Correctable errors in a range of bytes: a copy moves corrected contents. -/
def State.copyClean (s : State) (pa n : Nat) : State :=
  { s with ms := { s.ms with errs := s.ms.errs.filter fun e => !(decide (pa / 8 ≤ e.1 ∧ e.1 < (pa + n) / 8 ∧ e.2 = some .single)) } }

/-- A part is no longer pending. -/
def State.unpend (s : State) (pk : Nat) (x : Nat × Nat) : State :=
  let due := (s.ms.due.get [] pk).filter fun y => decide (y ≠ x)
  let s1 := { s with ms := { s.ms with pend := s.ms.pend.filter fun y => decide (y ≠ x), due := s.ms.due.put [] pk due } }
  if due.isEmpty then s1.setReg pk 0x16620 (s1.reg pk 0x16620 &&& ~~~(2 : W64)) else s1

/-- LNKSTn of a port: its offset. -/
def lnkst (port : Nat) : Nat := 0x16700 + 8 * port

/-- A part gives way to its spare, which takes its logical number (R18); where the last spare has gone to another part meanwhile, it is
withdrawn as one marked without a spare is (DESIGN CHOICE, log 80). -/
def State.replacePart (s : State) (pk : Nat) (x : Nat × Nat) : State :=
  let n := x.2
  let s0 := s.unpend pk x
  let dec (u : State) (off : Nat) : State := u.setReg pk off (u.reg pk off - 1)
  match x.1 with
  | 0 =>
    let g := n / 32
    if (s0.reg pk (0x16400 + 8 * (g % 64))).toNat % 4 = 0 then (s0.withdrawStripe n).syncRing g
    else
    let s1 := (dec (s0.bareStripe n) (0x16400 + 8 * (g % 64))).count pk 7 1
    let t := s1.stripe n
    (s1.setStripe n { t with corr := 0, resent := 0 }).syncRing g
  | 1 =>
    let off := 0x16800 + 8 * (n / 128 / 32 % 64)
    (s0.setReg pk off (s0.reg pk off ||| ((1 : W64) <<< (8 + n / 128 % 32)))).count pk 7 1
  | 2 =>
    let g := n / 32
    let v := s0.reg pk (0x16800 + 8 * (g % 64))
    if v.getLsbD 0 = false then (s0.setReg pk (0x16800 + 8 * (g % 64)) (v ||| 0x80)).syncRing g
    else ((dec (s0.copyClean (ringPA g (n % 32 * 2 ^ 21)) (2 ^ 21)) (0x16800 + 8 * (g % 64))).count pk 7 1).syncRing g
  | 3 =>
    let mp := n / 64
    if (s0.reg pk (0x16A00 + 16 * (mp % 16))).toNat % 4 = 0 then (s0.withdrawBank n).syncScratch mp
    else ((dec (s0.copyClean (scrPA pk (mp % 16 * 2 ^ 26 + n % 64 * 2 ^ 20)) (2 ^ 20)) (0x16A00 + 16 * (mp % 16))).count pk 7 1).syncScratch mp
  | 4 =>
    let sk := n / 2 ^ 26
    let bank := n / 65536
    let off := 0x16B00 + 8 * (sk % 16)
    let s1 := (rowLines sk (bank % 1024) (n % 65536)).foldl (fun u l => u.copyClean l 64) s0
    let s2 := { s1 with ms := { s1.ms with rowUsed := s1.ms.rowUsed.put 0 bank (s1.ms.rowUsed.get 0 bank + 1) } }
    let v := s2.reg pk off
    let used := min 0xFFFFFFFF (v.toNat / 2 ^ 32 + 1)
    let left := v.toNat % 2 ^ 20 - 1
    ((s2.setReg pk off ((v &&& 0xFFF00000) ||| BitVec.ofNat 64 (left + used * 2 ^ 32))).count pk 3 1).syncRows sk
  | 5 =>
    let v := s0.reg pk (lnkst (n % 32))
    if v.getLsbD 3 then s0 else (s0.setReg pk (lnkst (n % 32)) ((v &&& ~~~(0x7F0 : W64)) ||| 8 ||| BitVec.ofNat 64 (v.toNat / 256 % 8 * 16))).count pk 7 1
  | _ => s0

/-- A part that a replacement point chose can be dealt with now: nothing holds it, and a spare is left. A row's bank and a
part already out of service need nothing more. -/
def State.partFree (s : State) (x : Nat × Nat) : Bool := (s.holders (partStripes x)).isEmpty

/-- SPARE_REPLACEMENT (R432, R433, R468, R470): the first of the package's chosen parts that nothing holds is replaced;
where each is held, its Figures are pre-empted. -/
def execSpareReplacement (pk : Nat) (s : State) : Host.Outcome State Fault Refusal :=
  if (s.members.get {} pk).step ≠ 0 then .next s
  else match (s.ms.due.get [] pk).find? s.partFree with
    | some x => .next (s.replacePart pk x)
    | none => .next ((s.ms.due.get [] pk).foldl (fun u x => u.evict pk (u.holders (partStripes x))) s)

/-- A write of SPRNOW (R470): GO is a replacement point; BUSY lasts until its replacements are made. -/
def State.sprnowWrite (s : State) (pk : Nat) (v : W64) : State :=
  s.windowWrite pk 0x16620 v fun w t =>
    let t1 := t.setReg pk 0x16620 w
    if v.getLsbD 0 then
      let t2 := t1.point pk
      if (t2.ms.due.get [] pk).isEmpty then t2 else t2.setReg pk 0x16620 (w ||| 2)
    else t1
/-- SPRNOW_GO (R470). -/
def execSprnowGo (pk : Nat) (v : W64) (s : State) : Host.Outcome State Fault Refusal := .next (s.sprnowWrite pk v)

end Sys2Proof.Machine
end

