-- ==== Sys2Proof/Machine/Rollback.lean ====
section
/-! DEFINITION. Tier-2 rollback and tier-3 rebuild (R446 to R455): the target, the five steps of Table 20.4, undo entries, spares that take a lost package's place, and lines rebuilt from parity. -/
namespace Sys2Proof.Machine
open Sys2Proof

/-- A record raised while a rollback runs is logged and counted; it starts no second rollback (R446). -/
def State.postNow (s : State) (pk : Nat) (r : FaultRec) : State :=
  (s.queueRec pk { r with pkg := BitVec.ofNat 13 pk, cyc := BitVec.ofNat 64 s.cyc, open_ := s.open_ pk }).1
def State.member (s : State) (pk : Nat) : Member := s.members.get {} pk
def State.setMember (s : State) (pk : Nat) (m : Member) : State := { s with members := s.members.put {} pk m }
/-- A step of the rollback may be made on a member: the step before it is complete on every member (R447). -/
def State.stepReady (s : State) (pk n : Nat) : Bool :=
  decide ((s.member pk).step = n) && (s.domain pk).all fun q => decide (n ≤ (s.member q).step)
/-- A member completes a step. -/
def State.nextStep (s : State) (pk : Nat) : State := s.setMember pk { s.member pk with step := (s.member pk).step + 1 }

/-! ### The target (R446) -/

/-- ROLLBACK_START (R446): the leader takes the newest sealed interval as the target, once a SEAL already broadcast has
completed, and sends ROLLBACK(s) to every member. -/
def execRollbackStart (pk : Nat) (s : State) : Host.Outcome State Fault Refusal :=
  let ms := s.domain pk
  if s.pvEn pk ∧ s.leader pk = pk ∧ ms.contains pk ∧ s.phase pk ≠ 4 ∧ ms.any (fun q => (s.member q).report)
    ∧ ms.all (fun q => decide ((s.member q).step = 0)) then
    .next (ms.foldl (fun u q => u.setMember q { u.member q with step := 1, target := s.sealed pk }) s)
  else .next s

/-! ### HOLD and QUIET -/

/-- A Figure is discarded without a save; what it was held for is logged with SAVE 0. -/
def State.discardFig (s : State) (fg : Nat) : State :=
  let x := s.fig fg
  let s1 := if x.lead = fg then x.recs.foldl (fun u r => (u.queueRec x.pk { r with save := 0 }).1) s else s
  ((s1.setFig fg { s1.fig fg with save := none, kept := false }).endFig fg).reapFig fg
/-- The work of a package is discarded: Figures, saved ones and kept records too, walks, tasks, LM64s, requests. -/
def State.discardWork (s : State) (pk : Nat) : State :=
  let s1 := (s.figs.filter fun f => decide (f.2.pk = pk)).foldl (fun u f => u.discardFig f.1) s
  let s2 := (s1.sched pk).chans.foldl (fun u c => u.setChan pk c.1 []) s1
  let x := s2.sched pk
  let s3 := s2.setSched pk { x with victim := none, held := {} }
  { s3 with
    work := { s3.work with walks := s3.work.walks.filter fun w => decide (w.2.pk ≠ pk), tasks := s3.work.tasks.filter fun t => decide (t.2.pk ≠ pk) }
    eng := { s3.eng with queues := s3.eng.queues.filter fun q => decide (tpPk q.1 ≠ pk), reqs := s3.eng.reqs.filter fun r => decide (tpPk r.2.tp ≠ pk) }
    bufs := s3.bufs.filter fun b => decide (¬ (paSpace b.1 = 2 ∧ paPkg b.1 = pk))
    ms := { s3.ms with kept := s3.ms.kept.filter fun k => decide (s.keptPk k.1 ≠ some pk) }
    fl := { s3.fl with waits := s3.fl.waits.filter fun w => match w.2.kind with | .msend q .. => decide (q ≠ pk ∨ w.2.rg ≠ 0) | _ => true } }

/-- ROLLBACK_HOLD (R447 step 1, R450): the window withholds credit from now on; the member's work is discarded, and its
staging entries tagged later than the target. -/
def execRollbackHold (pk : Nat) (s : State) : Host.Outcome State Fault Refusal :=
  if s.stepReady pk 1 then
    let t := (s.member pk).target
    let s1 := s.discardWork pk
    let s2 := s1.setStaged pk ((s1.staged pk).filter fun e => match e.tag with | none => true | some v => ivLe v t)
    .next (s2.nextStep pk)
  else .next s

/-- Accesses and deltas of the member that are on their way, or queued at a home, are dropped. -/
def State.dropTraffic (s : State) (pk : Nat) : State :=
  let gone := (s.fl.accs.filter fun a => decide ((s.region a.2.rg).pk = pk)).map Prod.fst
  { s with
    fl := { s.fl with accs := s.fl.accs.filter fun a => !(gone.contains a.1), resv := s.fl.resv.filter fun r => !(gone.contains r.1) }
    ms := { s.ms with deltas := s.ms.deltas.filter fun d => decide (d.2.src ≠ pk ∧ d.2.dst ≠ pk) } }
/-- ROLLBACK_QUIET (R447 step 2). -/
def execRollbackQuiet (pk : Nat) (s : State) : Host.Outcome State Fault Refusal :=
  if s.stepReady pk 2 then .next ((s.dropTraffic pk).nextStep pk) else .next s

/-! ### APPLY (R448) -/

/-- A line on the damage list is repaired; the frame's poison bit goes with the last damaged line of the frame. -/
def State.repaired (s : State) (line : Nat) : State :=
  let sk := paStack line
  let x := s.stack sk
  if x.damage.contains line then
    let d := x.damage.filter fun l => decide (l ≠ line)
    let s1 := s.setStack sk { x with damage := d }
    if d.all fun l => decide (l / 4096 ≠ line / 4096) then s1.setPoison line false else s1
  else s
/-- A line takes a rebuilt or restored content: untagged, not captured, with fresh check bits. -/
def State.putLine (s : State) (line : Nat) (bs : List Byte) : State := (s.writeBytes line bs).repaired line

/-- One undo entry is applied; one that cannot be read poisons its line (0xE205). -/
def State.applyUndo (s : State) (pk sk p : Nat) : State :=
  let a := s.undoAt sk p
  let line := s.undoLine sk p
  if s.damagedIn a 128 then
    ((s.damageLine line).postNow pk { fcode := 0xE205, tier := 2, point := 2, addr := BitVec.ofNat 64 line }).count pk 10 1
  else
    let u := s.correct a 128
    (u.putLine line (u.peeks a 64)).setLtag line (u.ltag line &&& 0x7FFF)
/-- A stack applies its entries tagged later than the target, newest first; its log is empty then. -/
def State.applyStack (s : State) (pk : Nat) (t : W32) (sk : Nat) : State :=
  let late := (s.undoAll sk).filter fun p => !(ivLe (s.undoTag sk p) t)
  let s1 := late.reverse.foldl (fun u p => u.applyUndo pk sk p) s
  let x := s1.stack sk
  (s1.setStack sk { x with head := x.tail, cwt := [] }).syncUsed sk

/-- ROLLBACK_APPLY (R447 step 3, R448). A request to disable that waits for its Pavane is abandoned (DESIGN CHOICE, log 95). -/
def execRollbackApply (pk : Nat) (s : State) : Host.Outcome State Fault Refusal :=
  if s.stepReady pk 3 then
    let t := (s.member pk).target
    let s1 := (stacksOf pk).foldl (fun u sk => u.applyStack pk t sk) s
    let s2 := { s1 with secs := s1.secs.filter fun c => decide (c.1 / 4096 ≠ pk) }
    let s3 := ((s2.setInstat pk (t + 1) t).setPhase pk 0).setPav pk { s2.pav pk with window := false, drained := false, disable := false, quitting := false }
    .next (s3.nextStep pk)
  else .next s

/-! ### Spares for lost packages (R452, R453) -/

/-- How many parts of a kind a package holds (R470), and the package of a part that awaits its spare. -/
def partPer (kind : Nat) : Nat := [2048, 262144, 2048, 1024, 2 ^ 30, 32, 2048].getD kind 32
def partPk (x : Nat × Nat) : Nat := x.2 / partPer x.1

/-- Everything that a package holds is gone; the memory of its host stays. -/
def State.wipe (s : State) (pk : Nat) : State :=
  let s0 := (s.discardWork pk).dropTraffic pk
  let gone (pa : Nat) : Bool := decide (pa < 2 ^ 60 ∧ paSpace pa ≠ 1 ∧ paPkg pa = pk)
  let other (q : Nat) : Bool := decide (q ≠ pk)
  { s0 with
    fab := {
      elems := s0.fab.elems.filter fun p => other (elPk p.1)
      mxs := s0.fab.mxs.filter fun p => other (elPk p.1)
      stripes := s0.fab.stripes.filter fun p => other (pkOf (ringOf p.1))
      ports := s0.fab.ports.filter fun p => other (pkOf (p.1 / 16))
      strms := s0.fab.strms.filter fun p => other (pkOf (p.1 / 32))
      rings := s0.fab.rings.filter fun p => other (pkOf p.1) }
    figs := s0.figs.filter fun f => other f.2.pk
    regions := s0.regions.filter fun r => other r.2.pk
    bufs := s0.bufs.filter fun b => !(gone b.1)
    secs := s0.secs.filter fun c => other (c.1 / 4096)
    iv := s0.iv.put {} pk {}
    members := s0.members.put {} pk {}
    mem := s0.mem.filter fun b => !(gone b.1)
    regs := s0.regs.filter fun r => other (r.1 / 0x100000)
    det := s0.det.filter fun d => other d.info.pkg.toNat
    fl := { s0.fl with
      emits := s0.fl.emits.filter fun e => other e.dst.pk
      hops := s0.fl.hops.filter fun h => other h.dst.pk
      waits := s0.fl.waits.filter fun w => other (s.region w.2.rg).pk }
    ms := { s0.ms with
      tlb1 := s0.ms.tlb1.filter (fun t => other (t.1 / 256)), tlb2 := s0.ms.tlb2.filter (fun t => other (t.1 / 16))
      stks := s0.ms.stks.filter (fun k => other (k.1 / 16)), errs := s0.ms.errs.filter (fun e => !(gone (8 * e.1)))
      staged := s0.ms.staged.put [] pk [], parts := s0.ms.parts.filter (fun p => other (p.1 / 128))
      mults := s0.ms.mults.filter (fun m => other (m.1 / 1024)), layouts := s0.ms.layouts.filter (fun l => other (l.1 / 16))
      inval := s0.ms.inval.put none pk none
      bankCnt := s0.ms.bankCnt.filter (fun c => other (if c.1 % 2 = 0 then c.1 / 4096 else c.1 / 2048))
      rowCnt := s0.ms.rowCnt.filter (fun r => other (r.1 / 2 ^ 30)), rowUsed := s0.ms.rowUsed.filter (fun r => other (r.1 / 16384))
      pend := s0.ms.pend.filter (fun x => other (partPk x)), due := s0.ms.due.put [] pk [] }
    work := { s0.work with scheds := s0.work.scheds.put {} pk {} }
    out := { s0.out with
      barsOff := s0.out.barsOff.put false pk false, laneErrs := s0.out.laneErrs.filter (fun l => other (l.1 / 512))
      replays := s0.out.replays.filter (fun p => other (p.1 / 32)), badLanes := s0.out.badLanes.filter (fun p => other (p.1 / 32)), hash := s0.out.hash.put 0 pk 0
      bundle := s0.out.bundle.put (0, 0) pk (0, 0), clock0 := s0.out.clock0.put 0 pk s0.cyc } }

/-- Keys of package `sp` move to the place of `lp`, whose own are gone. -/
def moveBy {α : Type} [DecidableEq α] (d : α) (pkg place : Nat → Nat) (sp lp : Nat) (m : FMap α) : FMap α :=
  (m.filter fun p => decide (pkg p.1 = sp)).foldl (fun (r : FMap α) p => r.put d (place p.1) p.2)
    (m.filter fun p => decide (pkg p.1 ≠ lp ∧ pkg p.1 ≠ sp))
/-- The same for keys of which a package has `per`. -/
def moveKeys {α : Type} [DecidableEq α] (d : α) (per sp lp : Nat) (m : FMap α) : FMap α :=
  moveBy d (· / per) (fun k => k - sp * per + lp * per) sp lp m
/-- The same for physical addresses in units of `sc` bytes. -/
def moveAddrs {α : Type} [DecidableEq α] (d : α) (sc sp lp : Nat) (m : FMap α) : FMap α :=
  moveBy d (fun k => if 2 ^ 60 ≤ k then 8192 else paPkg (sc * k)) (fun k => k + lp * (2 ^ 40 / sc) - sp * (2 ^ 40 / sc)) sp lp m
/-- The same for elements, those of the base-slice programs among them. -/
def moveElems {α : Type} [DecidableEq α] (d : α) (sp lp : Nat) (m : FMap α) : FMap α :=
  moveBy d elPk (fun k => if ringOf (stOf k) < baseRing then k - sp * 262144 + lp * 262144 else k - sp * 4194304 + lp * 4194304) sp lp m
/-- The same for the error counts of SRAM banks: corrections at even keys, uncorrectable reads at odd ones. -/
def moveBanks (sp lp : Nat) (m : FMap (Nat × Nat)) : FMap (Nat × Nat) :=
  let per (k : Nat) : Nat := if k % 2 = 0 then 4096 else 2048
  moveBy (0, 0) (fun k => k / per k) (fun k => k - sp * per k + lp * per k) sp lp m

/-- A register that holds a physical address of its own package follows the package's number. -/
def movedReg (sp lp off : Nat) (v : W64) : W64 :=
  match (regAt off).map Prod.fst with
  | some .surtb | some .asidtb | some .rdmap | some .svpool | some .rflag | some .crtab | some .pbmap | some .spt | some .spb
  | some .mvf | some .mvn | some .pgtc =>
    if v.toNat / 2 ^ 40 % 8192 = sp then (v &&& ~~~(bitsTo 40 52)) ||| BitVec.ofNat 64 (lp * 2 ^ 40) else v
  | _ => v

/-- Package `sp` takes the number `lp` (R453): what the lost package held is gone, and everything kept under the
spare's number moves (DEDUCED, log 41). -/
def State.renumber (s : State) (sp lp : Nat) : State :=
  let s0 := s.wipe lp
  let own (x : Nat) : Bool := decide (x = sp ∨ x = lp)
  let regs := (s0.regs.filter fun r => decide (r.1 / 0x100000 = sp)).foldl (fun (m : FMap (Option W64)) r =>
      m.put none (r.1 - sp * 0x100000 + lp * 0x100000) (r.2.map (movedReg sp lp (r.1 % 0x100000))))
    (s0.regs.filter fun r => !(own (r.1 / 0x100000)))
  { s0 with
    fab := {
      elems := moveElems {} sp lp s0.fab.elems, mxs := moveElems {} sp lp s0.fab.mxs, stripes := moveKeys {} 2048 sp lp s0.fab.stripes
      ports := moveKeys {} 1024 sp lp s0.fab.ports, strms := moveKeys {} 2048 sp lp s0.fab.strms, rings := moveKeys {} 64 sp lp s0.fab.rings }
    regs := regs
    det := s0.det.filter fun d => !(own d.info.pkg.toNat)
    mem := moveAddrs 0 1 sp lp s0.mem
    secs := moveKeys 0 4096 sp lp s0.secs
    iv := moveKeys {} 1 sp lp s0.iv
    members := (s0.members.put {} sp {}).put {} lp {}
    work := { s0.work with scheds := moveKeys {} 1 sp lp s0.work.scheds }
    out := { s0.out with
      hostDown := moveKeys false 1 sp lp s0.out.hostDown, msix := moveKeys 0 64 sp lp s0.out.msix
      readData := moveKeys [] 1 sp lp s0.out.readData, barsOff := moveKeys false 1 sp lp s0.out.barsOff, laneErrs := moveKeys 0 512 sp lp s0.out.laneErrs
      replays := moveKeys 0 32 sp lp s0.out.replays, badLanes := moveKeys 0 32 sp lp s0.out.badLanes
      hash := moveKeys 0 1 sp lp s0.out.hash, bundle := moveKeys (0, 0) 1 sp lp s0.out.bundle, clock0 := moveKeys 0 1 sp lp s0.out.clock0 }
    ms := { s0.ms with
      errs := moveAddrs none 8 sp lp s0.ms.errs, stks := moveKeys {} 16 sp lp s0.ms.stks, staged := moveKeys [] 1 sp lp s0.ms.staged
      parts := moveKeys none 128 sp lp s0.ms.parts, rowCnt := moveKeys (0, 0) (2 ^ 30) sp lp s0.ms.rowCnt, rowUsed := moveKeys 0 16384 sp lp s0.ms.rowUsed
      tlb1 := s0.ms.tlb1.filter fun t => !(own (t.1 / 256)), tlb2 := s0.ms.tlb2.filter fun t => !(own (t.1 / 16))
      layouts := s0.ms.layouts.filter fun t => !(own (t.1 / 16)), mults := moveKeys {} 1024 sp lp s0.ms.mults
      bankCnt := moveBanks sp lp s0.ms.bankCnt, instat := moveKeys (0, 0) 1 sp lp s0.ms.instat
      pend := s0.ms.pend.map fun x => if partPk x = sp then (x.1, x.2 - sp * partPer x.1 + lp * partPer x.1) else x
      inval := moveKeys none 1 sp lp s0.ms.inval, due := moveKeys [] 1 sp lp s0.ms.due } }

/-- A member of the domain other than the lost one, as the pattern for a group: the group's members from its list. -/
def State.groupMembers (s : State) (pk n : Nat) : List Nat := let a := s.pgta pk n; (List.range (pgK a + pgM a)).map fun i => s.pgMember pk n i
/-- A group that a member has valid. -/
def State.groupOn (s : State) (pk n : Nat) : Bool := (s.pgta pk n).getLsbD 0
/-- The protection groups that the survivors have valid, with the first survivor that does. -/
def State.domainGroups (s : State) (ms : List Nat) : List (Nat × Nat) :=
  (List.range 128).filterMap fun n => (ms.find? fun q => s.groupOn q n).map fun q => (n, q)

/-- A spare package is ready (R452); one that holds work is not (DEDUCED, log 41). -/
def State.spareReady (s : State) (ms : List Nat) (sp : Nat) : Bool :=
  (s.reg sp 0x18).getLsbD 4 && (s.reg sp 0x48).getLsbD 0 && !(s.enBit sp) && !(ms.contains sp)
  && !(s.figs.any fun f => decide (f.2.pk = sp)) && !(s.work.walks.any fun w => decide (w.2.pk = sp))
  && (s.domainGroups ms).all (fun g =>
      let a := s.pgta sp g.1
      let b := s.pgta g.2 g.1
      !(a.getLsbD 0) && decide (pgK a = pgK b ∧ pgM a = pgM b ∧ pgSize (s.pgtb sp g.1) = pgSize (s.pgtb g.2 g.1)
        ∧ (s.reg sp (0x30010 + 32 * g.1)).toNat / 2 ^ 40 = sp)
      && (List.range 32).all (fun i => decide (s.pgMember sp g.1 i = s.pgMember g.2 g.1 i)))
  && (match ms with
      | q :: _ => (List.range 16).all fun k => decide (field (s.reg sp (0x12000 + 8 * k)) 0 16 = (field (s.reg q (0x12000 + 8 * k)) 0 16 : BitVec 16))
      | [] => false)

/-- The spare packages that the leader's RDSPARE names, in order. -/
def State.spares (s : State) (pk : Nat) : List Nat :=
  let v := s.reg pk 0x16618
  (List.range 4).filterMap fun i => if v.getLsbD (16 * i + 13) then some ((field v (16 * i) 13 : BitVec 13).toNat) else none

/-- DOFF or POFF of PGTDn, as the field of PGTBn. -/
def pgtdOff (d : W64) (data : Bool) : W64 := if data then (field d 0 28 : BitVec 28).zeroExtend 64 <<< 12 else (field d 32 28 : BitVec 28).zeroExtend 64 <<< 12

/-- The spare completes the entry of every group that the lost package was a member of (R453 step 4). -/
def State.joinGroups (s : State) (ms : List Nat) (lp : Nat) : State :=
  (s.domainGroups ms).foldl (fun u g =>
    match (List.range (u.groupMembers g.2 g.1).length).find? fun i => decide (u.pgMember g.2 g.1 i = lp) with
    | none => u
    | some i =>
      let a := u.pgta lp g.1
      let b := u.pgtb lp g.1
      let d := u.reg lp (0x30018 + 32 * g.1)
      let u1 := u.setReg lp (0x30008 + 32 * g.1) ((b &&& ~~~(bitsTo 12 39)) ||| pgtdOff d (decide (i < pgK a)))
      u1.setReg lp (0x30000 + 32 * g.1) ((a &&& ~~~(bitsTo 8 12)) ||| BitVec.ofNat 64 (256 * i) ||| 1)) s

/-- The frames of a package outside the windows and regions of its groups are poisoned (R453). -/
def State.poisonOutside (s : State) (lp : Nat) : State :=
  let held := (List.range 128).filterMap fun n => if s.groupOn lp n then some (pgOff (s.pgtb lp n), pgSize (s.pgtb lp n)) else none
  (List.range (2 ^ 28)).foldl (fun u f =>
    if held.any fun h => decide (h.1 ≤ 4096 * f ∧ 4096 * f < h.1 + h.2) then u else u.setPoison (lp * 2 ^ 40 + 4096 * f) true) s

/-- A lost package's place is taken by the first ready spare; without one its groups end (R453). The answer says whether
it is to be rebuilt. -/
def State.replaceMember (s : State) (pk lp : Nat) : State × Bool :=
  let ms := s.domain pk
  match (s.spares pk).find? (s.spareReady ms) with
  | some sp =>
    let s0 := ms.foldl (fun u q =>
      let rt := (u.reg q 0x50).toNat / 4096 * 4096
      u.writeBytes (rt + 4 * lp) (wordBytes (u.read32 (rt + 4 * sp)))) s
    let s1 := s0.renumber sp lp
    let bits := s1.peeks ((s1.reg pk 0x11008).toNat % 2 ^ 57 / 4096 * 4096) 1024
    let s2 := s1.writeBytes ((s1.reg lp 0x11008).toNat % 2 ^ 57 / 4096 * 4096) bits
    let s3 := ((s2.setReg lp 0x11000 (s2.reg pk 0x11000)).setInstat lp (s2.open_ pk) (s2.sealed pk)).setPav lp { started := true, begun := (s2.pav pk).begun }
    (((s3.joinGroups ms lp).poisonOutside lp).setMember lp { s.member pk with report := false }, true)
  | none =>
    let s1 := ms.foldl (fun u q => (List.range 128).foldl (fun u n =>
      if u.groupOn q n ∧ (u.groupMembers q n).contains lp then u.setReg q (0x30000 + 32 * n) (u.pgta q n &&& ~~~(1 : W64)) else u) u) s
    (s1.setMember lp { s1.member lp with noSpare := true }, false)

/-! ### Rebuild (R454, R455) -/

/-- The inverse modulo the polynomial of R168. -/
def gfInv (a : Byte) : Byte := ((List.range 256).map (BitVec.ofNat 8)).find? (fun b => decide (gfMul a b = 1)) |>.getD 0

/-- The lost data bytes at one offset (Table 20.6): `v` lists every member's byte, `x` the lost indices. -/
def rebuildData (k : Nat) (x : List Nat) (v : List Byte) : List Byte :=
  let alive := (List.range k).filter fun i => !(x.contains i)
  let at_ (i : Nat) : Byte := v.getD i 0
  let s0 := alive.foldl (fun a i => a ^^^ at_ i) (at_ k)
  let s1 := alive.foldl (fun a i => a ^^^ gfMul (gfPow i) (at_ i)) (at_ (k + 1))
  let lost := (List.range k).filter fun i => x.contains i
  let put (l : List (Nat × Byte)) : List Byte := (List.range k).map fun i => ((l.find? fun p => decide (p.1 = i)).map Prod.snd).getD (at_ i)
  match lost with
  | [i] => if x.contains k then put [(i, gfMul (gfInv (gfPow i)) s1)] else put [(i, s0)]
  | [i, j] =>
    let dj := gfMul (gfInv (gfPow i ^^^ gfPow j)) (s1 ^^^ gfMul (gfPow i) s0)
    put [(i, s0 ^^^ dj), (j, dj)]
  | _ => put []
/-- Every member's byte at the offset, rebuilt: the parity bytes follow from the data (R168). -/
def rebuildByte (k m : Nat) (x : List Nat) (v : List Byte) : List Byte :=
  let d := rebuildData k x v
  d ++ (List.range m).map fun j => (List.range k).foldl (fun a i => a ^^^ gfMul (gfCoef j i) (d.getD i 0)) 0

/-- The line of member `q` of group `n` at window offset `o`. -/
def State.groupLine (s : State) (n o q : Nat) : Nat := q * 2 ^ 40 + pgOff (s.pgtb q n) + o

/-- A line is lost to a rebuild (R454, R455): the damage list still holds it, or it reads with an uncorrectable error. -/
def State.lineLost (s : State) (line : Nat) : Bool := (s.stack (paStack line)).damage.contains line || s.damagedIn line 64
/-- The lines of a group at one offset are rebuilt, or are beyond repair (R454, R455). -/
def State.rebuildLine (s : State) (pk n k m : Nat) (qs fresh : List Nat) (agree : Bool) (o : Nat) : State :=
  let lines := qs.map (s.groupLine n o)
  let x := (List.range qs.length).filter fun i => fresh.contains (qs.getD i 0) || s.lineLost (lines.getD i 0)
  if x.isEmpty then s
  else if m < x.length ∨ agree = false then
    ((lines.foldl (fun u l => u.setPoison l true) s).postNow pk
      { fcode := 0xE302, tier := 3, point := 2, detail := BitVec.ofNat 32 (n * 2 ^ 24 + o % 2 ^ 24) }).count pk 10 1
  else
    let cols := (List.range 64).map fun b => rebuildByte k m x (lines.map fun l => s.peek (l + b))
    x.foldl (fun u i => u.putLine (lines.getD i 0) (cols.map fun c => c.getD i 0)) s

/-- A group is rebuilt: every line of a lost member's window, and the damaged lines that step 3 did not repair. -/
def State.rebuildGroup (s : State) (pk : Nat) (fresh : List Nat) (g : Nat × Nat) : State :=
  let a := s.pgta g.2 g.1
  let qs := s.groupMembers g.2 g.1
  let size := pgSize (s.pgtb g.2 g.1)
  let d := s.reg g.2 (0x30018 + 32 * g.1)
  let agree := qs.all fun q => decide (s.reg q (0x30018 + 32 * g.1) = d)
  let offs : List Nat :=
    if qs.any fun q => fresh.contains q then (List.range (size / 64)).map fun i => 64 * i
    else (qs.map fun q => ((stacksOf q).map fun sk => (s.stack sk).damage.filterMap fun l =>
      let o := paOff l
      let b := pgOff (s.pgtb q g.1)
      if b ≤ o ∧ o < b + size then some (o - b) else none).flatten).flatten.foldl (fun l o => if l.contains o then l else l ++ [o]) []
  offs.foldl (fun u o => u.rebuildLine pk g.1 (pgK a) (pgM a) qs fresh agree o) s

/-- Lines that stay damaged on a package that keeps no poison bits are rewritten with zeros (R438). -/
def State.zeroDamaged (s : State) (pk : Nat) : State :=
  if (s.reg pk 0x16600).getLsbD 0 then s
  else (stacksOf pk).foldl (fun u sk => (u.stack sk).damage.foldl (fun v l => v.putLine l (zeros 64)) u) s

/-- The members of the domain that were declared lost and have not been replaced or given up. -/
def State.lostMembers (s : State) (pk : Nat) : List Nat :=
  (List.range 8192).filter fun q => s.rdMember pk q && (s.member q).lost && !(s.member q).noSpare

/-- ROLLBACK_REPAIR (R447 step 4, R453 to R455): the leader replaces lost packages and every member rebuilds, as one
step. -/
def execRollbackRepair (pk : Nat) (s : State) : Host.Outcome State Fault Refusal :=
  if s.leader pk = pk ∧ (s.member pk).step = 4 ∧ (s.domain pk).all (fun q => decide ((s.member q).step = 4)) then
    let (s1, fresh) := (s.lostMembers pk).foldl (fun (r : State × List Nat) lp =>
      let (u, ok) := r.1.replaceMember pk lp
      (u, if ok then r.2 ++ [lp] else r.2)) (s, [])
    let ms := s1.domain pk
    let s2 := (s1.domainGroups ms).foldl (fun u g => u.rebuildGroup pk fresh g) s1
    let s3 := ms.foldl (fun u q => (u.zeroDamaged q).count q 9 fresh.length) s2
    .next (ms.foldl (fun u q => u.setMember q { u.member q with step := 5 }) s3)
  else .next s

/-- ROLLBACK_RESUME (R447 step 5): held traffic proceeds, and each member posts 0xE20F. -/
def execRollbackResume (pk : Nat) (s : State) : Host.Outcome State Fault Refusal :=
  let ms := s.domain pk
  -- a condition already detected belongs to the rollback that runs
  let open_ := s.det.any fun d => ms.contains d.info.pkg.toNat && decide (d.info.tier = 2 ∨ d.info.tier = 3)
  if s.leader pk = pk ∧ (s.member pk).step = 5 ∧ open_ = false ∧ ms.all (fun q => decide ((s.member q).step = 5)) then
    .next (ms.foldl (fun u q =>
      let u1 := (u.setMember q { u.member q with step := 0, report := false }).setPav q { u.pav q with cond := false, disable := false, quitting := false }
      (u1.postNow q { fcode := 0xE20F, tier := 2, point := 7 }).count q 8 1) s)
  else .next s

/-! ### Lost members (R451) -/

/-- Member `m` is declared lost: 0xE301 on every survivor, and a rollback among them. -/
def State.declareLost (s : State) (pk m : Nat) : State :=
  let s1 := s.setMember m { s.member m with lost := true, step := 0, report := false }
  (s1.domain pk).foldl (fun u q =>
    (u.postNow q { fcode := 0xE301, tier := 3, point := 6, detail := BitVec.ofNat 32 m }).askRollback q) s1

/-- MEMBER_LOST (R451, R466): the leader has no answer from a member, or no port left towards it. -/
def execMemberLost (pk m : Nat) (s : State) : Host.Outcome State Fault Refusal :=
  if s.pvEn pk ∧ s.leader pk = pk ∧ (s.domain pk).contains pk ∧ (s.domain pk).contains m ∧ m ≠ pk then .next (s.declareLost pk m) else .next s

/-- LEADER_TAKEOVER (R451): the leader has been silent for PERIOD + 100 µs; the lowest-numbered surviving member leads
and makes the declaration. -/
def execLeaderTakeover (pk : Nat) (s : State) : Host.Outcome State Fault Refusal :=
  let old := s.leader pk
  let ms := (s.domain pk).filter fun q => decide (q ≠ old)
  if s.pvEn pk ∧ ms.head? = some pk ∧ (s.domain pk).contains old ∧ (s.pav pk).begun + (s.period pk + 100) * usCycles ≤ s.cyc then
    let s1 := ms.foldl (fun u q => u.setReg q 0x11000 ((u.reg q 0x11000 &&& ~~~(bitsTo 18 30)) ||| BitVec.ofNat 64 (pk * 2 ^ 18))) s
    .next (s1.declareLost pk old)
  else .next s

end Sys2Proof.Machine
end

