-- ==== Sys2Proof/Machine/Links.lean ====
section
/-! DEFINITION. Scale-up ports and the host link (R464 to R467): flit errors, replays, failing lanes, ports that go down and are retrained, destinations that no port reaches, and errors of the PCI Express link. -/
namespace Sys2Proof.Machine
open Sys2Proof

/-- LNKSTn of a port. -/
def State.lnk (s : State) (pk port : Nat) : W64 := s.reg pk (lnkst port)
def State.setLnk (s : State) (pk port : Nat) (v : W64) : State := s.setReg pk (lnkst port) v
/-- The port is in service. -/
def State.portUp (s : State) (pk port : Nat) : Bool := (s.lnk pk port).getLsbD 0
/-- LNKSTn.UP and the port's bit of SUSTAT. -/
def State.setPortUp (s : State) (pk port : Nat) (up : Bool) : State :=
  let bit : W64 := (1 : W64) <<< (port % 32)
  let v := s.lnk pk port
  if up then (s.setLnk pk port (v ||| 1)).setReg pk 0x58 (s.reg pk 0x58 ||| bit)
  else (s.setLnk pk port (v &&& ~~~(1 : W64))).setReg pk 0x58 (s.reg pk 0x58 &&& ~~~bit)

/-! ### Flits (R464) -/

/-- LINK_FLIT_ERROR (R464, R465): the receiver discards the flit and asks for a replay; the error counts for its lane (DESIGN CHOICE, log 46). -/
def execLinkFlitError (pk port : Nat) (s : State) : Host.Outcome State Fault Refusal :=
  if s.portUp pk port then
    let n := 32 * pk + port
    let l := 16 * n + (Config.freeLane s.free).toNat
    let o := s.out
    .next { s with
      free := s.free + 1
      out := { o with laneErrs := o.laneErrs.put 0 l (o.laneErrs.get 0 l + 1), replays := o.replays.put 0 n (o.replays.get 0 n + 1) } }
  else .next s

/-- LINK_REPLAY (R464): the sender resends in order; a replay counts in ECNT4 and in LNKSTn.RETRY. -/
def execLinkReplay (pk port : Nat) (s : State) : Host.Outcome State Fault Refusal :=
  let n := 32 * pk + port
  if s.portUp pk port ∧ s.out.replays.get 0 n ≠ 0 then
    let v := s.lnk pk port
    let s1 := if v.toNat / 2 ^ 32 = 0xFFFFFFFF then s else s.setLnk pk port (v + 0x100000000)
    .next ({ s1 with out := { s1.out with replays := s1.out.replays.put 0 n 0 } }.count pk 4 1)
  else .next s

/-! ### Ports that go down (R466) -/

/-- The accesses on their way from a package through one of its ports. -/
def State.crossing (s : State) (pk port : Nat) : List Nat :=
  s.fl.accs.filterMap fun a => if (s.region a.2.rg).pk = pk ∧ a.2.phase = .sent ∧ a.2.link = some port then some a.1 else none
/-- Parity deltas on their way through the port. -/
def State.crossingDeltas (s : State) (pk port : Nat) : Bool :=
  s.ms.deltas.any fun d => decide (d.2.src = pk ∧ d.2.dst ≠ pk ∧ s.linkPort pk d.2.dst d.2.op = some port)

/-- A port leaves service; where it held unacknowledged flits their fate is unknown: 0xE401, and each access may be lost (DESIGN CHOICE, log 45). -/
def State.downPort (s : State) (pk port : Nat) : State :=
  let held := s.crossing pk port
  let n := 32 * pk + port
  let s1 := s.setPortUp pk port false
  let s2 := { s1 with out := { s1.out with replays := s1.out.replays.put 0 n 0 } }
  if held.isEmpty ∧ s.crossingDeltas pk port = false then s2
  else
    let s3 := held.foldl (fun u id =>
      let v := { u with free := u.free + 1 }
      if Config.freeFate u.free then v.delAcc id else v) s2
    s3.detect pk .none (2 ^ 90) { fcode := 0xE401, tier := 2, point := 3, detail := BitVec.ofNat 32 port }

/-- PORT_DOWN (R466): training failed, or the port's lanes did. -/
def execPortDown (pk port : Nat) (s : State) : Host.Outcome State Fault Refusal :=
  if s.portUp pk port then .next (s.downPort pk port) else .next s

/-! ### Lanes (R465) -/

/-- A lane of the port is failing: one out of lock, or the one that awaits its spare. -/
def State.laneBad (s : State) (pk port lane : Nat) : Bool :=
  let v := s.lnk pk port
  (s.out.badLanes.get 0 (32 * pk + port)).testBit lane || (v.getLsbD 7 && decide (v.toNat / 256 % 8 = lane))
/-- A lane that lost lock, without a spare: the port narrows to the half that holds no failing lane, or goes down. -/
def State.narrow (s : State) (pk port lane : Nat) : State :=
  let n := 32 * pk + port
  let s1 := { s with out := { s.out with badLanes := s.out.badLanes.put 0 n (s.out.badLanes.get 0 n ||| 2 ^ lane) } }
  let good (lo : Nat) : Bool := (List.range 4).all fun i => !(s1.laneBad pk port (lo + i))
  if good 0 || good 4 then s1.setLnk pk port (s1.lnk pk port ||| 2) else s1.downPort pk port

/-- LANE_FAILING (R465): a lane lost lock, or its flit errors of the interval exceed LNKCFG.THR. -/
def execLaneFailing (pk port lane : Nat) (lockLost : Bool) (s : State) : Host.Outcome State Fault Refusal :=
  let v := s.lnk pk port
  let spare := v.getLsbD 2 && !(v.getLsbD 3)
  let n := 32 * pk + port
  if v.getLsbD 0 = false ∨ 8 ≤ lane then .next s
  else if lockLost then
    if spare then
      let mine := v.getLsbD 7 && decide (v.toNat / 256 % 8 = lane)
      let s1 := if mine then s.unpend pk (5, n) else s
      let w := if mine then v &&& ~~~(0x780 : W64) else v
      .next ((s1.setLnk pk port ((w &&& ~~~(0x70 : W64)) ||| 8 ||| BitVec.ofNat 64 (lane * 16))).count pk 7 1)
    else .next (s.narrow pk port lane)
  else if (field (s.reg pk 0x16638) 0 16 : BitVec 16).toNat < s.out.laneErrs.get 0 (16 * n + lane) ∧ v.getLsbD 7 = false then
    let s1 := s.setLnk pk port ((v &&& ~~~(0x700 : W64)) ||| 0x80 ||| BitVec.ofNat 64 (lane * 256))
    .next (if spare then { s1 with ms := { s1.ms with pend := s1.ms.pend ++ [(5, n)] } } else s1)
  else .next s

/-! ### Training (R465, R466) -/

/-- A training of a port: it enters service where the training succeeds, at half width while a lane of one half is out of
lock, at full width otherwise (DESIGN CHOICE, log 42). -/
def State.trainPort (s : State) (pk port : Nat) : State :=
  let n := 32 * pk + port
  let ok := Config.freeTrain s.free
  let s1 := { s with free := s.free + 1 }
  if ok then
    let good (lo : Nat) : Bool := (List.range 4).all fun i => !((s1.out.badLanes.get 0 n).testBit (lo + i))
    let half := decide (s1.out.badLanes.get 0 n ≠ 0) && (good 0 || good 4)
    let s2 := if half then s1 else { s1 with out := { s1.out with badLanes := s1.out.badLanes.put 0 n 0 } }
    (s2.setLnk pk port (if half then s2.lnk pk port ||| 2 else s2.lnk pk port &&& ~~~(2 : W64))).setPortUp pk port true
  else s1

/-- A write of LNKCFG: RETRAIN retrains PORT when it is down. -/
def State.lnkcfgWrite (s : State) (pk : Nat) (v : W64) : State :=
  s.windowWrite pk 0x16638 v fun w t =>
    let t1 := t.setReg pk 0x16638 w
    let port := w.toNat / 2 ^ 17 % 32
    if v.getLsbD 16 ∧ t1.portUp pk port = false ∧ (t1.reg pk 0x48).getLsbD 0 then t1.trainPort pk port else t1
/-- LNKCFG_RETRAIN (R466). -/
def execLnkcfgRetrain (pk : Nat) (v : W64) (s : State) : Host.Outcome State Fault Refusal := .next (s.lnkcfgWrite pk v)

/-! ### Destinations that no port reaches (R466) -/

/-- Both packages lie in one recovery domain: the destination is declared lost instead (R451). -/
def State.sameDomain (s : State) (pk q : Nat) : Bool := s.pvEn pk && s.rdMember pk pk && s.rdMember pk q

/-- UNREACHABLE_TIMEOUT (R466): an access or a request that has waited 1 ms for a destination outside its recovery
domain. -/
def execUnreachableTimeout (ac : Nat) (s : State) : Host.Outcome State Fault Refusal :=
  let late (c : Option Nat) : Bool := match c with | some x => decide (x + 1000 * usCycles ≤ s.cyc) | none => false
  match s.acc ac, s.req ac with
  | some a, _ =>
    let pk := (s.region a.rg).pk
    let q := paPkg a.pa
    if a.phase = .sent ∧ late a.since ∧ s.linked pk q = false ∧ s.sameDomain pk q = false then
      match a.rs with
      | some rs => .next ((s.streamFault rs a.ret a.rg a.va 0x400A false).withdraw rs)
      | none => .next s
    else .next s
  | none, some r =>
    match s.reqCut r with
    | some q => if r.isOver = false ∧ late r.since ∧ s.sameDomain (tpPk r.tp) q = false then .next (s.endReq ac r 0x800A (s.reqVA r q)) else .next s
    | none => .next s
  | none, none => .next s

/-! ### The host link (R467) -/

def State.setHostDown (s : State) (pk : Nat) (b : Bool) : State := { s with out := { s.out with hostDown := s.out.hostDown.put false pk b } }
def State.setBarsOff (s : State) (pk : Nat) (b : Bool) : State := { s with out := { s.out with barsOff := s.out.barsOff.put false pk b } }

/-- HOST_LINK_DOWN (R467): releases, host messages and posts wait; the fabric runs on. -/
def execHostLinkDown (pk : Nat) (s : State) : Host.Outcome State Fault Refusal :=
  if s.out.hostDown.get false pk then .next s else .next ((s.setHostDown pk true).hosterr pk 0)

/-- HOST_LINK_UP (R467): the link is up, and the host has programmed the BARs again (PRESUMED, log 43). -/
def execHostLinkUp (pk : Nat) (s : State) : Host.Outcome State Fault Refusal := .next ((s.setHostDown pk false).setBarsOff pk false)

/-- HOT_RESET (R467): the configuration space and the BAR enables only. -/
def execHotReset (pk : Nat) (s : State) : Host.Outcome State Fault Refusal := .next (s.setBarsOff pk true)

/-- HOST_COMPLETION_ERROR (R467): a device load of host memory, or a Transfer Engine read of it, does not complete
successfully. -/
def execHostCompletionError (ac : Nat) (s : State) : Host.Outcome State Fault Refusal :=
  match s.acc ac, s.req ac with
  | some a, _ =>
    if a.phase = .home ∧ a.scr = none ∧ paSpace a.pa = 1 ∧ a.kind.reads then .next ((s.hosterr (paPkg a.pa) 2).homeFault ac a 0x4008) else .next s
  | none, some r =>
    if r.isOver then .next s
    else match (reqPlaces r).1.find? fun v => (s.placesPA r [v]).any fun pa => decide (paSpace pa = 1) with
      | some v => .next (((s.placesPA r [v]).foldl (fun u pa => u.hosterr (paPkg pa) 2) s).endReq ac r 0x8009 v)
      | none => .next s
  | none, none => .next s

end Sys2Proof.Machine
end

