-- ==== Sys2Proof/Machine/Boot.lean ====
section
/-! DEFINITION. Boot and attestation (R373 to R375): SHA-256, RSA-3072 PSS over it, the boot bundle and its steps, the attestation report; power gating (R376), cold reset (R8, R374) and the two domain resets (R119). -/
namespace Sys2Proof.Machine
open Sys2Proof

/-! ### SHA-256 (FIPS 180-4; PRESUMED, log 47) -/

/-- The first 64 primes. -/
def primes64 : List Nat := (List.range 312).filter fun n => decide (2 ≤ n) && (List.range n).all fun d => decide (d < 2 ∨ n % d ≠ 0)
/-- The first 32 bits of the fractional part of the `k`-th root of `p`, bit by bit from the top: the largest whole number whose
`k`-th power is at most p·2^(32k), modulo 2^32. -/
def rootBits (k p : Nat) : W32 :=
  BitVec.ofNat 32 ((List.range 37).foldl (fun r i => let t := r + 2 ^ (36 - i); if t ^ k ≤ p * 2 ^ (32 * k) then t else r) 0)
/-- The round constants come from the cube roots of the first 64 primes, the initial hash value from the square roots of the
first eight. -/
def shaK : List W32 := primes64.map (rootBits 3)
def shaInit : List W32 := (primes64.take 8).map (rootBits 2)

/-- A number from its bytes, most significant first. -/
def beNat : List Byte → Nat := fun l => l.foldl (fun a b => a * 256 + b.toNat) 0
/-- The `n` bytes of a number, most significant first. -/
def beBytes (n x : Nat) : List Byte := (leBytes n x).reverse

/-- The message schedule, newest word first: sixteen words of the block, then `n` more. -/
def shaSchedule : Nat → List W32 → List W32
  | 0, w => w
  | n + 1, w =>
    let at_ (i : Nat) : W32 := w.getD i 0
    let s0 := (at_ 14).rotateRight 7 ^^^ (at_ 14).rotateRight 18 ^^^ (at_ 14) >>> 3
    let s1 := (at_ 1).rotateRight 17 ^^^ (at_ 1).rotateRight 19 ^^^ (at_ 1) >>> 10
    shaSchedule n ((at_ 15 + s0 + at_ 6 + s1) :: w)
/-- One round on the eight working variables. -/
def shaRound (v : List W32) (kw : W32 × W32) : List W32 :=
  match v with
  | [a, b, c, d, e, f, g, h] =>
    let t1 := h + (e.rotateRight 6 ^^^ e.rotateRight 11 ^^^ e.rotateRight 25) + ((e &&& f) ^^^ (~~~e &&& g)) + kw.1 + kw.2
    let t2 := (a.rotateRight 2 ^^^ a.rotateRight 13 ^^^ a.rotateRight 22) + ((a &&& b) ^^^ (a &&& c) ^^^ (b &&& c))
    [t1 + t2, a, b, c, d + t1, e, f, g]
  | _ => v
/-- A block of 64 bytes enters the hash value. -/
def shaBlock (h : List W32) (b : List Byte) : List W32 :=
  let w := ((List.range 16).map fun i => BitVec.ofNat 32 (beNat ((b.drop (4 * i)).take 4))).reverse
  let v := (shaK.zip (shaSchedule 48 w).reverse).foldl shaRound h
  (h.zip v).map fun p => p.1 + p.2
/-- The blocks of a padded message. -/
def shaBlocks : Nat → List Byte → List W32 → List W32
  | 0, _, h => h
  | n + 1, m, h => shaBlocks n (m.drop 64) (shaBlock h (m.take 64))
/-- The SHA-256 of a byte string, as 32 bytes. -/
def sha256 (m : List Byte) : List Byte :=
  let pad := (119 - m.length % 64) % 64
  let p := m ++ [0x80] ++ zeros pad ++ beBytes 8 (8 * m.length)
  ((shaBlocks (p.length / 64) p shaInit).map fun w => beBytes 4 w.toNat).flatten

/-! ### RSA-3072 PSS with exponent 65,537 (R373; PKCS #1, PRESUMED, log 47) -/

/-- x^65537 modulo n. -/
def rsaPublic (n x : Nat) : Nat := ((List.range 16).foldl (fun y _ => y * y % n) (x % n)) * x % n
/-- MGF1 with SHA-256. -/
def mgf1 (seed : List Byte) (len : Nat) : List Byte :=
  (((List.range ((len + 31) / 32)).map fun c => sha256 (seed ++ beBytes 4 c)).flatten).take len
/-- The data block of an encoded message: its mask removed, its top bit cleared. -/
def pssDb (em : List Byte) : List Byte :=
  ((em.take 351).zip (mgf1 ((em.drop 351).take 32) 351)).map (fun p => p.1 ^^^ p.2) |>.zip (List.range 351)
    |>.map fun p => if p.2 = 0 then p.1 &&& 0x7F else p.1
/-- A data block: zeros, 0x01 and the salt; the hash of the digest and the salt is the one encoded. -/
def pssDbOk (mhash h db : List Byte) : Bool :=
  (db.take 318).all (fun b => b == 0) && ((db.drop 318).headD 0 == 1) && (sha256 (zeros 8 ++ mhash ++ db.drop 319) == h)
/-- The encoded message fits the digest. -/
def pssOk (mhash em : List Byte) : Bool :=
  (em.getLastD 0 == 0xBC) && !((em.headD 0).getLsbD 7) && pssDbOk mhash ((em.drop 351).take 32) (pssDb em)
/-- The signature is one of the message under the modulus. -/
def pssVerify (modulus msg sig : List Byte) : Bool :=
  (beNat modulus).testBit 3071 && decide (beNat sig < beNat modulus)
  && pssOk (sha256 msg) (beBytes 384 (rsaPublic (beNat modulus) (beNat sig)))

/-- The encoded message of a digest under a salt. -/
def pssEncode (mhash salt : List Byte) : List Byte :=
  let h := sha256 (zeros 8 ++ mhash ++ salt)
  let masked := ((zeros 318 ++ [1] ++ salt).zip (mgf1 h 351)).map fun (p : Byte × Byte) => p.1 ^^^ p.2
  (masked.headD 0 &&& 0x7F) :: masked.tail ++ h ++ [0xBC]
/-- x^d modulo n, for an exponent of `k` bits. -/
def powMod (n x : Nat) : Nat → Nat → Nat
  | 0, _ => 1 % n
  | k + 1, d =>
    let y := powMod n x k (d / 2)
    if d % 2 = 1 then y * y % n * x % n else y * y % n
/-- The signature of a message under a modulus and the private exponent. -/
def pssSign (modulus key : Nat) (msg salt : List Byte) : Nat := powMod modulus (beNat (pssEncode (sha256 msg) salt)) 3072 key

/-! ### The bundle (R373, R374) -/

/-- Bytes of the host memory of a package. -/
def State.hostBytes (s : State) (pk addr n : Nat) : List Byte := s.peeks (hostPA pk addr) n
/-- An entry of the header: type, offset, length, digest. -/
def bundleEntry (h : List Byte) (i : Nat) : Nat × Nat × Nat × List Byte :=
  let b := (h.drop (0x10 + 64 * i)).take 64
  (bnum b 0 1, bnum b 8 8, bnum b 16 8, b.drop 32)
/-- The length of a header of seven entries. -/
def bundleLen : Nat := 0x310 + 64 * 7

/-- Step 3: the header's checks in the order of their causes; `none` where all hold (DEDUCED, log 48). -/
def headerCause (pk : Nat) (h : List Byte) : Option (Nat × Nat) :=
  let modulus := (h.drop (0x10 + 64 * 7)).take 384
  let types := (List.range 7).map fun i => (bundleEntry h i).1
  if bnum h 0 4 ≠ 0x4C444E42 ∨ bnum h 4 4 ≠ 1 ∨ bnum h 8 4 ≠ 7 then some (1, 0)
  else if beNat (sha256 modulus) ≠ (Config.rootKeyDigest pk).toNat then some (2, 0)
  else if pssVerify modulus (h.take (bundleLen - 384)) (h.drop (bundleLen - 384)) = false then some (3, 0)
  else ((List.range 7).find? fun i => decide (types.getD i 0 = 0 ∨ 7 < types.getD i 0) || (types.take i).contains (types.getD i 0)).map fun i => (4, i)

/-- Step 4: the first entry whose image is not where it may be, or whose digest differs. -/
def State.imageCause (s : State) (pk src : Nat) (h : List Byte) : Option (Nat × Nat) :=
  (List.range 7).findSome? fun i =>
    let e := bundleEntry h i
    if e.2.1 % 4096 ≠ 0 ∨ 2 ^ 40 < src + e.2.1 + e.2.2.1 then some (6, i)
    else if sha256 (s.hostBytes pk (src + e.2.1) e.2.2.1) ≠ e.2.2.2 then some (5, i)
    else none

/-- The index of the entry of a type. -/
def typeIdx (h : List Byte) (t : Nat) : Nat := ((List.range 7).find? fun i => decide ((bundleEntry h i).1 = t)).getD 0

/-- BOOTSTAT shows a step. -/
def State.bootStep (s : State) (pk n : Nat) : State := s.setReg pk 0x18 (BitVec.ofNat 64 n)
/-- A failed check sets FAIL and BOOTERR and stops the sequence. -/
def State.bootFail (s : State) (pk step : Nat) (c : Nat × Nat) : State :=
  (s.setReg pk 0x18 (BitVec.ofNat 64 (step + 32))).setReg pk 0x16028 (BitVec.ofNat 64 (c.1 + 16 * step + 256 * c.2))

/-- A training or a load succeeds. -/
def State.train (s : State) : Bool × State := (Config.freeTrain s.free, { s with free := s.free + 1 })

/-- Step 5: every HBM line of the package and its LTAG is zero. -/
def State.clearHbm (s : State) (pk : Nat) : State :=
  let mine (pa : Nat) : Bool := decide (pa < 2 ^ 60 ∧ paSpace pa = 0 ∧ paPkg pa = pk)
  { s with
    mem := s.mem.filter fun b => !(mine b.1)
    ms := { s.ms with errs := s.ms.errs.filter (fun e => !(mine (8 * e.1))), stks := s.ms.stks.filter fun k => decide (k.1 / 16 ≠ pk) } }

/-- Step 6: the five graph images are loaded into the control rings; the type whose load fails. -/
def loadRings : List Nat → State → Option Nat × State
  | [], s => (none, s)
  | t :: ts, s => if s.train.1 then loadRings ts s.train.2 else (some t, s.train.2)

/-- Step 7: every port is trained; a port whose training fails is down (R466). -/
def State.trainPorts (s : State) (pk : Nat) : State := (List.range 32).foldl (fun u p => u.trainPort pk p) s

/-- Steps 5 to 8. -/
def State.bootLate (s : State) (pk : Nat) (h : List Byte) : State :=
  if s.train.1 = false then s.train.2.bootFail pk 5 (7, typeIdx h 6)
  else
    match loadRings [1, 2, 3, 4, 5] (s.train.2.clearHbm pk) with
    | (some t, s2) => s2.bootFail pk 6 (9, typeIdx h t)
    | (none, s2) =>
      let links := (s2.reg pk 0x48).getLsbD 0
      if links ∧ s2.train.1 = false then s2.train.2.bootFail pk 7 (8, typeIdx h 7)
      else
        let s3 := if links then s2.train.2.trainPorts pk else s2
        let digests := ((List.range 7).map fun i => (bundleEntry h i).2.2.2).flatten
        let d : BitVec 256 × BitVec 256 := (BitVec.ofNat 256 (beNat (sha256 h)), BitVec.ofNat 256 (beNat (sha256 digests)))
        { s3.bootStep pk 24 with out := { s3.out with bundle := s3.out.bundle.put (0, 0) pk d } }

/-- A write of BOOTCTL.GO at step 2 runs the boot from step 3 (R374). The number of the header becomes the package's
(DEDUCED, log 44). -/
def State.bootWrite (s : State) (pk : Nat) (v : W64) : State :=
  s.windowWrite pk 0x8 v fun _ t =>
    if v.getLsbD 0 = false ∨ t.reg pk 0x18 ≠ 2 then t
    else
      let src := (t.reg pk 0x10).toNat % 2 ^ 40
      let h := t.hostBytes pk src bundleLen
      match headerCause pk h with
      | some c => t.bootFail pk 3 c
      | none =>
        match t.imageCause pk src h with
        | some c => t.bootFail pk 4 c
        | none =>
          let q := bnum h 0xC 4 % 8192
          if q = pk then t.bootLate pk h
          else if (t.reg q 0x18).getLsbD 4 then t
          else (t.renumber pk q).bootLate q h
/-- BOOTCTL_GO (R373, R374). -/
def execBootctlGo (pk : Nat) (v : W64) (s : State) : Host.Outcome State Fault Refusal := .next (s.bootWrite pk v)

/-! ### Attestation (R375) -/

/-- Bytes 0x000 to 0x08F of the report (Table 15.4) (DESIGN CHOICE, log 6). -/
def State.reportHead (s : State) (pk : Nat) : List Byte :=
  let b := s.out.bundle.get (0, 0) pk
  leBytes 4 0x5454414B ++ leBytes 4 1 ++ leBytes 8 (Config.serial pk).toNat
    ++ ((List.range 4).map fun i => leBytes 8 (s.reg pk (0x88 + 8 * i)).toNat).flatten
    ++ beBytes 32 b.1.toNat ++ beBytes 32 b.2.toNat ++ beBytes 32 (Config.mapDigest pk).toNat
/-- The modulus that IDPUB holds. -/
def identityModulus (pk : Nat) : Nat := beNat (((List.range 48).map fun i => leBytes 8 (Config.idPub pk i).toNat).flatten)
/-- The report, with its signature under the identity key. -/
def State.report (s : State) (pk : Nat) : List Byte :=
  let h := s.reportHead pk
  h ++ beBytes 384 (pssSign (identityModulus pk) (Config.idKey pk).toNat h (beBytes 32 (Config.attSalt pk (BitVec.ofNat 1152 (beNat h))).toNat))

/-- A write of ATTCTL: GO writes the report as posted writes; BUSY is set and cleared within the step. -/
def State.attWrite (s : State) (pk : Nat) (v : W64) : State :=
  s.windowWrite pk 0x78 v fun _ t =>
    if v.getLsbD 0 then t.poke (hostPA pk ((t.reg pk 0x80).toNat % 2 ^ 40)) (t.report pk) else t
/-- ATTCTL_GO (R375). -/
def execAttctlGo (pk : Nat) (v : W64) (s : State) : Host.Outcome State Fault Refusal := .next (s.attWrite pk v)

/-! ### Power gating (R376) -/

/-- POWER_GATE (R376): a ring without a region, idle for 1 ms since its last stripe was released or the package was reset. Everything it holds is retained. -/
def execPowerGate (ring : Nat) (s : State) : Host.Outcome State Fault Refusal :=
  let idle := (List.range 32).all fun i => decide ((s.stripe (ring * 32 + i)).rg = none)
  if idle ∧ max (s.ring ring).busyAt (s.out.clock0.get 0 (pkOf ring)) + 1000 * usCycles ≤ s.cyc then .next (s.setRing ring { s.ring ring with gated := true }) else .next s

/-! ### Resets (R8, R119, R374) -/

/-- COLD_RESET (R8, R374): the reset values, then steps 0 and 1: the fuses are read, the PCI Express link is
trained and BAR0 is enabled; the sequencer waits at step 2. -/
def execColdReset (pk : Nat) (s : State) : Host.Outcome State Fault Refusal := .next (((s.wipe pk).setHostDown pk false).bootStep pk 2)

/-- A stream whose address-generator unit is reset: its configuration, pattern position and order are gone, and its accesses
that are not performed are withdrawn; the stream stays its region's, and bound to its port. -/
def State.resetStrm (s : State) (rs : Nat) : State :=
  let t := s.strm rs
  (s.withdraw rs).setStrm rs { rg := t.rg, port := t.port }

/-- MEMORY_PORT_DOMAIN_RESET (R8, R119): the die's registers take their reset values; its address-generator units, its caches
and its Transfer Engine ports are empty; its part of the close-window tables and the deltas that its parity unit keeps for an
acknowledgement are gone; its two link ports go down. The contents of its scratchpad and of its four quadrants stay, the undo log and the
line tags with them (DEDUCED, log 49). -/
def execMemoryPortDomainReset (mp : Nat) (s : State) : Host.Outcome State Fault Refusal :=
  let pk := mp / 16
  let m := mp % 16
  let s1 := (List.range 8).foldl (fun u n => u.setReg pk (0x41000 + 64 * m + 8 * n) (regReset pk (0x41000 + 64 * m + 8 * n))) s
  let s2 := [2 * m, 2 * m + 1].foldl (fun u p => if u.portUp pk p then u.downPort pk p else u) s1
  let s3 := ((s2.fab.strms.map Prod.fst).filter fun rs => decide ((unitOf rs).1 = mp)).foldl State.resetStrm s2
  let s4 := (stacksOf pk).foldl (fun u k => u.setStack k { u.stack k with cwt := (u.stack k).cwt.filter fun l => decide (homeDie l ≠ mp) }) s3
  .next { s4 with
    ms := { s4.ms with
      parts := s4.ms.parts.filter (fun p => decide (p.1 / 8 ≠ mp)), tlb1 := s4.ms.tlb1.filter (fun t => decide (t.1 / 16 ≠ mp))
      tlb2 := s4.ms.tlb2.filter (fun t => decide (t.1 ≠ mp)), layouts := s4.ms.layouts.filter (fun l => decide (l.1 ≠ mp))
      deltas := s4.ms.deltas.filter fun d => decide (homeDie (d.2.src * 2 ^ 40 + pgOff (s4.pgtb d.2.src d.2.grp) + d.2.off) ≠ mp) }
    eng := {
      queues := s4.eng.queues.filter fun q => decide (q.1 / 4 ≠ mp)
      reqs := s4.eng.reqs.filter fun r => decide (r.2.tp / 4 ≠ mp) } }

/-- FABRIC_DIE_RESET (R119): the four rings of a die are held in reset; no memory-port domain changes. -/
def execFabricDieReset (pk die : Nat) (s : State) : Host.Outcome State Fault Refusal :=
  .next ((List.range 4).foldl (fun u i => let g := pk * 64 + 4 * die + i; u.setRing g { u.ring g with inReset := true }) s)

end Sys2Proof.Machine
end

