-- ==== Sys2Proof/Machine/Mgmt.lean ====
section
/-! DEFINITION. REGISTER_WRITE: a host write of the management window of any size (R367, R378, R408), sent to the register that it reaches. -/
namespace Sys2Proof.Machine
open Sys2Proof

/-- The registers of 32 bits, which occupy the low half of their slot (R378). -/
def RKind.narrow : RKind → Bool
  | .tlbiv | .lnch | .lnchc | .attctl | .bootctl | .bootstat | .devid | .hmcons | .hmctl | .hmprod | .pwrcap | .pwrstat
  | .sucfg | .sustat | .booterr | .ecnt | .fltcons | .fltctl | .fltprod | .fltstat | .spp | .hbmref => true
  | _ => false

/-- A BSPn write: the plane and the image read for the old value are gone (R312). -/
def State.bspWrite (s : State) (pk off : Nat) (v : W64) : State :=
  s.windowWrite pk off v fun w t =>
    let sk := pk * 16 + (off - 0x50000) / 0x800
    let n := (off - 0x50000) % 0x800 / 32
    let st := (baseRing + 64 * sk + n) * 32
    let t1 := t.setReg pk off w
    let x := t1.stripe st
    ({ t1 with ms := { t1.ms with mults := t1.ms.mults.put {} (64 * sk + n) {} } }).setStripe st { x with planes := [] }

/-- A write of 8 bytes to a register: those whose write does more than change the value go to their own operation. -/
def State.regWrite (s : State) (pk off : Nat) (v : W64) : State :=
  match regAt off with
  | none => if s.windowOn pk then s.count pk 13 1 else s
  | some (k, i) =>
    match k with
    | .bootctl => s.bootWrite pk v
    | .bootsrc => if s.reg pk 0x18 = 2 then s.windowWrite pk off v (plainWrite pk off) else s
    | .attctl => s.attWrite pk v
    | .tlbiv => s.tlbivWrite pk v
    | .pvcfg => s.pvcfgWrite pk v
    | .spp => s.sppWrite (pk * 16 + i / 8) (i % 8) v
    | .mvf => s.mvfWrite pk i v
    | .psnclr => s.psnclrWrite pk v
    | .fltstat => s.fltstatWrite pk v
    | .fltctl => s.fltctlWrite pk v
    | .pgfres => s.resWrite pk off false v
    | .dbgres => s.resWrite pk off true v
    | .sprnow => s.sprnowWrite pk v
    | .lnkcfg => s.lnkcfgWrite pk v
    | .ecnt | .hosterr => s.windowWrite pk off v fun _ t => t.setReg pk off 0
    | .lnkst => s.windowWrite pk off v fun _ t => t.setReg pk off (t.reg pk off &&& 0xFFFFFFFF)
    | .bsp => s.bspWrite pk off v
    | _ => s.windowWrite pk off v (plainWrite pk off)

/-- REGISTER_WRITE (R367, R378, R408). A write of 4 bytes changes its half of a register of 64 bits; the upper half of a
narrower register is reserved bits of it. -/
def execRegisterWrite (pk off size : Nat) (v : W64) (s : State) : Host.Outcome State Fault Refusal :=
  if s.windowOn pk = false then .next s
  else if (size ≠ 4 ∧ size ≠ 8) ∨ off % size ≠ 0 then .next (s.count pk 13 1)
  else if size = 8 then .next (s.regWrite pk off v)
  else
    let slot := off / 8 * 8
    let w : W64 := v &&& 0xFFFFFFFF
    match regAt slot with
    | none => .next (s.count pk 13 1)
    | some (k, _) =>
      if off % 8 = 0 then
        .next (s.regWrite pk slot (if k.narrow then w else (s.reg pk slot &&& ~~~(0xFFFFFFFF : W64) &&& ~~~k.ro) ||| w))
      else if k.narrow then .next (if w = 0 then s else s.discard pk slot)
      else .next (s.regWrite pk slot ((s.reg pk slot &&& 0xFFFFFFFF) ||| (w <<< 32)))

end Sys2Proof.Machine
end

