-- ==== Sys2Proof/Machine/Dispatch.lean ====
section
/-! DEFINITION. The one match from an instruction to its meaning. -/
namespace Sys2Proof.Machine
open Sys2Proof

/-- The meaning of each instruction. -/
def exec (i : Instr) (s : State) : Host.Outcome State Fault Refusal :=
  match i with
  | .nop f => Sys2Proof.Machine.execNop f s
  | .add f => Sys2Proof.Machine.execAdd f s
  | .sub f => Sys2Proof.Machine.execSub f s
  | .mul f => Sys2Proof.Machine.execMul f s
  | .mulh f => Sys2Proof.Machine.execMulh f s
  | .mad f => Sys2Proof.Machine.execMad f s
  | .abs f => Sys2Proof.Machine.execAbs f s
  | .neg f => Sys2Proof.Machine.execNeg f s
  | .min f => Sys2Proof.Machine.execMin f s
  | .max f => Sys2Proof.Machine.execMax f s
  | .clz f => Sys2Proof.Machine.execClz f s
  | .popc f => Sys2Proof.Machine.execPopc f s
  | .brev f => Sys2Proof.Machine.execBrev f s
  | .bperm f => Sys2Proof.Machine.execBperm f s
  | .addc f => Sys2Proof.Machine.execAddc f s
  | .subb f => Sys2Proof.Machine.execSubb f s
  | .div f => Sys2Proof.Machine.execDiv f s
  | .rem f => Sys2Proof.Machine.execRem f s
  | .sad f => Sys2Proof.Machine.execSad f s
  | .dp4 f => Sys2Proof.Machine.execDp4 f s
  | .mov f => Sys2Proof.Machine.execMov f s
  | .and f => Sys2Proof.Machine.execAnd f s
  | .or f => Sys2Proof.Machine.execOr f s
  | .xor f => Sys2Proof.Machine.execXor f s
  | .andn f => Sys2Proof.Machine.execAndn f s
  | .not f => Sys2Proof.Machine.execNot f s
  | .lop3 f => Sys2Proof.Machine.execLop3 f s
  | .shl f => Sys2Proof.Machine.execShl f s
  | .shr f => Sys2Proof.Machine.execShr f s
  | .rot f => Sys2Proof.Machine.execRot f s
  | .fsh f => Sys2Proof.Machine.execFsh f s
  | .bfx f => Sys2Proof.Machine.execBfx f s
  | .bfi f => Sys2Proof.Machine.execBfi f s
  | .bswap f => Sys2Proof.Machine.execBswap f s
  | .cmp f => Sys2Proof.Machine.execCmp f s
  | .fcmp f => Sys2Proof.Machine.execFcmp f s
  | .sel f => Sys2Proof.Machine.execSel f s
  | .steer f => Sys2Proof.Machine.execSteer f s
  | .merge f => Sys2Proof.Machine.execMerge f s
  | .gate f => Sys2Proof.Machine.execGate f s
  | .inv f => Sys2Proof.Machine.execInv f s
  | .join f => Sys2Proof.Machine.execJoin f s
  | .ctok f => Sys2Proof.Machine.execCtok f s
  | .ctokIlast f => Sys2Proof.Machine.execCtokIlast f s
  | .pset f => Sys2Proof.Machine.execPset f s
  | .pget f => Sys2Proof.Machine.execPget f s
  | .loopgen f => Sys2Proof.Machine.execLoopgen f s
  | .loopgen2 f => Sys2Proof.Machine.execLoopgen2 f s
  | .itr f => Sys2Proof.Machine.execItr f s
  | .copyid f => Sys2Proof.Machine.execCopyid f s
  | .cnt f => Sys2Proof.Machine.execCnt f s
  | .lastp f => Sys2Proof.Machine.execLastp f s
  | .stagev f => Sys2Proof.Machine.execStagev f s
  | .fadd f => Sys2Proof.Machine.execFadd f s
  | .fsub f => Sys2Proof.Machine.execFsub f s
  | .fmul f => Sys2Proof.Machine.execFmul f s
  | .ffma f => Sys2Proof.Machine.execFfma f s
  | .fmin f => Sys2Proof.Machine.execFmin f s
  | .fmax f => Sys2Proof.Machine.execFmax f s
  | .fabs f => Sys2Proof.Machine.execFabs f s
  | .fneg f => Sys2Proof.Machine.execFneg f s
  | .fclass f => Sys2Proof.Machine.execFclass f s
  | .fscale f => Sys2Proof.Machine.execFscale f s
  | .fround f => Sys2Proof.Machine.execFround f s
  | .fcsgn f => Sys2Proof.Machine.execFcsgn f s
  | .fdot2 f => Sys2Proof.Machine.execFdot2 f s
  | .frcp f => Sys2Proof.Machine.execFrcp f s
  | .frsq f => Sys2Proof.Machine.execFrsq f s
  | .fsqrt f => Sys2Proof.Machine.execFsqrt f s
  | .fexp2 f => Sys2Proof.Machine.execFexp2 f s
  | .flog2 f => Sys2Proof.Machine.execFlog2 f s
  | .fsin f => Sys2Proof.Machine.execFsin f s
  | .fcos f => Sys2Proof.Machine.execFcos f s
  | .ftanh f => Sys2Proof.Machine.execFtanh f s
  | .fdiv f => Sys2Proof.Machine.execFdiv f s
  | .phx f => Sys2Proof.Machine.execPhx f s
  | .radd f => Sys2Proof.Machine.execRadd f s
  | .rmax f => Sys2Proof.Machine.execRmax f s
  | .rmin f => Sys2Proof.Machine.execRmin f s
  | .rmaxsc f => Sys2Proof.Machine.execRmaxsc f s
  | .cvtf f => Sys2Proof.Machine.execCvtf f s
  | .cvti f => Sys2Proof.Machine.execCvti f s
  | .cvtif f => Sys2Proof.Machine.execCvtif f s
  | .pack f => Sys2Proof.Machine.execPack f s
  | .unpack f => Sys2Proof.Machine.execUnpack f s
  | .bq f => Sys2Proof.Machine.execBq f s
  | .bqBlockEmit el => Sys2Proof.Machine.execBqBlockEmit el s
  | .bdq f => Sys2Proof.Machine.execBdq f s
  | .ldb f => Sys2Proof.Machine.execLdb f s
  | .stb f => Sys2Proof.Machine.execStb f s
  | .lnsend f => Sys2Proof.Machine.execLnsend f s
  | .lntap f => Sys2Proof.Machine.execLntap f s
  | .spop f => Sys2Proof.Machine.execSpop f s
  | .spush f => Sys2Proof.Machine.execSpush f s
  | .cbputOpen f => Sys2Proof.Machine.execCbputOpen f s
  | .cbputWord f => Sys2Proof.Machine.execCbputWord f s
  | .cbgetOpen f => Sys2Proof.Machine.execCbgetOpen f s
  | .cbgetWord f => Sys2Proof.Machine.execCbgetWord f s
  | .agen f => Sys2Proof.Machine.execAgen f s
  | .ldg f => Sys2Proof.Machine.execLdg f s
  | .stg f => Sys2Proof.Machine.execStg f s
  | .ldgx f => Sys2Proof.Machine.execLdgx f s
  | .stgx f => Sys2Proof.Machine.execStgx f s
  | .pfg f => Sys2Proof.Machine.execPfg f s
  | .atom f => Sys2Proof.Machine.execAtom f s
  | .cas f => Sys2Proof.Machine.execCas f s
  | .red f => Sys2Proof.Machine.execRed f s
  | .fence f => Sys2Proof.Machine.execFence f s
  | .sbar f => Sys2Proof.Machine.execSbar f s
  | .xreq f => Sys2Proof.Machine.execXreq f s
  | .lrflush f => Sys2Proof.Machine.execLrflush f s
  | .publish f => Sys2Proof.Machine.execPublish f s
  | .secwSet f => Sys2Proof.Machine.execSecwSet f s
  | .secw f => Sys2Proof.Machine.execSecw f s
  | .crd f => Sys2Proof.Machine.execCrd f s
  | .msend f => Sys2Proof.Machine.execMsend f s
  | .mword f => Sys2Proof.Machine.execMword f s
  | .rdin f => Sys2Proof.Machine.execRdin f s
  | .sealreq f => Sys2Proof.Machine.execSealreq f s
  | .rdcr f => Sys2Proof.Machine.execRdcr f s
  | .wrcr f => Sys2Proof.Machine.execWrcr f s
  | .evc f => Sys2Proof.Machine.execEvc f s
  | .trap f => Sys2Proof.Machine.execTrap f s
  | .brk f => Sys2Proof.Machine.execBrk f s
  | .halt f => Sys2Proof.Machine.execHalt f s
  | .slotIndexIssue rg lc ws => Sys2Proof.Machine.execSlotIndexIssue rg lc ws s
  | .iterationLastDelivery rg => Sys2Proof.Machine.execIterationLastDelivery rg s
  | .eventHandlerStart el => Sys2Proof.Machine.execEventHandlerStart el s
  | .wavefrontPassage el => Sys2Proof.Machine.execWavefrontPassage el s
  | .passRegisterTransfer st n => Sys2Proof.Machine.execPassRegisterTransfer st n s
  | .streamTokenDelivery si => Sys2Proof.Machine.execStreamTokenDelivery si s
  | .boundLoadStreamIssue rs => Sys2Proof.Machine.execBoundLoadStreamIssue rs s
  | .boundStoreStreamAccess rs => Sys2Proof.Machine.execBoundStoreStreamAccess rs s
  | .virtualStripeYield rg ws => Sys2Proof.Machine.execVirtualStripeYield rg ws s
  | .statefulSave rg ws => Sys2Proof.Machine.execStatefulSave rg ws s
  | .scrollSwap rg ws => Sys2Proof.Machine.execScrollSwap rg ws s
  | .statefulRestore rg ws => Sys2Proof.Machine.execStatefulRestore rg ws s
  | .parkRead rg pr => Sys2Proof.Machine.execParkRead rg pr s
  | .planeFill ring => Sys2Proof.Machine.execPlaneFill ring s
  | .loadBound ac => Sys2Proof.Machine.execLoadBound ac s
  | .storePerformed ac => Sys2Proof.Machine.execStorePerformed ac s
  | .atomicAtHome ac => Sys2Proof.Machine.execAtomicAtHome ac s
  | .fenceConditionMet w => Sys2Proof.Machine.execFenceConditionMet w s
  | .sbarRelease w => Sys2Proof.Machine.execSbarRelease w s
  | .xreqPacketAccepted w => Sys2Proof.Machine.execXreqPacketAccepted w s
  | .publishPerformed w => Sys2Proof.Machine.execPublishPerformed w s
  | .cbputPlacement w => Sys2Proof.Machine.execCbputPlacement w s
  | .cbputRetry w => Sys2Proof.Machine.execCbputRetry w s
  | .cbgetDelivery w => Sys2Proof.Machine.execCbgetDelivery w s
  | .secwCountReached w => Sys2Proof.Machine.execSecwCountReached w s
  | .crdRecordArrival w => Sys2Proof.Machine.execCrdRecordArrival w s
  | .sealreqRecorded w => Sys2Proof.Machine.execSealreqRecorded w s
  | .msendAccepted w => Sys2Proof.Machine.execMsendAccepted w s
  | .streamAccessIssue rs => Sys2Proof.Machine.execStreamAccessIssue rs s
  | .pageWalkComplete rs => Sys2Proof.Machine.execPageWalkComplete rs s
  | .movedReplyReissue ac => Sys2Proof.Machine.execMovedReplyReissue ac s
  | .accessAtHome ac => Sys2Proof.Machine.execAccessAtHome ac s
  | .parityDeltaArrival d => Sys2Proof.Machine.execParityDeltaArrival d s
  | .parityDeltaTimeout d => Sys2Proof.Machine.execParityDeltaTimeout d s
  | .irrevocableWriteAccept ac => Sys2Proof.Machine.execIrrevocableWriteAccept ac s
  | .stagingRelease pk => Sys2Proof.Machine.execStagingRelease pk s
  | .hostMessageDelivery pk => Sys2Proof.Machine.execHostMessageDelivery pk s
  | .hostReadCompletion ac => Sys2Proof.Machine.execHostReadCompletion ac s
  | .sppWrite mp n v => Sys2Proof.Machine.execSppWrite mp n v s
  | .partitionEntryRelease mp n => Sys2Proof.Machine.execPartitionEntryRelease mp n s
  | .tlbivGo pk v => Sys2Proof.Machine.execTlbivGo pk v s
  | .invalidationComplete pk => Sys2Proof.Machine.execInvalidationComplete pk s
  | .mvfGo pk n v => Sys2Proof.Machine.execMvfGo pk n v s
  | .migrationCopyDone pk n => Sys2Proof.Machine.execMigrationCopyDone pk n s
  | .hbmRefresh sk bank => Sys2Proof.Machine.execHbmRefresh sk bank s
  | .rowActivationRefresh sk bank row => Sys2Proof.Machine.execRowActivationRefresh sk bank row s
  | .patrolScrub sk line => Sys2Proof.Machine.execPatrolScrub sk line s
  | .ltagSweep sk => Sys2Proof.Machine.execLtagSweep sk s
  | .mwld w => Sys2Proof.Machine.execMwld w s
  | .mwldt w => Sys2Proof.Machine.execMwldt w s
  | .mzero w => Sys2Proof.Machine.execMzero w s
  | .mma w => Sys2Proof.Machine.execMma w s
  | .mmasc w => Sys2Proof.Machine.execMmasc w s
  | .mpromo w => Sys2Proof.Machine.execMpromo w s
  | .mdrain w => Sys2Proof.Machine.execMdrain w s
  | .mpass w => Sys2Proof.Machine.execMpass w s
  | .systolicBeat rg ws => Sys2Proof.Machine.execSystolicBeat rg ws s
  | .bgmv w => Sys2Proof.Machine.execBgmv w s
  | .bred w => Sys2Proof.Machine.execBred w s
  | .baseNodeStreamDelivery rs => Sys2Proof.Machine.execBaseNodeStreamDelivery rs s
  | .stripe p img ws => Sys2Proof.Machine.execStripe p img ws s
  | .plane sel => Sys2Proof.Machine.execPlane sel s
  | .swap ws => Sys2Proof.Machine.execSwap ws s
  | .swapAll => Sys2Proof.Machine.execSwapAll s
  | .swapWave => Sys2Proof.Machine.execSwapWave s
  | .dwell d v img => Sys2Proof.Machine.execDwell d v img s
  | .loop n dist => Sys2Proof.Machine.execLoop n dist s
  | .endl => Sys2Proof.Machine.execEndl s
  | .brp line sense target => Sys2Proof.Machine.execBrp line sense target s
  | .jmp target => Sys2Proof.Machine.execJmp target s
  | .call target => Sys2Proof.Machine.execCall target s
  | .ret => Sys2Proof.Machine.execRet s
  | .arm lc n => Sys2Proof.Machine.execArm lc n s
  | .armMx n => Sys2Proof.Machine.execArmMx n s
  | .waitbBar tag => Sys2Proof.Machine.execWaitbBar tag s
  | .waitbLc lc => Sys2Proof.Machine.execWaitbLc lc s
  | .waitbMx => Sys2Proof.Machine.execWaitbMx s
  | .save ws addr => Sys2Proof.Machine.execSave ws addr s
  | .rest ws addr => Sys2Proof.Machine.execRest ws addr s
  | .lds a off b => Sys2Proof.Machine.execLds a off b s
  | .sts a off b => Sys2Proof.Machine.execSts a off b s
  | .addi a b imm => Sys2Proof.Machine.execAddi a b imm s
  | .movs a src => Sys2Proof.Machine.execMovs a src s
  | .cmpj cond uns a b target => Sys2Proof.Machine.execCmpj cond uns a b target s
  | .seqw req abs => Sys2Proof.Machine.execSeqw req abs s
  | .msgr sl imm => Sys2Proof.Machine.execMsgr sl imm s
  | .yld => Sys2Proof.Machine.execYld s
  | .hlt word => Sys2Proof.Machine.execHlt word s
  | .transferRequestStart tp => Sys2Proof.Machine.execTransferRequestStart tp s
  | .transferCopy h a => Sys2Proof.Machine.execTransferCopy h a s
  | .tensorLoad h a => Sys2Proof.Machine.execTensorLoad h a s
  | .tensorStore h a => Sys2Proof.Machine.execTensorStore h a s
  | .gather h a => Sys2Proof.Machine.execGather h a s
  | .scatter h a => Sys2Proof.Machine.execScatter h a s
  | .fill h dst len pat => Sys2Proof.Machine.execFill h dst len pat s
  | .remoteCopy h a flag => Sys2Proof.Machine.execRemoteCopy h a flag s
  | .setRemoteFlag h flag pkg val aop => Sys2Proof.Machine.execSetRemoteFlag h flag pkg val aop s
  | .shadowCopy h a => Sys2Proof.Machine.execShadowCopy h a s
  | .reduceCopy h src dst nel rop => Sys2Proof.Machine.execReduceCopy h src dst nel rop s
  | .transferCompletion rq => Sys2Proof.Machine.execTransferCompletion rq s
  | .sectorCounterIncrement rq => Sys2Proof.Machine.execSectorCounterIncrement rq s
  | .lm64Write pk off len data => Sys2Proof.Machine.execLm64Write pk off len data s
  | .lm64Take pk => Sys2Proof.Machine.execLm64Take pk s
  | .walkStart pk => Sys2Proof.Machine.execWalkStart pk s
  | .nodeEnd g => Sys2Proof.Machine.execNodeEnd g s
  | .nodeKernel g fig async done ua => Sys2Proof.Machine.execNodeKernel g fig async done ua s
  | .nodeCopy g async die port done req => Sys2Proof.Machine.execNodeCopy g async die port done req s
  | .nodeCond g pred alt => Sys2Proof.Machine.execNodeCond g pred alt s
  | .nodeLoop g body count pred => Sys2Proof.Machine.execNodeLoop g body count pred s
  | .nodeWait g ctr thr => Sys2Proof.Machine.execNodeWait g ctr thr s
  | .nodeSignal g ctr add => Sys2Proof.Machine.execNodeSignal g ctr add s
  | .nodeSeal g req => Sys2Proof.Machine.execNodeSeal g req s
  | .nodeMsg g w => Sys2Proof.Machine.execNodeMsg g w s
  | .nodeSub g graph entry => Sys2Proof.Machine.execNodeSub g graph entry s
  | .waitCounterReread wk => Sys2Proof.Machine.execWaitCounterReread wk s
  | .taskAging pk => Sys2Proof.Machine.execTaskAging pk s
  | .taskDispatch pk => Sys2Proof.Machine.execTaskDispatch pk s
  | .kernelTaskComplete tk => Sys2Proof.Machine.execKernelTaskComplete tk s
  | .preemptCommit pk => Sys2Proof.Machine.execPreemptCommit pk s
  | .regionHalted rg => Sys2Proof.Machine.execRegionHalted rg s
  | .figureSave fg => Sys2Proof.Machine.execFigureSave fg s
  | .stripeRelease st => Sys2Proof.Machine.execStripeRelease st s
  | .resumption fg => Sys2Proof.Machine.execResumption fg s
  | .sealPeriodExpiry pk => Sys2Proof.Machine.execSealPeriodExpiry pk s
  | .sealRequest pk => Sys2Proof.Machine.execSealRequest pk s
  | .pavaneClose pk => Sys2Proof.Machine.execPavaneClose pk s
  | .pavaneDrain pk => Sys2Proof.Machine.execPavaneDrain pk s
  | .pavaneVote pk => Sys2Proof.Machine.execPavaneVote pk s
  | .pavaneSeal pk => Sys2Proof.Machine.execPavaneSeal pk s
  | .intervalEnable pk => Sys2Proof.Machine.execIntervalEnable pk s
  | .disableRequest pk => Sys2Proof.Machine.execDisableRequest pk s
  | .registerWrite pk off size v => Sys2Proof.Machine.execRegisterWrite pk off size v s
  | .coldReset pk => Sys2Proof.Machine.execColdReset pk s
  | .bootctlGo pk v => Sys2Proof.Machine.execBootctlGo pk v s
  | .attctlGo pk v => Sys2Proof.Machine.execAttctlGo pk v s
  | .hmconsWrite pk v => Sys2Proof.Machine.execHmconsWrite pk v s
  | .bar4Load pk off len => Sys2Proof.Machine.execBar4Load pk off len s
  | .bar4Store pk off len data => Sys2Proof.Machine.execBar4Store pk off len data s
  | .powerGate ring => Sys2Proof.Machine.execPowerGate ring s
  | .hopCheckFail hop => Sys2Proof.Machine.execHopCheckFail hop s
  | .hopResend hop => Sys2Proof.Machine.execHopResend hop s
  | .misrouteResendTimeout hop => Sys2Proof.Machine.execMisrouteResendTimeout hop s
  | .resultRetry el twice => Sys2Proof.Machine.execResultRetry el twice s
  | .planeRefill st p => Sys2Proof.Machine.execPlaneRefill st p s
  | .comparePoint fg key => Sys2Proof.Machine.execComparePoint fg key s
  | .redundantTimeout fg key => Sys2Proof.Machine.execRedundantTimeout fg key s
  | .spareReplacement pk => Sys2Proof.Machine.execSpareReplacement pk s
  | .sprnowGo pk v => Sys2Proof.Machine.execSprnowGo pk v s
  | .faultRecordDispatch pk => Sys2Proof.Machine.execFaultRecordDispatch pk s
  | .faultRecordPost pk => Sys2Proof.Machine.execFaultRecordPost pk s
  | .fltconsWrite pk v => Sys2Proof.Machine.execFltconsWrite pk v s
  | .fltctlKeepClear pk v => Sys2Proof.Machine.execFltctlKeepClear pk v s
  | .ecntWrite pk n v => Sys2Proof.Machine.execEcntWrite pk n v s
  | .fltstatWrite pk v => Sys2Proof.Machine.execFltstatWrite pk v s
  | .hosterrWrite pk v => Sys2Proof.Machine.execHosterrWrite pk v s
  | .lnkstWrite pk n v => Sys2Proof.Machine.execLnkstWrite pk n v s
  | .sucfgLinkDisable pk v => Sys2Proof.Machine.execSucfgLinkDisable pk v s
  | .psnclrGo pk v => Sys2Proof.Machine.execPsnclrGo pk v s
  | .pgfresResume pk num => Sys2Proof.Machine.execPgfresResume pk num s
  | .pgfresEnd pk num => Sys2Proof.Machine.execPgfresEnd pk num s
  | .dbgresResume pk num => Sys2Proof.Machine.execDbgresResume pk num s
  | .dbgresEnd pk num => Sys2Proof.Machine.execDbgresEnd pk num s
  | .dbgresStep pk num => Sys2Proof.Machine.execDbgresStep pk num s
  | .rollbackStart pk => Sys2Proof.Machine.execRollbackStart pk s
  | .rollbackHold pk => Sys2Proof.Machine.execRollbackHold pk s
  | .rollbackQuiet pk => Sys2Proof.Machine.execRollbackQuiet pk s
  | .rollbackApply pk => Sys2Proof.Machine.execRollbackApply pk s
  | .rollbackRepair pk => Sys2Proof.Machine.execRollbackRepair pk s
  | .rollbackResume pk => Sys2Proof.Machine.execRollbackResume pk s
  | .memberLost pk m => Sys2Proof.Machine.execMemberLost pk m s
  | .leaderTakeover pk => Sys2Proof.Machine.execLeaderTakeover pk s
  | .linkFlitError pk port => Sys2Proof.Machine.execLinkFlitError pk port s
  | .linkReplay pk port => Sys2Proof.Machine.execLinkReplay pk port s
  | .laneFailing pk port lane lockLost => Sys2Proof.Machine.execLaneFailing pk port lane lockLost s
  | .portDown pk port => Sys2Proof.Machine.execPortDown pk port s
  | .lnkcfgRetrain pk v => Sys2Proof.Machine.execLnkcfgRetrain pk v s
  | .unreachableTimeout ac => Sys2Proof.Machine.execUnreachableTimeout ac s
  | .hostLinkDown pk => Sys2Proof.Machine.execHostLinkDown pk s
  | .hostLinkUp pk => Sys2Proof.Machine.execHostLinkUp pk s
  | .hotReset pk => Sys2Proof.Machine.execHotReset pk s
  | .poisonedHostWrite pk bar off => Sys2Proof.Machine.execPoisonedHostWrite pk bar off s
  | .hostCompletionError ac => Sys2Proof.Machine.execHostCompletionError ac s
  | .memoryPortDomainReset mp => Sys2Proof.Machine.execMemoryPortDomainReset mp s
  | .fabricDieReset pk die => Sys2Proof.Machine.execFabricDieReset pk die s

end Sys2Proof.Machine
end

