-- ==== Sys2Proof/Machine/Fetch.lean ====
section
/-! DEFINITION. What a step begins with: who moves (DESIGN CHOICE, log 2), the word that an agent fetches, and where a word stands that the next step is to fetch (DESIGN CHOICE, log 14). -/
namespace Sys2Proof.Machine
open Sys2Proof

/-- Who moves next, and the state without that choice: the head of the agenda, or the free choice of log 2. -/
def State.choose (s : State) : Sel × State :=
  match s.agenda with
  | x :: rest => (x, { s with agenda := rest })
  | [] => (Config.freeSel s.free, { s with free := s.free + 1 })

/-- The running handler of an element fires its next slot in this cycle. -/
def State.handlerDue (s : State) (el : Nat) : Bool :=
  match (s.elem el).run with
  | none => false
  | some h =>
    let t := { s with act := s.slotAct el h.pos }
    match t.slotAt t.act with
    | none => false
    | some (op, f) => (slotReady op f t).isSome
/-- The cycles that pass ahead of a step of `dt` cycles: a handler fires its slots in consecutive cycles (R56), so none passes while
one of its slots is due, and one at a time while it runs. -/
def State.pace (s : State) (dt : Nat) : Nat :=
  let runs := s.fab.elems.filter fun p => p.2.run.isSome
  if runs.any fun p => s.handlerDue p.1 then 0 else if runs.isEmpty then dt else min dt 1

/-- What an agent fetches: an instruction with the state that it executes in; or none, with the state that is left. -/
inductive Fetched where
  | idle (s : State)
  | word (s : State) (i : Instr)
  deriving Repr
/-- A word as its decoder reads it. One that encodes nothing reaches no agent (R394): its agent goes no further (R393; DEDUCED, log 15). -/
def Fetched.of (s : State) : Except Reject Instr → Fetched
  | .ok i => .word s i
  | .error _ => .idle s

/-- The state in which the section of region `rg` executes a word. -/
def State.atReel (s : State) (rg : Nat) : State := { s with act := { rg := rg } }
/-- The next word of a section is ready (R320): its cycle has come, and it does not wait. -/
def State.reelReady (s : State) (rg : Nat) : Bool :=
  let x := (s.region rg).reel
  decide (x.ready ≤ s.cyc) && (match decodeReel (x.words.get 0 x.rpc.toNat) with
    | .ok i => decide (outState (s.atReel rg) (exec i (s.atReel rg)) ≠ s.atReel rg)
    | .error _ => false)
/-- Round-robin from the section chosen last: `a` comes ahead of `b`. -/
def aheadOf (last a b : Nat) : Bool :=
  if last < a then decide (b ≤ last ∨ a < b) else decide (b ≤ last ∧ a < b)
/-- The Reel chooses the section in this cycle (R320): it has chosen none yet, the section's word is ready, and no ready section comes
ahead of it. -/
def State.reelTurn (s : State) (rg : Nat) : Bool :=
  let ring := (s.region rg).ring
  let g := s.ring ring
  decide (g.chose ≠ s.cyc + 1) && s.reelReady rg
  && s.regions.all fun p => !(decide (p.1 ≠ rg ∧ p.2.ring = ring) && p.2.reel.live && aheadOf g.chosen p.1 rg && s.reelReady p.1)
/-- The Reel has chosen the section. -/
def State.chooseReel (s : State) (rg : Nat) : State :=
  let ring := (s.region rg).ring
  s.setRing ring { s.ring ring with chose := s.cyc + 1, chosen := rg }

/-- The next word of an agent: of a running event handler (R56), of a Reel section (R319), of a matrix element (R299), of
the multipliers (R314), of a request (R332) or of a graph walk (R342). -/
def State.fetch (s : State) : Agent → Fetched
  | .slot el =>
    match (s.elem el).run with
    | none => .idle s
    | some h =>
      let a := s.slotAct el h.pos
      .of { s with act := a } (decodeSlot ((s.elPlane el a.plane).words.get 0 a.pos))
  | .reel rg =>
    let t := s.atReel rg
    let x := (s.region rg).reel
    if x.count ≤ x.rpc.toNat then .idle (reelPast t)
    else match decodeReel (x.words.get 0 x.rpc.toNat) with
      | .ok i => if s.reelTurn rg then .word (t.chooseReel rg) i else .idle t
      | .error _ => .idle t
  | .matrix el =>
    let t := { s with act := { el := el } }
    if s.mxWord el = 0 then .idle (mxEmpty el t) else .of t (decodeMatrix (s.mxWord el))
  | .mult m =>
    let t := { s with act := { el := m } }
    let w := (s.multRec m).words.get 0 (s.mult m).wpos
    if w = 0 then .idle t else .of t (decodeMatrix w)
  | .port rq =>
    match s.req rq with
    | none => .idle s
    | some r => .of { s with act := { el := rq } } (decodeRequest r.pkt.bits)
  | .walk wk =>
    match s.nodeAt wk with
    | .stop t => .idle t
    | .word t v =>
      match decodeNode v with
      | .ok i => .word { t with act := { el := wk } } i
      | .error _ => .idle (t.badNode wk)

/-- A step of the machine that is no word of an agent. -/
def isEvent (i : Instr) : Bool := (encode i).isNone && i.wf

/-! ### A word where the next step fetches -/

/-- The agent `a` moves next. -/
def State.moves (s : State) (a : Agent) : State := { s with agenda := [{ dt := 0, who := .agent a }] }

/-- A slot word as the only slot of a handler that runs on element 0. -/
def State.placeSlot (s : State) (w : BitVec 48) : State :=
  let p : Plane := { valid := true, event := true, els := [(0, { words := FMap.put 0 [] 0 w })] }
  let r : Region := { count := 1, live := true }
  let s1 := (s.setStripe 0 { rg := some 0, planes := [(0, p)], av := true }).setRegion 0 r
  (s1.setElem 0 { av := true, run := some { pos := 0, last := 0 } }).moves (.slot 0)
/-- A reel word as the only word of region 0. -/
def State.placeReel (s : State) (w : W64) : State :=
  (s.setRegion 0 { count := 1, live := true, reel := { words := FMap.put 0 [] 0 w, count := 1, live := true } }).moves (.reel 0)
/-- A matrix word as word 0 of matrix element 0. -/
def State.placeMatrix (s : State) (w : W64) : State :=
  let p : Plane := { valid := true, mxs := [(0, { words := FMap.put 0 [] 0 w })] }
  let s1 := (s.setStripe 0 { rg := some 0, planes := [(0, p)], av := true }).setRegion 0 { count := 1, live := true }
  (s1.setMx 64 { av := true, tcnt := 1 }).moves (.matrix 64)
/-- A matrix word as word 0 of base-slice program 0. -/
def State.placeMult (s : State) (w : W64) : State :=
  let p : Plane := { valid := true, mxs := [(0, { words := FMap.put 0 [] 0 w })] }
  ((s.setReg 0 0x50000 3).setStripe (multStripe 0) { planes := [(0, p)], av := true }).moves (.mult 0)

end Sys2Proof.Machine
end

