-- ==== Sys2Proof/Machine/Step.lean ====
section
/-! DEFINITION. One step of the machine, and a word placed where the next step fetches it. -/
namespace Sys2Proof.Machine
open Sys2Proof

/-- One step: `dt` cycles pass, then an agent executes its next word or an event happens. -/
def step (s : State) : Host.Outcome State Fault Refusal :=
  let c := s.choose
  let t := c.2.tick (c.2.pace c.1.dt)
  match c.1.who with
  | .event i => if isEvent i then exec i t else .next t
  | .damage d b => .next (t.damaged d b)
  | .agent a =>
    match t.fetch a with
    | .idle u => .next u
    | .word u i => exec i u

/-- The machine with the instruction of these bits where the next step fetches it (DESIGN CHOICE, log 14). -/
def State.withFetchWord (s : State) (nbits w : Nat) : State :=
  if nbits ≤ 48 then s.placeSlot (BitVec.ofNat 48 w)
  else if nbits ≤ 64 then
    match decodeReel (BitVec.ofNat 64 w), decodeMatrix (BitVec.ofNat 64 w) with
    | .ok _, _ => s.placeReel (BitVec.ofNat 64 w)
    | .error _, .ok (.bgmv _) | .error _, .ok (.bred _) => s.placeMult (BitVec.ofNat 64 w)
    | .error _, _ => s.placeMatrix (BitVec.ofNat 64 w)
  else if nbits ≤ 256 then
    (s.setReq 0 { pkt := { bits := BitVec.ofNat 256 w } }).moves (.port 0)
  else (s.setWalk 0 { node := some (BitVec.ofNat 512 w) }).moves (.walk 0)

end Sys2Proof.Machine
end

