-- ==== Sys2Proof/Safety.lean ====
section
/-! DEFINITION. The terms in which statements speak of runs: a slot that fires its own effect, what a firing leaves, results by instruction, what a step keeps. -/
namespace Sys2Proof.Machine
open Sys2Proof

/-! ### Firings -/

/-- The slot of the state's firing is ready and takes its own effect: operands and space are there (R26, R56), no token is
one that the operation does not accept (R199), the sequence check holds (R423), and its predicate is true (R200). -/
structure State.Fires (s : State) (op : SlotOp) (f : Slot) (o : Opn) (ps : List (BitVec 2)) : Prop where
  ready : slotReady op f s = some (o, ps)
  clean : o.bad = none
  inSeq : sqFault s f o ps = none
  pred : o.pred = true

/-- The firing is neither squashed (R29) nor tainted (R421). -/
def State.Plain (s : State) (o : Opn) : Prop := s.act.squash = false ∧ o.taint = false

/-- The state once the firing has popped its operands and holds the element's issue slot of the cycle (R52); a handler has moved on
(R56). The tainted tokens that a squashed firing pops count as dropped (R420). -/
def State.popped (s : State) (op : SlotOp) (f : Slot) (o : Opn) (ps : List (BitVec 2)) : State :=
  let t := (s.popQueues s.act.el ps).markFired (firingDests op f o s)
  if s.act.squash && o.taint then t.count (elPk s.act.el) 1 (taintedPops s ps) else t

/-- The state once results leave for both targets with a latency (R201, R202), from the state `t` of the effects. -/
def State.gives (s : State) (f : Slot) (o : Opn) (t : State) (lat : Nat) (outs : List Out) : State :=
  (t.emitAll (s.ret f o.taint) (s.cyc + lat - 1) outs).stepBreak

/-- One data token to every target. -/
def State.result (s : State) (v : W32) : List Out := [{ tok := dataTok v s.seqOf }]
/-- One data token to each target. -/
def State.results (s : State) (v : W32 × W32) : List Out :=
  [{ which := 1, tok := dataTok v.1 s.seqOf }, { which := 2, tok := dataTok v.2 s.seqOf }]

/-! ### Memory -/

/-- The bytes at every listed address read as before, or lie in a range of `n` bytes at `a`. -/
def SameMemExcept (s t : State) (a n : Nat) : Prop := ∀ x, x < a ∨ a + n ≤ x → t.peek x = s.peek x
/-- Every byte of memory reads as before. -/
def SameMem (s t : State) : Prop := ∀ x, t.peek x = s.peek x

end Sys2Proof.Machine
end

