-- ==== Sys2Proof/Certificates/Slice0/Obligations.lean ====
section
/-! DEFINITION. The statements for the provers: each says what an instruction or the machine does. -/
section
open Sys2Proof Sys2Proof.Machine

namespace Sys2Proof.Machine

/-- A write of 8 bytes that the window accepts (R408): the window is enabled, a register lies at the offset, and no check fails. -/
structure State.Accepts (s : State) (pk off : Nat) (v : W64) (k : RKind) (i : Nat) : Prop where
  on : s.windowOn pk = true
  reg : regAt off = some (k, i)
  rsv : v &&& k.rsv = 0
  good : k.bad (s.reg pk off) v = false
  free : s.writeAllowed pk k i off v = true

/-! ### Slot instructions: what a firing gives (chapters 9 to 11) -/

/-- Latency and value of the integer instructions (R206 to R210): lane sums, differences, products and orders of MOD's lane
format, exact and then saturated or wrapped; sums over lanes; the high product; the quotient and the remainder. -/
def intResult (f : Slot) (o : Opn) : SlotOp → Option (Nat × W32)
  | .add => some (1, intLanes f.mod (fun a b _ => a + b) o.a o.b o.x)
  | .sub => some (1, intLanes f.mod (fun a b _ => a - b) o.a o.b o.x)
  | .mul => some (2, intLanes f.mod (fun a b _ => a * b) o.a o.b o.x)
  | .mulh => some (2, mulhW f.mod o.a o.b)
  | .mad => some (2, intLanes f.mod (fun a b x => a * b + x) o.a o.b o.x)
  | .abs => some (1, intLanes f.mod (fun a _ _ => if a < 0 then -a else a) o.a o.b o.x)
  | .neg => some (1, intLanes f.mod (fun a _ _ => -a) o.a o.b o.x)
  | .min => some (1, intLanes f.mod (fun a b _ => if a ≤ b then a else b) o.a o.b o.x)
  | .max => some (1, intLanes f.mod (fun a b _ => if a ≤ b then b else a) o.a o.b o.x)
  | .bperm => some (1, bpermW o.a o.b)
  | .div => some (8, (divW f.mod o.a o.b).1)
  | .rem => some (8, (divW f.mod o.a o.b).2)
  | .sad => some (2, intSum f.mod (fun a b => (a - b).natAbs) o.a o.b o.x)
  | .dp4 => some (2, intSum f.mod (fun a b => a * b) o.a o.b o.x)
  | .mov => some (1, o.a)
  | _ => none

/-- Latency and value of the bit, condition and selection instructions (R212 to R217); `lop3` reads its truth table from
the constant that CIDX names. -/
def bitResult (f : Slot) (table : W32) (o : Opn) : SlotOp → Option (Nat × W32)
  | .clz => some (1, bitLanes f.mod (fun n a _ => clzN n a) o.a o.b)
  | .popc => some (1, bitLanes f.mod (fun n a _ => popcN n a) o.a o.b)
  | .brev => some (1, bitLanes f.mod (fun n a _ => revN n a) o.a o.b)
  | .and => some (1, o.a &&& o.b)
  | .or => some (1, o.a ||| o.b)
  | .xor => some (1, o.a ^^^ o.b)
  | .andn => some (1, o.a &&& ~~~o.b)
  | .not => some (1, ~~~o.a)
  | .lop3 => some (1, lop3W table o.a o.b o.x)
  | .shl => some (1, bitLanes f.mod shlN o.a o.b)
  | .shr => some (1, bitLanes f.mod (if f.mod.getLsbD 2 then sarN else shrN) o.a o.b)
  | .rot => some (1, bitLanes f.mod rotN o.a o.b)
  | .fsh => some (1, fshW f.mod o.a o.b o.x)
  | .bfx => some (1, bfxW f.mod o.a o.b)
  | .bfi => some (1, bfiW o.a o.b o.x)
  | .bswap => some (1, bswapW o.a)
  | .cmp => some (1, bit01 (cmpCond f.mod o.a o.b))
  | .fcmp => some (1, bit01 (fcmpCond f.mod o.a o.b))
  | .sel => some (1, if o.x ≠ 0 then o.a else o.b)
  | _ => none

/-- Latency and value of the floating-point instructions (R231 to R241, R243, R245): the exact result of each lane rounded
once in MOD's mode. -/
def fpResult (f : Slot) (key : W32 × W32) (o : Opn) : SlotOp → Option (Nat × W32)
  | .fadd => some (4, fLanesR f.mod (fun a b _ => fsum (mlo f.mod).toNat [a, b]) o.a o.b o.x)
  | .fsub => some (4, fLanesR f.mod (fun a b _ => fsum (mlo f.mod).toNat [a, b.negate]) o.a o.b o.x)
  | .fmul => some (4, fLanesR f.mod (fun a b _ => a.mul b) o.a o.b o.x)
  | .ffma => some (4, fLanesR f.mod (fun a b x => fsum (mlo f.mod).toNat [a.mul b, x]) o.a o.b o.x)
  | .fmin => some (2, fLanes f.mod (fun t a b _ => fminmax t false a b) o.a o.b o.x)
  | .fmax => some (2, fLanes f.mod (fun t a b _ => fminmax t true a b) o.a o.b o.x)
  | .fabs => some (1, fLanes f.mod (fun t a _ _ => if (fdecode t a).isNan then t.nan else a % 2 ^ (t.w - 1)) o.a o.b o.x)
  | .fneg => some (1, fLanes f.mod (fun t a _ _ => if (fdecode t a).isNan then t.nan else (a + 2 ^ (t.w - 1)) % 2 ^ t.w) o.a o.b o.x)
  | .fclass => some (1, fLanes f.mod (fun t a _ _ => fclassN t a) o.a o.b o.x)
  | .fscale => some (4, fLanes f.mod (fun t a b _ => fscaleN t (mlo f.mod).toNat a (signed t.w b)) o.a o.b o.x)
  | .fround => some (4, fLanes f.mod (fun t a _ _ => froundN t (mlo f.mod).toNat a) o.a o.b o.x)
  | .fcsgn => some (1, fLanes f.mod (fun t a b _ => if (fdecode t a).isNan then t.nan
      else a % 2 ^ (t.w - 1) + b / 2 ^ (t.w - 1) * 2 ^ (t.w - 1)) o.a o.b o.x)
  | .fdot2 => some (4, fdot2W f.mod o.a o.b o.x)
  | .frcp => some (8, frcpW o.a)
  | .frsq => some (8, frsqW o.a)
  | .fsqrt => some (10, fsqrtW (mlo f.mod).toNat o.a)
  | .fexp2 => some (10, fexp2W o.a)
  | .flog2 => some (10, flog2W o.a)
  | .fsin => some (14, fsinW o.a)
  | .fcos => some (14, fcosW o.a)
  | .ftanh => some (14, ftanhW o.a)
  | .fdiv => some (12, fword (mlo f.mod).toNat ((fval o.a).div (fval o.b)))
  | .phx => some (6, philox o.a o.b o.x 0 key.1 key.2 (mlo f.mod).toNat)
  | .cvti => some (2, cvtiW f.mod o.a o.b)
  | .pack => some (2, packW f.mod o.a o.b (if mlo f.mod = 0 then 0 else o.x))
  | _ => none

/-- Latency and results of the instructions with two results (R208, R242, R244, R246). -/
def pairResult (f : Slot) (o : Opn) : SlotOp → Option (Nat × W32 × W32)
  | .addc => some (1, addcW o.a o.b o.x)
  | .subb => some (1, subbW o.a o.b o.x)
  | .cvtf => if f.mod.getLsbD 3 then some (2, widen2 (if f.mod.getLsbD 2 then fp16 else bf16) o.a) else none
  | .cvtif => if f.mod.getLsbD 3 then
      some (2, fword 0 (.ofInt (laneV (f.mod.getLsbD 2) 16 o.a 0)), fword 0 (.ofInt (laneV (f.mod.getLsbD 2) 16 o.a 1))) else none
  | .unpack => some (2, unpackW f.mod o.a)
  | _ => none

end Sys2Proof.Machine

/-- A firing of an arithmetic, bit, condition, selection, floating-point or conversion instruction gives its value to both targets after its
latency, two results one to each target, and nothing else happens (R206 to R217, R231 to R246). The instructions: `add`, `sub`, `mul`, `mulh`,
`mad`, `abs`, `neg`, `min`, `max`, `bperm`, `div`, `rem`, `sad`, `dp4`, `mov` (`intResult`); `clz`, `popc`, `brev`, `and`, `or`, `xor`, `andn`,
`not`, `lop3`, `shl`, `shr`, `rot`, `fsh`, `bfx`, `bfi`, `bswap`, `cmp`, `fcmp`, `sel` (`bitResult`); `fadd`, `fsub`, `fmul`, `ffma`, `fmin`,
`fmax`, `fabs`, `fneg`, `fclass`, `fscale`, `fround`, `fcsgn`, `fdot2`, `frcp`, `frsq`, `fsqrt`, `fexp2`, `flog2`, `fsin`, `fcos`, `ftanh`,
`fdiv`, `phx`, `cvti`, `pack` (`fpResult`); `addc`, `subb`, `cvtf`, `cvtif`, `unpack` (`pairResult`). Of any slot instruction with a result, a
false predicate leaves only the pops. Where both targets name one register, one of the two results is sent and the register is written once;
which, is the model's choice (log 9). A special function that the model's enclosure does not decide gives a free value: the model's choice
(log 3). -/
def Obligations.ComputeSlotsGiveTheirResult : Prop :=
  ∀ (s : State) (op : SlotOp) (f : Slot) (o : Opn) (ps : List (BitVec 2)),
    (s.Fires op f o ps →
      (∀ lat v, intResult f o op = some (lat, v) ∨ bitResult f (s.creg f.cidx) o op = some (lat, v)
          ∨ fpResult f (s.creg 14, s.creg 15) o op = some (lat, v) →
        exec (op.mk f) s = .next (s.gives f o (s.popped op f o ps) lat (s.result v)))
      ∧ (∀ lat v, pairResult f o op = some (lat, v) →
        exec (op.mk f) s = .next (s.gives f o (s.popped op f o ps) lat (s.results v)))
      ∧ (op = .cvtf → f.mod.getLsbD 3 = false →
        exec (.cvtf f) s = .next (s.gives f o (s.popped op f o ps) 2
          (s.result (narrow2 (if f.mod.getLsbD 2 then fp16 else bf16) (mlo f.mod).toNat o.a o.b))))
      ∧ (op = .cvtif → f.mod.getLsbD 3 = false →
        exec (.cvtif f) s = .next (s.gives f o (s.popped op f o ps) 2
          (s.result (fword (mlo f.mod).toNat (.ofInt (laneV (f.mod.getLsbD 2) 32 o.a 0)))))))
    ∧ (slotReady op f s = some (o, ps) → o.bad = none → sqFault s f o ps = none → o.pred = false →
      exec (op.mk f) s = .next (s.popped op f o ps).stepBreak)
    ∧ (∀ (t : State) (i : BitVec 3) (lat : Nat) (v : W32 × W32), f.t1 = .kreg i → f.t2 = .kreg i →
      ∃ out ∈ s.results v, s.gives f o t lat (s.results v)
        = (({ t with free := t.free + 1 } : State).emitRet (s.ret f o.taint) (s.cyc + lat - 1) out).stepBreak
      ∧ (∀ u : State, u.emitRet (s.ret f o.taint) (s.cyc + lat - 1) out = u.emitTo s.act.el s.cyc (s.cyc + lat - 1) (decide (out.which = 2)) (.kreg i)
          (s.routeOf (decide (out.which = 2))) s.act.squash o.taint out.tok))

namespace Sys2Proof.Machine

/-- The instruction gives a word that `p` accepts, to both targets after `lat` cycles. -/
def State.Yields (s : State) (op : SlotOp) (f : Slot) (o : Opn) (ps : List (BitVec 2)) (lat : Nat) (p : W32 → Prop) : Prop :=
  ∃ y, exec (op.mk f) s = .next (s.gives f o (s.popped op f o ps) lat (s.result y)) ∧ p y

end Sys2Proof.Machine

/-- The integer and bit instructions that the rules give in full, result by result: carry and borrow (R208), the bytes that `bperm` selects
(R209), quotient and remainder with their corners (R210), shifts and rotations lane by lane (R213), bit fields (R214), and the truth table
of `lop3` (R215). -/
def Obligations.WordResultsAreExact : Prop :=
  ∀ (s : State) (op : SlotOp) (f : Slot) (o : Opn) (ps : List (BitVec 2)), s.Fires op f o ps →
    let n := laneW f.mod
    let A : Int := if f.mod.getLsbD 2 then o.a.toNat else o.a.toInt
    let B : Int := if f.mod.getLsbD 2 then o.b.toNat else o.b.toInt
    let hi : Int := if f.mod.getLsbD 2 then 2 ^ 32 - 1 else 2 ^ 31 - 1
    let lo : Int := if f.mod.getLsbD 2 then 0 else -2 ^ 31
    let q : Int := if B = 0 then (if f.mod.getLsbD 3 then (if 0 ≤ A then hi else lo) else -1)
      else if f.mod.getLsbD 3 then max lo (min hi (A.tdiv B)) else A.tdiv B
    let lane (v : W32) (i : Nat) : Nat := v.toNat / 2 ^ (n * i) % 2 ^ n
    let slane (v : W32) (i : Nat) : Int := if lane v i < 2 ^ (n - 1) then lane v i else (lane v i : Int) - 2 ^ n
    let p := o.b.toNat % 32
    let len := min (o.b.toNat / 256 % 64) 32
    let field (j : Nat) : Bool := decide (j < len) && decide (p + j ≤ 31) && o.a.getLsbD (p + j)
    (op = .addc ∨ op = .subb →
      ∃ y c, exec (op.mk f) s = .next (s.gives f o (s.popped op f o ps) 1 (s.results (y, c)))
        ∧ (op = .addc → y.toNat = (o.a.toNat + o.b.toNat + o.x.toNat % 2) % 2 ^ 32 ∧ c = if 2 ^ 32 ≤ o.a.toNat + o.b.toNat + o.x.toNat % 2 then 1 else 0)
        ∧ (op = .subb → (y.toNat : Int) = ((o.a.toNat : Int) - o.b.toNat - (o.x.toNat % 2 : Nat)) % 2 ^ 32
          ∧ c = if o.a.toNat < o.b.toNat + o.x.toNat % 2 then 1 else 0))
    ∧ (op = .bperm → s.Yields op f o ps 1 fun y => ∀ i, i < 4 →
        let sel := o.b.toNat / 16 ^ i % 16
        let v := o.a.extractLsb' (8 * (sel % 4)) 8
        y.extractLsb' (8 * i) 8 = if 8 ≤ sel then 0 else if 4 ≤ sel % 8 then (if v.getLsbD 7 then 0xFF else 0) else v)
    ∧ (op = .div → s.Yields op f o ps 8 fun y => y = BitVec.ofInt 32 q)
    ∧ (op = .rem → s.Yields op f o ps 8 fun y => y = BitVec.ofInt 32 (if B = 0 then A else A - A.tdiv B * B))
    ∧ (op = .shl → s.Yields op f o ps 1 fun y => ∀ i, i < 32 / n →
        lane y i = if lane o.b i < n then lane o.a i * 2 ^ lane o.b i % 2 ^ n else 0)
    ∧ (op = .shr → s.Yields op f o ps 1 fun y => ∀ i, i < 32 / n →
        (f.mod.getLsbD 2 = false → lane y i = if lane o.b i < n then lane o.a i / 2 ^ lane o.b i else 0)
        ∧ (f.mod.getLsbD 2 = true → slane y i = slane o.a i / 2 ^ min (lane o.b i) (n - 1)))
    ∧ (op = .rot → s.Yields op f o ps 1 fun y => ∀ i, i < 32 / n → ∀ j, j < n →
        (lane y i).testBit ((j + lane o.b i) % n) = (lane o.a i).testBit j)
    ∧ (op = .fsh → s.Yields op f o ps 1 fun y => y.toNat =
        if f.mod.getLsbD 2 then (o.a.toNat * 2 ^ 32 + o.b.toNat) / 2 ^ (o.x.toNat % 32) % 2 ^ 32
        else (o.a.toNat * 2 ^ 32 + o.b.toNat) * 2 ^ (o.x.toNat % 32) / 2 ^ 32 % 2 ^ 32)
    ∧ (op = .bfx → s.Yields op f o ps 1 fun y => ∀ j, j < 32 →
        y.getLsbD j = if f.mod.getLsbD 2 ∧ 0 < len ∧ len ≤ j then field (len - 1) else field j)
    ∧ (op = .bfi → s.Yields op f o ps 1 fun y => ∀ j, j < 32 →
        y.getLsbD j = if p ≤ j ∧ j < p + len then o.x.getLsbD (j - p) else o.a.getLsbD j)
    ∧ (op = .lop3 → s.Yields op f o ps 1 fun y => ∀ j, j < 32 →
        y.getLsbD j = (s.creg f.cidx).getLsbD ((o.a.getLsbD j).toNat + 2 * (o.b.getLsbD j).toNat + 4 * (o.x.getLsbD j).toNat))

/-! ### Flow, reductions and quantisation (R218 to R228, R247 to R258) -/

namespace Sys2Proof.Machine

/-- The state after a reduction firing that changed the hold store after `c` combines. -/
def held (t : State) (c : Nat) (store : List HoldEnt) : State :=
  let u := t.setStripe (stOf t.act.el) { t.stripe (stOf t.act.el) with hold := store }
  u.setElem t.act.el { u.elem t.act.el with redHold := t.cyc + max 1 c }

end Sys2Proof.Machine

/-- A reduction slot combines in the tree of R98: it keeps the value in the hold store, or emits the root three cycles and
`c` combines later; `rmaxsc` writes its running maximum and emits the rescale factor and the maximum. -/
def Obligations.ReductionSlotsCombine : Prop :=
  ∀ (s : State) (f : Slot) (o : Opn) (ps : List (BitVec 2)) (op : SlotOp) (kind : Nat),
    let t (op : SlotOp) := s.popped op f o ps
    (s.Fires op f o ps → redKind op = some kind →
      (∀ c store, redStep kind f.mod s.act.el (s.stripe (stOf s.act.el)).hold o.a o.b o.taint = .insert c store →
        exec (op.mk f) s = .next (s.gives f o (held (t op) c store) 1 []))
      ∧ (∀ v tn c store, redStep kind f.mod s.act.el (s.stripe (stOf s.act.el)).hold o.a o.b o.taint = .emit v tn c store →
        exec (op.mk f) s = .next (s.gives f o (held (t op) c store) (4 + c) [{ tok := { dataTok v s.seqOf with et := tn } }])))
    ∧ (s.Fires .rmaxsc f o ps → let m := BitVec.ofNat 32 (fminmax fp32 true o.b.toNat o.a.toNat)
      exec (.rmaxsc f) s = .next (s.gives f o ((t .rmaxsc).writeK f.r m o.taint) 10 (s.results (rescaleW o.b m, m))))

namespace Sys2Proof.Machine

/-- The next token of a quantiser leaves for a target: a token of a squashed block for no port (R29, R248). -/
def quantSend (el : Nat) (d : QTok) (second : Bool) (u : State) : State :=
  let out (x : Dest) : State := u.addEmit
    { due := u.cyc, ord := u.elRank el, src := el, dst := x, tok := { d.tok with rid := if second then d.ret.r2 else d.ret.r1 }, k := if second then 1 else 0 }
  match u.destOf el (if second then d.ret.t2 else d.ret.t1) with
  | none => u
  | some (.port p) => if d.ret.squash then u else out (.port p)
  | some x => out x

end Sys2Proof.Machine

/-- `bq` takes a value into its block, the first with the block's length, tile and format, and the last completes the block (R247, R248);
`bdq` latches the scale headers ahead of its token and gives one lane pair dequantised under the newest (R250); and the quantiser's next
token, once its cycle has come and its targets have space, leaves for both, and the one after it no earlier than the next cycle (R248). -/
def Obligations.QuantiserSlotsWork : Prop :=
  (∀ (s : State) (f : Slot) (o : Opn) (ps : List (BitVec 2)), s.Fires .bq f o ps →
    let t := s.popped .bq f o ps
    let e := t.elem s.act.el
    let q := if e.quant.vals = [] then { e.quant with n := o.b.toNat % 64, tile := o.b.toNat / 256 % 256, fmt := mhi f.mod } else e.quant
    let q' := { q with vals := q.vals ++ [(o.a, o.taint)], ret := t.ret f false }
    (e.quant.vals = [] → bqCtlOk o.b = true) →
      exec (.bq f) s = .next (s.gives f o (t.setElem s.act.el { e with quant := if q'.vals.length = q'.n then q'.close false else q' }) 1 []))
  ∧ (∀ (s : State) (f : Slot) (o : Opn) (ps : List (BitVec 2)), s.Fires .bdq f o ps →
    let t := s.popped .bdq f o ps
    let sb := if o.x.toNat / 0x10000000 = 3 then o.x.toNat % 256 else 127
    let g (i : Nat) : W32 := dequant (mhi f.mod) (laneN o.a (packWidth f.mod) i) sb
    let q := (mlo f.mod).toNat
    exec (.bdq f) s = .next (s.gives f o
      (if (scaleHeads ((s.elem s.act.el).queue 0)).2.1 = 0 then t else t.writeK f.r o.x o.taint) 4 (s.results (g (2 * q), g (2 * q + 1)))))
  ∧ (∀ (s : State) (el : Nat) (d : QTok) (rest : List QTok), let e := s.elem el
    e.quant.out = d :: rest → e.quant.ready ≤ s.cyc → d.from_ ≤ s.cyc →
    s.fits ((s.destOf el d.ret.t1).toList ++ (s.destOf el d.ret.t2).toList) [] = true →
    exec (.bqBlockEmit el) s = .next (quantSend el d true (quantSend el d false
      (s.setElem el { e with quant := { e.quant with out := rest, ready := s.cyc + 1 } }))))

/-- Tokens are steered, merged, gated and counted as the flow and generator instructions say, one completing form after another: `steer`, `merge`,
`gate`, `inv`, `join`, `ctok`, `ctok.ilast`, `pset`, `pget` (R218 to R224), `loopgen`, `loopgen2`, `cnt` (R225 to R227), `itr`, `copyid`, `lastp`,
`stagev` (R228) and `nop` (R201): each of them, ready to fire, gives the next state stated here. -/
def Obligations.FlowSlotsSteerTokens : Prop :=
  ∀ (s : State) (f : Slot) (o : Opn) (ps : List (BitVec 2)),
    let t (op : SlotOp) := s.popped op f o ps
    let c := s.lctx
    let generated (g : Option W32 × W32 × W32 × Bool) : List Out :=
      (g.1.map fun i => ({ which := 1, tok := dataTok i s.seqOf } : Out)).toList ++ [{ which := 2, tok := dataTok g.2.1 s.seqOf }]
    (s.Fires .steer f o ps → exec (.steer f) s
      = .next (s.gives f o (t .steer) 1 [{ which := if o.b ≠ 0 then 1 else 2, tok := dataTok o.a s.seqOf }]))
    ∧ (s.Fires .merge f o ps → exec (.merge f) s = .next (s.gives f o (t .merge) 1 (s.result (if o.x ≠ 0 then o.a else o.b))))
    ∧ (s.Fires .gate f o ps → exec (.gate f) s
      = .next (if o.b ≠ 0 then s.gives f o (t .gate) 1 (s.result o.a) else s.gives f o ((t .gate).dropTaint o.taint) 1 []))
    ∧ (s.Fires .inv f o ps → exec (.inv f) s = .next (s.gives f o (t .inv) 1 (s.result o.a)))
    ∧ (s.Fires .join f o ps → exec (.join f) s = .next (s.gives f o (t .join) 1
        [{ tok := if (match o.lt with | some x => x.k | none => false) then nullTok else dataTok o.a s.seqOf }]))
    ∧ (s.Fires .ctok f o ps → ctokOk f.mod o.a = true → exec (.ctok f) s = .next (s.gives f o (t .ctok) 1
        [{ tok := (ctlTok (f.mod ++ field o.a 0 28)).resolve (s.region s.act.rg).pn }]))
    ∧ (s.Fires .ctokIlast f o ps → exec (.ctokIlast f) s = .next (s.gives f o
        ((t .ctokIlast).setRegion s.act.rg { s.region s.act.rg with ilast := (s.region s.act.rg).ilast ++ [(s.act.lc, s.act.stage, s.act.ws.getD 0, s.act.loc, s.cyc)] }) 1 []))
    ∧ (s.Fires .pset f o ps → s.Plain o → exec (.pset f) s = .next (s.gives f o
        ((t .pset).addEmit { due := s.cyc + 1, ord := s.elRank s.act.el, src := s.act.el, dst := .pn s.act.rg f.mod, f := s.cyc, tok := dataTok (bit01 (decide (o.a ≠ 0))) 0 }) 1 []))
    ∧ (s.Fires .pset f o ps → s.act.squash || o.taint → exec (.pset f) s = .next (s.gives f o (t .pset) 1 []))
    ∧ (s.Fires .pget f o ps → exec (.pget f) s
      = .next (s.gives f o (t .pget) 1 (s.result (bit01 ((s.region s.act.rg).pn.getLsbD f.mod.toNat)))))
    ∧ (s.Fires .loopgen f o ps → let g := loopgenStep (f.mod.getLsbD 2) o.a o.b
      exec (.loopgen f) s = .next (s.gives f o ((t .loopgen).writeK f.r g.2.2.1 o.taint) 1 (generated g)))
    ∧ (s.Fires .loopgen2 f o ps → let g := loopgen2Step o.a o.b
      exec (.loopgen2 f) s = .next (s.gives f o ((t .loopgen2).writeK f.r g.2.2.1 o.taint) 1 (generated g)))
    ∧ (s.Fires .cnt f o ps → exec (.cnt f) s = .next (s.gives f o
        (((t .cnt).dropTaint (match o.xt with | some x => x.et | none => false)).writeK f.r (cntStep o.a o.b).2 o.taint) 1
        (s.result (cntStep o.a o.b).1)))
    ∧ (s.Fires .itr f o ps → exec (.itr f) s
      = .next (s.gives f o (t .itr) 1 (s.result (field s.act.iter (if f.mod = 0 then 0 else 32) 32))))
    ∧ (s.Fires .copyid f o ps → exec (.copyid f) s = .next (s.gives f o (t .copyid) 1
        (s.result (BitVec.ofNat 32 (if f.mod = 0 then (s.region s.act.rg).copy else (s.region s.act.rg).copies)))))
    ∧ (s.Fires .lastp f o ps → exec (.lastp f) s = .next (s.gives f o (t .lastp) 1
        (s.result (bit01 (if f.mod = 0 then decide (c.tc ≠ 0 ∧ s.act.loc = c.tc - 1) else decide (s.act.loc = 0))))))
    ∧ (s.Fires .stagev f o ps → exec (.stagev f) s = .next (s.gives f o (t .stagev) 1
        (s.result (if f.mod = 0 then bit01 (!s.act.squash) else field c.sv (if f.mod = 1 then 0 else 32) 32))))
    ∧ (s.Fires .nop f o ps → exec (.nop f) s = .next (s.gives f o (t .nop) 1 []))

/-! ### Memory and synchronisation slots (chapter 11) -/

/-- A bank access, a lane or a port instruction that meets no fault condition and is not suppressed: `ldb` and `stb` start an
access to the aligned word at a + b of the region's allotment (R264), `lnsend` and `lntap` use the lane that MOD and CIDX name
(R265, R266), `spop` takes the port's head token whole and `spush` hands one on (R267, R268). -/
def Obligations.BankLaneAndPortSlots : Prop :=
  ∀ (s : State) (f : Slot) (o : Opn) (ps : List (BitVec 2)),
    let t (op : SlotOp) := s.popped op f o ps
    let el := s.act.el
    let addr := o.a.toNat + o.b.toNat
    let n := s.fl.next
    (s.Fires .ldb f o ps → s.Plain o → ringOf (stOf el) < baseRing → addr < 2 ^ 26 → addr % 4 = 0 →
      (s.region s.act.rg).allots (ringOf (stOf el)) addr 4 = true →
      exec (.ldb f) s = .next (s.gives f o ((((t .ldb).setAcc n { rg := s.act.rg, kind := .load false, pa := ringPA (ringOf (stOf el)) addr, ret := (t .ldb).retQ .ldb f o, fired := s.cyc, minAt := bankMin el addr s.cyc }).reserve n ((t .ldb).tgts f)).bump) 1 []))
    ∧ (s.Fires .stb f o ps → s.Plain o → addr < 2 ^ 26 → addr % 4 = 0 →
      (s.region s.act.rg).allots (ringOf (stOf el)) addr 4 = true →
      exec (.stb f) s = .next (s.gives f o ((((t .stb).setAcc n { rg := s.act.rg, kind := .store true, pa := ringPA (ringOf (stOf el)) addr, data := wordBytes o.x, ret := (t .stb).retQ .stb f o, fired := s.cyc, minAt := bankMin el addr s.cyc }).reserve n ((t .stb).tgts f)).bump) 1 []))
    ∧ (s.Fires .lnsend f o ps →
      let tok : Token := { dataTok o.a s.seqOf with et := o.taint }
      exec (.lnsend f) s = .next (s.gives f o ((t .lnsend).addEmit { due := s.cyc, ord := s.elRank el, src := el, dst := .lane (stOf el) (laneOf f), f := s.cyc, tok := tok }) 1 [{ tok := tok }]))
    ∧ (∀ tok taken, s.Fires .lntap f o ps → s.act.squash = false → (s.stripe (stOf el)).lanes.get none (laneOf f).toNat = some (tok, taken) →
      exec (.lntap f) s = .next (s.gives f o ((t .lntap).setStripe (stOf el) { s.stripe (stOf el) with lanes := (s.stripe (stOf el)).lanes.put none (laneOf f).toNat (some (tok, f.mod.getLsbD 1 || taken)) }) 1 [{ tok := tok }]))
    ∧ (∀ tok, s.Fires .spop f o ps → o.lt = some tok →
      exec (.spop f) s = .next (s.gives f o ((t .spop).setPort (s.portOf f.mod) { s.port (s.portOf f.mod) with fifo := (s.port (s.portOf f.mod)).fifo.tail }) 1 [{ tok := tok }]))
    ∧ (s.Fires .spush f o ps → s.act.squash = false →
      let tok := match o.lt with | some x => x | none => dataTok o.a s.seqOf
      exec (.spush f) s = .next (s.gives f o ((t .spush).addEmit { due := s.cyc, ord := s.elRank el, src := el, dst := .port (s.portOf f.mod), f := s.cyc, tok := { tok with et := tok.et || o.taint } }) 1 []))

/-- The circular-buffer instructions: an open put or get goes to its controller, a word of a placed put is written to its
address, the last one pads the message and finishes it; a word of a delivered get is read (R269, R270). -/
def Obligations.BufferSlots : Prop :=
  ∀ (s : State) (f : Slot) (o : Opn) (ps : List (BitVec 2)),
    let t (op : SlotOp) := s.popped op f o ps
    let el := s.act.el
    let n := s.fl.next
    (s.Fires .cbputOpen f o ps → s.Plain o →
      ∃ u, exec (.cbputOpen f) s = .next (s.gives f o u 1 [])
        ∧ (u.elem el).put = some { wait := n, desc := s.descOf (f.mod.getLsbD 3) o.a, scr := f.mod.getLsbD 3, len := o.b.toNat, done := 0, addr := 0, need := 16 + 16 * ((o.b.toNat + 15) / 16), placed := false }
        ∧ (u.wait n).map Wait.kind = some (.cbput (s.descOf (f.mod.getLsbD 3) o.a) (f.mod.getLsbD 3) o.b.toNat o.x el))
    ∧ (∀ p, s.Fires .cbputWord f o ps → s.Plain o → ((t .cbputWord).elem el).noPut = none → ((t .cbputWord).elem el).put = some p → p.done + 1 < (p.len + 3) / 4 →
      let u := (t .cbputWord).writeBytes (p.addr + 4 * p.done) ((wordBytes o.a).take (p.len - 4 * p.done))
      exec (.cbputWord f) s = .next (s.gives f o (u.setElem el { u.elem el with put := some { p with done := p.done + 1 } }) 1 []))
    ∧ (∀ p, s.Fires .cbputWord f o ps → s.Plain o → ((t .cbputWord).elem el).noPut = none → ((t .cbputWord).elem el).put = some p → (p.len + 3) / 4 ≤ p.done + 1 →
      let u := (t .cbputWord).writeBytes (p.addr + 4 * p.done) ((wordBytes o.a).take (p.len - 4 * p.done))
      let v := (u.setElem el { u.elem el with put := none }).writeBytes (p.addr + p.len) (List.replicate (p.need - 16 - p.len) 0)
      exec (.cbputWord f) s = .next (s.gives f o ((v.addWait .cbputWord f o (.cbtail p.desc p.wait)).finishPut p.desc p.wait) 1 []))
    ∧ (s.Fires .cbgetOpen f o ps → s.Plain o →
      ∃ u, exec (.cbgetOpen f) s = .next (s.gives f o u 1 [])
        ∧ (u.wait n).map Wait.kind = some (.cbget (s.descOf (f.mod.getLsbD 3) o.a) (f.mod.getLsbD 3) el)
        ∧ ((u.elem el).get.map OpenBuf.wait) = some n)
    ∧ (∀ g, s.Fires .cbgetWord f o ps → s.Plain o → ((t .cbgetWord).elem el).get = some g → g.done + 1 < (g.len + 3) / 4 →
      (∀ u ∈ unitsOf (g.addr + 4 * g.done) 4, s.ms.errs.get none u = none) →
      exec (.cbgetWord f) s = .next (s.gives f o ((t .cbgetWord).setElem el { (t .cbgetWord).elem el with get := some { g with done := g.done + 1 } }) 1
        (s.result (s.read32 (g.addr + 4 * g.done)))))

/-- The stream instructions: a configuration write or an access takes its place in its ring stream's order, by the cycle of the firing and then the element, under
the next operation number (R129, R271, R273, R275, R276). -/
def Obligations.StreamSlotsQueueTheirAccess : Prop :=
  ∀ (s : State) (f : Slot) (o : Opn) (ps : List (BitVec 2)),
    let t (op : SlotOp) := s.popped op f o ps
    let rs := s.rsOf o.b
    let entry (op : SlotOp) (kind : AKind) (scope : BitVec 3) (idx : Option W32) (data : List W32) (cmp : W32) : SOp :=
      .acc s.fl.next kind scope o.b idx data cmp ((t op).retQ op f o) s.cyc s.act.rg
    let acc (op : SlotOp) (kind : AKind) (scope : BitVec 3) (idx : Option W32) (data : List W32) (cmp : W32) : State :=
      (((t op).setStrm rs { s.strm rs with q := s.insertOp (entry op kind scope idx data cmp) (s.strm rs).q }).reserve s.fl.next ((t op).tgts f)).bump
    let indexed : Option W32 := if o.b.getLsbD 12 then some o.x else none
    (s.Fires .agen f o ps → s.Plain o → o.a.toNat < 32 → (s.region s.act.rg).rsmask.getLsbD o.a.toNat = true →
      (f.mod = 8 → o.b.toNat < 2 ^ 15 ∧ o.b.toNat / 16 % 4 ≠ 3) →
      exec (.agen f) s = .next (s.gives f o ((t .agen).setStrm (s.rsOf o.a) { s.strm (s.rsOf o.a) with q := s.insertOp (.cfg f.mod o.b s.cyc s.act.el) (s.strm (s.rsOf o.a)).q, rg := some s.act.rg }) 1 []))
    ∧ (s.Plain o → s.wordFault o.b false = false →
      (s.Fires .ldg f o ps → exec (.ldg f) s = .next (s.gives f o (acc .ldg (.load (f.mod.getLsbD 0)) 0 none [] 0) 1 []))
      ∧ (s.Fires .ldgx f o ps → exec (.ldgx f) s = .next (s.gives f o (acc .ldgx (.load (f.mod.getLsbD 0)) 0 (some o.a) [] 0) 1 []))
      ∧ (s.Fires .pfg f o ps → exec (.pfg f) s = .next (s.gives f o (acc .pfg .pfg 0 (some o.a) [] 0) 1 [])))
    ∧ (s.Plain o → s.wordFault o.b true = false →
      (s.Fires .atom f o ps → exec (.atom f) s = .next (s.gives f o (acc .atom (.atom (field o.b 8 4) true) (field f.mod 0 3) indexed [o.a] 0) 1 []))
      ∧ (s.Fires .red f o ps → exec (.red f) s = .next (s.gives f o (acc .red (.atom (field o.b 8 4) false) (field f.mod 0 3) indexed [o.a] 0) 1 []))
      ∧ (s.Fires .cas f o ps → exec (.cas f) s = .next (s.gives f o (acc .cas .cas (field f.mod 0 3) none [o.x] o.a) 1 [])))
    ∧ (∀ op idx, op = .stg ∧ idx = none ∨ op = .stgx ∧ idx = some o.x → s.Fires op f o ps → s.Plain o → s.wordFault o.b false = false →
      let e := (t op).elem s.act.el
      let ws := e.part.get [] (o.b.toNat % 32) ++ [o.a]
      e.partSquash.get false (o.b.toNat % 32) = false →
      ∃ u, exec (op.mk f) s = .next (s.gives f o u 1 [])
        ∧ (if lastWord e (o.b.toNat % 32) (s.strm rs).eszBehind
           then (u.strm rs).q = s.insertOp (entry op (.store (f.mod.getLsbD 3)) (field f.mod 0 3) idx ws 0) (s.strm rs).q
             ∧ (u.elem s.act.el).part.get [] (o.b.toNat % 32) = []
           else (u.elem s.act.el).part.get [] (o.b.toNat % 32) = ws))

/-- The waiting instructions: the operation stands under the next number with its tokens reserved, until the step that R136,
R143, R279 or R283 to R287 gives it completes it. -/
def Obligations.WaitingSlotsBeginToWait : Prop :=
  ∀ (s : State) (f : Slot) (o : Opn) (ps : List (BitVec 2)),
    let t (op : SlotOp) := s.popped op f o ps
    let el := s.act.el
    let waits (op : SlotOp) (u : State) (k : WKind) : State := s.gives f o (u.addWait op f o k) 1 []
    s.Plain o →
    (s.Fires .fence f o ps → exec (.fence f) s = .next (waits .fence (t .fence) (.fence (field f.mod 0 3) el (s.fig (figOf s.act.rg)).lastTag)))
    ∧ (s.Fires .sbar f o ps → o.a &&& ~~~(s.region s.act.rg).rsmask = 0 → o.a ≠ 0 →
      exec (.sbar f) s = .next (waits .sbar ((t .sbar).placeBars (s.homeRing (stOf el)) s.fl.next o.a (List.range 32)) (.sbar (field f.mod 0 3) (s.homeRing (stOf el)) o.a none)))
    ∧ (s.Fires .sbar f o ps → o.a = 0 → exec (.sbar f) s = .next (s.gives f o (t .sbar) 1 [{ tok := doneTok s.seqOf }]))
    ∧ (s.Fires .publish f o ps → o.a.toNat < 2 ^ 19 → (o.a.toNat / 64 % 8192 ≠ elPk el → o.a.toNat / 64 % 8192 < s.domSize (elPk el)) →
      exec (.publish f) s = .next (waits .publish (t .publish) (.publish (o.a.toNat / 64 % 8192) (field o.a 0 6))))
    ∧ (s.Fires .secw f o ps → o.a.toNat < 4096 → exec (.secw f) s = .next (waits .secw (t .secw) (.secw (elPk el * 4096 + o.a.toNat) o.b)))
    ∧ (s.Fires .crd f o ps → o.a.toNat < 4096 → exec (.crd f) s = .next (waits .crd (t .crd) (.crd (elPk el * 4096 + o.a.toNat) o.b)))
    ∧ (s.Fires .msend f o ps → exec (.msend f) s = .next (waits .msend (t .msend)
        (.msend (elPk el) ((List.range 14).map (fun i => ((t .msend).elem el).msg.get 0 i) ++ [(s.fig (figOf s.act.rg)).tag, o.a]) (f.mod.getLsbD 3) none)))
    ∧ (s.Fires .sealreq f o ps → s.pvEn (elPk el) = true ∨ 1 < (s.fig (figOf s.act.rg)).insts → exec (.sealreq f) s = .next (waits .sealreq (t .sealreq) (.sealreq (elPk el))))
    ∧ (s.Fires .sealreq f o ps → s.pvEn (elPk el) = false → (s.fig (figOf s.act.rg)).insts ≤ 1 → exec (.sealreq f) s = .next (s.gives f o (t .sealreq) 2 [{ tok := doneTok s.seqOf }]))
    ∧ (s.Fires .xreq f o ps → (((t .xreq).elem el).pkt.get [] (f.mod.toNat % 8)).length < 7 →
      ∃ u, exec (.xreq f) s = .next (s.gives f o u 1 [])
        ∧ (u.elem el).pkt.get [] (f.mod.toNat % 8) = ((t .xreq).elem el).pkt.get [] (f.mod.toNat % 8) ++ [o.a])
    ∧ (s.Fires .xreq f o ps → (((t .xreq).elem el).pkt.get [] (f.mod.toNat % 8)).length = 7 → ((t .xreq).elem el).pktSquash.get false (f.mod.toNat % 8) = false →
      ∃ u, exec (.xreq f) s = .next (s.gives f o u 1 []) ∧ (u.elem el).pkt.get [] (f.mod.toNat % 8) = []
        ∧ (u.wait s.fl.next).map Wait.kind = some (.packet (s.xport f.mod) el (((t .xreq).elem el).pkt.get [] (f.mod.toNat % 8) ++ [o.a])))

/-- The instructions on counters, caches, message words and control registers take effect at once, or two cycles on for a
control register (R282, R283, R285, R287 to R289). -/
def Obligations.RegisterSlotsReadAndWrite : Prop :=
  ∀ (s : State) (f : Slot) (o : Opn) (ps : List (BitVec 2)),
    let t (op : SlotOp) := s.popped op f o ps
    let el := s.act.el
    let done := [({ tok := doneTok s.seqOf } : Out)]
    s.Plain o →
    (s.Fires .lrflush f o ps → o.a.toNat % 64 = 0 → s.redundant = false →
      exec (.lrflush f) s = .next (s.gives f o ((t .lrflush).flushLayout (elPk el) (s.fig (figOf s.act.rg)).asid ((o.b ++ o.a : W64).toNat % 2 ^ 57)) 2 done))
    ∧ (s.Fires .secwSet f o ps → o.a.toNat < 4096 → s.redundant = false →
      exec (.secwSet f) s = .next (s.gives f o { (t .secwSet) with secs := s.secs.put 0 (elPk el * 4096 + o.a.toNat) o.b } 2 done))
    ∧ (s.Fires .mword f o ps → exec (.mword f) s = .next (s.gives f o
        ((t .mword).setElem el { (t .mword).elem el with msg := ((t .mword).elem el).msg.put 0 f.mod.toNat o.a }) 1 []))
    ∧ (s.Fires .rdin f o ps → exec (.rdin f) s = .next (s.gives f o (t .rdin) 2 (s.result (field (s.instatAt (elPk el)) (if f.mod = 0 then 0 else 32) 32))))
    ∧ (∀ v, s.Fires .rdcr f o ps → (t .rdcr).crRead o.a.toNat = some v → o.a ≠ 0 → exec (.rdcr f) s = .next (s.gives f o (t .rdcr) 2 (s.result v)))
    ∧ (s.Fires .rdcr f o ps → o.a = 0 →
      exec (.rdcr f) s = .next (s.gives f o ((t .rdcr).setElem el { (t .rdcr).elem el with cychi := BitVec.ofNat 32 (s.clock (elPk el) / 2 ^ 32) }) 2
        (s.result (BitVec.ofNat 32 (s.clock (elPk el))))))
    ∧ (s.Fires .wrcr f o ps → ((t .wrcr).crRead o.a.toNat).isSome → 4 < o.a.toNat → (o.a = 8 → o.b.toNat < 2) →
      exec (.wrcr f) s = .next (s.gives f o ((t .wrcr).addEmit { due := s.cyc + 1, ord := s.elRank el, src := el, dst := .cr s.act.rg (field o.a 0 12), f := s.cyc, tok := dataTok o.b 0 }) 2 done))
    ∧ (s.Fires .evc f o ps →
      let old := ((t .evc).elem el).evmask
      let v : BitVec 16 := field o.a 0 16
      exec (.evc f) s = .next (s.gives f o ((t .evc).addEmit { due := s.cyc, ord := s.elRank el, src := el, dst := .evmask el, f := s.cyc, tok := dataTok ((if f.mod = 0 then old ||| v else if f.mod = 1 then old &&& ~~~v else v).zeroExtend 32) 0 }) 1
        (s.result (old.zeroExtend 32))))

/-- `trap`, and `brk` where BRKEN.EN is 1, take their debug condition: the slot fires, its region fires nothing after this cycle, and the record
waits for the fault handler; `brk` without BRKEN.EN only fires (R290, R457). `halt` retires its region with the exit word a (R291): the region
stops at once, and the word of a halt of a lower element in the same cycle does not replace it; in a Figure that runs redundantly it retires at
its compare point (R426). -/
def Obligations.TrapsAndHaltsStopTheirRegion : Prop :=
  ∀ (s : State) (f : Slot) (o : Opn) (ps : List (BitVec 2)),
    let t (op : SlotOp) := s.popped op f o ps
    let r := s.region s.act.rg
    s.Plain o →
    (s.Fires .trap f o ps → exec (.trap f) s = .next (s.gives f o ((t .trap).slotFault 0xD001 4 (o.a &&& 0xFFFF)) 1 []))
    ∧ (s.Fires .brk f o ps → r.brken = true → exec (.brk f) s = .next (s.gives f o ((t .brk).slotFault 0xD002 4 0) 1 []))
    ∧ (s.Fires .brk f o ps → r.brken = false → exec (.brk f) s = .next (s.gives f o (t .brk) 1 []))
    ∧ (∀ op code tier d, let u := (t op).slotFault code tier d
      (u.region s.act.rg).stop = some (r.stop.getD s.cyc)
      ∧ u.det.length = s.det.length + 1 ∧ ∃ r ∈ u.det, r.own = .figure (figOf s.act.rg) ∧ r.info.fcode = code ∧ (namesDetail code → r.info.detail = d))
    ∧ (s.Fires .halt f o ps → (s.fig (figOf s.act.rg)).insts ≤ 1 →
      ∃ u, exec (.halt f) s = .next (s.gives f o u 1 []) ∧ (u.region s.act.rg).stop = some (r.stop.getD s.cyc)
        ∧ (u.region s.act.rg).exitWord = (if r.exitWord.isNone ∨ r.exitOrd ≤ 1 + s.elOrd s.act.el then some o.a else r.exitWord))

/-! ### The fabric's own events (chapters 2 and 3) -/

/-- Every enabled slot of a slot index fires in the cycle, or none does (R26): where each has its operands and all of their
targets and streams have space together, they fire in element order, the lanes step, and the loop context goes to its next slot index with
the iteration boundary of R27, and issues no other in the cycle; where one is not ready or space lacks, nothing happens. In a cycle that the
power cap withholds from the ring nothing fires (R377): which cycles those are, the model leaves free (log 11). -/
def Obligations.SlotIndexFiresAllOrNothing : Prop :=
  ∀ (s : State) (rg lc ws : Nat),
    let r := s.region rg
    let c := r.issueCtx lc ws
    let as := enabledSlots s rg lc ws
    (c.issued = s.cyc + 1 → exec (.slotIndexIssue rg lc ws) s = .next s)
    ∧ (r.fires s.cyc = true → c.live = true → c.start ≤ s.cyc → c.issued ≠ s.cyc + 1 →
    (∀ sc, r.scroll = some sc → lc = sc.lc ∧ ws < r.count ∧ sc.phase.get 0 ws = 0 ∧ sc.ended = false) →
    (s.withholds r c = true → exec (.slotIndexIssue rg lc ws) s = .next (s.noteIssue r true))
    ∧ (s.withholds r c = false → as.any (lowerEnabled s rg lc ws) = false →
      (∀ n, allNeeds s as = some n → n.met s = true → (fireAll s as).opqOk = true →
        let t := { hopAll (fireAll s as) r lc with act := s.act }
        let u := applyExits (t.region rg).ilast (t.region rg)
        let d := u.issueCtx lc ws
        exec (.slotIndexIssue rg lc ws) s
          = .next ((t.noteIssue r false).setRegion rg (u.putCtx lc ws { d.advance (u.startsAt (s.cyc + 1) d) with issued := s.cyc + 1 })))
      ∧ (∀ n, allNeeds s as = some n → n.met s = true → (fireAll s as).opqOk = false → exec (.slotIndexIssue rg lc ws) s = .next s)
      ∧ (allNeeds s as = none → exec (.slotIndexIssue rg lc ws) s = .next s)
      ∧ (∀ n, allNeeds s as = some n → n.met s = false → exec (.slotIndexIssue rg lc ws) s = .next s)))

namespace Sys2Proof.Machine

/-- A loop context after `k` iteration boundaries. -/
def boundaries : Nat → LoopCtx → LoopCtx
  | 0, c => c
  | k + 1, c => boundaries k (({ c with slot := c.ii - 1 } : LoopCtx).advance true)

end Sys2Proof.Machine

/-- A loop context's boundary (R27): SLOT counts to II − 1; then SV and SM shift up one stage within the S stages, and an
iteration starts exactly while no exit holds and fewer than the trip count have started, or the trip count is 0; the loop context is
done when SV is 0. An arming makes the first start itself; with a trip count of 1 the loop context is done at the S-th boundary. -/
def Obligations.LoopContextsAdvance : Prop :=
  (∀ (c : LoopCtx),
    (c.slot + 1 < c.ii → c.advance true = { c with slot := c.slot + 1 })
    ∧ (c.ii ≤ c.slot + 1 → let d := c.advance true
      let go := c.xs = false ∧ (c.tc = 0 ∨ c.n < c.tc)
      d.slot = 0 ∧ d.ii = c.ii ∧ d.stg = c.stg ∧ d.tc = c.tc ∧ d.xs = c.xs ∧ (d.n = if go then c.n + 1 else c.n) ∧ (d.live = true ↔ d.sv ≠ 0)
      ∧ (∀ i, d.sv.getLsbD (i + 1) = (decide (i + 1 < c.stg) && decide (i + 1 < 64) && c.sv.getLsbD i))
      ∧ (d.sv.getLsbD 0 = true ↔ (0 < c.stg ∧ go))
      ∧ (∀ i, d.sm.getLsbD (i + 1) = (decide (i + 1 < c.stg) && decide (i + 1 < 64) && c.sm.getLsbD i)) ∧ d.sm.getLsbD 0 = false))
  ∧ (∀ (ii stg : Nat) (n : W64) (start : Nat), 1 ≤ stg →
    let c := armedCtx (ii, stg) n start
    c.slot = 0 ∧ c.n = 1 ∧ c.sv = 1 ∧ c.sm = 0 ∧ c.xs = false ∧ c.tc = n ∧ c.ii = ii ∧ c.stg = stg ∧ c.live = true)
  ∧ (∀ (ii stg start k : Nat), 1 ≤ ii → 1 ≤ stg → stg ≤ 64 → k ≤ stg →
    ((boundaries k (armedCtx (ii, stg) 1 start)).live = true ↔ k < stg))

/-- The iteration-last token of iteration `i` at stage `e` squashes every younger iteration that its loop context holds and lets
no further one start (R28); an event handler starts at its channel's first slot, and its targets keep an entry for
each of its emits (R56). -/
def Obligations.ExitsAndHandlersStart : Prop :=
  ∀ (s : State),
    (∀ rg lc e ws i c, let r := s.region rg
      r.ilast = [(lc, e, ws, i, c)] → r.scroll = none → (r.lcs.get {} lc).xs = false →
      ∃ t, exec (.iterationLastDelivery rg) s = .next t ∧ (t.region rg).ilast = []
        ∧ ((t.region rg).lcs.get {} lc).xs = true ∧ ((t.region rg).lcs.get {} lc).n = i + 1
        ∧ ((t.region rg).lcs.get {} lc).sm = ((r.lcs.get {} lc).sm &&& ~~~stageMask e) ||| ((r.lcs.get {} lc).sv &&& stageMask e))
    ∧ (∀ el c u, let x := s.elem el
      let pl := (s.stripe (stOf el)).planes.get {} x.act.toNat
      let v := chEntry (s.elPlane el x.act) c
      x.av = true → pl.valid = true → pl.event = true → x.run = none → x.hold ≤ s.cyc → x.fired ≠ s.cyc + 1 → s.elLive el = true → s.waveAt el = none →
      bestChannel (s.elPlane el x.act) ((List.range 16).filterMap fun c => (s.runnable el c).map fun u => (c, u)) = some (c, u) →
      exec (.eventHandlerStart el) s
        = .next ((s.reserve s.fl.next u.dests).setElem el { x with run := some { pos := chFirst v, last := chLast v, chan := c, op := s.fl.next } }).bump)

/-- A wavefront passes a scalar element once it stands at the head of every input of the input set, nothing of the element is
pending and every target has space: it is taken from those queues and ports, one copy leaves for every member of the output set, and a
swap takes effect at once (R64, R65); it has then reached the element where that is a sink of it (R68). An element without an active plane
passes one with SWP = 1, which gives it one (R54). A partial block of the quantiser is closed first (R249). At an idle matrix element it
leaves OPQ in the same way (R309). -/
def Obligations.WavefrontsPassElements : Prop :=
  ∀ (s : State) (el : Nat) (t : Token),
    (∀ ins, let x := s.elem el
      let outs := s.outputSet el (t.wavePlanes x.av x.act)
      eOf el < 64 → (x.av = true ∨ t.swp = true) → s.elLive el = true → x.run = none → x.fired ≠ s.cyc + 1 →
      s.waveAt el = some (t, ins) → (∀ u ∈ ins.filterMap s.headAt, u.et = false) →
      (x.quant.vals ≠ [] → exec (.wavefrontPassage el) s = .next (s.setElem el { x with quant := x.quant.close true }))
      ∧ (x.quant.vals = [] → x.quant.out = [] → s.noPending el = true → (t.swp = true → s.filled (stOf el) t.plt = true) →
        s.fits (outs.map Prod.fst) ins = true →
        let s2 := emitCopies (s.popInputs el ins) el t outs
        let s3 := s2.setElem el { s2.elem el with fired := s.cyc + 1, waves := x.waves.tail }
        let s4 := s3.reachSink ((s.stripe (stOf el)).rg.getD 0) (.kreg el 0) t
        exec (.wavefrontPassage el) s = .next (if t.swp then s4.swapElem el t.plt else s4)))
    ∧ (∀ rest, let x := s.mx el
      let outs := s.mxOuts el (t.wavePlanes x.av x.act)
      64 ≤ eOf el → (x.av = true ∨ t.swp = true) → s.elLive el = true → s.noPending el = true → x.opq = t :: rest → t.wave = true → t.et = false →
      (x.tcnt = 0 ∨ x.av = false) → (t.swp = true → s.filled (stOf el) t.plt = true) →
      s.fits (outs.map Prod.fst) [.opq el] = true →
      exec (.wavefrontPassage el) s = .next (mxLeave s el t outs false))

/-- Tokens between stripes and regions: a pass register's token enters the downstream stripe by its pass-in map, the lower-numbered
register first, or the park buffer behind the last window stripe of a scrolled placement; the park buffer feeds window stripe 0 in order,
its tokens read from the bank bytes that hold them; a logical stream's oldest token enters its inbound port, a wavefront with its plane
resolved there and every other token as it is (R36, R69, R73, R74, R78). -/
def Obligations.TokensCrossStripesAndRegions : Prop :=
  ∀ (s : State),
    (∀ st i tok rg, let t := s.stripe st
      let r := s.region rg
      let down := r.stripeAt (t.ws + 1)
      let p := s.passMap st down i
      let gone := s.setStripe st { t with pass := t.pass.put none i none, passLeft := t.passLeft.put 0 i (s.cyc + 1) }
      t.pass.get none i = some tok → t.rg = some rg → r.live = true → t.ws + 1 ≠ r.count → r.feeds t.ws = true →
      s.passRoom (passSrc st i) down i p = true → s.passBehind st down i = false →
      exec (.passRegisterTransfer st i) s = .next ((gone.passIn (passSrc st i) down i p tok).passedWave st i tok))
    ∧ (∀ st i tok rg sc, let t := s.stripe st
      let r := s.region rg
      let g := (r.wlcs.get {} t.ws).vs / r.count
      let k := sc.parked.get 0 g % (16 * sc.d)
      t.pass.get none i = some tok → t.rg = some rg → r.live = true → t.ws + 1 = r.count → r.scroll = some sc → sc.parkRoom g = true →
      ∃ u, exec (.passRegisterTransfer st i) s = .next u ∧ (u.stripe st).pass.get none i = none
        ∧ (u.region rg).scroll.map (fun x => x.park.get [] g) = some (sc.park.get [] g ++ [(i, s.cyc, k)])
        ∧ u.peeks (r.parkPA g k) 8 = leBytes 8 (tokNat tok))
    ∧ (∀ rg pr sc i at_ k rest, let r := s.region rg
      let st := r.stripeAt 0
      let up := r.stripeAt (r.count - 1)
      let p := s.passMap up st i
      let read := s.readToken (r.parkPA pr k)
      r.scroll = some sc → sc.park.get [] pr = (i, at_, k) :: rest → r.live = true → at_ < s.cyc →
      (r.wlcs.get {} 0).vs = (pr + 1) * r.count → sc.phase.get 0 0 = 0 → s.passRoom (passSrc up i) st i p = true →
      exec (.parkRead rg pr) s = .next (((read.1.setRegion rg { r with scroll := some { sc with park := sc.park.put [] pr rest } }).passIn
        (passSrc up i) st i p read.2).passedWave up i read.2))
    ∧ (∀ si w r t ts, let i := (s.fig (si / 256)).streams.get {} (si % 256)
      i.wport = some w → i.rport = some r → (s.port w).fifo = t :: ts → 0 < s.room (.port r) →
      ((s.fig (si / 256)).phase = .placed ∨ (s.fig (si / 256)).phase = .halting) →
      exec (.streamTokenDelivery si) s = .next ((s.setPort w { s.port w with fifo := ts }).addEmit
        { due := s.cyc, ord := 0, src := portSrc w, dst := .port r, tok := t.resolve (s.portPn r) }))
    ∧ (∀ (t : Token) pn, t.wave = false → t.resolve pn = t)

/-- Streams bound to ports (R79): a load stream issues its pattern's next access while the port has room for its tokens and ends
with one end-of-stream token; a store stream takes its port's head token into the store at hand and issues the store once it is
whole. -/
def Obligations.BoundStreamsMoveTheirPort : Prop :=
  ∀ (s : State) (rs p : Nat),
    let t := s.strm rs
    let rg := ((s.port p).rg).getD 0
    let words := max 1 (t.esz / 4)
    let issue (kind : AKind) (data : List W32) (port : Option Nat) : Issue :=
      { id := s.fl.next, kind := kind, scope := 4, word := 0, data := data, cmp := 0, ret := {}, f := s.cyc, rg := rg, port := port }
    t.port = some p → s.boundReady rs = true →
    (t.isStore = false → t.left = 0 → t.eos = true → (∀ a ∈ s.fl.accs, a.2.rs ≠ some rs) → 0 < s.room (.port p) →
      exec (.boundLoadStreamIssue rs) s = .next ((s.setStrm rs { t with eos := false }).addEmit
        { due := s.cyc, ord := 0, src := portSrc p, dst := .port p, tok := ctlTok 0x20000000 }))
    ∧ (∀ va u, t.isStore = false → t.left ≠ 0 → words ≤ s.room (.port p) → s.mayPerform rg (boundOp rs) = true →
      s.issueHead rs (issue (.load false) [] (some p)) none = (va, .gone u) →
      exec (.boundLoadStreamIssue rs) s = .next ((((u.setStrm rs { u.strm rs with left := t.left - 1, issued := s.cyc + 1 }).reserve s.fl.next
        (List.replicate words (.port p))).passTwins (boundOp rs) s.fl.next).bump))
    ∧ (∀ h rest, t.isStore = true → t.words.length < words → (s.port p).fifo = h :: rest → h.k = false →
      exec (.boundStoreStreamAccess rs) s
        = .next ((s.setPort p { s.port p with fifo := rest }).setStrm rs { t with words := t.words ++ [(h.payload, h.et)] }))
    ∧ (∀ va u, t.isStore = true → words ≤ t.words.length → s.mayPerform rg (boundOp rs) = true → (∀ w ∈ t.words, w.2 = false) →
      s.issueHead rs (issue (.store false) (t.words.map Prod.fst) none) none = (va, .gone u) →
      exec (.boundStoreStreamAccess rs) s
        = .next (((u.setStrm rs { u.strm rs with words := [], issued := s.cyc + 1 }).passTwins (boundOp rs) s.fl.next).bump))

/-- Scrolled placements (R36 to R41, R474): an occupancy that is done yields after the cycle of its last slots, a stateful virtual stripe's
state goes to its save slot and the stripe goes dark, the next virtual stripe swaps in once its plane is full, and a saved one is restored
before it fires. The local iteration in the slot's header is the model's choice (log 65). -/
def Obligations.ScrolledStripesTakeTurns : Prop :=
  ∀ (s : State) (rg ws : Nat) (sc : Scroll),
    let r := s.region rg
    let st := r.stripeAt ws
    let c := r.wlcs.get {} ws
    r.scroll = some sc → r.live = true → ws < r.count →
    (let pl := (s.stripe st).planes.get {} (s.stripe st).act.toNat;
      let keep := pl.stf || s.holdsToken st || s.holdsAcc st
      let sc' := if c.vs + 1 = sc.v then { sc with tiles := sc.tiles + 1, ended := !(sc.begins s.cyc c.vs (c.occ + sc.d)) } else sc
      r.stop = none → sc.phase.get 0 ws = 0 → c.live = false → c.issued ≤ s.cyc → s.stripePending st = false → s.stripeInbound st = false →
      s.stripeAccess st = false →
      s.yieldBreach st = none → (r.passDue sc ws = false ∨ (s.stripe st).pass = []) →
      ∃ t, exec (.virtualStripeYield rg ws) s = .next t
        ∧ (t.region rg).scroll = some { sc' with phase := sc'.phase.put 0 ws (if keep then 1 else 2) }
        ∧ (keep = false → (t.stripe st).av = false))
    ∧ (sc.phase.get 0 ws = 1 → s.replaying st = false → s.taintedStripe st = false →
      exec (.statefulSave rg ws) s
        = .next ((((s.writeBytes (r.slotPA c.vs) (slotBytes s st c.vs (s.stripe st).act (c.occ + c.starts))).emptyStripe st).darkStripe st).setRegion rg
            { r with scroll := some { sc with phase := sc.phase.put 0 ws 2, saved := c.vs :: sc.saved } }))
    ∧ (let v := (r.scrollNext sc ws).1;
      let base := (r.scrollNext sc ws).2;
      let p := r.scrollPlane v;
      r.stop = none → sc.phase.get 0 ws = 2 → base ≤ sc.tiles * sc.d → s.filling rg st p = false → sc.begins s.cyc v base = true →
      ((s.stripe st).planes.get {} p.toNat).valid = true → ((s.stripe st).planes.get {} p.toNat).img = sc.img + v →
      let s1 := s.swapStripe st p (some (r.stripeAt ((ws + r.count - 1) % r.count)))
      let sc1 := { sc with phase := sc.phase.put 0 ws (if sc.saved.contains v then 3 else 0), made := sc.made.put 0 v (base + 1) }
      let r1 := { s1.region rg with wlcs := r.wlcs.put {} ws (occCtx (c.ii, c.stg) sc.tc (s.cyc + 1) v base), scroll := some sc1 }
      exec (.scrollSwap rg ws) s = .next ((s1.setRegion rg r1).prefetch rg ws (r1.scrollNext sc1 ws).1))
    ∧ (sc.phase.get 0 ws = 3 → s.replaying st = false →
      exec (.statefulRestore rg ws) s = .next ((s.loadSlot st (r.slotPA c.vs)).setRegion rg
        { r with scroll := some { sc with phase := sc.phase.put 0 ws 0, saved := sc.saved.filter fun v => decide (v ≠ c.vs) } }))

/-- A queued fill is made whole (R71): where it begins, the image is in the ring's configuration cache and the plane is invalid; where it
ends, the plane takes the image's records from the cache and becomes valid. The planes of other stripes and the other planes of this one are
untouched. -/
def Obligations.FillsLoadWholePlanes : Prop :=
  ∀ (s : State) (ring : Nat) (f : FillReq) (fs : List FillReq),
    let x := s.fig (figOf f.rg)
    let k := x.imgKey f.img
    let others (t : State) : Prop := (∀ p, p ≠ f.p.toNat → (t.stripe f.st).planes.get {} p = (s.stripe f.st).planes.get {} p)
      ∧ (∀ st, st ≠ f.st → t.stripe st = s.stripe st)
    (s.ring ring).fills = f :: fs →
    (f.begun = false → (∀ h ∈ fs, h.begun = false) → (∀ h ∈ s.fillsOf f.rg, f.ord ≤ h.ord) → (s.stripe f.st).rg = some f.rg →
      (s.region f.rg).live = true → s.activePlane f.st f.p = false →
      ∃ t, exec (.planeFill ring) s = .next t ∧ others t
        ∧ (t.stripe f.st).planes.get {} f.p.toNat = {}
        ∧ (∃ h ∈ (t.ring ring).fills, h = { f with begun := true }) ∧ ((t.ring ring).cached k).isSome = true)
    ∧ (∀ pl, f.begun = true → f.place = false → (s.ring ring).cached k = some pl →
      ∃ t, exec (.planeFill ring) s = .next t ∧ others t
        ∧ (t.stripe f.st).planes.get {} f.p.toNat = { pl with valid := true, img := f.img }
        ∧ (t.ring ring).fills = (f :: fs).filter (fun h => decide (h ≠ f)))

/-! ### Accesses (chapter 6) -/

/-- The head of a stream's order issues once the cycle of its firing is over (R129, R271, R272): a configuration write takes effect; an access
whose address passes its checks and translates leaves for its home with the pattern advanced, one in a cycle (R274); a translation miss
parks the stream (R109), and a fault stops it. The address is BASE plus the pattern's offset or the scaled index, and the pattern advances
dimension 0 first. -/
def Obligations.StreamsIssueInOrder : Prop :=
  (∀ (s : State) (rs : Nat),
    let t := s.strm rs
    t.fault = false → t.parked = none → s.ringUp (rs / 32) = true →
    (∀ m v f el q, t.q = .cfg m v f el :: q → t.port = none → f < s.cyc →
      let t1 := { t.write m v with q := q }
      ((m = 8 → s.namedBase rs t1 = none) → exec (.streamAccessIssue rs) s = .next (s.setStrm rs t1))
      ∧ (∀ u ok, m = 8 → s.namedBase rs t1 = some (u, ok) →
        exec (.streamAccessIssue rs) s = .next (if ok then u.setStrm rs t1 else u.streamFault rs { el := el } (t.rg.getD 0) t1.base 0x100A false)))
    ∧ (∀ id kind scope word idx data cmp ret f rg q, t.q = .acc id kind scope word idx data cmp ret f rg :: q →
      s.mayPerform rg id = true → f < s.cyc → t.issued ≤ s.cyc →
      let i : Issue := { id := id, kind := kind, scope := scope, word := word, data := data, cmp := cmp, ret := ret, f := f, rg := rg }
      let noted (u : State) : State := u.setStrm rs { u.strm rs with issued := s.cyc + 1 }
      (∀ va u, kind ≠ .pfg → s.issueHead rs i idx = (va, .gone u) →
        exec (.streamAccessIssue rs) s = .next ((noted u).setStrm rs { (noted u).strm rs with q := q }))
      ∧ (∀ va, s.issueHead rs i idx = (va, .miss) →
        exec (.streamAccessIssue rs) s = .next (s.setStrm rs { t with parked := some (va.toNat % 2 ^ 57 / 4096) }))
      ∧ (∀ va c keep, kind ≠ .pfg → s.issueHead rs i idx = (va, .fault c keep) →
        exec (.streamAccessIssue rs) s = .next (s.streamFault rs ret rg va c keep))
      ∧ (∀ va u, kind = .pfg → s.issueHead rs i idx = (va, .gone u) → (u.acc id).bind (·.scr) = none →
        exec (.streamAccessIssue rs) s = .next ((noted u).pfgDone rs i false))))
  ∧ (∀ (t : Strm) (x : W32),
    (t.offset (some x)).1 = x.toInt * t.esz ∧ (t.offset (some x)).2 = t
    ∧ (t.offset none).1 = (t.i0 : Int) * (t.str.get 0 0).toInt + t.i1 * (t.str.get 0 1).toInt + t.i2 * (t.str.get 0 2).toInt
    ∧ (t.i0 + 1 ≠ t.extent 0 → (t.offset none).2.i0 = t.i0 + 1 ∧ (t.i1 ≠ t.extent 1 → (t.offset none).2.i1 = t.i1))
    ∧ (t.i0 + 1 = t.extent 0 → t.i1 + 1 ≠ t.extent 1 → (t.offset none).2.i0 = 0 ∧ (t.offset none).2.i1 = t.i1 + 1)
    ∧ (t.i0 + 1 = t.extent 0 → t.i1 + 1 = t.extent 1 → (t.offset none).2.i0 = 0 ∧ (t.offset none).2.i1 = 0))

/-- A walk that finds its page resumes every stream of the memory-port die that waits for it (R109); an access that met a moved
frame translates again and is sent to the new one (R146), also one of a base node, which has no translation of its own. -/
def Obligations.WalksResumeTheirStreams : Prop :=
  ∀ (s : State),
    (∀ rs page x, let mp := (unitOf rs).1
      let asidOf (r : Nat) : BitVec 12 := match (s.strm r).headAcc with | some (_, _, rg, _) => (s.fig (figOf rg)).asid | none => 0
      let read := (s.walkReads (mp / 16) (asidOf rs) (page * 4096)).foldl (fun u a => u.correct a 8) s
      (s.strm rs).parked = some page → read.walkBad (mp / 16) (asidOf rs) (page * 4096) = none →
      read.walkPage (mp / 16) (asidOf rs) (page * 4096) = .ok x →
      ∃ t, exec (.pageWalkComplete rs) s = .next t
        ∧ ∀ r ∈ s.fab.strms.map Prod.fst, (unitOf r).1 = mp → (s.strm r).parked = some page → asidOf r = asidOf rs → (t.strm r).parked = none)
    ∧ (∀ ac a rs x, let pk := (unitOf rs).1 / 16
      let pa := x.phys a.va.toNat
      let tag := s.tagFor pk pa a.kind x.irv
      s.acc ac = some a → a.phase = .moved → a.rs = some rs → s.walkPage pk a.asid a.va.toNat = .ok x →
      x.permits a.kind = true → (s.members.get {} (paPkg pa)).noSpare = false → s.badPA pk pa = false → (paPkg pa = pk → s.poisoned pa = false) →
      ∃ t, exec (.movedReplyReissue ac) s = .next t
        ∧ t.acc ac = some { a with
            pa := pa, prot := x.prot, irv := x.irv, pgrp := x.pgrp, log2 := x.log2,
            via := viaDie (unitOf rs).1 pa, home := homeDie pa, tag := tag, phase := .sent, link := none })
    ∧ (∀ ac a, s.acc ac = some a → a.phase = .moved → a.rs = none →
      exec (.movedReplyReissue ac) s = .next (s.setAcc ac { a with pa := s.movedTo (s.backing a.pa false), phase := .sent, link := none }))

/-- An access to another package first leaves through a port of its route (R371). At its home (R126) a load waits to be bound, numbered by
its arrival, a store to unprotected memory is performed on all its bytes at once, and a scratchpad access in place goes to the bank and
offset that its partition maps it to (R116).
One copy of memory serves every observer (log 20), and a byte that nothing has written reads as 0 (log 10): the model's choices. -/
def Obligations.AccessesReachTheirHome : Prop :=
  ∀ (s : State) (ac : Nat) (a : Access),
    s.acc ac = some a → a.phase = .sent → s.heldBack a = false →
    (a.scr = none → paPkg a.pa ≠ (s.region a.rg).pk → a.link = none → exec (.accessAtHome ac) s = .next (s.leave ac a))
    ∧ (a.scr = none → a.base = none → (paPkg a.pa = (s.region a.rg).pk ∨ a.link.isSome = true) →
      let pa := s.backing a.pa false
      (∀ sx, a.kind = .load sx → 2 ≤ paSpace a.pa → a.prot = false → exec (.accessAtHome ac) s = .next (s.reach ac a))
      ∧ (∀ dl, a.kind = .store dl → 2 ≤ paSpace a.pa → a.irv = false → a.prot = false →
        exec (.accessAtHome ac) s = .next ((s.writeBytes a.pa a.data).setAcc ac { a with phase := .performed }))
      ∧ (paSpace a.pa = 0 → s.migState pa = 0 → s.inArea pa a.size = false → s.poisoned pa = false → a.prot = false →
        (∀ sx, a.kind = .load sx → exec (.accessAtHome ac) s = .next (s.reach ac a))
        ∧ (∀ dl, a.kind = .store dl → a.irv = false → a.tag = none → (∀ l ∈ linesOf pa a.data.length, s.damagedIn l 64 = false) →
          exec (.accessAtHome ac) s = .next ((s.writeBytes pa a.data).setAcc ac { a with phase := .performed }))
        ∧ (∀ dl t, a.kind = .store dl → a.irv = false → s.homeWrite pa (.set a.data) a.tag false none ac (figOf a.rg) = .ok t →
          exec (.accessAtHome ac) s = .next ((t.setAcc ac { a with phase := .performed }).blame s.det.length a.rg))))
    ∧ (∀ mp n addr ip, a.scr = some (mp, n, addr, ip) → s.ms.parts.get none (mp * 8 + n) = none → s.sppCause mp n addr = none →
      let m := sppMap (s.spp mp n) addr
      exec (.accessAtHome ac) s = .next (s.reach ac { a with pa := scrPA (mp / 16) (mp % 16 * 2 ^ 26 + m.1 * 2 ^ 20 + m.2) }))

/-- A load that may be bound takes its value and emits its first token; one of at most four bytes is over with it (R133, R273);
the intervals of the lines that it reads count for its Figure's fences (R136). A
load of host memory is bound when its completion returns (R369). -/
def Obligations.LoadsBindAndEmit : Prop :=
  ∀ (s : State) (ac : Nat) (a : Access) (sx : Bool),
    s.acc ac = some a → a.kind = .load sx → a.phase = .home → a.minAt ≤ s.cyc → a.base = none →
    s.tokensBefore a = false → s.heldBack a = false →
    (paSpace a.pa ≠ 1 → s.atFrame ac a = none → exec (.loadBound ac) s = .next (s.bind ac a))
    ∧ (paSpace a.pa = 1 → s.out.hostDown.get false (paPkg a.pa) = false → exec (.hostReadCompletion ac) s = .next (s.bind ac a))
    ∧ (∀ t v bad, s.readBytes (s.backing a.pa false) a.size = (t, v, bad) → a.pa ≠ 0 → paSpace a.pa ≠ 1 → a.size < 8 → a.toPort = none → a.emitted = 0 →
      a.ret.squash = false →
      let out : Out := { tok := dataTok (loadWord v a.size 0 sx) a.ret.seq }
      let pa := s.backing a.pa false
      let met := t.blame s.det.length a.rg
      let u := if paSpace pa = 0 then (linesOf pa a.size).foldl (fun u l => u.noteTag a.rg (u.lineTag l)) met else met
      s.bind ac a = (((((u.unreserve ac).emitRet { a.ret with taint := a.ret.taint || bad, squash := false } (u.opqCycle a.ret) out).tellTwins ac
        (a.ret.taint || bad) [out]).delAcc ac).unreserve ac).forget ac)

/-- A performed store, or a staged irrevocable one, emits its completion once its scope is met, and is over (R133, R134, R138).
One copy of memory serves every observer, so a scope is met by the store's place in order: the model's choice (log 20). -/
def Obligations.StoresCompleteAtTheirScope : Prop :=
  ∀ (s : State) (ac : Nat) (a : Access),
    s.acc ac = some a → (∀ sx, a.kind ≠ .load sx) → s.scopeMet ac a = true →
    ((a.phase = .performed ∧ a.minAtStore ≤ s.cyc) ∨ a.phase = .staged) →
    exec (.storePerformed ac) s = .next (s.completeStore ac a)
    ∧ (s.completeStore ac a).acc ac = none

/-- An atomic is one step at its home (R137, R276): the four bytes take the new value that Table 11.4 gives from the old one, the access counts
as performed, and one that returns the old value sends it.
One copy of memory serves every observer: the model's choice (log 20). -/
def Obligations.AtomicsAreOneStep : Prop :=
  (∀ (s : State) (ac : Nat) (a : Access) (t : State) (v : List Byte),
    let pa := s.backing a.pa false
    s.acc ac = some a → a.kind.isAtomic = true → a.phase = .home → s.heldBack a = false → a.tag = none → a.value = [] → a.prot = false →
    s.atFrame ac a = none → s.atomBefore a = false → s.damagedIn pa 4 = false → (paSpace pa = 0 → a.pa ≠ 0 ∧ ∀ l ∈ linesOf pa 4, s.damagedIn l 64 = false) →
    s.readBytes pa 4 = (t, v, false) →
    let old : W32 := BitVec.ofNat 32 (leNat v)
    let new := atomNew a.kind old (BitVec.ofNat 32 (leNat a.data)) a.cmp
    let w := t.writeBytes pa (wordBytes new)
    let out : Out := { which := 1, tok := dataTok old a.ret.seq }
    let u := if a.kind = .cas ∨ ∃ op, a.kind = .atom op true then
      ((w.unreserveAt ac (s.retDests a.ret true false)).emitRet a.ret (w.opqCycle a.ret) out).tellTwins ac a.ret.taint [out] else w
    exec (.atomicAtHome ac) s = .next (u.setAcc ac { a with phase := .performed })
    ∧ w.read32 pa = new ∧ SameMemExcept t w pa 4)
  ∧ (∀ old v cmp : W32, ∀ r : Bool,
    atomNew .cas old v cmp = (if old = cmp then v else old) ∧ atomNew (.atom 0 r) old v cmp = old + v
    ∧ atomNew (.atom 1 r) old v cmp = old &&& v ∧ atomNew (.atom 2 r) old v cmp = old ||| v ∧ atomNew (.atom 3 r) old v cmp = old ^^^ v
    ∧ (atomNew (.atom 4 r) old v cmp).toInt = min old.toInt v.toInt ∧ (atomNew (.atom 5 r) old v cmp).toInt = max old.toInt v.toInt
    ∧ (atomNew (.atom 6 r) old v cmp).toNat = min old.toNat v.toNat ∧ (atomNew (.atom 7 r) old v cmp).toNat = max old.toNat v.toNat
    ∧ atomNew (.atom 8 r) old v cmp = v)

/-! ### What waits (chapters 6, 7 and 11) -/

/-- The completions of the waiting instructions: a fence once the element's earlier accesses are past, a barrier once those of its
streams are, a counter wait once the count is reached, a seal request once it is recorded, a packet once its port takes it, and
`publish` with the exchange of CUR (R131, R136, R143, R279, R283, R284, R287). A fence whose accesses are past, but which still waits for their
durability or for the end of a close window (R138, R153), goes on waiting with what it covers fixed. -/
def Obligations.WaitsComplete : Prop :=
  ∀ (s : State) (w : Nat) (x : Wait),
    let done (t : State) (r : Ret) : State := t.finishWait w r [{ tok := doneTok x.ret.seq }]
    s.wait w = some x → x.ret.squash = false →
    let pk := (s.region x.rg).pk
    let newest (last : Option W32) : Option W32 := if x.held then last else (s.fig (figOf x.rg)).lastTag
    let mark := if x.held then x.ord else s.fl.next
    let met (scope : BitVec 3) (last : Option W32) : Bool := s.durable pk scope mark (newest last) && !(s.windowHolds pk (newest last))
    (∀ scope el last, x.kind = .fence scope el last → s.elPast el w = true →
      exec (.fenceConditionMet w) s = .next (if met scope last then done s { x.ret with squash := false }
        else s.setWait w { x with kind := .fence scope el (newest last), held := true, ord := mark }))
    ∧ (∀ scope ring mask last, x.kind = .sbar scope ring mask last → s.barMet ring w mask = true → x.f < s.cyc → met scope last = true →
      let t := State.dropBars ring w mask s
      exec (.sbarRelease w) s = .next (done t { x.ret with squash := false })
        ∧ ∀ k f, k < 32 → mask.getLsbD k = true → .bar w f ∉ (t.strm (ring * 32 + k)).q)
    ∧ (∀ pk n, x.kind = .publish pk n → (s.spt pk n.toNat).getLsbD 0 = true → s.mayPerform x.rg w = true →
      exec (.publishPerformed w) s = .next (done (s.setReg pk (0x20000 + 16 * n.toNat) (s.spt pk n.toNat ^^^ 0x40)) { x.ret with squash := false }))
    ∧ (∀ c v, x.kind = .secw c v → s.mayPerform x.rg w = true → (s.secs.get 0 c - v).toNat < 2 ^ 31 →
      exec (.secwCountReached w) s = .next (done s x.ret))
    ∧ (∀ c v, x.kind = .crd c v → s.mayPerform x.rg w = true → (s.reg (c / 4096) 0x15010).getLsbD 0 = true →
      (s.read32 (s.backing (s.ringEntry (c / 4096) (c % 4096) + 8) false) - v - 1).toNat < 2 ^ 31 →
      exec (.crdRecordArrival w) s = .next (s.finishWait w x.ret [{ tok := dataTok v x.ret.seq }]))
    ∧ (∀ pk, x.kind = .sealreq pk → s.mayPerform x.rg w = true → s.pvEn pk = true → (s.pav pk).begun ≤ x.f →
      exec (.sealreqRecorded w) s = .next (done (s.noteReq pk) x.ret))
    ∧ (∀ tp el ws, x.kind = .packet tp el ws → (s.eng.queues.get [] tp).length < 16 → s.mayPerform x.rg w = true → x.f < s.cyc →
      (∀ p ∈ s.fl.waits, (p.2.f < x.f ∨ (p.2.f = x.f ∧ ordBefore (s.elOrd p.2.ret.el) (s.elOrd el) = true)) → ∀ el' ws', p.2.kind ≠ .packet tp el' ws') →
      let p : Packet := { bits := BitVec.ofNat 256 (leNat ((ws.map wordBytes).flatten)), asid := (s.fig (figOf x.rg)).asid, fg := some (figOf x.rg), el := el, rg := x.rg }
      exec (.xreqPacketAccepted w) s = .next (done { s with eng := { s.eng with queues := s.eng.queues.put [] tp (s.eng.queues.get [] tp ++ [p]) } } { x.ret with squash := false }))

/-- Circular buffers (R122, R123): a put whose space holds its message writes the header and takes its place behind the tail; a put
that did not fit tries again after a change of HEAD; a get takes the message at the head and its length and tag. -/
def Obligations.BuffersPlaceAndDeliver : Prop :=
  ∀ (s : State) (w : Nat) (x : Wait),
    s.wait w = some x →
    (∀ desc scr len tag el, x.kind = .cbput desc scr len tag el → s.cbBefore w x desc true = false → s.cbOk desc el x.rg = true →
      0 < len → len < 65536 → len ≤ s.cbSize desc / 2 - 16 →
      let b := s.bufs.get {} desc
      let need := 16 + 16 * ((len + 15) / 16)
      let tail := ((s.read32 (desc + 12)).toNat + amounts b.puts) % 2 ^ 32
      let used := (tail + 2 ^ 32 - (s.read32 (desc + 8)).toNat) % 2 ^ 32
      let pos := tail % s.cbSize desc
      let at_ := cbSpace desc + (s.read32 desc).toNat + pos
      need ≤ s.cbSize desc - pos → need ≤ s.cbSize desc - used →
      ∃ t, exec (if x.held then .cbputRetry w else .cbputPlacement w) s = .next t
        ∧ t.peeks at_ 16 = leBytes 4 len ++ wordBytes tag ++ zeros 8
        ∧ (∀ a, a < at_ ∨ at_ + 16 ≤ a → t.peek a = s.peek a)
        ∧ t.bufs.get {} desc = { b with puts := b.puts ++ [(w, need, false)] } ∧ t.wait w = none)
    ∧ (∀ desc scr el, x.kind = .cbget desc scr el → s.cbBefore w x desc false = false → s.cbOk desc el x.rg = true → x.ret.squash = false →
      let b := s.bufs.get {} desc
      let head := ((s.read32 (desc + 8)).toNat + amounts b.gets) % 2 ^ 32
      let at_ := cbSpace desc + (s.read32 desc).toNat + head % s.cbSize desc
      let len := (s.read32 at_).toNat % 65536
      head ≠ (s.read32 (desc + 12)).toNat → (s.read32 at_).getLsbD 16 = false →
      ∃ t : State, exec (.cbgetDelivery w) s = .next (t.finishWait w { x.ret with squash := false }
        [{ which := 1, tok := dataTok (BitVec.ofNat 32 len) x.ret.seq }, { which := 2, tok := dataTok (s.read32 (at_ + 4)) x.ret.seq }])
        ∧ (t.bufs.get {} desc).gets = (drainDone (b.gets ++ [(w, 16 + 16 * ((len + 15) / 16), false)])).2)

/-- Messages and irrevocable writes (R164, R165, R286, R370): accepted into the staging buffer with the tag of OPEN while intervals
run; the oldest entry whose interval is sealed leaves for its destination or for the host ring. A parity delta is XORed into its parity line
and acknowledged, so that its operation no longer waits for it (R169); one that is not acknowledged within 2^20 cycles is reported once
(R445). -/
def Obligations.StagedWritesAndParityFollow : Prop :=
  (∀ (s : State),
    (∀ w x pk m, s.wait w = some x → x.kind = .msend pk m false none → x.ret.squash = false → s.mayPerform x.rg w = true → s.pvEn pk = true →
      (s.staged pk).length < 131072 → (s.pav pk).window = false →
      exec (.msendAccepted w) s = .next ((s.stage pk { tag := some (s.open_ pk), msg := m }).finishWait w { x.ret with squash := false } [{ tok := doneTok x.ret.seq }]))
    ∧ (∀ w x pk m sl t, s.wait w = some x → x.kind = .msend pk m sl (some t) → x.ret.squash = false → ivLe t (s.sealed pk) = true →
      exec (.msendAccepted w) s = .next (s.finishWait w { x.ret with squash := false } [{ tok := doneTok x.ret.seq }]))
    ∧ (∀ ac a, let pk := (s.region a.rg).pk
      s.acc ac = some a → a.irrevocable = true → a.phase = .home → s.pvEn pk = true → (s.staged pk).length < 131072 →
      (s.pav pk).window = false → s.heldBack a = false →
      let t := (s.stage pk { tag := some (s.open_ pk), pa := a.pa, bytes := a.data, src := a.rs.map fun r => (r, figOf a.rg) }).noteTag a.rg (some (s.open_ pk))
      let b := { a with phase := .staged, tag := some (s.open_ pk) }
      exec (.irrevocableWriteAccept ac) s = .next (if a.scope = 7 then t.setAcc ac b else t.completeStore ac b))
    ∧ (∀ pk e es, s.staged pk = e :: es → s.releasable pk e = true →
      (e.msg = [] → s.stagedBad pk = false → paSpace e.pa ≠ 1 → let pa := s.backing e.pa e.shadow
        s.migState pa ≠ 1 → exec (.stagingRelease pk) s = .next ((s.writeBytes (s.movedTo pa) e.bytes).setStaged pk es))
      ∧ (e.msg = [] → s.stagedBad pk = false → paSpace e.pa = 1 → s.out.hostDown.get false (paPkg e.pa) = false →
        exec (.stagingRelease pk) s = .next ((s.poke e.pa e.bytes).setStaged pk es))
      ∧ (∀ t, e.msg ≠ [] → s.stagedBad pk = false → s.deliverMsg pk e.msg = some t → exec (.hostMessageDelivery pk) s = .next (t.setStaged pk es)))
    ∧ (∀ pk e, s.releasable pk e = true ↔ (e.tag = none ∨ s.pvEn pk = false ∨ ∃ t, e.tag = some t ∧ ivLe t (s.sealed pk) = true)))
  ∧ (∀ (s : State) (d : Nat) (x : Delta),
    s.ms.deltas.find? (fun p => decide (p.1 = d)) = some (d, x) →
    (let pa := x.dst * 2 ^ 40 + pgOff (s.pgtb x.dst x.grp) + x.off;
      x.tag = none → x.barred = false → s.damagedIn (lineOf pa) 64 = false → x.data.length = 32 →
      ∃ t, exec (.parityDeltaArrival d) s = .next t
        ∧ t.peeks pa 32 = List.zipWith (· ^^^ ·) (s.peeks pa 32) x.data ∧ SameMemExcept s t pa 32
        ∧ (∀ e ∈ t.ms.deltas, e.1 ≠ d))
    ∧ (x.late = false → x.sent + 2 ^ 20 ≤ s.cyc →
      ∃ t, exec (.parityDeltaTimeout d) s = .next t ∧ t.det.length = s.det.length + 1
        ∧ (d, { x with late := true }) ∈ t.ms.deltas ∧ SameMem s t))

/-! ### Memory management (chapters 5 and 18) -/

/-- Translations, partitions, migrated frames and the stacks change in the steps that the spec gives them: a partition entry that is reassigned
and released, an invalidation from GO to BUSY reading 0, a migration from GO to the frame's bytes standing at NEW; a write that comes before
an earlier one of a partition entry, or of the invalidation register, is through, waits (R110, R117, R145). Refreshes are pulled forward within
the allowance and, once it is taken, repaid in rotation; a row's activations count to its threshold, a scrub corrects a line, and the sweep
forgets the tags of long-closed intervals (R115, R154, R436, R441).
The replacement in the translation caches is the model's choice (log 21). -/
def Obligations.MappingsAndStacksAreMaintained : Prop :=
  (∀ (s : State),
    (∀ mp n v k, let off := 0x41000 + 64 * (mp % 16) + 8 * n
      s.ms.parts.get none (mp * 8 + n) = none → n < 8 → s.Accepts (mp / 16) off v .spp k → s.reg (mp / 16) off ≠ v →
      ∃ t, exec (.sppWrite mp n v) s = .next t ∧ t.reg (mp / 16) off = v ∧ (t.ms.parts.get none (mp * 8 + n)).isSome = true ∧ SameMem s t)
    ∧ (∀ mp n v, (s.ms.parts.get none (mp * 8 + n)).isSome = true → exec (.sppWrite mp n v) s = .next s)
    ∧ (∀ mp n banks op, s.ms.parts.get none (mp * 8 + n) = some (banks, op) →
      (∀ a ∈ s.fl.accs, a.1 < op → a.2.phase = .home → a.2.scr = none) →
      exec (.partitionEntryRelease mp n) s = .next { s with ms := { s.ms with parts := s.ms.parts.put none (mp * 8 + n) none } })
    ∧ (∀ pk (v : W64), (s.reg pk 0x10000).getLsbD 15 = false → v.getLsbD 14 = true → s.windowOn pk = true →
      v &&& RKind.tlbiv.rsv = 0 → RKind.tlbiv.bad (s.reg pk 0x10000) v = false → s.writeAllowed pk .tlbiv 0 0x10000 v = true →
      ∃ t, exec (.tlbivGo pk v) s = .next t ∧ (t.reg pk 0x10000).getLsbD 15 = true ∧ (t.ms.inval.get none pk).isSome = true)
    ∧ (∀ pk (v : W64), (s.reg pk 0x10000).getLsbD 15 = true → exec (.tlbivGo pk v) s = .next s)
    ∧ (∀ pk va, s.ms.inval.get none pk = some va →
      let r := s.reg pk 0x10000
      ∃ t, exec (.invalidationComplete pk) s = .next t ∧ t.reg pk 0x10000 = r &&& ~~~(0x8000 : W64) ∧ t.ms.inval.get none pk = none
        ∧ ∀ l ∈ t.ms.tlb2, l.1 / 16 = pk → ∀ x ∈ l.2, x.hit (r.toNat % 4) (field r 2 12) va = false)
    ∧ (∀ pk n (v : W64), let off := 0x21000 + 16 * n
      s.Accepts pk off v .mvf n → v.getLsbD 0 = true → v.getLsbD 5 = true → (s.reg pk off).toNat / 2 % 4 = 0 →
      exec (.mvfGo pk n v) s = .next (s.setReg pk off (((s.reg pk off &&& RKind.mvf.ro) ||| (v &&& ~~~RKind.mvf.ro)) ||| 2)))
    ∧ (∀ pk n t bs u, let v := s.reg pk (0x21000 + 16 * n)
      let sz := 2 ^ ([12, 16, 21, 12].getD (v.toNat / 8 % 4) 12)
      let dst := pageOf (s.reg pk (0x21000 + 16 * n + 8))
      let key := 2 * (16 * pk + n)
      v.getLsbD 0 = true → v.toNat / 2 % 4 = 1 → (s.pav pk).window = false → s.ms.kept.get none key ≠ some .barred → s.readBytes (pageOf v / sz * sz) sz = (t, bs, false) →
      t.homeWrite dst (.set bs) (s.tagOr pk dst (keptTag (s.ms.kept.get none key))) false (t.groupAt dst) t.fl.next 0 = .ok u →
      exec (.migrationCopyDone pk n) s = .next ((u.setReg pk (0x21000 + 16 * n) ((v &&& ~~~(6 : W64)) ||| 4)).setKept key none))
    ∧ (∀ dst bs op, (∀ l ∈ linesOf dst bs.length, s.damagedIn l 64 = false) → s.homeWrite dst (.set bs) none false none op 0 = .ok (s.writeBytes dst bs)))
  ∧ (∀ (s : State) (sk : Nat),
    (∀ bank, let v := s.reg (sk / 16) (0x40000 + 8 * (sk % 16))
      let n := (s.stack sk).pulled.get 0 bank
      let most := v.toNat / 2 % 16
      let owes := (s.stack sk).repay.get false bank
      ∃ t, exec (.hbmRefresh sk bank) s = .next t
        ∧ (t.stack sk).pulled.get 0 bank = (if v.getLsbD 0 = true ∧ v.getLsbD 5 = true ∧ n < most ∧ owes = false then n + 1 else n - 1)
        ∧ (0 < n - 1 → owes = true → (t.stack sk).repay.get false bank = true) ∧ SameMem s t)
    ∧ (∀ bank row, let k := bank % 1024 * 65536 + row % 65536
      let n := ((s.stack sk).rows.get 0 k).toNat
      let thr := (s.reg (sk / 16) (0x40080 + 8 * (sk % 16))).toNat % 4096
      n + 1 < 4095 ∨ thr = 4095 → s.ms.errs.get none (2 ^ 62 + sk * 2 ^ 26 + k) = none →
      ∃ t, exec (.rowActivationRefresh sk bank row) s = .next t
        ∧ ((t.stack sk).rows.get 0 k).toNat = (if thr ≤ n + 1 then 0 else n + 1))
    ∧ (∀ line, exec (.patrolScrub sk line) s = .next (s.scrubLine (stackPA sk (64 * (line % 2 ^ 30)))))
    ∧ (∀ line, (∀ u ∈ unitsOf line 64, s.ms.errs.get none u = none) → s.scrubLine line = s)
    ∧ (∃ t, exec (.ltagSweep sk) s = .next t ∧ (t.stack sk).sweep = false
        ∧ ((s.stack sk).sweep = true → (t.stack sk).ltag = []) ∧ SameMem s t))

/-! ### Matrix elements (chapter 12) -/

/-- The matrix words of an element that runs its word (R299, R302 to R306): a load takes one token of the block and ends with the
64th, `mzero` clears P and A, `mma` and `mmasc` step the accumulators by one vector of four tokens, `mpromo` promotes, `mdrain`
promotes and then emits one accumulator in each step, `mpass` hands one token on; a scale header at the head of the operand input is latched
and consumed first. Their sequences advance from word to word and, behind the last one, to word 0 of the next tile.
SEQ of a drained token is a free value: the model's choice (log 12). -/
def Obligations.MatrixWordsRun : Prop :=
  (∀ (s : State) (w : MWord),
    let el := s.act.el
    let x := s.mx el
    let r := s.mxRec el
    let clear : Prop := ∀ t ts, x.opq = t :: ts → t.k = false ∨ (t.wave = true ∧ t.et = false)
    s.mxRuns el = true →
    (∀ t ts, x.opq = t :: ts → t.k = false → x.vec < 63 →
      let y (tr : Bool) : MxElem := { x with opq := ts, wb := wbPut w.fmt.toNat x.vec tr t.payload x.wb, vec := x.vec + 1, wTaint := if x.vec = 0 then t.et else x.wTaint || t.et }
      exec (.mwld w) s = .next (s.setMx el (y false)) ∧ exec (.mwldt w) s = .next (s.setMx el (y true)))
    ∧ (∀ t ts, x.opq = t :: ts → t.k = false → x.vec = 63 → w.scsw ≠ 1 →
      let y (tr : Bool) : MxElem := { x with opq := ts, wb := wbPut w.fmt.toNat 63 tr t.payload x.wb, vec := 64, wTaint := x.wTaint || t.et }
      exec (.mwld w) s = .next (s.setMx el (mxNext r (y false))) ∧ exec (.mwldt w) s = .next (s.setMx el (mxNext r (y true))))
    ∧ (clear → exec (.mzero w) s = .next (s.setMx el (mxNext r { x with acc := [], p := [], step := 0, aTaint := false })))
    ∧ (clear → x.ready ≤ s.cyc → exec (.mpromo w) s = .next (s.setMx el (mxNext r (mxPromote x))))
    ∧ (∀ t ts, x.opq = t :: ts → t.k = true → t.et = false → t.sub = 3 → x.ready ≤ s.cyc →
      let u := s.setMx el { x with opq := ts, lsa := t.payload }
      exec (.mzero w) s = .next u ∧ exec (.mpromo w) s = .next u ∧ (x.vec = 0 → exec (.mdrain w) s = .next u)
      ∧ ((s.mxPlane el).sys = true → exec (.mma w) s = .next u ∧ exec (.mmasc w) s = .next u ∧ exec (.mpass w) s = .next u)
      ∧ ((s.mxPlane el).sys = false → exec (.mma w) s = .next u ∧ exec (.mmasc w) s = .next u))
    ∧ ((s.mxPlane el).sys = false → x.ready ≤ s.cyc → ∀ a b c d rest, x.opq = a :: b :: c :: d :: rest → (∀ t ∈ [a, b, c, d], t.k = false) →
      let pair (w : MWord) := x.pair.vector w [a.payload, b.payload, c.payload, d.payload] x.wb x.lsa x.lsw
      let step (w : MWord) : MxElem := { x.setPair (pair w) with
        opq := rest, afmt := field w.fmt 0 3, vec := x.vec + 1, ready := s.cyc + 1 + promos w.pi.toNat (if w.fmt = 5 then 2 else 1) x.step.toNat,
        aTaint := x.aTaint || x.wTaint || (a.et || (b.et || (c.et || (d.et || false)))) }
      let fin (y : MxElem) : MxElem := if w.cnt ≠ 0 ∧ y.vec = w.cnt.toNat then mxNext r y else y
      exec (.mma w) s = .next (s.setMx el (fin (step { w with scsa := 0, scsw := 0 })))
      ∧ (w.scsa ≠ 1 ∨ x.step ≠ 0 ∨ x.saV = true → exec (.mmasc w) s = .next (s.setMx el (fin (step w))))
      ∧ (w.scsa = 1 → x.step = 0 → x.saV = false → exec (.mmasc w) s = .next (s.setMx el
          { x with opq := b :: c :: d :: rest, lsa := a.payload, saV := true, aTaint := x.aTaint || a.et })))
    ∧ (clear → x.vec = 0 → x.ready ≤ s.cyc → exec (.mdrain w) s = .next (s.setMx el { mxPromote x with vec := 1, ready := s.cyc + 2 }))
    ∧ (clear → x.vec ≠ 0 → x.ready ≤ s.cyc → mxRoom s el (s.mxDest el w) = true →
      let t : Token := { dataTok (x.acc.get 0 x.drained) (Config.freeSeq s.free) with rid := mxRid r x.wpos.toNat, et := x.aTaint }
      let u := { mxEmit s el (s.mxDest el w) t with free := s.free + 1 }
      (x.drained ≠ 15 → exec (.mdrain w) s = .next (u.setMx el { x with drained := x.drained + 1 }))
      ∧ (x.drained = 15 → ∃ v, exec (.mdrain w) s = .next v ∧ (v.mx el).acc = [] ∧ v.fl = u.fl))
    ∧ ((s.mxPlane el).sys = false → ∀ t ts, x.opq = t :: ts → t.k = false → mxRoom s el (s.mxDest el w) = true →
      let y : MxElem := { x with opq := ts, vec := x.vec + 1 }
      exec (.mpass w) s = .next (mxEmit (s.setMx el (if w.cnt ≠ 0 ∧ y.vec = 4 * w.cnt.toNat then mxNext r y else y)) el (s.mxDest el w)
        { t with rid := mxRid r x.wpos.toNat })))
  ∧ (∀ (r : MxPlane) (x : MxElem),
    (x.wpos ≠ 7 → r.words.get 0 (x.wpos.toNat + 1) ≠ 0 → (mxNext r x).wpos = x.wpos + 1 ∧ (mxNext r x).tcnt = x.tcnt)
    ∧ (x.wpos = 7 ∨ r.words.get 0 (x.wpos.toNat + 1) = 0 → (mxNext r x).wpos = 0 ∧ (mxNext r x).tcnt = x.tcnt - 1)
    ∧ (mxNext r x).vec = 0 ∧ (mxNext r x).acc = x.acc ∧ (mxNext r x).wb = x.wb ∧ (mxNext r x).opq = x.opq)

namespace Sys2Proof.Machine

/-- The rows of a run before beat `b`: what each stripe's `mx0` offers, and the pairs that its last stripe drains (R307, R308). -/
def runOffers (s : State) (r : Region) (first rows b n : Nat) : List (Nat × VecRes) :=
  (List.range rows).filterMap fun i =>
    let el := runEl r first i 0
    let need : Bool := match s.runWord el with
      | some (.mmasc, m) => decide (m.scsa = 1) && decide ((runPairIn s r first i 0).step = 0)
      | _ => false
    if b < i then none else if b - i < n then some (i, nextVec need (s.mx el).lsa false false (s.mx el).opq) else none

end Sys2Proof.Machine

/-- One beat of a systolic run whose words count their vectors (R308): while no offered vector is missing, no pair waits to be drained
and the run's last beat is not reached, every element that has the run's word stands at it,
every element steps its vector and the beat counter advances, once in a cycle. -/
def Obligations.SystolicRunsBeat : Prop :=
  ∀ (s : State) (rg ws : Nat) (op : MOp) (w : MWord),
    let r := s.region rg
    let first := runFirst s r 128 ws
    let rows := runLen s r 128 first
    let e00 := runEl r first 0 0
    let b := (s.mx e00).beat
    let n := w.cnt.toNat
    let all := ((List.range rows).map fun i => (List.range 16).map fun j => (i, j)).flatten
    s.runWord e00 = some (op, w) → w.cnt ≠ 0 → rows ≠ 0 → r.fires s.cyc = true →
    (s.mx e00).ready ≤ s.cyc → (∀ i < rows, s.inRun (runEl r first i 0) (s.mx e00).wpos.toNat = true) →
    (∀ x ∈ all, s.inRun (runEl r first x.1 x.2) (s.mx e00).wpos.toNat = true →
      (s.runWord (runEl r first x.1 x.2)).isSome = true ∧ (s.mx (runEl r first x.1 x.2)).wpos = (s.mx e00).wpos) →
    (∀ o ∈ runOffers s r first rows b n, ∃ lsa sa tn vec rest, o.2 = .ok lsa sa tn vec rest) →
    (∀ j < 16, (s.mx (runEl r first (rows - 1) j)).outs = []) → b + 1 ≠ n + rows + 16 →
    ∃ t, exec (.systolicBeat rg ws) s = .next t ∧ (t.mx e00).beat = b + 1 ∧ (t.mx e00).ready = s.cyc + 1
      ∧ ((∀ x ∈ all, ∀ y ∈ all, runEl r first x.1 x.2 = runEl r first y.1 y.2 → x = y) →
        ∀ x ∈ all, (t.mx (runEl r first x.1 x.2)).pipe = runStep s r first x.1 x.2 b n
          ((runOffers s r first rows b n).findSome? fun o => match o with | (i, .ok lsa sa tn vec _) => if i = x.1 then some { lsa := lsa, sa := sa, taint := tn, vec := vec } else none | _ => none))

/-- The multipliers of a base-slice program (R314 to R316) take an activation word while the vector is short of its row, make the dot of
one block from the row's bytes at the stack, and combine a row's partials; its output reaches the oldest load that it serves (R118).
SEQ of a token that a multiplier emits is a free value: the model's choice (log 12). -/
def Obligations.BaseSlicesMultiply : Prop :=
  ∀ (s : State) (w : MWord),
    let m := s.act.el
    let x := s.mult m
    let el := 128 * multStripe m + 64
    let d := s.bmd (m / 64) (w.opx.toNat % 64)
    s.multRuns m = true →
    (∀ t ts, x.buf.length < 32 * d.2.1 → (s.mx el).opq = t :: ts →
      let b := x.buf ++ [(t.payload, t.et)]
      exec (.bgmv w) s = .next ((s.setMx el { s.mx el with opq := ts }).setMult m { x with buf := b, full := if b.length = 32 * d.2.1 then s.cyc else x.full }))
    ∧ (∀ u v bad, let a := d.1 + 128 * (x.row * d.2.1 + x.blk)
      let pa := stackPA (m / 64) a
      let row := s.movedTo (s.backing pa false)
      let act := (x.buf.drop (32 * x.blk)).take 32
      let dot := (blockDot w.fmt.toNat (act.map Prod.fst) (blockWords v), bad || act.any Prod.snd)
      32 * d.2.1 ≤ x.buf.length → a + 128 ≤ 2 ^ 36 → s.inArea pa 128 = false → x.full + 96 ≤ s.cyc →
      s.migState (s.backing pa false) ≠ 1 → s.poisoned row = false → s.readBytes row 128 = (u, v, bad) →
      ((s.multRec m).words.get 0 1 ≠ 0 → exec (.bgmv w) s = .next (u.setMult m
          { x with blk := x.blk + 1, parts := x.parts ++ [dot], wpos := if x.blk + 1 = d.2.1 then 1 else 0 }))
      ∧ ((s.multRec m).words.get 0 1 = 0 → mxRoom s el (s.destOf el w.dtgt) = true → exec (.bgmv w) s = .next ((multEmit u m w 0 dot.1 dot.2).setMult m
          (if x.blk + 1 = d.2.1 then ({ x with blk := x.blk + 1 } : Mult).nextRow d.2.2 w.cnt.toNat else { x with blk := x.blk + 1 }))))
    ∧ (∀ op g, mwordOf ((s.multRec m).words.get 0 0) = some (op, g) → x.wpos = 1 → mxRoom s el (s.destOf el w.dtgt) = true →
      let k := w.opx.toNat % 32
      let seg := x.parts.take (2 ^ k)
      let rest := x.parts.drop (2 ^ k)
      let root := treeOf (if w.fmt = 4 then fun a b => a + b else combine 0 0) k (seg.map Prod.fst)
      exec (.bred w) s = .next ((multEmit s m w 1 root (seg.any Prod.snd)).setMult m
        (if rest.isEmpty then x.nextRow (s.bmd (m / 64) (g.opx.toNat % 64)).2.2 g.cnt.toNat else { x with parts := rest })))
    ∧ (∀ rs id a sk n tok rest, let p := 16 * (baseRing + 64 * sk + n)
      s.fl.accs = [(id, a)] → a.rs = some rs → a.base = some (sk, n) → a.kind = .load false → (s.port p).fifo = tok :: rest →
      a.phase = .home → a.emitted = 0 → a.minAt ≤ s.cyc →
      exec (.baseNodeStreamDelivery rs) s = .next ((s.setPort p { s.port p with fifo := rest }).emitLoad id
        { a with phase := .performed, value := a.value ++ leBytes (min 4 a.size) tok.payload.toNat, ret := { a.ret with taint := a.ret.taint || tok.et } }))

/-! ### The Reel (chapter 13) -/

/-- The words that only steer the section or its registers (R321, R322, R330): `jmp`, `brp`, `cmpj`, `call` and `ret` go to their target where
it lies in the section, in two cycles where they are taken; `loop` and `endl` keep their counts on the loop stack; `addi` and `movs` write one
reel register. The fault conditions of R330, each 0x7007, stop the section with a record that names the word: a target at Lp or beyond, a fifth
frame, a ninth return index, `endl` or `ret` on an empty stack, and running past the last word. -/
def Obligations.ReelSequencing : Prop :=
  ∀ (s : State),
    let r := s.region s.act.rg
    let x := r.reel
    let put (a : BitVec 4) (v : W64) : State := (s.setReel (x.setS a v)).reelNext
    let go (t : State) (pc : BitVec 16) (n : Nat) : State := let y := t.region s.act.rg
      t.setRegion s.act.rg { y with reel := { y.reel with rpc := pc, phase := 0, thr := none, barred := false, ready := s.cyc + n } }
    let breach := s.wordBreach 0x7007
    let jump (target : BitVec 16) : State := if target.toNat < x.count then go s target 2 else breach
    (s.reelRuns = true →
      (∀ target, exec (.jmp target) s = .next (jump target))
      ∧ (∀ line sense target, exec (.brp line sense target) s
        = .next (if r.pn.getLsbD line.toNat = sense then jump target else go s (x.rpc + 1) 1))
      ∧ (∀ c u a b target, exec (.cmpj c u a b target) s = .next (if cmp64 c u (x.sreg a) (x.sreg b) then jump target else go s (x.rpc + 1) 1))
      ∧ (∀ target, exec (.call target) s = .next (if x.cstk.length < 8 ∧ target.toNat < x.count
        then go (s.setReel { x with cstk := (x.rpc + 1) :: x.cstk }) target 2 else breach))
      ∧ (∀ pc cs, x.cstk = pc :: cs → exec .ret s = .next (go (s.setReel { x with cstk := cs }) pc 2))
      ∧ (x.cstk = [] → exec .ret s = .next breach)
      ∧ (∀ n dist, field (x.val n) 0 32 = (0 : W32) → exec (.loop n dist) s = .next (go s (x.rpc + dist.zeroExtend 16 + 1) 2))
      ∧ (∀ n dist, field (x.val n) 0 32 ≠ (0 : W32) → exec (.loop n dist) s = .next (if x.lstk.length < 4
        then go (s.setReel { x with lstk := (x.rpc + 1, field (x.val n) 0 32) :: x.lstk }) (x.rpc + 1) 1 else breach))
      ∧ (∀ start c fs, x.lstk = (start, c) :: fs → exec .endl s = .next (if c = 1 then go (s.setReel { x with lstk := fs }) (x.rpc + 1) 1
        else go (s.setReel { x with lstk := (start, c - 1) :: fs }) start 2))
      ∧ (x.lstk = [] → exec .endl s = .next breach)
      ∧ (∀ a b imm, exec (.addi a b imm) s = .next (put a (x.sreg b + imm.signExtend 64)))
      ∧ (∀ a v, exec (.movs a (.imm v)) s = .next (put a (v.signExtend 64))) ∧ (∀ a b, exec (.movs a (.reg b)) s = .next (put a (x.sreg b)))
      ∧ (∀ a lc, exec (.movs a (.n lc)) s = .next (put a (r.lcs.get {} lc.toNat).n))
      ∧ (∀ a i, exec (.movs a (.usr i)) s = .next (put a ((r.usr.get 0 i.toNat).zeroExtend 64))))
    ∧ ((breach.region s.act.rg).reel.live = false ∧ ∃ d, breach.det = s.det ++ [d] ∧ d.own = .figure (figOf s.act.rg) ∧ d.info.fcode = 0x7007
      ∧ d.info.point = 4 ∧ d.info.detail = x.rpc.zeroExtend 32)
    ∧ (∀ (c : Sel) (rg : Nat) (t : State), s.choose.1 = c → s.choose.2.tick (s.choose.2.pace c.dt) = t → c.who = .agent (.reel rg) →
      (t.region rg).reel.count ≤ (t.region rg).reel.rpc.toNat → (t.atReel rg).reelRuns = true →
      step s = .next ((t.atReel rg).wordBreach 0x7007))

/-- The words for planes, fills and swaps (R322 to R325): `plane` chooses PNX; `stripe` queues a fill while the fill queue has a place; `swap`
and `swap.all` swap stripes that are filled and hold nothing; `swap.wave` injects a swap wavefront; `dwell` notes a scrolled placement. -/
def Obligations.ReelPlanes : Prop :=
  ∀ (s : State),
    let rg := s.act.rg
    let r := s.region rg
    let x := r.reel
    s.reelRuns = true →
    (∀ p, exec (.plane (.direct p)) s = .next ((s.setReel { x with pnx := p }).reelNext))
    ∧ (∀ l p q, exec (.plane (.pred l p q)) s = .next ((s.setReel { x with pnx := if r.pn.getLsbD l.toNat then p else q }).reelNext))
    ∧ (r.scroll = none →
      (∀ p img ws, let i := (x.val img).toNat % 2 ^ 16
        let w := (x.val ws).toNat % 128
        (w < r.count → i < (s.fig (figOf rg)).nimg → ((s.fillsOf rg).filter fun f => f.fq).length < 8 →
          exec (.stripe p img ws) s = .next ((s.queueFill rg (r.stripeAt w) p i true false).reelNext))
        ∧ (w < r.count → i < (s.fig (figOf rg)).nimg → 8 ≤ ((s.fillsOf rg).filter fun f => f.fq).length → exec (.stripe p img ws) s = .next s)
        ∧ (r.count ≤ w ∨ (s.fig (figOf rg)).nimg ≤ i → exec (.stripe p img ws) s = .next (s.wordBreach 0x7001)))
      ∧ (∀ wss i, (i = .swapAll ∧ wss = List.range r.count) ∨ (∃ ws : BitVec 7, i = .swap ws ∧ wss = [ws.toNat] ∧ ws.toNat < r.count) →
        r.placing = none → (∀ w ∈ wss, s.filling rg (r.stripeAt w) x.pnx = false) →
        ((∀ w ∈ wss, s.stripeBusy r (r.stripeAt w) = false ∧ s.holdsToken (r.stripeAt w) = false) →
          ((∀ w ∈ wss, ((s.stripe (r.stripeAt w)).planes.get {} x.pnx.toNat).valid = true) →
            exec i s = .next ((wss.foldl (fun t w => t.swapStripe (r.stripeAt w) x.pnx (r.upOf w)) s).reelNext))
          ∧ ((∃ w ∈ wss, ((s.stripe (r.stripeAt w)).planes.get {} x.pnx.toNat).valid = false) → exec i s = .next (s.wordBreach 0x7003)))
        ∧ ((∃ w ∈ wss, s.stripeBusy r (r.stripeAt w) = true ∨ s.holdsToken (r.stripeAt w) = true) → exec i s = .next (s.wordBreach 0x7002)))
      ∧ (r.placing = none → exec .swapWave s = .next ((s.inject rg (waveTok 1 (4 + x.pnx.toNat))).reelNext))
      ∧ (∀ d v img, exec (.dwell d v img) s
        = .next ((s.setReel { x with scd := d.setWidth 13 + 1, scv := v.setWidth 13 + 1, sci := img, plc := true }).reelNext)))
    ∧ (r.scroll ≠ none → ∀ i, i = .swapAll ∨ i = .swapWave ∨ (∃ ws, i = .swap ws) ∨ (∃ p img ws, i = .stripe p img ws) ∨ (∃ d v img, i = .dwell d v img) →
      exec i s = .next (s.wordBreach 0x7004))

/-- Arming and waiting (R327, R328): an `arm` gives a loop context its first iteration, begins a
pending placement, or waits for the other copies of its stamping; `arm.mx` gives the matrix elements their tile count;
`waitb.bar`, `waitb.lc` and `waitb.mx` go on once the region is drained, the loop context has emptied, or every matrix element is idle; `hlt`
ends the section. -/
def Obligations.ReelArmsAndWaits : Prop :=
  ∀ (s : State),
    let rg := s.act.rg
    let r := s.region rg
    let x := r.reel
    let alone (lc : BitVec 2) : Prop := lc ≠ r.dlc ∨ r.armAt ≠ none ∨ r.copies ≤ 1
    s.reelRuns = true →
    (r.scroll ≠ none → ∀ lc n m, exec (.arm lc n) s = .next (s.wordBreach 0x7004) ∧ exec (.armMx m) s = .next (s.wordBreach 0x7004))
    ∧ (r.scroll = none → r.placing = none →
    (∀ lc n e, alone lc → (x.plc = false ∨ lc ≠ r.dlc) → s.lcValid r lc.toNat = some e → (r.lcs.get {} lc.toNat).sv = 0 →
      ∃ t, exec (.arm lc n) s = .next t
        ∧ (t.region rg).lcs = r.lcs.put {} lc.toNat (armedCtx e (x.val n) (if lc = r.dlc then s.armStart r else s.cyc + 1))
        ∧ (t.region rg).reel.rpc = x.rpc + 1 ∧ ∀ st ∈ r.stripes, (t.stripe st).armAct = (s.stripe st).act)
    ∧ (∀ lc n, alone lc → (x.plc = false ∨ lc ≠ r.dlc) → (s.lcValid r lc.toNat = none ∨ (r.lcs.get {} lc.toNat).sv ≠ 0) →
      exec (.arm lc n) s = .next (s.wordBreach 0x7005))
    ∧ (∀ n, alone r.dlc → x.plc = true → ∃ t, exec (.arm r.dlc n) s = .next t
        ∧ (t.region rg).placing = some (r.dlc.toNat, x.val n, x.scd.toNat, x.scv.toNat, x.sci.toNat) ∧ (t.region rg).reel.plc = false
        ∧ (t.region rg).reel.rpc = x.rpc + 1)
    ∧ (∀ lc n, ¬alone lc → exec (.arm lc n) s = .next (if r.armed then s else s.meetArm rg))
    ∧ (∀ n, s.runsOk r = true → let v : BitVec 16 := field (x.val n) 0 16
      ∃ t, exec (.armMx n) s = .next t ∧ (t.region rg).reel.rpc = x.rpc + 1
        ∧ ∀ st ∈ r.stripes, ∀ j < 16, (t.mx (st * 128 + 64 + j)).tcnt = v)
    ∧ (∀ n, s.runsOk r = false → exec (.armMx n) s = .next (s.wordBreach 0x7009))
    ∧ (∀ tag : BitVec 12, let t := waveTok 0 (tag.toNat * 65536)
      (x.barred = false → exec (.waitbBar tag) s = .next ((s.setReel { x with barred := true, phase := 0 }).inject rg t))
      ∧ (x.barred = true → x.phase = 0 → exec (.waitbBar tag) s
        = .next (if s.drainedFor rg t then s.setReel { x with phase := s.fl.next + 1 } else s))
      ∧ (x.barred = true → x.phase ≠ 0 → s.bankOpen rg (x.phase - 1) = false →
        (∀ e ∈ s.fl.emits, (s.stripe (srcStripe e.src)).rg = some rg → s.cyc < e.due) → exec (.waitbBar tag) s = .next s.reelNext))
    ∧ (∀ lc : BitVec 2, let c := r.lcs.get {} lc.toNat
      (c.sv = 0 → 0 < c.starts → c.issued < s.cyc → exec (.waitbLc lc) s = .next s.reelNext)
      ∧ (c.sv ≠ 0 ∨ c.starts = 0 → exec (.waitbLc lc) s = .next s))
    ∧ exec .waitbMx s = .next (if s.mxIdle r then s.reelNext else s)
    ∧ (∀ word, (r.busy = false → s.mxIdle r = true →
        ∃ t, exec (.hlt word) s = .next t ∧ (t.region rg).reel.live = false)
      ∧ (r.busy = true ∨ s.mxIdle r = false → exec (.hlt word) s = .next s)))

/-- The ring-bank words, the seals and the messages of the Reel (R160, R322, R329, R331): `lds` reads and `sts` writes 8 bytes of the region's
allotment in little-endian order, `save` writes a stripe's save slot and empties the stripe, `rest` loads one; `seqw` fixes its threshold when
first executed and goes on once it is sealed, at once where intervals are off; `msgr` hands its message to the staging buffer and goes on once
that operation is over. What a damaged word gives `lds` is a free value: the model's choice (log 7). -/
def Obligations.ReelMemoryAndMessages : Prop :=
  ∀ (s : State),
    let rg := s.act.rg
    let r := s.region rg
    let x := r.reel
    s.reelRuns = true →
    (∀ a off b, let p := x.addr off b
      (p % 8 = 0 → r.allots r.ring p 8 = true →
        (∃ v, exec (.lds a off b) s = .next (((s.readBytes (ringPA r.ring p) 8).1.setReel (x.setS a v)).reelTo (x.rpc + 1) 4)
          ∧ (s.ms.errs = [] → v = s.read64 (ringPA r.ring p)))
        ∧ exec (.sts a off b) s = .next ((s.writeBytes (ringPA r.ring p) (leBytes 8 (x.sreg a).toNat)).reelTo (x.rpc + 1) 4))
      ∧ (p % 8 ≠ 0 ∨ r.allots r.ring p 8 = false →
        exec (.lds a off b) s = .next (s.wordBreach 0x7008) ∧ exec (.sts a off b) s = .next (s.wordBreach 0x7008)))
    ∧ (∀ ws addr, let w := (x.val ws).toNat % 128
      let a := (x.val addr).toNat % 2 ^ 26
      let st := r.stripeAt w
      (r.scroll ≠ none → exec (.save ws addr) s = .next (s.wordBreach 0x7004) ∧ exec (.rest ws addr) s = .next (s.wordBreach 0x7004))
      ∧ (r.scroll = none → r.placing = none →
        (w < r.count → r.slotOk a = true → s.replaying st = false →
          (r.busy = false → s.stripePending st = false → s.taintedStripe st = false →
            exec (.save ws addr) s = .next (((s.writeBytes (ringPA r.ring a)
              (slotBytes s st w (s.stripe st).act (r.lcs.get {} r.dlc.toNat).n.toNat)).emptyStripe st).reelTo (x.rpc + 1) 32))
          ∧ (s.holdsToken st = false → exec (.rest ws addr) s = .next ((s.loadSlot st (ringPA r.ring a)).reelTo (x.rpc + 1) 32))
          ∧ (s.holdsToken st = true → exec (.rest ws addr) s = .next (s.wordBreach 0x7006)))
        ∧ (r.busy = true ∨ r.count ≤ w ∨ r.slotOk a = false → exec (.save ws addr) s = .next (s.wordBreach 0x7006))))
    ∧ (∀ req abs, let thr : W32 := match abs with | some i => field (x.sreg i) 0 32 | none => s.open_ r.pk
      (s.enBit r.pk = false → exec (.seqw req abs) s = .next s.reelNext)
      ∧ (s.enBit r.pk = true → x.thr = none → exec (.seqw req abs) s
        = .next (if req then (s.setReel { x with thr := some thr }).raiseSeal r.pk else s.setReel { x with thr := some thr }))
      ∧ (∀ n, s.enBit r.pk = true → x.thr = some n → exec (.seqw req abs) s = .next (if ivLe n (s.sealed r.pk) then s.reelNext else s)))
    ∧ (∀ sl imm, (x.phase = 0 → ∃ t, exec (.msgr sl imm) s = .next t ∧ (t.region rg).reel.phase = s.fl.next + 1
        ∧ (t.wait s.fl.next).map Wait.kind
          = some (.msend r.pk ((List.range 14).map (fun i => (field (x.s.get 0 i) 0 32 : W32)) ++ [(s.fig (figOf rg)).tag, imm]) sl none))
      ∧ (x.phase ≠ 0 → s.wait (x.phase - 1) = none → exec (.msgr sl imm) s = .next s.reelNext))

/-! ### The Transfer Engine (chapter 14) -/

namespace Sys2Proof.Machine

/-- The parts of each kind of request (R139, R334 to R338): how many there are, and what part `k` does. -/
def requestParts (s : State) : Instr → Option (Nat × (Nat → State → Req → Part × Req))
  | .transferCopy _ a => some (partsOf a.dst.toNat a.len.toNat, fun k t r => t.doMove s.act.el r (copyMove a.src a.dst a.len.toNat false k))
  | .shadowCopy _ a => some (partsOf a.dst.toNat a.len.toNat, fun k t r => t.doMove s.act.el r (copyMove a.src a.dst a.len.toNat true k))
  | .remoteCopy _ a _ => some (partsOf a.dst.toNat a.len.toNat, fun k t r => t.doMove s.act.el r (copyMove a.src a.dst a.len.toNat false k))
  | .fill _ dst len pat => some (partsOf dst.toNat len.toNat, fun k t r =>
      let i := partOff dst.toNat k
      let n := partLen dst.toNat len.toNat k
      t.doMove s.act.el r { src := .const (((wordBytes pat ++ wordBytes pat ++ wordBytes pat).drop (i % 4)).take n), dst := .va (dst + BitVec.ofNat 64 i), n := n })
  | .gather _ a => some (a.nix.toNat * rowParts a, rowMove a true s.act.el)
  | .scatter _ a => some (a.nix.toNat * rowParts a, rowMove a false s.act.el)
  | .setRemoteFlag .. => some (0, fun _ t r => (.ok t, r))
  | _ => none

/-- What a request does once its parts are done: the flag of a remote copy or of a flag request (R334). -/
def requestEnd (s : State) (t : State) (r : Req) : Instr → Part × Req
  | .remoteCopy _ a flag => match t.xlate (tpPk r.tp) r.pkt.asid a.dst true with
    | .error c => (.fault t c a.dst, r)
    | .ok (pa, _) => t.flagOp s.act.el r (paPkg pa) flag.toNat 0 1
  | .setRemoteFlag _ flag pkg val aop => t.flagOp s.act.el r pkg.toNat flag.toNat aop.toNat val
  | _ => (.ok t, r)

end Sys2Proof.Machine

/-- A request whose every part is performed is over (R332): `TRANSFER_COPY`, `SHADOW_COPY`, `REMOTE_COPY`, `FILL`, `GATHER`, `SCATTER` and
`SET_REMOTE_FLAG`; one that a part or the flag stops with a fault ends with that code (R397).
The parts as steps are the model's reading (log 22), and an overlap or two rows at one place take free values (logs 4, 5). -/
def Obligations.RequestsPerformTheirParts : Prop :=
  ∀ (s : State) (i : Instr) (n : Nat) (f : Nat → State → Req → Part × Req) (r r1 r2 : Req) (t u : State) (c : BitVec 16) (a : W64),
    let rq := s.act.el
    let window := (s.pav (tpPk r.tp)).window
    let q : Req := { r with held := r.held.filter fun h => window || decide (h.tag = s.open_ (tpPk r.tp)) }
    requestParts s i = some (n, f) → s.req rq = some r → r.isOver = false → r.barred = false → (window = true → r.held.isSome = true) →
    let parts := runMoves rq f (n - r.done) r.done (s, q) s q
    (parts = (.ok t, r1) → requestEnd s t r1 i = (.ok u, r2) →
      exec i s = .next (u.setReq rq { r2 with isOver := true, old := [], held := none, overAt := u.cyc }))
    ∧ (parts = (.ok t, r1) → requestEnd s t r1 i = (.fault u c a, r2) → exec i s = .next (u.endReq rq r2 c a))
    ∧ (parts = (.fault t c a, r1) → exec i s = .next (t.endReq rq r1 c a))

/-- A `TENSOR_LOAD` or `TENSOR_STORE` whose layout record names one position moves that element between its address and the local offset, or
fills it where it lies outside the tensor and the record asks for that; a `REDUCE_COPY` of one element combines the two words (R335, R337).
The parts as steps are the model's reading (log 22). -/
def Obligations.TensorsAndReductions : Prop :=
  ∀ (s : State) (h : XHead) (r : Req),
    let rq := s.act.el
    let pk := tpPk r.tp
    let isOver (t : State) (q : Req) : Host.Outcome State Fault Refusal := .next (t.setReq rq { q with done := 1, isOver := true, old := [], held := none, overAt := t.cyc })
    s.req rq = some r → r.isOver = false → r.barred = false → r.held = none → (s.pav pk).window = false → r.done = 0 →
    (∀ a t q, lrTotal r.lr = 1 →
      let e := lrAt r.lr a.o 0
      let loc : End := .pa (localPA pk a.lsp (a.loc.toNat + e.2))
      (∀ va, e.1 = some va → s.doMove rq r { src := .va va, dst := loc, n := lrEsz r.lr } = (.ok t, q) → exec (.tensorLoad h a) s = isOver t q)
      ∧ (e.1 = none → lrClip r.lr ≠ 1 → exec (.tensorLoad h a) s = isOver s { r with clipped := true })
      ∧ (e.1 = none → lrClip r.lr = 1 → s.doMove rq { r with clipped := true }
          { src := .const (leBytes (lrEsz r.lr) (lrNum r.lr 0xA0 4)), dst := loc, n := lrEsz r.lr } = (.ok t, q) → exec (.tensorLoad h a) s = isOver t q)
      ∧ (∀ va, e.1 = some va → s.doMove rq r { src := loc, dst := .va va, n := lrEsz r.lr } = (.ok t, q) → exec (.tensorStore h a) s = isOver t q)
      ∧ (e.1 = none → exec (.tensorStore h a) s = isOver s { r with clipped := true }))
    ∧ (∀ src dst rop v w u1 u2 pa x t q, s.readEnd pk r.pkt.asid rq (.va src) 4 = .ok (some (u1, v)) →
      s.readEnd pk r.pkt.asid rq (.va dst) 4 = .ok (some (u2, w)) → s.endPA pk r.pkt.asid (.va dst) true = .ok (pa, x) → paSpace pa ≠ 1 →
      let a : W32 := BitVec.ofNat 32 (leNat w)
      let b : W32 := BitVec.ofNat 32 (leNat v)
      let res : W32 := if rop = 0 then combine 0 0 a b else if rop = 1 then a + b else if rop = 2 then combine 1 0 a b
        else if rop = 3 then combine 2 0 a b else fLanesR 4 (fun a b _ => fsum 0 [a, b]) a b 0
      s.writeEnd rq { r with at_ := pa } (.va dst) (wordBytes res) false true = (.ok t, q) → exec (.reduceCopy h src dst 1 rop) s = isOver t q)

namespace Sys2Proof.Machine

/-- Bytes of package-local SRAM that a request can reach without waiting: within an unprotected page that translates, on a package that
its port carries it to and that no rollback holds, free of errors; a page written to is not irrevocable. -/
structure State.SramAt (s : State) (pk who : Nat) (asid : BitVec 12) (va : W64) (n : Nat) (write : Bool) (pa : Nat) (x : Xlat) : Prop where
  page : va.toNat % 4096 + n ≤ 4096
  trans : s.xlate pk asid va write = .ok (pa, x)
  sram : paSpace pa = 2 ∨ paSpace pa = 3
  carried : s.carries pk (paPkg pa) who = true
  plain : x.prot = false
  calm : (s.members.get {} (paPkg pa)).step = 0
  good : s.ms.errs = []
  kept : write = true → x.irv = false

end Sys2Proof.Machine

/-- A copy within one aligned 8-byte part of its destination, between two places in SRAM, leaves the source's bytes there and every other byte
as it was, and counts them; a fill leaves the pattern there (R139, R332, R334).
The parts as steps are the model's reading (log 22). -/
def Obligations.SmallCopiesMoveTheirBytes : Prop :=
  ∀ (s : State) (h : XHead) (r : Req) (n : Nat) (pd : Nat) (xd : Xlat),
    let pk := tpPk r.tp
    s.req s.act.el = some r → r.isOver = false → r.barred = false → r.held = none → (s.pav pk).window = false → r.done = 0 → r.old = [] → 0 < n →
    (∀ (a : CopyArgs) ps xs, a.len.toNat = n → a.dst.toNat % 8 + n ≤ 8 → s.SramAt pk s.act.el r.pkt.asid a.src n false ps xs →
      s.SramAt pk s.act.el r.pkt.asid a.dst n true pd xd →
      ∃ t q, exec (.transferCopy h a) s = .next t ∧ t.peeks pd n = s.peeks ps n ∧ SameMemExcept s t pd n
        ∧ t.req s.act.el = some q ∧ q.isOver = true ∧ q.bytes = r.bytes + n)
    ∧ (∀ (dst : W64) (len : BitVec 40) (pat : W32), len.toNat = n → dst.toNat % 8 + n ≤ 8 → s.SramAt pk s.act.el r.pkt.asid dst n true pd xd →
      ∃ t q, exec (.fill h dst len pat) s = .next t ∧ t.peeks pd n = (wordBytes pat ++ wordBytes pat).take n ∧ SameMemExcept s t pd n
        ∧ t.req s.act.el = some q ∧ q.isOver = true ∧ q.bytes = r.bytes + n)

/-- A request begins when its port has a place for it and its packet passes the checks made before any access, and ends at the first breach
(R332, R397); it ends with its completion record, or without one where it names no ring, and its sectors are counted one by one (R339,
R340). That the checks are made as the port takes the packet up is the model's choice (log 72). -/
def Obligations.RequestsStartAndComplete : Prop :=
  ∀ (s : State),
    (∀ tp p ps, let cring : BitVec 12 := field p.bits 224 12
      let s1 := ({ s with eng := { s.eng with queues := s.eng.queues.put [] tp ps } } : State).bump
      s.eng.queues.get [] tp = p :: ps → s.portLoad tp < 64 →
      (∀ e, decodeRequest p.bits = .error e → exec (.transferRequestStart tp) s = .next (s1.endReq s.fl.next { tp := tp, pkt := p } 0x8001 0))
      ∧ (∀ i, decodeRequest p.bits = .ok i →
        (p.bits.getLsbD 27 = true → s.ringOk (tpPk tp) cring.toNat = false →
          exec (.transferRequestStart tp) s = .next (s1.endReq s.fl.next { tp := tp, pkt := p } 0x8007 0))
        ∧ ((p.bits.getLsbD 27 = true → s.ringOk (tpPk tp) cring.toNat = true) →
          (∀ t b, s1.reqCheck tp p i = .ok (t, b) → exec (.transferRequestStart tp) s = .next (t.setReq s.fl.next { tp := tp, pkt := p, lr := b }))
          ∧ (∀ t c a, s1.reqCheck tp p i = .error (.breach t c a) → exec (.transferRequestStart tp) s = .next (t.endReq s.fl.next { tp := tp, pkt := p } c a)))))
    ∧ (∀ rq r, s.req rq = some r → r.isOver = true → r.told = false → r.barred = false → r.overAt < s.cyc → s.windowHolds (tpPk r.tp) r.tag = false →
      s.landed (tpPk r.tp) rq = true → r.pkt.bits.getLsbD 27 = false → exec (.transferCompletion rq) s = .next ((s.setReq rq { r with told := true }).retireReq rq))
    ∧ (∀ rq r t u v, let pk := tpPk r.tp
      let n : BitVec 12 := field r.pkt.bits 224 12
      let e := s.ringEntry pk n.toNat
      let c := (s.look32 (e + 8)).toNat
      let slots := 2 ^ ((s.look64 e).toNat / 2 % 16)
      let pa := (s.look64 e).toNat % 2 ^ 57 / 4096 * 4096 + 32 * (c % slots)
      let status := if r.fcode ≠ 0 then 2 else if r.clipped then 1 else 0
      let first := leBytes 8 r.bytes ++ leBytes 4 r.sects.length ++ zeros 4
        ++ leBytes 4 (r.pkt.bits.toNat % 2 ^ 24 + (r.pkt.bits.toNat / 2 ^ 28 % 16) * 2 ^ 24 + status * 2 ^ 28) ++ leBytes 2 r.fcode.toNat ++ zeros 2
      let put (t : State) (a : Nat) (bs : List Byte) : Part := t.xpoke pk a bs none false false (s.tagOr pk a (r.held.map HeldPart.tag)) rq (r.pkt.fg.getD 0)
      s.req rq = some r → r.isOver = true → r.told = false → r.barred = false → r.overAt < s.cyc → s.windowHolds pk r.tag = false →
      s.landed pk rq = true → (r.held = none ∨ s.newerIn e 16 = false) → r.pkt.bits.getLsbD 27 = true → s.ringOk pk n.toNat = true → (∀ q ∈ s.eng.reqs, tpPk q.2.tp = pk → q.2.tp < r.tp → q.2.isOver = false) →
      put s pa first = .ok t → put t (pa + 24) (leBytes 8 (if c / slots % 2 = 0 then 1 else 0)) = .ok u →
      put u (e + 8) (leBytes 4 (c + 1)) = .ok v →
      exec (.transferCompletion rq) s = .next ((v.setReq rq { r with told := true }).retireReq rq))
    ∧ (∀ rq r, let ctr : BitVec 12 := field r.pkt.bits 236 12
      let k := tpPk r.tp * 4096 + ctr.toNat
      s.req rq = some r → r.pkt.bits.getLsbD 26 = true → r.isOver = true → r.counted < r.sects.length → s.windowHolds (tpPk r.tp) r.tag = false →
      s.landed (tpPk r.tp) rq = true →
      exec (.sectorCounterIncrement rq) s = .next ((({ s with secs := s.secs.put 0 k (s.secs.get 0 k + 1) } : State).setReq rq
        { r with counted := r.counted + 1 }).retireReq rq))

/-! ### Launches and walks (chapter 14) -/

/-- An LM64 written to an open channel with room joins it, the receiver takes the oldest one, and a walk starts from it with its
ceiling bounded by the channel (R350, R351). -/
def Obligations.LaunchesBecomeWalks : Prop :=
  ∀ (s : State) (pk : Nat),
    (∀ n (data : List Byte), let c := s.reg pk (0x14000 + 8 * n)
      let l := s.reg pk 0x13000
      s.barsOn pk = true → 64 * n < 16384 → (s.members.get {} pk).step = 0 → l.getLsbD 0 = true → n ≤ l.toNat / 2 % 256 →
      c.getLsbD 0 = true → bnum data 8 2 % 4096 = c.toNat / 2 % 4096 → (s.chan pk n).length < 16 →
      exec (.lm64Write pk (64 * n) 64 data) s
        = .next (s.setChan pk n (s.chan pk n ++ [{ cyc := s.cyc, bits := BitVec.ofNat 512 (leNat (data.take 64)) }])))
    ∧ (∀ cyc n i, firstLm (s.lms pk fun m => !m.taken) = some (cyc, n, i) → lmOk (((s.chan pk n).getD i {}).bits) = true →
      exec (.lm64Take pk) s = .next (s.setChan pk n (mapAt (fun m => { m with taken := true }) i (s.chan pk n))))
    ∧ (∀ cyc n i, firstLm (s.lms pk fun m => m.taken) = some (cyc, n, i) → (s.work.walks.filter fun w => decide (w.2.pk = pk)).length < 1024 →
      let b := ((s.chan pk n).getD i {}).bits
      let pmax : BitVec 3 := field (s.reg pk (0x14000 + 8 * n)) 13 3
      ∃ t w, exec (.walkStart pk) s = .next t ∧ t.walk s.fl.next = some w ∧ w.pk = pk ∧ w.graph = field b 0 64 ∧ w.asid = field b 64 12
        ∧ w.idx = 0 ∧ w.tag = field b 96 32 ∧ w.args = field b 128 256 ∧ w.ceil = (if (field b 76 3 : BitVec 3) ≤ pmax then field b 76 3 else pmax))

/-- The nodes of a walk (R342 to R348, R399): `NODE_KERNEL` and `NODE_COPY` create a task and, unless ASYNC, wait for it; `NODE_COND`,
`NODE_LOOP`, `NODE_SUB` and `NODE_END` choose the node that follows; `NODE_WAIT` passes once the counter reaches its threshold; `NODE_SIGNAL`
adds; `NODE_SEAL` waits for the interval that was open; `NODE_MSG` hands its message to the staging buffer.
What ends a walk past its graph is the model's reading (log 30). -/
def Obligations.NodesAdvanceTheirWalk : Prop :=
  ∀ (s : State) (g : GHead) (w : Walk),
    let wk := s.act.el
    let n := s.fl.next
    let prio := if g.prio ≤ w.ceil then g.prio else w.ceil
    s.walk wk = some w → w.isOver = false →
    (∀ fig done ua, w.task = none →
      let t : Task := { kernel := true, obj := fig, ua := ua, done := done, pk := w.pk, walk := wk, node := w.idx, prio := prio, ready := s.cyc, since := s.cyc }
      exec (.nodeKernel g fig true done ua) s = .next ((s.setTask n t).bump.walkTo w g.next.toNat)
      ∧ exec (.nodeKernel g fig false done ua) s = .next ((s.setTask n t).bump.setWalk wk { w with task := some n }))
    ∧ (∀ die port done req, w.task = none →
      let t : Task := { kernel := false, tp := (w.pk * 16 + die.toNat) * 4 + port.toNat, req := req, done := done, pk := w.pk, walk := wk, node := w.idx, prio := prio, ready := s.cyc, since := s.cyc }
      exec (.nodeCopy g true die port done req) s = .next ((s.setTask n t).bump.walkTo w g.next.toNat)
      ∧ exec (.nodeCopy g false die port done req) s = .next ((s.setTask n t).bump.setWalk wk { w with task := some n }))
    ∧ (∀ k fig done ua die port req async, w.task = some k → s.task k = none →
      exec (.nodeKernel g fig async done ua) s = .next (s.walkTo w g.next.toNat)
      ∧ exec (.nodeCopy g async die port done req) s = .next (s.walkTo w g.next.toNat))
    ∧ (∀ pred alt t v, s.graphRead w.pk w.asid wk pred 4 = .done t v →
      exec (.nodeCond g pred alt) s = .next (t.walkTo w (if leNat v ≠ 0 then g.next.toNat else alt.toNat)))
    ∧ (∀ body, exec (.nodeLoop g body 0 0) s = .next (s.walkFault wk w 0x9005 4 6 w.idx 0))
    ∧ (∀ body count pred graph entry, 8 ≤ w.frames.length → (count ≠ 0 ∨ pred ≠ 0) →
      exec (.nodeLoop g body count pred) s = .next (s.walkFault wk w 0x9004 4 6 w.idx 0)
      ∧ exec (.nodeSub g graph entry) s = .next (s.walkFault wk w 0x9004 4 6 w.idx 0))
    ∧ (∀ body count pred, w.frames.length < 8 → (count ≠ 0 ∨ pred ≠ 0) → exec (.nodeLoop g body count pred) s = .next (s.walkTo
        { w with frames := { graph := w.graph, node := w.idx, next := g.next.toNat, loop := some (body.toNat, count.toNat, pred), mark := n } :: w.frames } body.toNat))
    ∧ (∀ graph entry, w.frames.length < 8 → exec (.nodeSub g graph entry) s = .next (s.walkTo
        { w with frames := { graph := w.graph, node := w.idx, next := g.next.toNat, mark := n } :: w.frames, graph := if graph = 0 then w.graph else graph } entry.toNat))
    ∧ (w.frames = [] → s.walkTasks wk 0 = [] → ∃ t, exec (.nodeEnd g) s = .next t ∧ t.walk wk = none)
    ∧ (∀ f fs, w.frames = f :: fs → f.loop = none → s.walkTasks wk f.mark = [] → exec (.nodeEnd g) s = .next (s.walkTo { w with frames := fs, graph := f.graph } f.next))
    ∧ (∀ f fs body count, w.frames = f :: fs → f.loop = some (body, count, 0) → 0 < count → s.walkTasks wk f.mark = [] →
      exec (.nodeEnd g) s = .next (if count ≤ f.k + 1 then s.walkTo { w with frames := fs, graph := f.graph } f.next
        else s.walkTo { w with frames := { f with k := f.k + 1 } :: fs } body))
    ∧ (∀ ctr thr t v, w.short = false → s.graphRead w.pk w.asid wk ctr 8 = .done t v → (BitVec.ofNat 64 (leNat v) - thr).toNat < 2 ^ 63 →
      exec (.nodeWait g ctr thr) s = .next (t.walkTo w g.next.toNat))
    ∧ (∀ k x, s.walk k = some x → x.short = true → exec (.waitCounterReread k) s = .next (s.setWalk k { x with short := false }))
    ∧ (∀ ctr add t bs, s.graphAdd w.pk w.asid wk ctr add = .done t bs → exec (.nodeSignal g ctr add) s = .next (t.bump.walkTo w g.next.toNat))
    ∧ (∀ req, s.enBit w.pk = false → exec (.nodeSeal g req) s = .next (s.walkTo w g.next.toNat))
    ∧ (∀ req thr, s.enBit w.pk = true → w.thr = some thr → exec (.nodeSeal g req) s
      = .next (if ivLe thr (s.sealed w.pk) then s.walkTo w g.next.toNat else s))
    ∧ (∀ req, s.enBit w.pk = true → w.thr = none → ∃ t, exec (.nodeSeal g req) s = .next t ∧ (t.walk wk).bind Walk.thr = some (s.open_ w.pk))
    ∧ (∀ m, w.msg = none → ∃ t, exec (.nodeMsg g m) s = .next t ∧ (t.walk wk).bind Walk.msg = some n
      ∧ (t.wait n).map Wait.kind = some (.msend w.pk ((List.range 14).map (fun i => (field m (32 * i) 32 : W32)) ++ [w.tag, BitVec.ofNat 32 w.idx]) false none))
    ∧ (∀ m k, w.msg = some k → s.wait k = none → exec (.nodeMsg g m) s = .next (s.walkTo w g.next.toNat))

/-! ### The scheduler, pre-emption and resumption (chapters 2 and 14) -/

/-- TASK_AGING: ready tasks rise a level for each millisecond they wait, up to level 6 (R47). TASK_DISPATCH: a KERNEL task that finds a place
is launched there, one that resources are reserved for ahead of the order (the model's reading of R358, log 97); a COPY task's request joins
its port's queue (R352, R355). KERNEL_TASK_COMPLETE: a task whose work is done completes (R343). -/
def Obligations.TasksAreDispatchedAndComplete : Prop :=
  ∀ (s : State) (pk : Nat),
    (∃ t, exec (.taskAging pk) s = .next t ∧ ∀ p ∈ s.work.tasks, p.2.pk = pk → p.2.phase = .ready →
        (p.1, { p.2 with aged := max p.2.aged (min (6 - p.2.prio.toNat) ((s.cyc - p.2.since) / msCycles)) }) ∈ t.work.tasks)
    ∧ (∀ tk t ts w u o spots, let a := s.ageTasks pk
      (s.members.get {} pk).step = 0 → (a.reservedReady pk = some (tk, t) ∨ a.reservedReady pk = none ∧ a.readyTasks pk = (tk, t) :: ts) → t.kernel = true → t.fg = none → a.walk t.walk = some w →
      a.loadObj t.pk w.asid t.obj = .obj u o →
      u.tryPlace t.pk tk (fun _ => false) (List.replicate (u.instancesOf t.pk w.asid t.obj) (o.asks.map some)) = some spots →
      exec (.taskDispatch pk) s = .next (u.launch tk t w o spots))
    ∧ (∀ tk t ts w, let a := s.ageTasks pk
      (s.members.get {} pk).step = 0 → a.reservedReady pk = none → a.readyTasks pk = (tk, t) :: ts → t.kernel = false → a.walk t.walk = some w → (a.eng.queues.get [] t.tp).length < 16 →
      exec (.taskDispatch pk) s = .next (({ a with eng := { a.eng with queues := a.eng.queues.put [] t.tp (a.eng.queues.get [] t.tp ++ [{ bits := t.req, asid := w.asid, task := some tk }]) } } : State).setTask tk { t with phase := .running }))
    ∧ (∀ tk t u, s.task tk = some t → t.phase = .running → t.kernel = false → t.faulted = false →
      (∀ q ∈ s.eng.queues, ∀ p ∈ q.2, p.task ≠ some tk) → (∀ r ∈ s.eng.reqs, r.2.pkt.task ≠ some tk) → s.countDone tk t = .ok u →
      exec (.kernelTaskComplete tk) s = .next (u.endTask tk false))
    ∧ (∀ tk t fg u, s.task tk = some t → t.phase = .running → t.kernel = true → t.fg = some fg → (s.fig fg).phase = .placed →
      s.groupRetired fg = true → (∀ g ∈ s.group fg, s.figBusy g = false) → s.countDone tk t = .ok u →
      let u := (u.group fg).foldl (fun v g => v.countLost g) u
      exec (.kernelTaskComplete tk) s = .next (((u.group fg).foldl (fun v g => (v.dropFigure g).setFig g { (v.dropFigure g).fig g with phase := .saved, ended := true }) u).endTask tk false))

/-- Pre-emption (R331, R358 to R365): the first prefix of the candidates that makes room is committed (PREEMPT_COMMIT), `yld` goes on where no
task waits; a halting region halts once it is quiet (REGION_HALTED); a halted region is written to its record (FIGURE_SAVE); a saved Figure's
stripe is released (STRIPE_RELEASE); and the saved Figure of the task at the head of the order takes new places (RESUMPTION).
The inner layout of a save record, the COUNT that a resumed region takes and the registers that its new stripes hold are the model's choices (logs 32, 35, 36). -/
def Obligations.FiguresAreSavedAndResumed : Prop :=
  ∀ (s : State),
    (∀ pk tk t u as k v, s.headKernel pk = some (tk, t) → s.preemptOk pk = true → s.wants t = some (u, as) →
      (List.range ((u.candidates pk t.prio).length + 1)).find? (fun k => (u.placeWithout pk tk as ((u.candidates pk t.prio).take k)).isSome) = some (k + 1) →
      u.commit pk tk as ((u.candidates pk t.prio).take (k + 1)) = some v → exec (.preemptCommit pk) s = .next v)
    ∧ (s.reelRuns = true → s.reelNext.headKernel (s.reelNext.fig (s.reelNext.fig (figOf s.act.rg)).lead).pk = none →
      exec .yld s = .next s.reelNext)
    ∧ (∀ rg, let r := s.region rg
      (s.fig (figOf rg)).phase = .halting → r.live = true → r.halted = false → r.exitWord = none → s.regionQuiet rg r = true →
      ∃ u : State, exec (.regionHalted rg) s = .next (u.groupHalted (figOf rg)) ∧ u.region rg = { r with halted := true, redo := s.fillsOf rg }
        ∧ (∀ w ∈ u.fl.waits, w.2.rg ≠ rg))
    ∧ (∀ fg base size i off t u, let x := s.fig fg
      let rg := fg * 64 + i
      let r := s.region rg
      x.phase = .halted → x.save = some (base, size) → (s.recOffsets fg).find? (fun p => !(s.region (fg * 64 + p.1)).saved) = some (i, off) →
      s.regionOpen rg r = false → (∀ st ∈ r.stripes, s.taintedAt st = none) →
      s.recWrite x.pk fg (base + off) (regionHeader s.free r ++ ((r.stripes.zip (List.range r.count)).map fun p => stripeRecord s.free s p.1 p.2 (r.lcs.get {} r.dlc.toNat).n.toNat).flatten) = (some t, u) →
      ∃ v, exec (.figureSave fg) s = .next v ∧ v.region rg = { r with saved := true } ∧ v.savedRegion rg = some (s.takeRegion rg r off))
    ∧ (∀ st rg, (s.stripe st).rg = some rg → (s.fig (figOf rg)).phase = .saved → (∀ a ∈ s.fl.accs, a.2.rg ≠ rg) →
      ∃ t, exec (.stripeRelease st) s = .next t ∧ (t.stripe st).rg = none ∧ (t.stripe st).av = false ∧ (∀ p, ((t.stripe st).planes.get {} p).valid = false))
    ∧ (∀ fg t spots, let x := s.fig fg
      let gs := s.group fg
      x.phase = .saved → x.ended = false → (s.nextKernel x.pk).map Prod.fst = some x.task → x.rank ≠ 1 →
      (s.members.get {} x.pk).step = 0 → (∀ g ∈ gs, s.regionsOf g = []) → (∀ d ∈ s.det, d.own ≠ .figure fg) → s.task x.task = some t →
      (∀ g ∈ gs, s.badLine g = none ∧ s.recordOk g = true) → s.tryPlace x.pk x.task (fun _ => false) (gs.map fun g => s.savedAsks g) = some spots →
      exec (.resumption fg) s = .next ((((gs.zip spots).foldl (fun v p => v.layFigure p.1 p.2) s).setTask x.task { t with phase := .running }).placedTask x.pk x.task))

/-! ### The management window and the host's accesses (chapters 15, 18 and 21) -/

namespace Sys2Proof.Machine

/-- The registers whose write only changes their value. -/
def RKind.simple : RKind → Bool
  | .bootctl | .bootsrc | .attctl | .tlbiv | .pvcfg | .spp | .mvf | .psnclr | .fltstat | .fltctl | .pgfres | .dbgres | .sprnow | .lnkcfg
  | .ecnt | .hosterr | .lnkst | .bsp => false
  | _ => true

end Sys2Proof.Machine

/-- A host write of a register (R367, R378, R408): accepted, it leaves the written value but for the read-only bits; refused by a
check, it changes no register but ECNT13 and leaves the record 0x9008; where no register lies, it only counts.
When the window answers, and which writes of SPTn it takes, are the model's readings (logs 17, 23). -/
def Obligations.WindowWritesAreCheckedAndTaken : Prop :=
  ∀ (s : State) (pk off : Nat) (v : W64),
    (∀ k i, s.Accepts pk off v k i → k.simple = true →
      exec (.registerWrite pk off 8 v) s = .next (s.setReg pk off ((s.reg pk off &&& k.ro) ||| (v &&& ~~~k.ro))))
    ∧ (∀ k i, s.windowOn pk = true → regAt off = some (k, i) → k.simple = true →
      (v &&& k.rsv ≠ 0 ∨ k.bad (s.reg pk off) v = true ∨ s.writeAllowed pk k i off v = false) →
      exec (.registerWrite pk off 8 v) s = .next ((s.count pk 13 1).detect pk .none (2 ^ 90) { fcode := 0x9008, point := 7, detail := BitVec.ofNat 32 off }))
    ∧ (s.windowOn pk = true → regAt off = none → off % 8 = 0 → exec (.registerWrite pk off 8 v) s = .next (s.count pk 13 1))
    ∧ (s.windowOn pk = false → exec (.registerWrite pk off 8 v) s = .next s)

/-- The registers of the fault log, the counters and the links (R370, R372, R396, R405, R406, R440, R466, R467, R470): a consumer index (HMCONS,
FLTCONS) takes the value, a counter and HOSTERR clear on any write, FLTSTAT loses LOST where 0 is written to it, LNKSTn loses RETRY, SUCFG.EN
can be cleared, FLTCTL takes its value and frees every kept record where KEEP goes from 1 to 0, a write of SPRNOW with GO is a replacement
point that keeps BUSY while a part of it is left, and PSNCLR zeroes its frame and clears the frame's poison bit.
What PSNCLR takes from the list of damaged lines is the model's reading (log 24). -/
def Obligations.WindowRegistersDoTheirWork : Prop :=
  ∀ (s : State) (pk : Nat) (v : W64),
    s.windowOn pk = true →
    (v.toNat < 2 ^ 32 → exec (.hmconsWrite pk v) s = .next (s.setReg pk 0x40 v))
    ∧ (v.toNat < 2 ^ 32 → exec (.fltconsWrite pk v) s = .next (s.setReg pk 0x16018 v))
    ∧ (v.toNat < 2 ^ 32 → ∀ n < 16, exec (.ecntWrite pk n v) s = .next (s.setReg pk (0x16040 + 8 * n) 0))
    ∧ (v.toNat < 2 ^ 48 → exec (.hosterrWrite pk v) s = .next (s.setReg pk 0x16630 0))
    ∧ (v &&& bitsTo 11 31 = 0 → ∀ n < 32, exec (.lnkstWrite pk n v) s = .next (s.setReg pk (0x16700 + 8 * n) (s.reg pk (0x16700 + 8 * n) &&& 0xFFFFFFFF)))
    ∧ (v.toNat < 2 ^ 25 → exec (.fltstatWrite pk v) s
        = .next (if v.toNat % 65536 = 0 then s.setReg pk 0x16020 (s.reg pk 0x16020 &&& 0x1FF0000) else s))
    ∧ (s.Accepts pk 0x48 v .sucfg 0 → (s.reg pk 0x48).getLsbD 0 = true → v.getLsbD 0 = false →
      exec (.sucfgLinkDisable pk v) s = .next (s.setReg pk 0x48 v))
    ∧ (s.Accepts pk 0x16008 v .fltctl 0 →
      let s1 := s.setReg pk 0x16008 v
      ((s.reg pk 0x16008).getLsbD 12 = false ∨ v.getLsbD 12 = true → exec (.fltctlKeepClear pk v) s = .next s1)
      ∧ ((∀ f ∈ s.figs, f.2.pk = pk → f.2.kept = false) → exec (.fltctlKeepClear pk v) s = .next s1)
      ∧ ∃ t, exec (.fltctlKeepClear pk v) s = .next t ∧ t.regs = s1.regs ∧ t.mem = s.mem
        ∧ ((s.reg pk 0x16008).getLsbD 12 = true → v.getLsbD 12 = false →
          ∀ f ∈ s.figs, f.2.pk = pk → f.2.ended = true → f.2.kept = true → (t.fig f.1).kept = false))
    ∧ (s.Accepts pk 0x16620 v .sprnow 0 → v.getLsbD 0 = true →
      let w := (s.reg pk 0x16620 &&& 3) ||| (v &&& ~~~(3 : W64))
      let t := (s.setReg pk 0x16620 w).point pk
      exec (.sprnowGo pk v) s = .next (if (t.ms.due.get [] pk).isEmpty then t else t.setReg pk 0x16620 (w ||| 2)))
    ∧ (v &&& (bitsTo 2 11 ||| bitsTo 40 63) = 0 → v.getLsbD 0 = true →
      let frame := v.toNat / 4096 % 2 ^ 28
      let pa := pk * 2 ^ 40 + frame * 4096
      let t := (s.setReg pk 0x16608 ((s.reg pk 0x16608 &&& 3) ||| (v &&& ~~~(3 : W64)))).clearFrame pk frame
      exec (.psnclrGo pk v) s = .next t
        ∧ (∀ i < 4096, t.peek (pa + i) = 0)
        ∧ t.poisoned pa = false
        ∧ (∀ b, (b < pa ∨ pa + 4096 ≤ b) → (s.poisonBit pa).map Prod.fst ≠ some b → t.peek b = s.peek b))

/-- Loads and stores of the host through BAR4 (R368, R409, R467): a load receives the bytes at the aperture's address, a store leaves its
bytes there and every other byte as it was; with the BARs off a load receives ones; a poisoned write is discarded with its record. -/
def Obligations.TheHostReachesMemory : Prop :=
  ∀ (s : State) (pk off len : Nat),
    let pa := s.aperture pk off
    (s.barsOn pk = true → s.apertureFault pk pa len = none → s.ms.errs = [] → s.migState (s.backing pa false) = 0 →
      ∃ t, exec (.bar4Load pk off len) s = .next t ∧ t.out.readData.get [] pk = s.peeks (s.backing pa false) len ∧ SameMem s t)
    ∧ (∀ data, s.barsOn pk = true → (s.members.get {} pk).step = 0 → s.apertureFault pk pa len = none → s.ms.errs = [] →
      s.migState (s.backing pa false) = 0 → data.length = len →
      ∃ t, exec (.bar4Store pk off len data) s = .next t ∧ t.peeks (s.backing pa false) len = data ∧ SameMemExcept s t (s.backing pa false) len)
    ∧ (s.barsOn pk = false → exec (.bar4Load pk off len) s = .next (s.hostReads pk (List.replicate len 0xFF)))
    ∧ (∀ c, s.barsOn pk = true → s.apertureFault pk pa len = some c →
      exec (.bar4Load pk off len) s = .next ((s.windowRecord pk c 0 pa).hostReads pk (List.replicate len 0xFF)))
    ∧ (∀ bar, (bar = 2 ∨ bar = 4) → exec (.poisonedHostWrite pk bar off) s = .next ((s.hosterr pk 1).windowRecord pk 0x9009 off 0))

/-- The host link and the ports (R464 to R467): what an error counts, which lane gives way, what a port going down and a retraining
do, and how an access ends whose destination no port reaches or whose host read fails.
The port of a requester, the fate of an access on its way, the outcome of a training, the lane of a flit error and the BARs after HOST_LINK_UP are the model's choices (logs 8, 42, 43, 45, 46). -/
def Obligations.LinksFailAndRecover : Prop :=
  ∀ (s : State) (pk port : Nat),
    let n := 32 * pk + port
    let v := s.lnk pk port
    (s.out.hostDown.get false pk = false → exec (.hostLinkDown pk) s = .next ((s.setHostDown pk true).hosterr pk 0))
    ∧ exec (.hostLinkUp pk) s = .next ((s.setHostDown pk false).setBarsOff pk false)
    ∧ exec (.hotReset pk) s = .next (s.setBarsOff pk true)
    ∧ (s.portUp pk port = true → let l := 16 * n + (Config.freeLane s.free).toNat
      exec (.linkFlitError pk port) s = .next { s with free := s.free + 1, out := { s.out with
        laneErrs := s.out.laneErrs.put 0 l (s.out.laneErrs.get 0 l + 1), replays := s.out.replays.put 0 n (s.out.replays.get 0 n + 1) } })
    ∧ (s.portUp pk port = true → s.out.replays.get 0 n ≠ 0 → port < 32 → v.toNat / 2 ^ 32 ≠ 0xFFFFFFFF →
      ∃ t, exec (.linkReplay pk port) s = .next t ∧ t.lnk pk port = v + 0x100000000 ∧ t.out.replays.get 0 n = 0)
    ∧ (∀ lane < 8, v.getLsbD 0 = true → v.getLsbD 2 = true → v.getLsbD 3 = false → v.getLsbD 7 = false →
      exec (.laneFailing pk port lane true) s
        = .next ((s.setLnk pk port ((v &&& ~~~(0x70 : W64)) ||| 8 ||| BitVec.ofNat 64 (lane * 16))).count pk 7 1))
    ∧ (s.portUp pk port = true → s.crossing pk port = [] → s.crossingDeltas pk port = false → port < 32 →
      ∃ t, exec (.portDown pk port) s = .next t ∧ t.portUp pk port = false ∧ (t.reg pk 0x58).getLsbD port = false ∧ t.det = s.det)
    ∧ (∀ w, s.Accepts pk 0x16638 w .lnkcfg 0 → w.getLsbD 16 = true → s.portUp pk (w.toNat / 2 ^ 17 % 32) = false → (s.reg pk 0x48).getLsbD 0 = true →
      exec (.lnkcfgRetrain pk w) s = .next ((s.setReg pk 0x16638 ((s.reg pk 0x16638 &&& 0x10000) ||| (w &&& ~~~(0x10000 : W64)))).trainPort pk (w.toNat / 2 ^ 17 % 32)))
    ∧ (∀ ac a rs since, s.acc ac = some a → a.phase = .sent → a.since = some since → since + 1800000 ≤ s.cyc → a.rs = some rs →
      s.linked (s.region a.rg).pk (paPkg a.pa) = false → s.sameDomain (s.region a.rg).pk (paPkg a.pa) = false →
      exec (.unreachableTimeout ac) s = .next ((s.streamFault rs a.ret a.rg a.va 0x400A false).withdraw rs))
    ∧ (∀ ac r q since, s.acc ac = none → s.req ac = some r → s.reqCut r = some q → r.isOver = false → r.since = some since → since + 1800000 ≤ s.cyc →
      s.sameDomain (tpPk r.tp) q = false → exec (.unreachableTimeout ac) s = .next (s.endReq ac r 0x800A (s.reqVA r q)))
    ∧ (∀ ac a, s.acc ac = some a → a.phase = .home → a.scr = none → paSpace a.pa = 1 → a.kind.reads = true →
      exec (.hostCompletionError ac) s = .next ((s.hosterr (paPkg a.pa) 2).homeFault ac a 0x4008))

/-! ### Recovery intervals and rollback (chapters 7 and 20) -/

/-- Recovery intervals (R149, R150, R153, R157, R159, R173): the first interval begins once every member is enabled; CLOSE opens the next
interval and the close window, DRAIN ends the window and collects the reports, the vote leads to SEAL, which seals the closed interval on
every member; a disable request ends interval operation at the SEAL of the Pavane begun for it, or is abandoned where a member asks for a
rollback.
One step for all members of a domain, and the moment from which intervals run, are the model's choices (logs 19, 38). -/
def Obligations.IntervalsAreSealed : Prop :=
  ∀ (s : State) (pk : Nat),
    let ms := s.domain pk
    let closed (t : State) : Prop := ∀ q ∈ ms, t.open_ q = s.open_ q + 1 ∧ t.sealed q = s.sealed q ∧ t.phase q = 1
      ∧ (t.pav q).window = true ∧ (t.pav q).begun = s.cyc ∧ (t.pav q).quitting = (s.pav q).disable ∧ t.reqBit q = false
    (s.enBit pk = true → s.leader pk = pk → pk ∈ ms → (∀ q ∈ ms, s.enBit q = true ∧ (s.pav q).started = false) →
      (∀ q ∈ ms, ∀ k < 16, (s.stack (q * 16 + k)).sweep = false) →
      ∃ t, exec (.intervalEnable pk) s = .next t ∧ ∀ q ∈ ms, t.open_ q = 1 ∧ t.sealed q = 0 ∧ (t.pav q).started = true)
    ∧ (s.pvEn pk = true → (s.pav pk).req = true →
      ∃ t, exec (.sealRequest pk) s = .next t ∧ t.reqBit pk = true ∧ t.reqBit (s.leader pk) = true ∧ (t.pav pk).req = false)
    ∧ (s.mayClose pk = true → (s.pav pk).begun + s.period pk * 1800 ≤ s.cyc → ∃ t, exec (.sealPeriodExpiry pk) s = .next t ∧ closed t)
    ∧ (s.mayClose pk = true → s.reqBit pk = true ∨ (s.pav pk).disable = true → ∃ t, exec (.pavaneClose pk) s = .next t ∧ closed t)
    ∧ (s.pvEn pk = true → (s.members.get {} pk).step = 0 → s.phase pk = 1 → s.leader pk = pk →
      ∃ t, exec (.pavaneDrain pk) s = .next t ∧ ∀ q ∈ ms, (t.pav q).window = false ∧ t.phase q = 2 ∧ ∀ k < 16, (t.stack (q * 16 + k)).cwt = [])
    ∧ (s.pvEn pk = true → (s.members.get {} pk).step = 0 → s.phase pk = 2 → (s.pav pk).drained = false → s.drainedAt pk = true → pk ∈ ms →
      ∃ t, exec (.pavaneDrain pk) s = .next t ∧ (t.pav pk).drained = true
        ∧ ((∀ q ∈ ms, q ≠ pk → (s.pav q).drained = true) → ∀ q ∈ ms, t.phase q = 3))
    ∧ (s.pvEn pk = true → s.leader pk = pk → s.phase pk = 3 → (s.members.get {} pk).step = 0 → (∀ q ∈ ms, (s.pav q).cond = false) →
      ∃ t, exec (.pavaneVote pk) s = .next t ∧ ∀ q ∈ ms, t.phase q = 4)
    ∧ (s.pvEn pk = true → s.leader pk = pk → s.phase pk = 4 → (s.pav pk).quitting = false →
      ∃ t, exec (.pavaneSeal pk) s = .next t ∧ ∀ q ∈ ms, t.sealed q = s.open_ q - 1 ∧ t.open_ q = s.open_ q ∧ t.phase q = 0 ∧ (t.pav q).window = false)
    ∧ (s.pvEn pk = true → s.leader pk = pk → s.phase pk = 4 → (s.pav pk).quitting = true → s.det = [] → (∀ q ∈ ms, (s.members.get {} q).report = false) →
      ∃ t, exec (.pavaneSeal pk) s = .next t ∧ (∀ q ∈ ms, t.enBit q = false ∧ t.open_ q = 0 ∧ t.sealed q = 0)
        ∧ ∀ a ∈ t.fl.accs, (s.region a.2.rg).pk ∈ ms → a.2.tag = none)
    ∧ (s.pvEn pk = true → s.leader pk = pk → s.phase pk = 4 → (s.pav pk).quitting = true → (∃ q ∈ ms, (s.members.get {} q).report = true) →
      ∃ t, exec (.pavaneSeal pk) s = .next t ∧ (∀ q ∈ ms, t.sealed q = s.open_ q - 1 ∧ t.enBit q = s.enBit q)
        ∧ (t.pav pk).disable = false ∧ (t.pav pk).quitting = false)
    ∧ (s.enBit pk = true → s.leader pk = pk → s.windowOn pk = true →
      ∃ t, exec (.disableRequest pk) s = .next t ∧ (t.pav pk).disable = true ∧ t.reqBit pk = true)

/-- A tier-2 rollback (R446 to R448, R451): the leader names the newest sealed interval as the target, every member discards its work and
its traffic, restores its lines, newest entry first, and counts intervals from the target on; the leader's REPAIR replaces lost packages and
rebuilds each group, and RESUME ends the rollback. A lost member and a silent leader start one.
One step for all members of a domain, what follows a spare's number, and a disable request that waits are the model's choices (logs 19, 41, 95). -/
def Obligations.RollbacksRestoreTheSealedInterval : Prop :=
  ∀ (s : State) (pk : Nat),
    let ms := s.domain pk
    (s.pvEn pk = true → s.leader pk = pk → pk ∈ ms → s.phase pk ≠ 4 → (∃ q ∈ ms, (s.member q).report = true) → (∀ q ∈ ms, (s.member q).step = 0) →
      let t := ms.foldl (fun u q => u.setMember q { u.member q with step := 1, target := s.sealed pk }) s
      exec (.rollbackStart pk) s = .next t ∧ ∀ q ∈ ms, (t.member q).step = 1 ∧ (t.member q).target = s.sealed pk)
    ∧ (s.stepReady pk 1 = true →
      let u := s.discardWork pk
      let t := (u.setStaged pk ((u.staged pk).filter fun e => match e.tag with | none => true | some v => ivLe v (s.member pk).target)).nextStep pk
      exec (.rollbackHold pk) s = .next t
        ∧ (∀ w ∈ t.work.walks, w.2.pk ≠ pk) ∧ (∀ k ∈ t.work.tasks, k.2.pk ≠ pk) ∧ (∀ r ∈ t.eng.reqs, tpPk r.2.tp ≠ pk))
    ∧ (s.stepReady pk 2 = true →
      let t := (s.dropTraffic pk).nextStep pk
      exec (.rollbackQuiet pk) s = .next t ∧ (∀ a ∈ t.fl.accs, (s.region a.2.rg).pk ≠ pk) ∧ (∀ d ∈ t.ms.deltas, d.2.src ≠ pk ∧ d.2.dst ≠ pk)
        ∧ (t.member pk).step = 3 ∧ SameMem s t)
    ∧ (s.stepReady pk 3 = true →
      let target := (s.member pk).target
      let u := (stacksOf pk).foldl (fun u sk => u.applyStack pk target sk) s
      ∃ t, exec (.rollbackApply pk) s = .next t ∧ t.mem = u.mem ∧ t.open_ pk = target + 1 ∧ t.sealed pk = target ∧ t.phase pk = 0
        ∧ (∀ c, c / 4096 = pk → t.secs.get 0 c = 0) ∧ (t.pav pk).window = false)
    ∧ (∀ target sk, (s.applyStack pk target sk).mem
        = (((s.undoAll sk).filter fun p => !(ivLe (s.undoTag sk p) target)).reverse.foldl (fun u p => u.applyUndo pk sk p) s).mem)
    ∧ (∀ sk p, let line := s.undoLine sk p
      s.damagedIn (s.undoAt sk p) 128 = false → s.poisonBit line = none →
      (s.applyUndo pk sk p).peeks line 64 = s.peeks (s.undoAt sk p) 64 ∧ SameMemExcept s (s.applyUndo pk sk p) line 64)
    ∧ (s.leader pk = pk → (s.member pk).step = 4 → (∀ q ∈ ms, (s.member q).step = 4) →
      let r := (s.lostMembers pk).foldl (fun (r : State × List Nat) lp =>
        ((r.1.replaceMember pk lp).1, if (r.1.replaceMember pk lp).2 then r.2 ++ [lp] else r.2)) (s, [])
      let qs := r.1.domain pk
      let u := (r.1.domainGroups qs).foldl (fun u g => u.rebuildGroup pk r.2 g) r.1
      let v := qs.foldl (fun u q => (u.zeroDamaged q).count q 9 r.2.length) u
      exec (.rollbackRepair pk) s = .next (qs.foldl (fun u q => u.setMember q { u.member q with step := 5 }) v))
    ∧ (s.leader pk = pk → (s.member pk).step = 5 → (∀ q ∈ ms, (s.member q).step = 5) →
      (∀ d ∈ s.det, d.info.pkg.toNat ∈ ms → d.info.tier ≠ 2 ∧ d.info.tier ≠ 3) →
      ∃ t, exec (.rollbackResume pk) s = .next t ∧ ∀ q ∈ ms, (t.member q).step = 0 ∧ (t.member q).report = false ∧ (t.pav q).cond = false)
    ∧ (∀ m, s.pvEn pk = true → s.leader pk = pk → pk ∈ ms → m ∈ ms → m ≠ pk →
      exec (.memberLost pk m) s = .next (s.declareLost pk m) ∧ ((s.declareLost pk m).member m).lost = true)
    ∧ (let old := s.leader pk
      let others := ms.filter fun q => decide (q ≠ old)
      s.pvEn pk = true → others.head? = some pk → old ∈ ms → (s.pav pk).begun + (s.period pk + 100) * 1800 ≤ s.cyc →
      let u := others.foldl (fun u q => u.setReg q 0x11000 ((u.reg q 0x11000 &&& ~~~(bitsTo 18 30)) ||| BitVec.ofNat 64 (pk * 2 ^ 18))) s
      exec (.leaderTakeover pk) s = .next (u.declareLost pk old) ∧ ∀ q ∈ others, (u.declareLost pk old).leader q = pk)

/-! ### Damage in the fabric, redundant Figures and spares (chapters 18 and 19) -/

/-- Damage on the way of a token and its repair (R412, R413, R416 to R419): a token that fails its check is sent again from the second
cycle on (HOP_CHECK_FAIL, HOP_RESEND), a misrouted one after 512 (MISROUTE_RESEND_TIMEOUT), and after nine sends the receiver fails; a result's
emits come later or raise 0xE101 (RESULT_RETRY); a damaged plane takes its image's records again (PLANE_REFILL); a token or a local register
with an uncorrectable error is tainted.
That the tokens of a failed hop's window are dropped is the model's reading (log 39). -/
def Obligations.FabricDamageIsRepaired : Prop :=
  ∀ (s : State),
    (∀ hop e, s.arriving hop = some e → e.sends < 9 →
      exec (.hopCheckFail hop) s = .next (s.replay e (s.cyc + 2) false) ∧ exec (.misrouteResendTimeout hop) s = .next (s.replay e (s.cyc + 512) true))
    ∧ (∀ hop e, s.arriving hop = some e → 9 ≤ e.sends →
      exec (.hopCheckFail hop) s = .next (s.hopFails e) ∧ exec (.misrouteResendTimeout hop) s = .next (s.hopFails e))
    ∧ (∀ e c slow, (∀ x ∈ (s.replay e c slow).fl.emits, ¬ (x.src = e.src ∧ x.dst = e.dst))
      ∧ ∃ h ∈ (s.replay e c slow).fl.hops, h.src = e.src ∧ h.dst = e.dst ∧ h.from_ ≤ c)
    ∧ (∀ hop h e es, s.fl.hops.find? (fun x => decide (hopCode x.src x.dst = some hop)) = some h → h.win = e :: es → h.from_ ≤ s.cyc → e.due ≤ s.cyc → e.sends = 0 →
      exec (.hopResend hop) s = .next (({ s with fl := { s.fl with hops := s.fl.hops.map fun x => if x = h then { h with win := es, from_ := s.cyc + 1, slow := false } else x } } : State).sendEmit
        { e with due := s.cyc, sends := 1 }))
    ∧ (∀ el, s.madeNow el ≠ [] →
      (∃ t, exec (.resultRetry el false) s = .next t ∧ t.fl.emits.length = s.fl.emits.length
        ∧ ∀ e ∈ s.madeNow el, { e with due := e.due + (e.due - e.born + 1) } ∈ t.fl.emits)
      ∧ (∃ t, exec (.resultRetry el true) s = .next t ∧ (∀ e ∈ s.madeNow el, e ∉ t.fl.emits) ∧ ∃ d ∈ t.det, d.info.fcode = 0xE101 ∧ d.info.tier = 2))
    ∧ (∀ st p rg, let x := s.stripe st
      let pl := x.planes.get {} p
      x.rg = some rg → pl.valid = true → x.corr < 4096 →
      ∃ t, exec (.planeRefill st p) s = .next t
        ∧ t.stripe st = { x with planes := x.planes.put {} p { (s.fig (figOf rg)).imgs.get {} pl.img with valid := true, img := pl.img }, corr := x.corr + 1 })
    ∧ (∀ el q i tok, ((s.elem el).queue q)[i]? = some tok → ∃ bad, (((s.damaged (.queue el q i) true).elem el).queue q)[i]? = some bad
      ∧ bad.et = true ∧ bad.seq = tok.seq ∧ bad.rid = tok.rid)
    ∧ (∀ el i, ((s.damaged (.kreg el i) true).elem el).kTaint.getLsbD i.toNat = true)

/-- Redundant Figures and spares (R426, R428 to R430, R432, R468): instances that agree go on with one of them performing the point; two
that differ stop with 0xE106, three without a majority with 0xE108, one of two that waits 2^22 cycles with 0xE107, of three the one that lets two agreeing ones wait so long is outvoted; a part that nothing holds gives
way to its spare, whose memory has the same contents.
Which instance performs a point, and a replacement that waits for room, are the model's readings (logs 18, 40). -/
def Obligations.RedundancyAndSparesWork : Prop :=
  ∀ (s : State),
    (∀ fg key, s.compares fg = true → (∀ g ∈ s.group fg, (s.fig g).owed.get [] key = []) →
      (∀ a b p q, s.group fg = [a, b] → s.pointAt a key = some p → s.pointAt b key = some q →
        exec (.comparePoint fg key) s = .next (if p.what = q.what then s.agree fg key a p [(b, q)] else s.disagree fg key 0xE106))
      ∧ (∀ a b c p q r, s.group fg = [a, b, c] → s.pointAt a key = some p → s.pointAt b key = some q → s.pointAt c key = some r →
        (p.what = q.what → q.what = r.what → exec (.comparePoint fg key) s = .next (s.agree fg key a p [(b, q), (c, r)]))
        ∧ (p.what = q.what → q.what ≠ r.what → exec (.comparePoint fg key) s = .next ((s.agree fg key a p [(b, q), (c, r)]).outvote c key))
        ∧ (p.what ≠ q.what → q.what ≠ r.what → p.what ≠ r.what → exec (.comparePoint fg key) s = .next (s.disagree fg key 0xE108)))
      ∧ (∀ a b p, s.group fg = [a, b] → s.pointAt a key = some p → s.pointAt b key = none → (s.fig fg).late.get none key = none →
        exec (.comparePoint fg key) s = .next (s.setLate fg key (some s.cyc)))
      ∧ (∀ a b p c, s.group fg = [a, b] → s.pointAt a key = some p → s.pointAt b key = none → (s.fig fg).late.get none key = some c → c + 2 ^ 22 ≤ s.runClock (s.fig fg) →
        exec (.redundantTimeout fg key) s = .next (s.disagree fg key 0xE107))
      ∧ (∀ a b c p q n, s.group fg = [a, b, c] → a ≠ c → b ≠ c → s.pointAt a key = some p → s.pointAt b key = some q → p.what = q.what → s.pointAt c key = none →
        (s.fig fg).late.get none (lateKey key true) = some n → n + 2 ^ 22 ≤ s.runClock (s.fig fg) →
        exec (.redundantTimeout fg key) s = .next (((s.setFig c { s.fig c with owed := (s.fig c).owed.put [] key [p.op] }).outvote c key).agree fg key a p [(b, q)])))
    ∧ (∀ fg key code, ∃ d, (s.disagree fg key code).det = s.det ++ [d] ∧ d.own = .figure fg ∧ d.info.fcode = code ∧ d.info.tier = 2)
    ∧ (∀ pk x, (s.members.get {} pk).step = 0 → (s.ms.due.get [] pk).find? s.partFree = some x →
      exec (.spareReplacement pk) s = .next (s.replacePart pk x))
    ∧ (∀ pk x, x.1 = 2 ∨ x.1 = 3 ∨ x.1 = 4 → SameMem s (s.replacePart pk x) ∧ x ∉ (s.replacePart pk x).ms.pend)

/-! ### The fault handler (chapters 18 and 21) -/

/-- The fault handler (R396, R404, R405, R443, R460, R461): a condition without an owner joins the log; one that ends its Figure joins it
and halts the Figure; one that holds it waits for the save record; a record goes to the host's ring; and the two disposal registers resume,
step or end a held Figure, and discard a write that names none.
A second hold of one Figure and the record of a held Figure that ends are the model's readings (logs 25, 37). -/
def Obligations.FaultsAreDisposedOf : Prop :=
  ∀ (s : State) (pk : Nat),
    (∀ d, s.det = [d] → d.info.pkg.toNat = pk → d.info.cyc.toNat < s.cyc → d.own = .none → d.info.tier = 4 → d.info.point = 7 → (s.sched pk).log.length < 256 →
      ∃ t, exec (.faultRecordDispatch pk) s = .next t ∧ t.det = [] ∧ SameMem s t
        ∧ (t.sched pk).log = (s.sched pk).log ++ [{ d.info with num := BitVec.ofNat 32 (s.sched pk).num }])
    ∧ (∀ d fg, let x := s.fig fg
      s.det = [d] → d.info.pkg.toNat = pk → d.info.cyc.toNat < s.cyc → d.own = .figure fg → (s.figs.any fun f => decide (f.1 = fg)) = true → x.lead = fg →
      x.ended = false → x.phase = .placed → x.rank = 0 → d.info.tier = 4 → d.info.fcode.toNat / 4096 = 4 → d.info.point = 1 →
      exec (.faultRecordDispatch pk) s = .next ((({ s with det := [] } : State).count x.pk 10 1).endDisp fg 2 { d.info with asid := x.asid, tag := x.tag }))
    ∧ (∀ d fg, let x := s.fig fg
      s.det = [d] → d.info.pkg.toNat = pk → d.info.cyc.toNat < s.cyc → d.own = .figure fg → (s.figs.any fun f => decide (f.1 = fg)) = true → x.lead = fg →
      x.ended = false → x.phase = .placed → x.rank = 0 → d.info.tier = 4 → d.info.fcode = 0xD001 →
      exec (.faultRecordDispatch pk) s = .next (({ s with det := [] } : State).holdDisp fg { d.info with asid := x.asid, tag := x.tag }))
    ∧ (∀ r rs, let n := 2 ^ ((s.reg pk 0x16008).toNat / 2 % 16)
      let p := (s.reg pk 0x16010).toNat
      let b := (s.reg pk 0x16000).toNat % 2 ^ 40 / 4096 * 4096
      (s.sched pk).log = r :: rs → (s.reg pk 0x16008).getLsbD 0 = true → s.out.hostDown.get false pk = false →
      (p + 2 ^ 32 - (s.reg pk 0x16018).toNat) % 2 ^ 32 ≠ n → b + 64 * n + 8 ≤ 2 ^ 40 →
      ∃ t, exec (.faultRecordPost pk) s = .next t ∧ (t.sched pk).log = rs ∧ t.reg pk 0x16010 = BitVec.ofNat 64 ((p + 1) % 2 ^ 32)
        ∧ t.peeks (hostPA pk (b + 64 * (p % n))) 64 = recBytes { r with cyc := BitVec.ofNat 64 (r.cyc.toNat - s.out.clock0.get 0 pk) })
    ∧ (∀ num fg, num < 2 ^ 32 → s.windowOn pk = true →
      (s.heldBy pk false (BitVec.ofNat 32 num) = none →
        exec (.pgfresResume pk num) s = .next (s.discard pk 0x16610) ∧ exec (.pgfresEnd pk num) s = .next (s.discard pk 0x16610))
      ∧ (s.heldBy pk true (BitVec.ofNat 32 num) = none →
        exec (.dbgresResume pk num) s = .next (s.discard pk 0x16628) ∧ exec (.dbgresEnd pk num) s = .next (s.discard pk 0x16628)
        ∧ exec (.dbgresStep pk num) s = .next (s.discard pk 0x16628))
      ∧ (s.heldBy pk false (BitVec.ofNat 32 num) = some fg →
        exec (.pgfresResume pk num) s = .next ((s.setReg pk 0x16610 (BitVec.ofNat 64 (num + 2 ^ 32))).releaseHold fg false false)
        ∧ exec (.pgfresEnd pk num) s = .next ((s.setReg pk 0x16610 (BitVec.ofNat 64 (num + 2 * 2 ^ 32))).endHeld fg))
      ∧ (s.heldBy pk true (BitVec.ofNat 32 num) = some fg →
        exec (.dbgresResume pk num) s = .next ((s.setReg pk 0x16628 (BitVec.ofNat 64 (num + 2 ^ 32))).releaseHold fg true false)
        ∧ exec (.dbgresEnd pk num) s = .next ((s.setReg pk 0x16628 (BitVec.ofNat 64 (num + 2 * 2 ^ 32))).endHeld fg)
        ∧ exec (.dbgresStep pk num) s = .next ((s.setReg pk 0x16628 (BitVec.ofNat 64 (num + 3 * 2 ^ 32))).releaseHold fg true true)))

/-! ### Boot, attestation and resets (chapters 2, 5 and 15) -/

/-- Boot, attestation, power and resets (R8, R119, R373 to R376): a cold reset gives every register of the package its reset value and
leaves the host's memory; a boot stops at its first failed check and otherwise goes on to its late steps; the report stands at ATTDST; an
idle ring is gated; a domain reset clears what the rule names and leaves memory.
Fused secrets, reset values from the fuse map, the number of a package, SHA-256 and PSS, the header's checks, unwritten memory and what a domain reset leaves are the model's choices (logs 6, 10, 13, 44, 47, 48, 49). -/
def Obligations.BootAndResets : Prop :=
  ∀ (s : State) (pk : Nat),
    (∃ t, exec (.coldReset pk) s = .next t ∧ t.reg pk 0x18 = 2 ∧ (∀ off < 2 ^ 20, off ≠ 0x18 → t.reg pk off = regReset pk off)
      ∧ (Memory.wf s.mem = true → ∀ a < 2 ^ 60, paSpace a = 1 → t.peek a = s.peek a) ∧ (∀ a < 2 ^ 60, paSpace a ≠ 1 → paPkg a = pk → t.peek a = 0))
    ∧ (s.windowOn pk = true → s.reg pk 0x18 = 2 →
      let src := (s.reg pk 0x10).toNat % 2 ^ 40
      let h := s.hostBytes pk src bundleLen
      let q := bnum h 0xC 4 % 8192
      exec (.bootctlGo pk 1) s = .next (match headerCause pk h, s.imageCause pk src h with
        | some c, _ => s.bootFail pk 3 c
        | none, some c => s.bootFail pk 4 c
        | none, none => if q = pk then s.bootLate pk h else if (s.reg q 0x18).getLsbD 4 then s else (s.renumber pk q).bootLate q h))
    ∧ (∀ step c, step < 16 → c.1 < 16 → c.2 < 2 ^ 32 → ((s.bootFail pk step c).reg pk 0x18).toNat = step + 32 ∧ ((s.bootFail pk step c).reg pk 0x16028).toNat = c.1 + 16 * step + 256 * c.2)
    ∧ (s.windowOn pk = true → let a := hostPA pk ((s.reg pk 0x80).toNat % 2 ^ 40)
      ∃ t, exec (.attctlGo pk 1) s = .next t ∧ t.peeks a 528 = s.report pk ∧ SameMemExcept s t a 528)
    ∧ (∀ ring, (∀ i < 32, (s.stripe (ring * 32 + i)).rg = none) → (s.ring ring).busyAt + 1000 * 1800 ≤ s.cyc → s.out.clock0.get 0 (pkOf ring) + 1000 * 1800 ≤ s.cyc →
      exec (.powerGate ring) s = .next (s.setRing ring { s.ring ring with gated := true }))
    ∧ (∀ mp, ∃ t, exec (.memoryPortDomainReset mp) s = .next t ∧ SameMem s t ∧ (∀ q ∈ t.eng.queues, q.1 / 4 ≠ mp) ∧ (∀ r ∈ t.eng.reqs, r.2.tp / 4 ≠ mp)
      ∧ (∀ l ∈ t.ms.tlb2, l.1 ≠ mp) ∧ ∀ n < 8, t.spp mp n = 0)
    ∧ (∀ die, ∃ t, exec (.fabricDieReset pk die) s = .next t ∧ (∀ i < 4, (t.ring (pk * 64 + 4 * die + i)).inReset = true) ∧ t.ms = s.ms ∧ t.mem = s.mem)

/-! ### The machine as a whole -/

/-- Decoding the words that encode a well-formed instruction gives it back, with every operand at every value that the encoding admits:
slot words, matrix words, reel words, requests and graph nodes (R176 to R184, R332, R342). -/
def Obligations.EncodingsDecodeBack : Prop :=
  (∀ op f, SlotOp.wf op f = true → decodeSlot (encodeSlot op f) = .ok (op.mk f))
  ∧ (∀ op w, MOp.wf op w = true → decodeMatrix (encodeMatrix op w) = .ok (op.mk w))
  ∧ (∀ i w, i.wf = true → encodeReel i = some w → decodeReel w = .ok i)
  ∧ (∀ i x, i.wf = true → encodeRequest i = some x → decodeRequest x = .ok i)
  ∧ (∀ i x, i.wf = true → encodeNode i = some x → decodeNode x = .ok i)

/-- Words written out bit by bit from the encoding tables decode to what they stand for: slots (Table 8.1), matrix words (Table 8.6),
reel words (Table 8.8), requests (Table 8.9) and nodes (Table 8.10). -/
def Obligations.WrittenWordsDecode : Prop :=
  -- `add`, MOD 2, both operands popped, T1 queue 1 of the element at offset 0, no T2
  decodeSlot 0b00000001_0010_0_00_00_0101000000_0000000000_0_0000_000_000#48
      = .ok (.add { mod := 2, pq := false, l := .pop, r := .pop, t1 := .queue 1 0, t2 := .none, sq := false, cidx := 0 })
  -- `sub`, L from k5, R the constant 3, T1 = k2
  ∧ decodeSlot 0b00000010_0000_0_10_11_1000000010_0000000000_0_0011_000_101#48
      = .ok (.sub { mod := 0, pq := false, l := .k 5, r := .c, t1 := .kreg 2, t2 := .none, sq := false, cidx := 3 })
  ∧ decodeReel 0b00001000_0000_0000_0000_00000000000000000000000000000001001000110100#64 = .ok (.jmp 0x1234)
  ∧ decodeReel 0b00010001_0000_0011_0100_11111111111111111111111111111111111111111111#64 = .ok (.addi 3 4 (-1))
  ∧ decodeMatrix 0b000011_0000_000000_00_00_0000000000_0000000000000001_000000000000000000#64
      = .ok (.mzero { fmt := 0, pi := 0, scsw := 0, scsa := 0, dtgt := .none, cnt := 1, opx := 0 })
  ∧ decodeNode 0x700000000#512 = .ok (.nodeEnd { prio := 0, next := 7 })

/-- A step runs the instruction that the word at its agent decodes to (R56, R299, R314, R319, R320, R332, R342): for the choice `c` of who
moves and the state `t` once the cycles of that choice have passed, the step is `exec` of the decoded instruction at `t`, whose `act` names
the agent, for a section once its Reel chooses it; a step of the machine that is no word of an agent is `exec` of that step; an error of
storage does what it does there; and a word that encodes nothing leaves its agent where it is.
Who moves, and what becomes of a word that encodes nothing, are the model's choices (logs 2, 15). -/
def Obligations.AStepRunsTheDecodedInstruction : Prop :=
  ∀ (s t : State) (c : Sel),
    s.choose.1 = c → s.choose.2.tick (s.choose.2.pace c.dt) = t →
    let runs (u : State) (d : Except Reject Instr) : Prop :=
      (∀ i, d = .ok i → step s = exec i u) ∧ (∀ e, d = .error e → step s = .next u)
    (∀ el h, c.who = .agent (.slot el) → (t.elem el).run = some h → let a := t.slotAct el h.pos
      runs { t with act := a } (decodeSlot ((t.elPlane el a.plane).words.get 0 a.pos)))
    ∧ (∀ rg, c.who = .agent (.reel rg) → let x := (t.region rg).reel
      let u : State := { t with act := { rg := rg } }
      let g := t.ring (t.region rg).ring
      x.rpc.toNat < x.count →
      (∀ i, decodeReel (x.words.get 0 x.rpc.toNat) = .ok i → step s = if t.reelTurn rg
        then exec i (u.setRing (t.region rg).ring { g with chose := t.cyc + 1, chosen := rg }) else .next u)
      ∧ (∀ e, decodeReel (x.words.get 0 x.rpc.toNat) = .error e → step s = .next u))
    ∧ (∀ el, c.who = .agent (.matrix el) → t.mxWord el ≠ 0 → runs { t with act := { el := el } } (decodeMatrix (t.mxWord el)))
    ∧ (∀ m, c.who = .agent (.mult m) → let w := (t.multRec m).words.get 0 (t.mult m).wpos
      w ≠ 0 → runs { t with act := { el := m } } (decodeMatrix w))
    ∧ (∀ rq r, c.who = .agent (.port rq) → t.req rq = some r → runs { t with act := { el := rq } } (decodeRequest r.pkt.bits))
    ∧ (∀ wk u v i, c.who = .agent (.walk wk) → t.nodeAt wk = .word u v → decodeNode v = .ok i → step s = exec i { u with act := { el := wk } })
    ∧ (∀ i, c.who = .event i → step s = if isEvent i then exec i t else .next t)
    ∧ (∀ d double, c.who = .damage d double → step s = .next (t.damaged d double))

/-- Every step keeps memory in its canonical form: addresses strictly rising, no listed byte equal to what an unlisted address reads as.
The canonical form is the model's, with 0 for a byte that nothing has written (log 10). -/
def Obligations.MemoryStaysCanonical : Prop :=
  ∀ s t : State, Memory.wf s.mem = true → step s = .next t → Memory.wf t.mem = true

/-- After reset memory lists nothing and is canonical; nothing is placed and nothing is on its way; and the management registers hold the
reset values of their tables.
That memory lists nothing, and the 0 of fields without a stated reset value, are the model's choices (logs 1, 10). -/
def Obligations.ResetHoldsItsValues : Prop :=
  Memory.wf State.reset.mem = true ∧ State.reset.mem = [] ∧ State.reset.fl = {} ∧ State.reset.figs = [] ∧ State.reset.work = {}
  ∧ ∀ pk : Nat,
    State.reset.reg pk 0x11000 = 2000 ∧ State.reset.reg pk 0x11020 = 12 ∧ State.reset.reg pk 0x12000 = 0xFC02
    ∧ State.reset.reg pk 0x30 = 8 ∧ State.reset.reg pk 0x16008 = 8 ∧ State.reset.reg pk 0x11010 = 0
    ∧ State.reset.pvEn pk = false ∧ State.reset.open_ pk = 0 ∧ State.reset.sealed pk = 0

/-! ### Frames -/

namespace Sys2Proof.Machine

/-- The slot instructions that compute: they read operands and give results, and do nothing else. -/
def slotComputes (op : SlotOp) (f : Slot) (o : Opn) : Bool :=
  (intResult f o op).isSome || (bitResult f 0 o op).isSome || (fpResult f (0, 0) o op).isSome || (pairResult f o op).isSome

end Sys2Proof.Machine

/-- What a firing leaves as it was (R200, R201). No slot instruction changes a byte of memory, but `cbput.word` its message and its TAIL,
and `cbget.word` its HEAD, where no put waits that this could release; none changes a management register but ECNTn; only `secw.set` changes a
sector counter; for `cbget.word` both where no error of memory stands. A computing instruction changes no other element, no stripe, port,
stream, ring, buffer or request. -/
def Obligations.SlotsLeaveTheRest : Prop :=
  ∀ (s t : State) (op : SlotOp) (f : Slot),
    exec (op.mk f) s = .next t → (op = .cbgetWord → s.ms.errs = []) →
    let e := s.elem s.act.el
    let outside (x a n : Nat) : Prop := x < a ∨ a + n ≤ x
    (op ≠ .cbputWord → op ≠ .cbgetWord → SameMem s t)
    ∧ (∀ x, op = .cbputWord → (∀ p, e.put = some p → outside x (p.addr + 4 * p.done) 4 ∧ outside x (p.addr + p.len) (p.need - 16 - p.len)
        ∧ outside x (p.desc + 12) 4) → t.peek x = s.peek x)
    ∧ (∀ x, op = .cbgetWord → (∀ w ∈ s.fl.waits, w.2.held = false) → (∀ g, e.get = some g → outside x (g.desc + 8) 4) → t.peek x = s.peek x)
    ∧ (∀ pk off, off < 2 ^ 20 → (off < 0x16040 ∨ 0x160C0 ≤ off) → t.reg pk off = s.reg pk off)
    ∧ (op ≠ .secwSet → t.secs = s.secs)
    ∧ t.iv = s.iv ∧ t.members = s.members ∧ t.cyc = s.cyc
    ∧ (∀ o, slotComputes op f o = true → (∀ x, x ≠ s.act.el → t.elem x = s.elem x) ∧ t.fab.mxs = s.fab.mxs ∧ t.fab.stripes = s.fab.stripes
      ∧ t.fab.ports = s.fab.ports ∧ t.fab.strms = s.fab.strms ∧ t.fab.rings = s.fab.rings ∧ t.bufs = s.bufs ∧ t.ms = s.ms ∧ t.eng = s.eng ∧ t.work = s.work)

end
end

