-- ==== Sys2Proof/Laws/Map.lean ====
section
/-! SUPPORT. The laws of the sparse maps: what a map reads after a write, and that writing and filtering keep the canonical form. -/
namespace Sys2Proof

@[simp] theorem FMap.get_nil {α : Type} (d : α) (a : Nat) : FMap.get d [] a = d := rfl

theorem FMap.get_cons {α : Type} (d : α) (k : Nat) (w : α) (m : FMap α) (a : Nat) :
    FMap.get d ((k, w) :: m) a = if k = a then w else if a < k then d else FMap.get d m a := rfl

/-- Entries at or below a lower key do not matter to a read. -/
theorem FMap.get_filter_above {α : Type} (d : α) (m : FMap α) (a b : Nat) (h : a < b) :
    FMap.get d (m.filter fun p => decide (a < p.1)) b = FMap.get d m b := by
  induction m with
  | nil => rfl
  | cons x m ih =>
    obtain ⟨k, w⟩ := x
    by_cases hk : a < k
    · simp [List.filter_cons, hk, FMap.get_cons, ih]
    · have h1 : k ≠ b := by omega
      have h2 : ¬ b < k := by omega
      simp [List.filter_cons, hk, FMap.get_cons, h1, h2, ih]

/-- A read below every listed key finds nothing. -/
theorem FMap.get_filter_below {α : Type} (d : α) (m : FMap α) (a b : Nat) (h : b ≤ a) :
    FMap.get d (m.filter fun p => decide (a < p.1)) b = d := by
  induction m with
  | nil => rfl
  | cons x m ih =>
    obtain ⟨k, w⟩ := x
    by_cases hk : a < k
    · have h1 : k ≠ b := by omega
      have h2 : b < k := by omega
      simp [List.filter_cons, hk, FMap.get_cons, h1, h2]
    · simp [List.filter_cons, hk, ih]

/-- What a map reads after a write. -/
@[simp] theorem FMap.get_put {α : Type} [DecidableEq α] (d : α) (m : FMap α) (a : Nat) (v : α) (b : Nat) :
    FMap.get d (FMap.put d m a v) b = if a = b then v else FMap.get d m b := by
  induction m with
  | nil =>
    by_cases hv : v = d
    · subst hv; simp [FMap.put]
    · by_cases hab : a = b <;> simp [FMap.put, hv, FMap.get_cons, hab]
  | cons x m ih =>
    obtain ⟨k, w⟩ := x
    unfold FMap.put
    by_cases h1 : a < k
    · by_cases hab : a = b
      · subst hab
        have : k ≠ a := by omega
        by_cases hv : v = d <;> simp [h1, hv, FMap.get_cons, this]
      · by_cases hv : v = d
        · simp [h1, hv, hab]
        · by_cases hb : b < a
          · have : b < k := by omega
            have : k ≠ b := by omega
            simp [h1, hv, hab, FMap.get_cons, *]
          · simp [h1, hv, FMap.get_cons, hab, hb]
    · by_cases h2 : k = a
      · subst h2
        by_cases hv : v = d
        · subst hv
          by_cases hab : k = b
          · subst hab; simp [FMap.get_filter_below]
          · by_cases hb : k < b
            · have : ¬ b < k := by omega
              simp [hab, FMap.get_cons, this, FMap.get_filter_above, hb]
            · have h3 : b < k := by omega
              simp [hab, FMap.get_cons, h3, FMap.get_filter_below _ _ _ _ (Nat.le_of_lt h3)]
        · by_cases hab : k = b <;> simp [hv, hab, FMap.get_cons]
      · by_cases hkb : k = b
        · subst hkb
          have : a ≠ k := fun h => h2 h.symm
          simp [h1, h2, FMap.get_cons, this]
        · by_cases hb : b < k
          · have : a ≠ b := by omega
            simp [h1, h2, hkb, hb, FMap.get_cons, this]
          · simp [h1, h2, hkb, hb, FMap.get_cons, ih]

/-! ### The canonical form -/

/-- The canonical form from no bound, and from one. -/
theorem FMap.wfFrom_none {α : Type} [DecidableEq α] (d : α) (k : Nat) (w : α) (m : FMap α) :
    FMap.wfFrom d none ((k, w) :: m) = true ↔ w ≠ d ∧ FMap.wfFrom d (some k) m = true := by simp [FMap.wfFrom]
theorem FMap.wfFrom_some {α : Type} [DecidableEq α] (d : α) (l k : Nat) (w : α) (m : FMap α) :
    FMap.wfFrom d (some l) ((k, w) :: m) = true ↔ l < k ∧ w ≠ d ∧ FMap.wfFrom d (some k) m = true := by
  simp [FMap.wfFrom, and_assoc]
/-- A canonical map is canonical from any lower bound, and from none. -/
theorem FMap.wfFrom_lower {α : Type} [DecidableEq α] (d : α) (m : FMap α) (l l' : Nat) (h : l' ≤ l)
    (hm : FMap.wfFrom d (some l) m = true) : FMap.wfFrom d (some l') m = true := by
  cases m with
  | nil => rfl
  | cons x m => rw [FMap.wfFrom_some] at hm ⊢; exact ⟨by omega, hm.2⟩
theorem FMap.wf_of_from {α : Type} [DecidableEq α] (d : α) (m : FMap α) (l : Nat)
    (hm : FMap.wfFrom d (some l) m = true) : FMap.wfFrom d none m = true := by
  cases m with
  | nil => rfl
  | cons x m => rw [FMap.wfFrom_some] at hm; rw [FMap.wfFrom_none]; exact hm.2

/-- Any filter keeps the canonical form. -/
theorem FMap.wfFrom_filter {α : Type} [DecidableEq α] (d : α) (p : Nat × α → Bool) (m : FMap α) (l : Nat)
    (h : FMap.wfFrom d (some l) m = true) : FMap.wfFrom d (some l) (m.filter p) = true := by
  induction m generalizing l with
  | nil => rfl
  | cons x m ih =>
    obtain ⟨k, w⟩ := x
    rw [FMap.wfFrom_some] at h
    by_cases hp : p (k, w) = true
    · rw [List.filter_cons, if_pos hp, FMap.wfFrom_some]; exact ⟨h.1, h.2.1, ih k h.2.2⟩
    · rw [List.filter_cons, if_neg hp]; exact FMap.wfFrom_lower d _ k l (by omega) (ih k h.2.2)

theorem FMap.wf_filter {α : Type} [DecidableEq α] (d : α) (p : Nat × α → Bool) (m : FMap α) (h : FMap.wf d m = true) :
    FMap.wf d (m.filter p) = true := by
  cases m with
  | nil => rfl
  | cons x m =>
    obtain ⟨k, w⟩ := x
    unfold FMap.wf at h ⊢
    rw [FMap.wfFrom_none] at h
    by_cases hp : p (k, w) = true
    · rw [List.filter_cons, if_pos hp, FMap.wfFrom_none]; exact ⟨h.1, FMap.wfFrom_filter d p m k h.2⟩
    · rw [List.filter_cons, if_neg hp]; exact FMap.wf_of_from d _ k (FMap.wfFrom_filter d p m k h.2)

theorem FMap.wfFrom_put {α : Type} [DecidableEq α] (d : α) (m : FMap α) (a : Nat) (v : α) (l : Nat) (hl : l < a)
    (h : FMap.wfFrom d (some l) m = true) : FMap.wfFrom d (some l) (FMap.put d m a v) = true := by
  induction m generalizing l with
  | nil =>
    by_cases hv : v = d
    · simp [FMap.put, hv, FMap.wfFrom]
    · simp [FMap.put, hv, FMap.wfFrom, hl]
  | cons x m ih =>
    obtain ⟨k, w⟩ := x
    have h0 := h
    rw [FMap.wfFrom_some] at h
    unfold FMap.put
    by_cases h1 : a < k
    · by_cases hv : v = d
      · rw [if_pos h1, if_pos hv]; exact h0
      · rw [if_pos h1, if_neg hv, FMap.wfFrom_some, FMap.wfFrom_some]; exact ⟨hl, hv, h1, h.2⟩
    · rw [if_neg h1]
      by_cases h2 : k = a
      · rw [if_pos h2]
        by_cases hv : v = d
        · rw [if_pos hv]; exact FMap.wfFrom_filter d _ m l (FMap.wfFrom_lower d m k l (by omega) h.2.2)
        · rw [if_neg hv, FMap.wfFrom_some]; exact ⟨hl, hv, h2 ▸ h.2.2⟩
      · rw [if_neg h2, FMap.wfFrom_some]; exact ⟨h.1, h.2.1, ih k (by omega) h.2.2⟩

/-- Writing keeps the canonical form. -/
theorem FMap.wf_put {α : Type} [DecidableEq α] (d : α) (m : FMap α) (a : Nat) (v : α) (h : FMap.wf d m = true) :
    FMap.wf d (FMap.put d m a v) = true := by
  unfold FMap.wf at h ⊢
  cases m with
  | nil => by_cases hv : v = d <;> simp [FMap.put, hv, FMap.wfFrom]
  | cons x m =>
    obtain ⟨k, w⟩ := x
    have h0 := h
    rw [FMap.wfFrom_none] at h
    unfold FMap.put
    by_cases h1 : a < k
    · by_cases hv : v = d
      · rw [if_pos h1, if_pos hv]; exact h0
      · rw [if_pos h1, if_neg hv, FMap.wfFrom_none, FMap.wfFrom_some]; exact ⟨hv, h1, h⟩
    · rw [if_neg h1]
      by_cases h2 : k = a
      · rw [if_pos h2]
        by_cases hv : v = d
        · rw [if_pos hv]; exact FMap.wf_filter d _ m (FMap.wf_of_from d m k h.2)
        · rw [if_neg hv, FMap.wfFrom_none]; exact ⟨hv, h2 ▸ h.2⟩
      · rw [if_neg h2, FMap.wfFrom_none]; exact ⟨h.1, FMap.wfFrom_put d m a v k (by omega) h.2⟩

end Sys2Proof
end

