-- ==== Sys2Proof/Laws/State.lean ====
section
/-! SUPPORT. What each update of the state leaves as it was, field by field, and what reads after it. -/
namespace Sys2Proof.Machine
open Sys2Proof

/-! #### `setElem` -/
@[simp] theorem State.setElem_fl (s : State) (el : Nat) (x : Elem) : (s.setElem el x).fl = s.fl := rfl
@[simp] theorem State.setElem_figs (s : State) (el : Nat) (x : Elem) : (s.setElem el x).figs = s.figs := rfl
@[simp] theorem State.setElem_regions (s : State) (el : Nat) (x : Elem) : (s.setElem el x).regions = s.regions := rfl
@[simp] theorem State.setElem_bufs (s : State) (el : Nat) (x : Elem) : (s.setElem el x).bufs = s.bufs := rfl
@[simp] theorem State.setElem_secs (s : State) (el : Nat) (x : Elem) : (s.setElem el x).secs = s.secs := rfl
@[simp] theorem State.setElem_iv (s : State) (el : Nat) (x : Elem) : (s.setElem el x).iv = s.iv := rfl
@[simp] theorem State.setElem_mem (s : State) (el : Nat) (x : Elem) : (s.setElem el x).mem = s.mem := rfl
@[simp] theorem State.setElem_ms (s : State) (el : Nat) (x : Elem) : (s.setElem el x).ms = s.ms := rfl
@[simp] theorem State.setElem_eng (s : State) (el : Nat) (x : Elem) : (s.setElem el x).eng = s.eng := rfl
@[simp] theorem State.setElem_work (s : State) (el : Nat) (x : Elem) : (s.setElem el x).work = s.work := rfl
@[simp] theorem State.setElem_out (s : State) (el : Nat) (x : Elem) : (s.setElem el x).out = s.out := rfl
@[simp] theorem State.setElem_members (s : State) (el : Nat) (x : Elem) : (s.setElem el x).members = s.members := rfl
@[simp] theorem State.setElem_regs (s : State) (el : Nat) (x : Elem) : (s.setElem el x).regs = s.regs := rfl
@[simp] theorem State.setElem_det (s : State) (el : Nat) (x : Elem) : (s.setElem el x).det = s.det := rfl
@[simp] theorem State.setElem_cyc (s : State) (el : Nat) (x : Elem) : (s.setElem el x).cyc = s.cyc := rfl
@[simp] theorem State.setElem_agenda (s : State) (el : Nat) (x : Elem) : (s.setElem el x).agenda = s.agenda := rfl
@[simp] theorem State.setElem_free (s : State) (el : Nat) (x : Elem) : (s.setElem el x).free = s.free := rfl
@[simp] theorem State.setElem_act (s : State) (el : Nat) (x : Elem) : (s.setElem el x).act = s.act := rfl
@[simp] theorem State.setElem_mxs (s : State) (el : Nat) (x : Elem) : (s.setElem el x).fab.mxs = s.fab.mxs := rfl
@[simp] theorem State.setElem_stripes (s : State) (el : Nat) (x : Elem) : (s.setElem el x).fab.stripes = s.fab.stripes := rfl
@[simp] theorem State.setElem_ports (s : State) (el : Nat) (x : Elem) : (s.setElem el x).fab.ports = s.fab.ports := rfl
@[simp] theorem State.setElem_strms (s : State) (el : Nat) (x : Elem) : (s.setElem el x).fab.strms = s.fab.strms := rfl
@[simp] theorem State.setElem_rings (s : State) (el : Nat) (x : Elem) : (s.setElem el x).fab.rings = s.fab.rings := rfl
@[simp] theorem State.elem_setElem (s : State) (el : Nat) (x : Elem) (n : Nat) : (s.setElem el x).elem n = if el = n then x else s.elem n := FMap.get_put ..
@[simp] theorem State.mx_setElem (s : State) (el : Nat) (x : Elem) (n : Nat) : (s.setElem el x).mx n = s.mx n := rfl
@[simp] theorem State.stripe_setElem (s : State) (el : Nat) (x : Elem) (n : Nat) : (s.setElem el x).stripe n = s.stripe n := rfl
@[simp] theorem State.port_setElem (s : State) (el : Nat) (x : Elem) (n : Nat) : (s.setElem el x).port n = s.port n := rfl
@[simp] theorem State.strm_setElem (s : State) (el : Nat) (x : Elem) (n : Nat) : (s.setElem el x).strm n = s.strm n := rfl
@[simp] theorem State.ring_setElem (s : State) (el : Nat) (x : Elem) (n : Nat) : (s.setElem el x).ring n = s.ring n := rfl
@[simp] theorem State.region_setElem (s : State) (el : Nat) (x : Elem) (n : Nat) : (s.setElem el x).region n = s.region n := rfl
@[simp] theorem State.fig_setElem (s : State) (el : Nat) (x : Elem) (n : Nat) : (s.setElem el x).fig n = s.fig n := rfl
@[simp] theorem State.acc_setElem (s : State) (el : Nat) (x : Elem) (n : Nat) : (s.setElem el x).acc n = s.acc n := rfl
@[simp] theorem State.wait_setElem (s : State) (el : Nat) (x : Elem) (n : Nat) : (s.setElem el x).wait n = s.wait n := rfl
@[simp] theorem State.pav_setElem (s : State) (el : Nat) (x : Elem) (n : Nat) : (s.setElem el x).pav n = s.pav n := rfl
@[simp] theorem State.peek_setElem (s : State) (el : Nat) (x : Elem) (n : Nat) : (s.setElem el x).peek n = s.peek n := rfl
@[simp] theorem State.reg_setElem (s : State) (el : Nat) (x : Elem) (q n : Nat) : (s.setElem el x).reg q n = s.reg q n := rfl
/-! #### `setMx` -/
@[simp] theorem State.setMx_fl (s : State) (el : Nat) (x : MxElem) : (s.setMx el x).fl = s.fl := rfl
@[simp] theorem State.setMx_figs (s : State) (el : Nat) (x : MxElem) : (s.setMx el x).figs = s.figs := rfl
@[simp] theorem State.setMx_regions (s : State) (el : Nat) (x : MxElem) : (s.setMx el x).regions = s.regions := rfl
@[simp] theorem State.setMx_bufs (s : State) (el : Nat) (x : MxElem) : (s.setMx el x).bufs = s.bufs := rfl
@[simp] theorem State.setMx_secs (s : State) (el : Nat) (x : MxElem) : (s.setMx el x).secs = s.secs := rfl
@[simp] theorem State.setMx_iv (s : State) (el : Nat) (x : MxElem) : (s.setMx el x).iv = s.iv := rfl
@[simp] theorem State.setMx_mem (s : State) (el : Nat) (x : MxElem) : (s.setMx el x).mem = s.mem := rfl
@[simp] theorem State.setMx_ms (s : State) (el : Nat) (x : MxElem) : (s.setMx el x).ms = s.ms := rfl
@[simp] theorem State.setMx_eng (s : State) (el : Nat) (x : MxElem) : (s.setMx el x).eng = s.eng := rfl
@[simp] theorem State.setMx_work (s : State) (el : Nat) (x : MxElem) : (s.setMx el x).work = s.work := rfl
@[simp] theorem State.setMx_out (s : State) (el : Nat) (x : MxElem) : (s.setMx el x).out = s.out := rfl
@[simp] theorem State.setMx_members (s : State) (el : Nat) (x : MxElem) : (s.setMx el x).members = s.members := rfl
@[simp] theorem State.setMx_regs (s : State) (el : Nat) (x : MxElem) : (s.setMx el x).regs = s.regs := rfl
@[simp] theorem State.setMx_det (s : State) (el : Nat) (x : MxElem) : (s.setMx el x).det = s.det := rfl
@[simp] theorem State.setMx_cyc (s : State) (el : Nat) (x : MxElem) : (s.setMx el x).cyc = s.cyc := rfl
@[simp] theorem State.setMx_agenda (s : State) (el : Nat) (x : MxElem) : (s.setMx el x).agenda = s.agenda := rfl
@[simp] theorem State.setMx_free (s : State) (el : Nat) (x : MxElem) : (s.setMx el x).free = s.free := rfl
@[simp] theorem State.setMx_act (s : State) (el : Nat) (x : MxElem) : (s.setMx el x).act = s.act := rfl
@[simp] theorem State.setMx_elems (s : State) (el : Nat) (x : MxElem) : (s.setMx el x).fab.elems = s.fab.elems := rfl
@[simp] theorem State.setMx_stripes (s : State) (el : Nat) (x : MxElem) : (s.setMx el x).fab.stripes = s.fab.stripes := rfl
@[simp] theorem State.setMx_ports (s : State) (el : Nat) (x : MxElem) : (s.setMx el x).fab.ports = s.fab.ports := rfl
@[simp] theorem State.setMx_strms (s : State) (el : Nat) (x : MxElem) : (s.setMx el x).fab.strms = s.fab.strms := rfl
@[simp] theorem State.setMx_rings (s : State) (el : Nat) (x : MxElem) : (s.setMx el x).fab.rings = s.fab.rings := rfl
@[simp] theorem State.elem_setMx (s : State) (el : Nat) (x : MxElem) (n : Nat) : (s.setMx el x).elem n = s.elem n := rfl
@[simp] theorem State.mx_setMx (s : State) (el : Nat) (x : MxElem) (n : Nat) : (s.setMx el x).mx n = if el = n then x else s.mx n := FMap.get_put ..
@[simp] theorem State.stripe_setMx (s : State) (el : Nat) (x : MxElem) (n : Nat) : (s.setMx el x).stripe n = s.stripe n := rfl
@[simp] theorem State.port_setMx (s : State) (el : Nat) (x : MxElem) (n : Nat) : (s.setMx el x).port n = s.port n := rfl
@[simp] theorem State.strm_setMx (s : State) (el : Nat) (x : MxElem) (n : Nat) : (s.setMx el x).strm n = s.strm n := rfl
@[simp] theorem State.ring_setMx (s : State) (el : Nat) (x : MxElem) (n : Nat) : (s.setMx el x).ring n = s.ring n := rfl
@[simp] theorem State.region_setMx (s : State) (el : Nat) (x : MxElem) (n : Nat) : (s.setMx el x).region n = s.region n := rfl
@[simp] theorem State.fig_setMx (s : State) (el : Nat) (x : MxElem) (n : Nat) : (s.setMx el x).fig n = s.fig n := rfl
@[simp] theorem State.acc_setMx (s : State) (el : Nat) (x : MxElem) (n : Nat) : (s.setMx el x).acc n = s.acc n := rfl
@[simp] theorem State.wait_setMx (s : State) (el : Nat) (x : MxElem) (n : Nat) : (s.setMx el x).wait n = s.wait n := rfl
@[simp] theorem State.pav_setMx (s : State) (el : Nat) (x : MxElem) (n : Nat) : (s.setMx el x).pav n = s.pav n := rfl
@[simp] theorem State.peek_setMx (s : State) (el : Nat) (x : MxElem) (n : Nat) : (s.setMx el x).peek n = s.peek n := rfl
@[simp] theorem State.reg_setMx (s : State) (el : Nat) (x : MxElem) (q n : Nat) : (s.setMx el x).reg q n = s.reg q n := rfl
/-! #### `setStripe` -/
@[simp] theorem State.setStripe_fl (s : State) (st : Nat) (x : Stripe) : (s.setStripe st x).fl = s.fl := rfl
@[simp] theorem State.setStripe_figs (s : State) (st : Nat) (x : Stripe) : (s.setStripe st x).figs = s.figs := rfl
@[simp] theorem State.setStripe_regions (s : State) (st : Nat) (x : Stripe) : (s.setStripe st x).regions = s.regions := rfl
@[simp] theorem State.setStripe_bufs (s : State) (st : Nat) (x : Stripe) : (s.setStripe st x).bufs = s.bufs := rfl
@[simp] theorem State.setStripe_secs (s : State) (st : Nat) (x : Stripe) : (s.setStripe st x).secs = s.secs := rfl
@[simp] theorem State.setStripe_iv (s : State) (st : Nat) (x : Stripe) : (s.setStripe st x).iv = s.iv := rfl
@[simp] theorem State.setStripe_mem (s : State) (st : Nat) (x : Stripe) : (s.setStripe st x).mem = s.mem := rfl
@[simp] theorem State.setStripe_ms (s : State) (st : Nat) (x : Stripe) : (s.setStripe st x).ms = s.ms := rfl
@[simp] theorem State.setStripe_eng (s : State) (st : Nat) (x : Stripe) : (s.setStripe st x).eng = s.eng := rfl
@[simp] theorem State.setStripe_work (s : State) (st : Nat) (x : Stripe) : (s.setStripe st x).work = s.work := rfl
@[simp] theorem State.setStripe_out (s : State) (st : Nat) (x : Stripe) : (s.setStripe st x).out = s.out := rfl
@[simp] theorem State.setStripe_members (s : State) (st : Nat) (x : Stripe) : (s.setStripe st x).members = s.members := rfl
@[simp] theorem State.setStripe_regs (s : State) (st : Nat) (x : Stripe) : (s.setStripe st x).regs = s.regs := rfl
@[simp] theorem State.setStripe_det (s : State) (st : Nat) (x : Stripe) : (s.setStripe st x).det = s.det := rfl
@[simp] theorem State.setStripe_cyc (s : State) (st : Nat) (x : Stripe) : (s.setStripe st x).cyc = s.cyc := rfl
@[simp] theorem State.setStripe_agenda (s : State) (st : Nat) (x : Stripe) : (s.setStripe st x).agenda = s.agenda := rfl
@[simp] theorem State.setStripe_free (s : State) (st : Nat) (x : Stripe) : (s.setStripe st x).free = s.free := rfl
@[simp] theorem State.setStripe_act (s : State) (st : Nat) (x : Stripe) : (s.setStripe st x).act = s.act := rfl
@[simp] theorem State.setStripe_elems (s : State) (st : Nat) (x : Stripe) : (s.setStripe st x).fab.elems = s.fab.elems := rfl
@[simp] theorem State.setStripe_mxs (s : State) (st : Nat) (x : Stripe) : (s.setStripe st x).fab.mxs = s.fab.mxs := rfl
@[simp] theorem State.setStripe_ports (s : State) (st : Nat) (x : Stripe) : (s.setStripe st x).fab.ports = s.fab.ports := rfl
@[simp] theorem State.setStripe_strms (s : State) (st : Nat) (x : Stripe) : (s.setStripe st x).fab.strms = s.fab.strms := rfl
@[simp] theorem State.setStripe_rings (s : State) (st : Nat) (x : Stripe) : (s.setStripe st x).fab.rings = s.fab.rings := rfl
@[simp] theorem State.elem_setStripe (s : State) (st : Nat) (x : Stripe) (n : Nat) : (s.setStripe st x).elem n = s.elem n := rfl
@[simp] theorem State.mx_setStripe (s : State) (st : Nat) (x : Stripe) (n : Nat) : (s.setStripe st x).mx n = s.mx n := rfl
@[simp] theorem State.stripe_setStripe (s : State) (st : Nat) (x : Stripe) (n : Nat) : (s.setStripe st x).stripe n = if st = n then x else s.stripe n := FMap.get_put ..
@[simp] theorem State.port_setStripe (s : State) (st : Nat) (x : Stripe) (n : Nat) : (s.setStripe st x).port n = s.port n := rfl
@[simp] theorem State.strm_setStripe (s : State) (st : Nat) (x : Stripe) (n : Nat) : (s.setStripe st x).strm n = s.strm n := rfl
@[simp] theorem State.ring_setStripe (s : State) (st : Nat) (x : Stripe) (n : Nat) : (s.setStripe st x).ring n = s.ring n := rfl
@[simp] theorem State.region_setStripe (s : State) (st : Nat) (x : Stripe) (n : Nat) : (s.setStripe st x).region n = s.region n := rfl
@[simp] theorem State.fig_setStripe (s : State) (st : Nat) (x : Stripe) (n : Nat) : (s.setStripe st x).fig n = s.fig n := rfl
@[simp] theorem State.acc_setStripe (s : State) (st : Nat) (x : Stripe) (n : Nat) : (s.setStripe st x).acc n = s.acc n := rfl
@[simp] theorem State.wait_setStripe (s : State) (st : Nat) (x : Stripe) (n : Nat) : (s.setStripe st x).wait n = s.wait n := rfl
@[simp] theorem State.pav_setStripe (s : State) (st : Nat) (x : Stripe) (n : Nat) : (s.setStripe st x).pav n = s.pav n := rfl
@[simp] theorem State.peek_setStripe (s : State) (st : Nat) (x : Stripe) (n : Nat) : (s.setStripe st x).peek n = s.peek n := rfl
@[simp] theorem State.reg_setStripe (s : State) (st : Nat) (x : Stripe) (q n : Nat) : (s.setStripe st x).reg q n = s.reg q n := rfl
/-! #### `setPort` -/
@[simp] theorem State.setPort_fl (s : State) (p : Nat) (x : Port) : (s.setPort p x).fl = s.fl := rfl
@[simp] theorem State.setPort_figs (s : State) (p : Nat) (x : Port) : (s.setPort p x).figs = s.figs := rfl
@[simp] theorem State.setPort_regions (s : State) (p : Nat) (x : Port) : (s.setPort p x).regions = s.regions := rfl
@[simp] theorem State.setPort_bufs (s : State) (p : Nat) (x : Port) : (s.setPort p x).bufs = s.bufs := rfl
@[simp] theorem State.setPort_secs (s : State) (p : Nat) (x : Port) : (s.setPort p x).secs = s.secs := rfl
@[simp] theorem State.setPort_iv (s : State) (p : Nat) (x : Port) : (s.setPort p x).iv = s.iv := rfl
@[simp] theorem State.setPort_mem (s : State) (p : Nat) (x : Port) : (s.setPort p x).mem = s.mem := rfl
@[simp] theorem State.setPort_ms (s : State) (p : Nat) (x : Port) : (s.setPort p x).ms = s.ms := rfl
@[simp] theorem State.setPort_eng (s : State) (p : Nat) (x : Port) : (s.setPort p x).eng = s.eng := rfl
@[simp] theorem State.setPort_work (s : State) (p : Nat) (x : Port) : (s.setPort p x).work = s.work := rfl
@[simp] theorem State.setPort_out (s : State) (p : Nat) (x : Port) : (s.setPort p x).out = s.out := rfl
@[simp] theorem State.setPort_members (s : State) (p : Nat) (x : Port) : (s.setPort p x).members = s.members := rfl
@[simp] theorem State.setPort_regs (s : State) (p : Nat) (x : Port) : (s.setPort p x).regs = s.regs := rfl
@[simp] theorem State.setPort_det (s : State) (p : Nat) (x : Port) : (s.setPort p x).det = s.det := rfl
@[simp] theorem State.setPort_cyc (s : State) (p : Nat) (x : Port) : (s.setPort p x).cyc = s.cyc := rfl
@[simp] theorem State.setPort_agenda (s : State) (p : Nat) (x : Port) : (s.setPort p x).agenda = s.agenda := rfl
@[simp] theorem State.setPort_free (s : State) (p : Nat) (x : Port) : (s.setPort p x).free = s.free := rfl
@[simp] theorem State.setPort_act (s : State) (p : Nat) (x : Port) : (s.setPort p x).act = s.act := rfl
@[simp] theorem State.setPort_elems (s : State) (p : Nat) (x : Port) : (s.setPort p x).fab.elems = s.fab.elems := rfl
@[simp] theorem State.setPort_mxs (s : State) (p : Nat) (x : Port) : (s.setPort p x).fab.mxs = s.fab.mxs := rfl
@[simp] theorem State.setPort_stripes (s : State) (p : Nat) (x : Port) : (s.setPort p x).fab.stripes = s.fab.stripes := rfl
@[simp] theorem State.setPort_strms (s : State) (p : Nat) (x : Port) : (s.setPort p x).fab.strms = s.fab.strms := rfl
@[simp] theorem State.setPort_rings (s : State) (p : Nat) (x : Port) : (s.setPort p x).fab.rings = s.fab.rings := rfl
@[simp] theorem State.elem_setPort (s : State) (p : Nat) (x : Port) (n : Nat) : (s.setPort p x).elem n = s.elem n := rfl
@[simp] theorem State.mx_setPort (s : State) (p : Nat) (x : Port) (n : Nat) : (s.setPort p x).mx n = s.mx n := rfl
@[simp] theorem State.stripe_setPort (s : State) (p : Nat) (x : Port) (n : Nat) : (s.setPort p x).stripe n = s.stripe n := rfl
@[simp] theorem State.port_setPort (s : State) (p : Nat) (x : Port) (n : Nat) : (s.setPort p x).port n = if p = n then x else s.port n := FMap.get_put ..
@[simp] theorem State.strm_setPort (s : State) (p : Nat) (x : Port) (n : Nat) : (s.setPort p x).strm n = s.strm n := rfl
@[simp] theorem State.ring_setPort (s : State) (p : Nat) (x : Port) (n : Nat) : (s.setPort p x).ring n = s.ring n := rfl
@[simp] theorem State.region_setPort (s : State) (p : Nat) (x : Port) (n : Nat) : (s.setPort p x).region n = s.region n := rfl
@[simp] theorem State.fig_setPort (s : State) (p : Nat) (x : Port) (n : Nat) : (s.setPort p x).fig n = s.fig n := rfl
@[simp] theorem State.acc_setPort (s : State) (p : Nat) (x : Port) (n : Nat) : (s.setPort p x).acc n = s.acc n := rfl
@[simp] theorem State.wait_setPort (s : State) (p : Nat) (x : Port) (n : Nat) : (s.setPort p x).wait n = s.wait n := rfl
@[simp] theorem State.pav_setPort (s : State) (p : Nat) (x : Port) (n : Nat) : (s.setPort p x).pav n = s.pav n := rfl
@[simp] theorem State.peek_setPort (s : State) (p : Nat) (x : Port) (n : Nat) : (s.setPort p x).peek n = s.peek n := rfl
@[simp] theorem State.reg_setPort (s : State) (p : Nat) (x : Port) (q n : Nat) : (s.setPort p x).reg q n = s.reg q n := rfl
/-! #### `setStrm` -/
@[simp] theorem State.setStrm_fl (s : State) (rs : Nat) (x : Strm) : (s.setStrm rs x).fl = s.fl := rfl
@[simp] theorem State.setStrm_figs (s : State) (rs : Nat) (x : Strm) : (s.setStrm rs x).figs = s.figs := rfl
@[simp] theorem State.setStrm_regions (s : State) (rs : Nat) (x : Strm) : (s.setStrm rs x).regions = s.regions := rfl
@[simp] theorem State.setStrm_bufs (s : State) (rs : Nat) (x : Strm) : (s.setStrm rs x).bufs = s.bufs := rfl
@[simp] theorem State.setStrm_secs (s : State) (rs : Nat) (x : Strm) : (s.setStrm rs x).secs = s.secs := rfl
@[simp] theorem State.setStrm_iv (s : State) (rs : Nat) (x : Strm) : (s.setStrm rs x).iv = s.iv := rfl
@[simp] theorem State.setStrm_mem (s : State) (rs : Nat) (x : Strm) : (s.setStrm rs x).mem = s.mem := rfl
@[simp] theorem State.setStrm_ms (s : State) (rs : Nat) (x : Strm) : (s.setStrm rs x).ms = s.ms := rfl
@[simp] theorem State.setStrm_eng (s : State) (rs : Nat) (x : Strm) : (s.setStrm rs x).eng = s.eng := rfl
@[simp] theorem State.setStrm_work (s : State) (rs : Nat) (x : Strm) : (s.setStrm rs x).work = s.work := rfl
@[simp] theorem State.setStrm_out (s : State) (rs : Nat) (x : Strm) : (s.setStrm rs x).out = s.out := rfl
@[simp] theorem State.setStrm_members (s : State) (rs : Nat) (x : Strm) : (s.setStrm rs x).members = s.members := rfl
@[simp] theorem State.setStrm_regs (s : State) (rs : Nat) (x : Strm) : (s.setStrm rs x).regs = s.regs := rfl
@[simp] theorem State.setStrm_det (s : State) (rs : Nat) (x : Strm) : (s.setStrm rs x).det = s.det := rfl
@[simp] theorem State.setStrm_cyc (s : State) (rs : Nat) (x : Strm) : (s.setStrm rs x).cyc = s.cyc := rfl
@[simp] theorem State.setStrm_agenda (s : State) (rs : Nat) (x : Strm) : (s.setStrm rs x).agenda = s.agenda := rfl
@[simp] theorem State.setStrm_free (s : State) (rs : Nat) (x : Strm) : (s.setStrm rs x).free = s.free := rfl
@[simp] theorem State.setStrm_act (s : State) (rs : Nat) (x : Strm) : (s.setStrm rs x).act = s.act := rfl
@[simp] theorem State.setStrm_elems (s : State) (rs : Nat) (x : Strm) : (s.setStrm rs x).fab.elems = s.fab.elems := rfl
@[simp] theorem State.setStrm_mxs (s : State) (rs : Nat) (x : Strm) : (s.setStrm rs x).fab.mxs = s.fab.mxs := rfl
@[simp] theorem State.setStrm_stripes (s : State) (rs : Nat) (x : Strm) : (s.setStrm rs x).fab.stripes = s.fab.stripes := rfl
@[simp] theorem State.setStrm_ports (s : State) (rs : Nat) (x : Strm) : (s.setStrm rs x).fab.ports = s.fab.ports := rfl
@[simp] theorem State.setStrm_rings (s : State) (rs : Nat) (x : Strm) : (s.setStrm rs x).fab.rings = s.fab.rings := rfl
@[simp] theorem State.elem_setStrm (s : State) (rs : Nat) (x : Strm) (n : Nat) : (s.setStrm rs x).elem n = s.elem n := rfl
@[simp] theorem State.mx_setStrm (s : State) (rs : Nat) (x : Strm) (n : Nat) : (s.setStrm rs x).mx n = s.mx n := rfl
@[simp] theorem State.stripe_setStrm (s : State) (rs : Nat) (x : Strm) (n : Nat) : (s.setStrm rs x).stripe n = s.stripe n := rfl
@[simp] theorem State.port_setStrm (s : State) (rs : Nat) (x : Strm) (n : Nat) : (s.setStrm rs x).port n = s.port n := rfl
@[simp] theorem State.strm_setStrm (s : State) (rs : Nat) (x : Strm) (n : Nat) : (s.setStrm rs x).strm n = if rs = n then x else s.strm n := FMap.get_put ..
@[simp] theorem State.ring_setStrm (s : State) (rs : Nat) (x : Strm) (n : Nat) : (s.setStrm rs x).ring n = s.ring n := rfl
@[simp] theorem State.region_setStrm (s : State) (rs : Nat) (x : Strm) (n : Nat) : (s.setStrm rs x).region n = s.region n := rfl
@[simp] theorem State.fig_setStrm (s : State) (rs : Nat) (x : Strm) (n : Nat) : (s.setStrm rs x).fig n = s.fig n := rfl
@[simp] theorem State.acc_setStrm (s : State) (rs : Nat) (x : Strm) (n : Nat) : (s.setStrm rs x).acc n = s.acc n := rfl
@[simp] theorem State.wait_setStrm (s : State) (rs : Nat) (x : Strm) (n : Nat) : (s.setStrm rs x).wait n = s.wait n := rfl
@[simp] theorem State.pav_setStrm (s : State) (rs : Nat) (x : Strm) (n : Nat) : (s.setStrm rs x).pav n = s.pav n := rfl
@[simp] theorem State.peek_setStrm (s : State) (rs : Nat) (x : Strm) (n : Nat) : (s.setStrm rs x).peek n = s.peek n := rfl
@[simp] theorem State.reg_setStrm (s : State) (rs : Nat) (x : Strm) (q n : Nat) : (s.setStrm rs x).reg q n = s.reg q n := rfl
/-! #### `setRing` -/
@[simp] theorem State.setRing_fl (s : State) (g : Nat) (x : Ring) : (s.setRing g x).fl = s.fl := rfl
@[simp] theorem State.setRing_figs (s : State) (g : Nat) (x : Ring) : (s.setRing g x).figs = s.figs := rfl
@[simp] theorem State.setRing_regions (s : State) (g : Nat) (x : Ring) : (s.setRing g x).regions = s.regions := rfl
@[simp] theorem State.setRing_bufs (s : State) (g : Nat) (x : Ring) : (s.setRing g x).bufs = s.bufs := rfl
@[simp] theorem State.setRing_secs (s : State) (g : Nat) (x : Ring) : (s.setRing g x).secs = s.secs := rfl
@[simp] theorem State.setRing_iv (s : State) (g : Nat) (x : Ring) : (s.setRing g x).iv = s.iv := rfl
@[simp] theorem State.setRing_mem (s : State) (g : Nat) (x : Ring) : (s.setRing g x).mem = s.mem := rfl
@[simp] theorem State.setRing_ms (s : State) (g : Nat) (x : Ring) : (s.setRing g x).ms = s.ms := rfl
@[simp] theorem State.setRing_eng (s : State) (g : Nat) (x : Ring) : (s.setRing g x).eng = s.eng := rfl
@[simp] theorem State.setRing_work (s : State) (g : Nat) (x : Ring) : (s.setRing g x).work = s.work := rfl
@[simp] theorem State.setRing_out (s : State) (g : Nat) (x : Ring) : (s.setRing g x).out = s.out := rfl
@[simp] theorem State.setRing_members (s : State) (g : Nat) (x : Ring) : (s.setRing g x).members = s.members := rfl
@[simp] theorem State.setRing_regs (s : State) (g : Nat) (x : Ring) : (s.setRing g x).regs = s.regs := rfl
@[simp] theorem State.setRing_det (s : State) (g : Nat) (x : Ring) : (s.setRing g x).det = s.det := rfl
@[simp] theorem State.setRing_cyc (s : State) (g : Nat) (x : Ring) : (s.setRing g x).cyc = s.cyc := rfl
@[simp] theorem State.setRing_agenda (s : State) (g : Nat) (x : Ring) : (s.setRing g x).agenda = s.agenda := rfl
@[simp] theorem State.setRing_free (s : State) (g : Nat) (x : Ring) : (s.setRing g x).free = s.free := rfl
@[simp] theorem State.setRing_act (s : State) (g : Nat) (x : Ring) : (s.setRing g x).act = s.act := rfl
@[simp] theorem State.setRing_elems (s : State) (g : Nat) (x : Ring) : (s.setRing g x).fab.elems = s.fab.elems := rfl
@[simp] theorem State.setRing_mxs (s : State) (g : Nat) (x : Ring) : (s.setRing g x).fab.mxs = s.fab.mxs := rfl
@[simp] theorem State.setRing_stripes (s : State) (g : Nat) (x : Ring) : (s.setRing g x).fab.stripes = s.fab.stripes := rfl
@[simp] theorem State.setRing_ports (s : State) (g : Nat) (x : Ring) : (s.setRing g x).fab.ports = s.fab.ports := rfl
@[simp] theorem State.setRing_strms (s : State) (g : Nat) (x : Ring) : (s.setRing g x).fab.strms = s.fab.strms := rfl
@[simp] theorem State.elem_setRing (s : State) (g : Nat) (x : Ring) (n : Nat) : (s.setRing g x).elem n = s.elem n := rfl
@[simp] theorem State.mx_setRing (s : State) (g : Nat) (x : Ring) (n : Nat) : (s.setRing g x).mx n = s.mx n := rfl
@[simp] theorem State.stripe_setRing (s : State) (g : Nat) (x : Ring) (n : Nat) : (s.setRing g x).stripe n = s.stripe n := rfl
@[simp] theorem State.port_setRing (s : State) (g : Nat) (x : Ring) (n : Nat) : (s.setRing g x).port n = s.port n := rfl
@[simp] theorem State.strm_setRing (s : State) (g : Nat) (x : Ring) (n : Nat) : (s.setRing g x).strm n = s.strm n := rfl
@[simp] theorem State.ring_setRing (s : State) (g : Nat) (x : Ring) (n : Nat) : (s.setRing g x).ring n = if g = n then x else s.ring n := FMap.get_put ..
@[simp] theorem State.region_setRing (s : State) (g : Nat) (x : Ring) (n : Nat) : (s.setRing g x).region n = s.region n := rfl
@[simp] theorem State.fig_setRing (s : State) (g : Nat) (x : Ring) (n : Nat) : (s.setRing g x).fig n = s.fig n := rfl
@[simp] theorem State.acc_setRing (s : State) (g : Nat) (x : Ring) (n : Nat) : (s.setRing g x).acc n = s.acc n := rfl
@[simp] theorem State.wait_setRing (s : State) (g : Nat) (x : Ring) (n : Nat) : (s.setRing g x).wait n = s.wait n := rfl
@[simp] theorem State.pav_setRing (s : State) (g : Nat) (x : Ring) (n : Nat) : (s.setRing g x).pav n = s.pav n := rfl
@[simp] theorem State.peek_setRing (s : State) (g : Nat) (x : Ring) (n : Nat) : (s.setRing g x).peek n = s.peek n := rfl
@[simp] theorem State.reg_setRing (s : State) (g : Nat) (x : Ring) (q n : Nat) : (s.setRing g x).reg q n = s.reg q n := rfl
/-! #### `setRegion` -/
@[simp] theorem State.setRegion_fab (s : State) (rg : Nat) (x : Region) : (s.setRegion rg x).fab = s.fab := rfl
@[simp] theorem State.setRegion_fl (s : State) (rg : Nat) (x : Region) : (s.setRegion rg x).fl = s.fl := rfl
@[simp] theorem State.setRegion_figs (s : State) (rg : Nat) (x : Region) : (s.setRegion rg x).figs = s.figs := rfl
@[simp] theorem State.setRegion_bufs (s : State) (rg : Nat) (x : Region) : (s.setRegion rg x).bufs = s.bufs := rfl
@[simp] theorem State.setRegion_secs (s : State) (rg : Nat) (x : Region) : (s.setRegion rg x).secs = s.secs := rfl
@[simp] theorem State.setRegion_iv (s : State) (rg : Nat) (x : Region) : (s.setRegion rg x).iv = s.iv := rfl
@[simp] theorem State.setRegion_mem (s : State) (rg : Nat) (x : Region) : (s.setRegion rg x).mem = s.mem := rfl
@[simp] theorem State.setRegion_ms (s : State) (rg : Nat) (x : Region) : (s.setRegion rg x).ms = s.ms := rfl
@[simp] theorem State.setRegion_eng (s : State) (rg : Nat) (x : Region) : (s.setRegion rg x).eng = s.eng := rfl
@[simp] theorem State.setRegion_work (s : State) (rg : Nat) (x : Region) : (s.setRegion rg x).work = s.work := rfl
@[simp] theorem State.setRegion_out (s : State) (rg : Nat) (x : Region) : (s.setRegion rg x).out = s.out := rfl
@[simp] theorem State.setRegion_members (s : State) (rg : Nat) (x : Region) : (s.setRegion rg x).members = s.members := rfl
@[simp] theorem State.setRegion_regs (s : State) (rg : Nat) (x : Region) : (s.setRegion rg x).regs = s.regs := rfl
@[simp] theorem State.setRegion_det (s : State) (rg : Nat) (x : Region) : (s.setRegion rg x).det = s.det := rfl
@[simp] theorem State.setRegion_cyc (s : State) (rg : Nat) (x : Region) : (s.setRegion rg x).cyc = s.cyc := rfl
@[simp] theorem State.setRegion_agenda (s : State) (rg : Nat) (x : Region) : (s.setRegion rg x).agenda = s.agenda := rfl
@[simp] theorem State.setRegion_free (s : State) (rg : Nat) (x : Region) : (s.setRegion rg x).free = s.free := rfl
@[simp] theorem State.setRegion_act (s : State) (rg : Nat) (x : Region) : (s.setRegion rg x).act = s.act := rfl
@[simp] theorem State.elem_setRegion (s : State) (rg : Nat) (x : Region) (n : Nat) : (s.setRegion rg x).elem n = s.elem n := rfl
@[simp] theorem State.mx_setRegion (s : State) (rg : Nat) (x : Region) (n : Nat) : (s.setRegion rg x).mx n = s.mx n := rfl
@[simp] theorem State.stripe_setRegion (s : State) (rg : Nat) (x : Region) (n : Nat) : (s.setRegion rg x).stripe n = s.stripe n := rfl
@[simp] theorem State.port_setRegion (s : State) (rg : Nat) (x : Region) (n : Nat) : (s.setRegion rg x).port n = s.port n := rfl
@[simp] theorem State.strm_setRegion (s : State) (rg : Nat) (x : Region) (n : Nat) : (s.setRegion rg x).strm n = s.strm n := rfl
@[simp] theorem State.ring_setRegion (s : State) (rg : Nat) (x : Region) (n : Nat) : (s.setRegion rg x).ring n = s.ring n := rfl
@[simp] theorem State.region_setRegion (s : State) (rg : Nat) (x : Region) (n : Nat) : (s.setRegion rg x).region n = if rg = n then x else s.region n := FMap.get_put ..
@[simp] theorem State.fig_setRegion (s : State) (rg : Nat) (x : Region) (n : Nat) : (s.setRegion rg x).fig n = s.fig n := rfl
@[simp] theorem State.acc_setRegion (s : State) (rg : Nat) (x : Region) (n : Nat) : (s.setRegion rg x).acc n = s.acc n := rfl
@[simp] theorem State.wait_setRegion (s : State) (rg : Nat) (x : Region) (n : Nat) : (s.setRegion rg x).wait n = s.wait n := rfl
@[simp] theorem State.pav_setRegion (s : State) (rg : Nat) (x : Region) (n : Nat) : (s.setRegion rg x).pav n = s.pav n := rfl
@[simp] theorem State.peek_setRegion (s : State) (rg : Nat) (x : Region) (n : Nat) : (s.setRegion rg x).peek n = s.peek n := rfl
@[simp] theorem State.reg_setRegion (s : State) (rg : Nat) (x : Region) (q n : Nat) : (s.setRegion rg x).reg q n = s.reg q n := rfl
/-! #### `setFig` -/
@[simp] theorem State.setFig_fab (s : State) (fg : Nat) (x : Fig) : (s.setFig fg x).fab = s.fab := rfl
@[simp] theorem State.setFig_fl (s : State) (fg : Nat) (x : Fig) : (s.setFig fg x).fl = s.fl := rfl
@[simp] theorem State.setFig_regions (s : State) (fg : Nat) (x : Fig) : (s.setFig fg x).regions = s.regions := rfl
@[simp] theorem State.setFig_bufs (s : State) (fg : Nat) (x : Fig) : (s.setFig fg x).bufs = s.bufs := rfl
@[simp] theorem State.setFig_secs (s : State) (fg : Nat) (x : Fig) : (s.setFig fg x).secs = s.secs := rfl
@[simp] theorem State.setFig_iv (s : State) (fg : Nat) (x : Fig) : (s.setFig fg x).iv = s.iv := rfl
@[simp] theorem State.setFig_mem (s : State) (fg : Nat) (x : Fig) : (s.setFig fg x).mem = s.mem := rfl
@[simp] theorem State.setFig_ms (s : State) (fg : Nat) (x : Fig) : (s.setFig fg x).ms = s.ms := rfl
@[simp] theorem State.setFig_eng (s : State) (fg : Nat) (x : Fig) : (s.setFig fg x).eng = s.eng := rfl
@[simp] theorem State.setFig_work (s : State) (fg : Nat) (x : Fig) : (s.setFig fg x).work = s.work := rfl
@[simp] theorem State.setFig_out (s : State) (fg : Nat) (x : Fig) : (s.setFig fg x).out = s.out := rfl
@[simp] theorem State.setFig_members (s : State) (fg : Nat) (x : Fig) : (s.setFig fg x).members = s.members := rfl
@[simp] theorem State.setFig_regs (s : State) (fg : Nat) (x : Fig) : (s.setFig fg x).regs = s.regs := rfl
@[simp] theorem State.setFig_det (s : State) (fg : Nat) (x : Fig) : (s.setFig fg x).det = s.det := rfl
@[simp] theorem State.setFig_cyc (s : State) (fg : Nat) (x : Fig) : (s.setFig fg x).cyc = s.cyc := rfl
@[simp] theorem State.setFig_agenda (s : State) (fg : Nat) (x : Fig) : (s.setFig fg x).agenda = s.agenda := rfl
@[simp] theorem State.setFig_free (s : State) (fg : Nat) (x : Fig) : (s.setFig fg x).free = s.free := rfl
@[simp] theorem State.setFig_act (s : State) (fg : Nat) (x : Fig) : (s.setFig fg x).act = s.act := rfl
@[simp] theorem State.elem_setFig (s : State) (fg : Nat) (x : Fig) (n : Nat) : (s.setFig fg x).elem n = s.elem n := rfl
@[simp] theorem State.mx_setFig (s : State) (fg : Nat) (x : Fig) (n : Nat) : (s.setFig fg x).mx n = s.mx n := rfl
@[simp] theorem State.stripe_setFig (s : State) (fg : Nat) (x : Fig) (n : Nat) : (s.setFig fg x).stripe n = s.stripe n := rfl
@[simp] theorem State.port_setFig (s : State) (fg : Nat) (x : Fig) (n : Nat) : (s.setFig fg x).port n = s.port n := rfl
@[simp] theorem State.strm_setFig (s : State) (fg : Nat) (x : Fig) (n : Nat) : (s.setFig fg x).strm n = s.strm n := rfl
@[simp] theorem State.ring_setFig (s : State) (fg : Nat) (x : Fig) (n : Nat) : (s.setFig fg x).ring n = s.ring n := rfl
@[simp] theorem State.region_setFig (s : State) (fg : Nat) (x : Fig) (n : Nat) : (s.setFig fg x).region n = s.region n := rfl
@[simp] theorem State.fig_setFig (s : State) (fg : Nat) (x : Fig) (n : Nat) : (s.setFig fg x).fig n = if fg = n then x else s.fig n := FMap.get_put ..
@[simp] theorem State.acc_setFig (s : State) (fg : Nat) (x : Fig) (n : Nat) : (s.setFig fg x).acc n = s.acc n := rfl
@[simp] theorem State.wait_setFig (s : State) (fg : Nat) (x : Fig) (n : Nat) : (s.setFig fg x).wait n = s.wait n := rfl
@[simp] theorem State.pav_setFig (s : State) (fg : Nat) (x : Fig) (n : Nat) : (s.setFig fg x).pav n = s.pav n := rfl
@[simp] theorem State.peek_setFig (s : State) (fg : Nat) (x : Fig) (n : Nat) : (s.setFig fg x).peek n = s.peek n := rfl
@[simp] theorem State.reg_setFig (s : State) (fg : Nat) (x : Fig) (q n : Nat) : (s.setFig fg x).reg q n = s.reg q n := rfl
/-! #### `setAcc` -/
@[simp] theorem State.setAcc_fab (s : State) (a : Nat) (x : Access) : (s.setAcc a x).fab = s.fab := rfl
@[simp] theorem State.setAcc_figs (s : State) (a : Nat) (x : Access) : (s.setAcc a x).figs = s.figs := rfl
@[simp] theorem State.setAcc_regions (s : State) (a : Nat) (x : Access) : (s.setAcc a x).regions = s.regions := rfl
@[simp] theorem State.setAcc_bufs (s : State) (a : Nat) (x : Access) : (s.setAcc a x).bufs = s.bufs := rfl
@[simp] theorem State.setAcc_secs (s : State) (a : Nat) (x : Access) : (s.setAcc a x).secs = s.secs := rfl
@[simp] theorem State.setAcc_iv (s : State) (a : Nat) (x : Access) : (s.setAcc a x).iv = s.iv := rfl
@[simp] theorem State.setAcc_mem (s : State) (a : Nat) (x : Access) : (s.setAcc a x).mem = s.mem := rfl
@[simp] theorem State.setAcc_ms (s : State) (a : Nat) (x : Access) : (s.setAcc a x).ms = s.ms := rfl
@[simp] theorem State.setAcc_eng (s : State) (a : Nat) (x : Access) : (s.setAcc a x).eng = s.eng := rfl
@[simp] theorem State.setAcc_work (s : State) (a : Nat) (x : Access) : (s.setAcc a x).work = s.work := rfl
@[simp] theorem State.setAcc_out (s : State) (a : Nat) (x : Access) : (s.setAcc a x).out = s.out := rfl
@[simp] theorem State.setAcc_members (s : State) (a : Nat) (x : Access) : (s.setAcc a x).members = s.members := rfl
@[simp] theorem State.setAcc_regs (s : State) (a : Nat) (x : Access) : (s.setAcc a x).regs = s.regs := rfl
@[simp] theorem State.setAcc_det (s : State) (a : Nat) (x : Access) : (s.setAcc a x).det = s.det := rfl
@[simp] theorem State.setAcc_cyc (s : State) (a : Nat) (x : Access) : (s.setAcc a x).cyc = s.cyc := rfl
@[simp] theorem State.setAcc_agenda (s : State) (a : Nat) (x : Access) : (s.setAcc a x).agenda = s.agenda := rfl
@[simp] theorem State.setAcc_free (s : State) (a : Nat) (x : Access) : (s.setAcc a x).free = s.free := rfl
@[simp] theorem State.setAcc_act (s : State) (a : Nat) (x : Access) : (s.setAcc a x).act = s.act := rfl
@[simp] theorem State.setAcc_fl_emits (s : State) (a : Nat) (x : Access) : (s.setAcc a x).fl.emits = s.fl.emits := rfl
@[simp] theorem State.setAcc_fl_resv (s : State) (a : Nat) (x : Access) : (s.setAcc a x).fl.resv = s.fl.resv := rfl
@[simp] theorem State.setAcc_fl_waits (s : State) (a : Nat) (x : Access) : (s.setAcc a x).fl.waits = s.fl.waits := rfl
@[simp] theorem State.setAcc_fl_hops (s : State) (a : Nat) (x : Access) : (s.setAcc a x).fl.hops = s.fl.hops := rfl
@[simp] theorem State.setAcc_fl_lsn (s : State) (a : Nat) (x : Access) : (s.setAcc a x).fl.lsn = s.fl.lsn := rfl
@[simp] theorem State.setAcc_fl_agreed (s : State) (a : Nat) (x : Access) : (s.setAcc a x).fl.agreed = s.fl.agreed := rfl
@[simp] theorem State.setAcc_fl_twins (s : State) (a : Nat) (x : Access) : (s.setAcc a x).fl.twins = s.fl.twins := rfl
@[simp] theorem State.setAcc_fl_results (s : State) (a : Nat) (x : Access) : (s.setAcc a x).fl.results = s.fl.results := rfl
@[simp] theorem State.setAcc_fl_next (s : State) (a : Nat) (x : Access) : (s.setAcc a x).fl.next = s.fl.next := rfl
@[simp] theorem State.elem_setAcc (s : State) (a : Nat) (x : Access) (n : Nat) : (s.setAcc a x).elem n = s.elem n := rfl
@[simp] theorem State.mx_setAcc (s : State) (a : Nat) (x : Access) (n : Nat) : (s.setAcc a x).mx n = s.mx n := rfl
@[simp] theorem State.stripe_setAcc (s : State) (a : Nat) (x : Access) (n : Nat) : (s.setAcc a x).stripe n = s.stripe n := rfl
@[simp] theorem State.port_setAcc (s : State) (a : Nat) (x : Access) (n : Nat) : (s.setAcc a x).port n = s.port n := rfl
@[simp] theorem State.strm_setAcc (s : State) (a : Nat) (x : Access) (n : Nat) : (s.setAcc a x).strm n = s.strm n := rfl
@[simp] theorem State.ring_setAcc (s : State) (a : Nat) (x : Access) (n : Nat) : (s.setAcc a x).ring n = s.ring n := rfl
@[simp] theorem State.region_setAcc (s : State) (a : Nat) (x : Access) (n : Nat) : (s.setAcc a x).region n = s.region n := rfl
@[simp] theorem State.fig_setAcc (s : State) (a : Nat) (x : Access) (n : Nat) : (s.setAcc a x).fig n = s.fig n := rfl
@[simp] theorem State.wait_setAcc (s : State) (a : Nat) (x : Access) (n : Nat) : (s.setAcc a x).wait n = s.wait n := rfl
@[simp] theorem State.pav_setAcc (s : State) (a : Nat) (x : Access) (n : Nat) : (s.setAcc a x).pav n = s.pav n := rfl
@[simp] theorem State.peek_setAcc (s : State) (a : Nat) (x : Access) (n : Nat) : (s.setAcc a x).peek n = s.peek n := rfl
@[simp] theorem State.reg_setAcc (s : State) (a : Nat) (x : Access) (q n : Nat) : (s.setAcc a x).reg q n = s.reg q n := rfl
/-! #### `delAcc` -/
@[simp] theorem State.delAcc_fab (s : State) (a : Nat) : (s.delAcc a).fab = s.fab := rfl
@[simp] theorem State.delAcc_figs (s : State) (a : Nat) : (s.delAcc a).figs = s.figs := rfl
@[simp] theorem State.delAcc_regions (s : State) (a : Nat) : (s.delAcc a).regions = s.regions := rfl
@[simp] theorem State.delAcc_bufs (s : State) (a : Nat) : (s.delAcc a).bufs = s.bufs := rfl
@[simp] theorem State.delAcc_secs (s : State) (a : Nat) : (s.delAcc a).secs = s.secs := rfl
@[simp] theorem State.delAcc_iv (s : State) (a : Nat) : (s.delAcc a).iv = s.iv := rfl
@[simp] theorem State.delAcc_mem (s : State) (a : Nat) : (s.delAcc a).mem = s.mem := rfl
@[simp] theorem State.delAcc_ms (s : State) (a : Nat) : (s.delAcc a).ms = s.ms := rfl
@[simp] theorem State.delAcc_eng (s : State) (a : Nat) : (s.delAcc a).eng = s.eng := rfl
@[simp] theorem State.delAcc_work (s : State) (a : Nat) : (s.delAcc a).work = s.work := rfl
@[simp] theorem State.delAcc_out (s : State) (a : Nat) : (s.delAcc a).out = s.out := rfl
@[simp] theorem State.delAcc_members (s : State) (a : Nat) : (s.delAcc a).members = s.members := rfl
@[simp] theorem State.delAcc_regs (s : State) (a : Nat) : (s.delAcc a).regs = s.regs := rfl
@[simp] theorem State.delAcc_det (s : State) (a : Nat) : (s.delAcc a).det = s.det := rfl
@[simp] theorem State.delAcc_cyc (s : State) (a : Nat) : (s.delAcc a).cyc = s.cyc := rfl
@[simp] theorem State.delAcc_agenda (s : State) (a : Nat) : (s.delAcc a).agenda = s.agenda := rfl
@[simp] theorem State.delAcc_free (s : State) (a : Nat) : (s.delAcc a).free = s.free := rfl
@[simp] theorem State.delAcc_act (s : State) (a : Nat) : (s.delAcc a).act = s.act := rfl
@[simp] theorem State.delAcc_fl_emits (s : State) (a : Nat) : (s.delAcc a).fl.emits = s.fl.emits := rfl
@[simp] theorem State.delAcc_fl_resv (s : State) (a : Nat) : (s.delAcc a).fl.resv = s.fl.resv := rfl
@[simp] theorem State.delAcc_fl_waits (s : State) (a : Nat) : (s.delAcc a).fl.waits = s.fl.waits := rfl
@[simp] theorem State.delAcc_fl_hops (s : State) (a : Nat) : (s.delAcc a).fl.hops = s.fl.hops := rfl
@[simp] theorem State.delAcc_fl_lsn (s : State) (a : Nat) : (s.delAcc a).fl.lsn = s.fl.lsn := rfl
@[simp] theorem State.delAcc_fl_agreed (s : State) (a : Nat) : (s.delAcc a).fl.agreed = s.fl.agreed := rfl
@[simp] theorem State.delAcc_fl_twins (s : State) (a : Nat) : (s.delAcc a).fl.twins = s.fl.twins := rfl
@[simp] theorem State.delAcc_fl_results (s : State) (a : Nat) : (s.delAcc a).fl.results = s.fl.results := rfl
@[simp] theorem State.delAcc_fl_next (s : State) (a : Nat) : (s.delAcc a).fl.next = s.fl.next := rfl
@[simp] theorem State.elem_delAcc (s : State) (a : Nat) (n : Nat) : (s.delAcc a).elem n = s.elem n := rfl
@[simp] theorem State.mx_delAcc (s : State) (a : Nat) (n : Nat) : (s.delAcc a).mx n = s.mx n := rfl
@[simp] theorem State.stripe_delAcc (s : State) (a : Nat) (n : Nat) : (s.delAcc a).stripe n = s.stripe n := rfl
@[simp] theorem State.port_delAcc (s : State) (a : Nat) (n : Nat) : (s.delAcc a).port n = s.port n := rfl
@[simp] theorem State.strm_delAcc (s : State) (a : Nat) (n : Nat) : (s.delAcc a).strm n = s.strm n := rfl
@[simp] theorem State.ring_delAcc (s : State) (a : Nat) (n : Nat) : (s.delAcc a).ring n = s.ring n := rfl
@[simp] theorem State.region_delAcc (s : State) (a : Nat) (n : Nat) : (s.delAcc a).region n = s.region n := rfl
@[simp] theorem State.fig_delAcc (s : State) (a : Nat) (n : Nat) : (s.delAcc a).fig n = s.fig n := rfl
@[simp] theorem State.wait_delAcc (s : State) (a : Nat) (n : Nat) : (s.delAcc a).wait n = s.wait n := rfl
@[simp] theorem State.pav_delAcc (s : State) (a : Nat) (n : Nat) : (s.delAcc a).pav n = s.pav n := rfl
@[simp] theorem State.peek_delAcc (s : State) (a : Nat) (n : Nat) : (s.delAcc a).peek n = s.peek n := rfl
@[simp] theorem State.reg_delAcc (s : State) (a : Nat) (q n : Nat) : (s.delAcc a).reg q n = s.reg q n := rfl
/-! #### `setWait` -/
@[simp] theorem State.setWait_fab (s : State) (w : Nat) (x : Wait) : (s.setWait w x).fab = s.fab := rfl
@[simp] theorem State.setWait_figs (s : State) (w : Nat) (x : Wait) : (s.setWait w x).figs = s.figs := rfl
@[simp] theorem State.setWait_regions (s : State) (w : Nat) (x : Wait) : (s.setWait w x).regions = s.regions := rfl
@[simp] theorem State.setWait_bufs (s : State) (w : Nat) (x : Wait) : (s.setWait w x).bufs = s.bufs := rfl
@[simp] theorem State.setWait_secs (s : State) (w : Nat) (x : Wait) : (s.setWait w x).secs = s.secs := rfl
@[simp] theorem State.setWait_iv (s : State) (w : Nat) (x : Wait) : (s.setWait w x).iv = s.iv := rfl
@[simp] theorem State.setWait_mem (s : State) (w : Nat) (x : Wait) : (s.setWait w x).mem = s.mem := rfl
@[simp] theorem State.setWait_ms (s : State) (w : Nat) (x : Wait) : (s.setWait w x).ms = s.ms := rfl
@[simp] theorem State.setWait_eng (s : State) (w : Nat) (x : Wait) : (s.setWait w x).eng = s.eng := rfl
@[simp] theorem State.setWait_work (s : State) (w : Nat) (x : Wait) : (s.setWait w x).work = s.work := rfl
@[simp] theorem State.setWait_out (s : State) (w : Nat) (x : Wait) : (s.setWait w x).out = s.out := rfl
@[simp] theorem State.setWait_members (s : State) (w : Nat) (x : Wait) : (s.setWait w x).members = s.members := rfl
@[simp] theorem State.setWait_regs (s : State) (w : Nat) (x : Wait) : (s.setWait w x).regs = s.regs := rfl
@[simp] theorem State.setWait_det (s : State) (w : Nat) (x : Wait) : (s.setWait w x).det = s.det := rfl
@[simp] theorem State.setWait_cyc (s : State) (w : Nat) (x : Wait) : (s.setWait w x).cyc = s.cyc := rfl
@[simp] theorem State.setWait_agenda (s : State) (w : Nat) (x : Wait) : (s.setWait w x).agenda = s.agenda := rfl
@[simp] theorem State.setWait_free (s : State) (w : Nat) (x : Wait) : (s.setWait w x).free = s.free := rfl
@[simp] theorem State.setWait_act (s : State) (w : Nat) (x : Wait) : (s.setWait w x).act = s.act := rfl
@[simp] theorem State.setWait_fl_emits (s : State) (w : Nat) (x : Wait) : (s.setWait w x).fl.emits = s.fl.emits := rfl
@[simp] theorem State.setWait_fl_resv (s : State) (w : Nat) (x : Wait) : (s.setWait w x).fl.resv = s.fl.resv := rfl
@[simp] theorem State.setWait_fl_accs (s : State) (w : Nat) (x : Wait) : (s.setWait w x).fl.accs = s.fl.accs := rfl
@[simp] theorem State.setWait_fl_hops (s : State) (w : Nat) (x : Wait) : (s.setWait w x).fl.hops = s.fl.hops := rfl
@[simp] theorem State.setWait_fl_lsn (s : State) (w : Nat) (x : Wait) : (s.setWait w x).fl.lsn = s.fl.lsn := rfl
@[simp] theorem State.setWait_fl_agreed (s : State) (w : Nat) (x : Wait) : (s.setWait w x).fl.agreed = s.fl.agreed := rfl
@[simp] theorem State.setWait_fl_twins (s : State) (w : Nat) (x : Wait) : (s.setWait w x).fl.twins = s.fl.twins := rfl
@[simp] theorem State.setWait_fl_results (s : State) (w : Nat) (x : Wait) : (s.setWait w x).fl.results = s.fl.results := rfl
@[simp] theorem State.setWait_fl_next (s : State) (w : Nat) (x : Wait) : (s.setWait w x).fl.next = s.fl.next := rfl
@[simp] theorem State.elem_setWait (s : State) (w : Nat) (x : Wait) (n : Nat) : (s.setWait w x).elem n = s.elem n := rfl
@[simp] theorem State.mx_setWait (s : State) (w : Nat) (x : Wait) (n : Nat) : (s.setWait w x).mx n = s.mx n := rfl
@[simp] theorem State.stripe_setWait (s : State) (w : Nat) (x : Wait) (n : Nat) : (s.setWait w x).stripe n = s.stripe n := rfl
@[simp] theorem State.port_setWait (s : State) (w : Nat) (x : Wait) (n : Nat) : (s.setWait w x).port n = s.port n := rfl
@[simp] theorem State.strm_setWait (s : State) (w : Nat) (x : Wait) (n : Nat) : (s.setWait w x).strm n = s.strm n := rfl
@[simp] theorem State.ring_setWait (s : State) (w : Nat) (x : Wait) (n : Nat) : (s.setWait w x).ring n = s.ring n := rfl
@[simp] theorem State.region_setWait (s : State) (w : Nat) (x : Wait) (n : Nat) : (s.setWait w x).region n = s.region n := rfl
@[simp] theorem State.fig_setWait (s : State) (w : Nat) (x : Wait) (n : Nat) : (s.setWait w x).fig n = s.fig n := rfl
@[simp] theorem State.acc_setWait (s : State) (w : Nat) (x : Wait) (n : Nat) : (s.setWait w x).acc n = s.acc n := rfl
@[simp] theorem State.pav_setWait (s : State) (w : Nat) (x : Wait) (n : Nat) : (s.setWait w x).pav n = s.pav n := rfl
@[simp] theorem State.peek_setWait (s : State) (w : Nat) (x : Wait) (n : Nat) : (s.setWait w x).peek n = s.peek n := rfl
@[simp] theorem State.reg_setWait (s : State) (w : Nat) (x : Wait) (q n : Nat) : (s.setWait w x).reg q n = s.reg q n := rfl
/-! #### `delWait` -/
@[simp] theorem State.delWait_fab (s : State) (w : Nat) : (s.delWait w).fab = s.fab := rfl
@[simp] theorem State.delWait_figs (s : State) (w : Nat) : (s.delWait w).figs = s.figs := rfl
@[simp] theorem State.delWait_regions (s : State) (w : Nat) : (s.delWait w).regions = s.regions := rfl
@[simp] theorem State.delWait_bufs (s : State) (w : Nat) : (s.delWait w).bufs = s.bufs := rfl
@[simp] theorem State.delWait_secs (s : State) (w : Nat) : (s.delWait w).secs = s.secs := rfl
@[simp] theorem State.delWait_iv (s : State) (w : Nat) : (s.delWait w).iv = s.iv := rfl
@[simp] theorem State.delWait_mem (s : State) (w : Nat) : (s.delWait w).mem = s.mem := rfl
@[simp] theorem State.delWait_ms (s : State) (w : Nat) : (s.delWait w).ms = s.ms := rfl
@[simp] theorem State.delWait_eng (s : State) (w : Nat) : (s.delWait w).eng = s.eng := rfl
@[simp] theorem State.delWait_work (s : State) (w : Nat) : (s.delWait w).work = s.work := rfl
@[simp] theorem State.delWait_out (s : State) (w : Nat) : (s.delWait w).out = s.out := rfl
@[simp] theorem State.delWait_members (s : State) (w : Nat) : (s.delWait w).members = s.members := rfl
@[simp] theorem State.delWait_regs (s : State) (w : Nat) : (s.delWait w).regs = s.regs := rfl
@[simp] theorem State.delWait_det (s : State) (w : Nat) : (s.delWait w).det = s.det := rfl
@[simp] theorem State.delWait_cyc (s : State) (w : Nat) : (s.delWait w).cyc = s.cyc := rfl
@[simp] theorem State.delWait_agenda (s : State) (w : Nat) : (s.delWait w).agenda = s.agenda := rfl
@[simp] theorem State.delWait_free (s : State) (w : Nat) : (s.delWait w).free = s.free := rfl
@[simp] theorem State.delWait_act (s : State) (w : Nat) : (s.delWait w).act = s.act := rfl
@[simp] theorem State.delWait_fl_emits (s : State) (w : Nat) : (s.delWait w).fl.emits = s.fl.emits := rfl
@[simp] theorem State.delWait_fl_resv (s : State) (w : Nat) : (s.delWait w).fl.resv = s.fl.resv := rfl
@[simp] theorem State.delWait_fl_accs (s : State) (w : Nat) : (s.delWait w).fl.accs = s.fl.accs := rfl
@[simp] theorem State.delWait_fl_hops (s : State) (w : Nat) : (s.delWait w).fl.hops = s.fl.hops := rfl
@[simp] theorem State.delWait_fl_lsn (s : State) (w : Nat) : (s.delWait w).fl.lsn = s.fl.lsn := rfl
@[simp] theorem State.delWait_fl_agreed (s : State) (w : Nat) : (s.delWait w).fl.agreed = s.fl.agreed := rfl
@[simp] theorem State.delWait_fl_twins (s : State) (w : Nat) : (s.delWait w).fl.twins = s.fl.twins := rfl
@[simp] theorem State.delWait_fl_results (s : State) (w : Nat) : (s.delWait w).fl.results = s.fl.results := rfl
@[simp] theorem State.delWait_fl_next (s : State) (w : Nat) : (s.delWait w).fl.next = s.fl.next := rfl
@[simp] theorem State.elem_delWait (s : State) (w : Nat) (n : Nat) : (s.delWait w).elem n = s.elem n := rfl
@[simp] theorem State.mx_delWait (s : State) (w : Nat) (n : Nat) : (s.delWait w).mx n = s.mx n := rfl
@[simp] theorem State.stripe_delWait (s : State) (w : Nat) (n : Nat) : (s.delWait w).stripe n = s.stripe n := rfl
@[simp] theorem State.port_delWait (s : State) (w : Nat) (n : Nat) : (s.delWait w).port n = s.port n := rfl
@[simp] theorem State.strm_delWait (s : State) (w : Nat) (n : Nat) : (s.delWait w).strm n = s.strm n := rfl
@[simp] theorem State.ring_delWait (s : State) (w : Nat) (n : Nat) : (s.delWait w).ring n = s.ring n := rfl
@[simp] theorem State.region_delWait (s : State) (w : Nat) (n : Nat) : (s.delWait w).region n = s.region n := rfl
@[simp] theorem State.fig_delWait (s : State) (w : Nat) (n : Nat) : (s.delWait w).fig n = s.fig n := rfl
@[simp] theorem State.acc_delWait (s : State) (w : Nat) (n : Nat) : (s.delWait w).acc n = s.acc n := rfl
@[simp] theorem State.pav_delWait (s : State) (w : Nat) (n : Nat) : (s.delWait w).pav n = s.pav n := rfl
@[simp] theorem State.peek_delWait (s : State) (w : Nat) (n : Nat) : (s.delWait w).peek n = s.peek n := rfl
@[simp] theorem State.reg_delWait (s : State) (w : Nat) (q n : Nat) : (s.delWait w).reg q n = s.reg q n := rfl
/-! #### `bump` -/
@[simp] theorem State.bump_fab (s : State)  : (s.bump).fab = s.fab := rfl
@[simp] theorem State.bump_figs (s : State)  : (s.bump).figs = s.figs := rfl
@[simp] theorem State.bump_regions (s : State)  : (s.bump).regions = s.regions := rfl
@[simp] theorem State.bump_bufs (s : State)  : (s.bump).bufs = s.bufs := rfl
@[simp] theorem State.bump_secs (s : State)  : (s.bump).secs = s.secs := rfl
@[simp] theorem State.bump_iv (s : State)  : (s.bump).iv = s.iv := rfl
@[simp] theorem State.bump_mem (s : State)  : (s.bump).mem = s.mem := rfl
@[simp] theorem State.bump_ms (s : State)  : (s.bump).ms = s.ms := rfl
@[simp] theorem State.bump_eng (s : State)  : (s.bump).eng = s.eng := rfl
@[simp] theorem State.bump_work (s : State)  : (s.bump).work = s.work := rfl
@[simp] theorem State.bump_out (s : State)  : (s.bump).out = s.out := rfl
@[simp] theorem State.bump_members (s : State)  : (s.bump).members = s.members := rfl
@[simp] theorem State.bump_regs (s : State)  : (s.bump).regs = s.regs := rfl
@[simp] theorem State.bump_det (s : State)  : (s.bump).det = s.det := rfl
@[simp] theorem State.bump_cyc (s : State)  : (s.bump).cyc = s.cyc := rfl
@[simp] theorem State.bump_agenda (s : State)  : (s.bump).agenda = s.agenda := rfl
@[simp] theorem State.bump_free (s : State)  : (s.bump).free = s.free := rfl
@[simp] theorem State.bump_act (s : State)  : (s.bump).act = s.act := rfl
@[simp] theorem State.bump_fl_emits (s : State)  : (s.bump).fl.emits = s.fl.emits := rfl
@[simp] theorem State.bump_fl_resv (s : State)  : (s.bump).fl.resv = s.fl.resv := rfl
@[simp] theorem State.bump_fl_accs (s : State)  : (s.bump).fl.accs = s.fl.accs := rfl
@[simp] theorem State.bump_fl_waits (s : State)  : (s.bump).fl.waits = s.fl.waits := rfl
@[simp] theorem State.bump_fl_hops (s : State)  : (s.bump).fl.hops = s.fl.hops := rfl
@[simp] theorem State.bump_fl_lsn (s : State)  : (s.bump).fl.lsn = s.fl.lsn := rfl
@[simp] theorem State.bump_fl_agreed (s : State)  : (s.bump).fl.agreed = s.fl.agreed := rfl
@[simp] theorem State.bump_fl_twins (s : State)  : (s.bump).fl.twins = s.fl.twins := rfl
@[simp] theorem State.bump_fl_results (s : State)  : (s.bump).fl.results = s.fl.results := rfl
@[simp] theorem State.elem_bump (s : State)  (n : Nat) : (s.bump).elem n = s.elem n := rfl
@[simp] theorem State.mx_bump (s : State)  (n : Nat) : (s.bump).mx n = s.mx n := rfl
@[simp] theorem State.stripe_bump (s : State)  (n : Nat) : (s.bump).stripe n = s.stripe n := rfl
@[simp] theorem State.port_bump (s : State)  (n : Nat) : (s.bump).port n = s.port n := rfl
@[simp] theorem State.strm_bump (s : State)  (n : Nat) : (s.bump).strm n = s.strm n := rfl
@[simp] theorem State.ring_bump (s : State)  (n : Nat) : (s.bump).ring n = s.ring n := rfl
@[simp] theorem State.region_bump (s : State)  (n : Nat) : (s.bump).region n = s.region n := rfl
@[simp] theorem State.fig_bump (s : State)  (n : Nat) : (s.bump).fig n = s.fig n := rfl
@[simp] theorem State.acc_bump (s : State)  (n : Nat) : (s.bump).acc n = s.acc n := rfl
@[simp] theorem State.wait_bump (s : State)  (n : Nat) : (s.bump).wait n = s.wait n := rfl
@[simp] theorem State.pav_bump (s : State)  (n : Nat) : (s.bump).pav n = s.pav n := rfl
@[simp] theorem State.peek_bump (s : State)  (n : Nat) : (s.bump).peek n = s.peek n := rfl
@[simp] theorem State.reg_bump (s : State)  (q n : Nat) : (s.bump).reg q n = s.reg q n := rfl
/-! #### `sendEmit` -/
@[simp] theorem State.sendEmit_fab (s : State) (e : Emit) : (s.sendEmit e).fab = s.fab := rfl
@[simp] theorem State.sendEmit_figs (s : State) (e : Emit) : (s.sendEmit e).figs = s.figs := rfl
@[simp] theorem State.sendEmit_regions (s : State) (e : Emit) : (s.sendEmit e).regions = s.regions := rfl
@[simp] theorem State.sendEmit_bufs (s : State) (e : Emit) : (s.sendEmit e).bufs = s.bufs := rfl
@[simp] theorem State.sendEmit_secs (s : State) (e : Emit) : (s.sendEmit e).secs = s.secs := rfl
@[simp] theorem State.sendEmit_iv (s : State) (e : Emit) : (s.sendEmit e).iv = s.iv := rfl
@[simp] theorem State.sendEmit_mem (s : State) (e : Emit) : (s.sendEmit e).mem = s.mem := rfl
@[simp] theorem State.sendEmit_ms (s : State) (e : Emit) : (s.sendEmit e).ms = s.ms := rfl
@[simp] theorem State.sendEmit_eng (s : State) (e : Emit) : (s.sendEmit e).eng = s.eng := rfl
@[simp] theorem State.sendEmit_work (s : State) (e : Emit) : (s.sendEmit e).work = s.work := rfl
@[simp] theorem State.sendEmit_out (s : State) (e : Emit) : (s.sendEmit e).out = s.out := rfl
@[simp] theorem State.sendEmit_members (s : State) (e : Emit) : (s.sendEmit e).members = s.members := rfl
@[simp] theorem State.sendEmit_regs (s : State) (e : Emit) : (s.sendEmit e).regs = s.regs := rfl
@[simp] theorem State.sendEmit_det (s : State) (e : Emit) : (s.sendEmit e).det = s.det := rfl
@[simp] theorem State.sendEmit_cyc (s : State) (e : Emit) : (s.sendEmit e).cyc = s.cyc := rfl
@[simp] theorem State.sendEmit_agenda (s : State) (e : Emit) : (s.sendEmit e).agenda = s.agenda := rfl
@[simp] theorem State.sendEmit_free (s : State) (e : Emit) : (s.sendEmit e).free = s.free := rfl
@[simp] theorem State.sendEmit_act (s : State) (e : Emit) : (s.sendEmit e).act = s.act := rfl
@[simp] theorem State.sendEmit_fl_resv (s : State) (e : Emit) : (s.sendEmit e).fl.resv = s.fl.resv := rfl
@[simp] theorem State.sendEmit_fl_accs (s : State) (e : Emit) : (s.sendEmit e).fl.accs = s.fl.accs := rfl
@[simp] theorem State.sendEmit_fl_waits (s : State) (e : Emit) : (s.sendEmit e).fl.waits = s.fl.waits := rfl
@[simp] theorem State.sendEmit_fl_hops (s : State) (e : Emit) : (s.sendEmit e).fl.hops = s.fl.hops := rfl
@[simp] theorem State.sendEmit_fl_lsn (s : State) (e : Emit) : (s.sendEmit e).fl.lsn = s.fl.lsn := rfl
@[simp] theorem State.sendEmit_fl_agreed (s : State) (e : Emit) : (s.sendEmit e).fl.agreed = s.fl.agreed := rfl
@[simp] theorem State.sendEmit_fl_twins (s : State) (e : Emit) : (s.sendEmit e).fl.twins = s.fl.twins := rfl
@[simp] theorem State.sendEmit_fl_results (s : State) (e : Emit) : (s.sendEmit e).fl.results = s.fl.results := rfl
@[simp] theorem State.sendEmit_fl_next (s : State) (e : Emit) : (s.sendEmit e).fl.next = s.fl.next := rfl
@[simp] theorem State.elem_sendEmit (s : State) (e : Emit) (n : Nat) : (s.sendEmit e).elem n = s.elem n := rfl
@[simp] theorem State.mx_sendEmit (s : State) (e : Emit) (n : Nat) : (s.sendEmit e).mx n = s.mx n := rfl
@[simp] theorem State.stripe_sendEmit (s : State) (e : Emit) (n : Nat) : (s.sendEmit e).stripe n = s.stripe n := rfl
@[simp] theorem State.port_sendEmit (s : State) (e : Emit) (n : Nat) : (s.sendEmit e).port n = s.port n := rfl
@[simp] theorem State.strm_sendEmit (s : State) (e : Emit) (n : Nat) : (s.sendEmit e).strm n = s.strm n := rfl
@[simp] theorem State.ring_sendEmit (s : State) (e : Emit) (n : Nat) : (s.sendEmit e).ring n = s.ring n := rfl
@[simp] theorem State.region_sendEmit (s : State) (e : Emit) (n : Nat) : (s.sendEmit e).region n = s.region n := rfl
@[simp] theorem State.fig_sendEmit (s : State) (e : Emit) (n : Nat) : (s.sendEmit e).fig n = s.fig n := rfl
@[simp] theorem State.acc_sendEmit (s : State) (e : Emit) (n : Nat) : (s.sendEmit e).acc n = s.acc n := rfl
@[simp] theorem State.wait_sendEmit (s : State) (e : Emit) (n : Nat) : (s.sendEmit e).wait n = s.wait n := rfl
@[simp] theorem State.pav_sendEmit (s : State) (e : Emit) (n : Nat) : (s.sendEmit e).pav n = s.pav n := rfl
@[simp] theorem State.peek_sendEmit (s : State) (e : Emit) (n : Nat) : (s.sendEmit e).peek n = s.peek n := rfl
@[simp] theorem State.reg_sendEmit (s : State) (e : Emit) (q n : Nat) : (s.sendEmit e).reg q n = s.reg q n := rfl
/-! #### `setPav` -/
@[simp] theorem State.setPav_fab (s : State) (pk : Nat) (x : Pav) : (s.setPav pk x).fab = s.fab := rfl
@[simp] theorem State.setPav_fl (s : State) (pk : Nat) (x : Pav) : (s.setPav pk x).fl = s.fl := rfl
@[simp] theorem State.setPav_figs (s : State) (pk : Nat) (x : Pav) : (s.setPav pk x).figs = s.figs := rfl
@[simp] theorem State.setPav_regions (s : State) (pk : Nat) (x : Pav) : (s.setPav pk x).regions = s.regions := rfl
@[simp] theorem State.setPav_bufs (s : State) (pk : Nat) (x : Pav) : (s.setPav pk x).bufs = s.bufs := rfl
@[simp] theorem State.setPav_secs (s : State) (pk : Nat) (x : Pav) : (s.setPav pk x).secs = s.secs := rfl
@[simp] theorem State.setPav_mem (s : State) (pk : Nat) (x : Pav) : (s.setPav pk x).mem = s.mem := rfl
@[simp] theorem State.setPav_ms (s : State) (pk : Nat) (x : Pav) : (s.setPav pk x).ms = s.ms := rfl
@[simp] theorem State.setPav_eng (s : State) (pk : Nat) (x : Pav) : (s.setPav pk x).eng = s.eng := rfl
@[simp] theorem State.setPav_work (s : State) (pk : Nat) (x : Pav) : (s.setPav pk x).work = s.work := rfl
@[simp] theorem State.setPav_out (s : State) (pk : Nat) (x : Pav) : (s.setPav pk x).out = s.out := rfl
@[simp] theorem State.setPav_members (s : State) (pk : Nat) (x : Pav) : (s.setPav pk x).members = s.members := rfl
@[simp] theorem State.setPav_regs (s : State) (pk : Nat) (x : Pav) : (s.setPav pk x).regs = s.regs := rfl
@[simp] theorem State.setPav_det (s : State) (pk : Nat) (x : Pav) : (s.setPav pk x).det = s.det := rfl
@[simp] theorem State.setPav_cyc (s : State) (pk : Nat) (x : Pav) : (s.setPav pk x).cyc = s.cyc := rfl
@[simp] theorem State.setPav_agenda (s : State) (pk : Nat) (x : Pav) : (s.setPav pk x).agenda = s.agenda := rfl
@[simp] theorem State.setPav_free (s : State) (pk : Nat) (x : Pav) : (s.setPav pk x).free = s.free := rfl
@[simp] theorem State.setPav_act (s : State) (pk : Nat) (x : Pav) : (s.setPav pk x).act = s.act := rfl
@[simp] theorem State.elem_setPav (s : State) (pk : Nat) (x : Pav) (n : Nat) : (s.setPav pk x).elem n = s.elem n := rfl
@[simp] theorem State.mx_setPav (s : State) (pk : Nat) (x : Pav) (n : Nat) : (s.setPav pk x).mx n = s.mx n := rfl
@[simp] theorem State.stripe_setPav (s : State) (pk : Nat) (x : Pav) (n : Nat) : (s.setPav pk x).stripe n = s.stripe n := rfl
@[simp] theorem State.port_setPav (s : State) (pk : Nat) (x : Pav) (n : Nat) : (s.setPav pk x).port n = s.port n := rfl
@[simp] theorem State.strm_setPav (s : State) (pk : Nat) (x : Pav) (n : Nat) : (s.setPav pk x).strm n = s.strm n := rfl
@[simp] theorem State.ring_setPav (s : State) (pk : Nat) (x : Pav) (n : Nat) : (s.setPav pk x).ring n = s.ring n := rfl
@[simp] theorem State.region_setPav (s : State) (pk : Nat) (x : Pav) (n : Nat) : (s.setPav pk x).region n = s.region n := rfl
@[simp] theorem State.fig_setPav (s : State) (pk : Nat) (x : Pav) (n : Nat) : (s.setPav pk x).fig n = s.fig n := rfl
@[simp] theorem State.acc_setPav (s : State) (pk : Nat) (x : Pav) (n : Nat) : (s.setPav pk x).acc n = s.acc n := rfl
@[simp] theorem State.wait_setPav (s : State) (pk : Nat) (x : Pav) (n : Nat) : (s.setPav pk x).wait n = s.wait n := rfl
@[simp] theorem State.pav_setPav (s : State) (pk : Nat) (x : Pav) (n : Nat) : (s.setPav pk x).pav n = if pk = n then x else s.pav n := FMap.get_put ..
@[simp] theorem State.peek_setPav (s : State) (pk : Nat) (x : Pav) (n : Nat) : (s.setPav pk x).peek n = s.peek n := rfl
@[simp] theorem State.reg_setPav (s : State) (pk : Nat) (x : Pav) (q n : Nat) : (s.setPav pk x).reg q n = s.reg q n := rfl
/-! #### `setReg` -/
@[simp] theorem State.setReg_fab (s : State) (pk off : Nat) (v : W64) : (s.setReg pk off v).fab = s.fab := rfl
@[simp] theorem State.setReg_fl (s : State) (pk off : Nat) (v : W64) : (s.setReg pk off v).fl = s.fl := rfl
@[simp] theorem State.setReg_figs (s : State) (pk off : Nat) (v : W64) : (s.setReg pk off v).figs = s.figs := rfl
@[simp] theorem State.setReg_regions (s : State) (pk off : Nat) (v : W64) : (s.setReg pk off v).regions = s.regions := rfl
@[simp] theorem State.setReg_bufs (s : State) (pk off : Nat) (v : W64) : (s.setReg pk off v).bufs = s.bufs := rfl
@[simp] theorem State.setReg_secs (s : State) (pk off : Nat) (v : W64) : (s.setReg pk off v).secs = s.secs := rfl
@[simp] theorem State.setReg_iv (s : State) (pk off : Nat) (v : W64) : (s.setReg pk off v).iv = s.iv := rfl
@[simp] theorem State.setReg_mem (s : State) (pk off : Nat) (v : W64) : (s.setReg pk off v).mem = s.mem := rfl
@[simp] theorem State.setReg_ms (s : State) (pk off : Nat) (v : W64) : (s.setReg pk off v).ms = s.ms := rfl
@[simp] theorem State.setReg_eng (s : State) (pk off : Nat) (v : W64) : (s.setReg pk off v).eng = s.eng := rfl
@[simp] theorem State.setReg_work (s : State) (pk off : Nat) (v : W64) : (s.setReg pk off v).work = s.work := rfl
@[simp] theorem State.setReg_out (s : State) (pk off : Nat) (v : W64) : (s.setReg pk off v).out = s.out := rfl
@[simp] theorem State.setReg_members (s : State) (pk off : Nat) (v : W64) : (s.setReg pk off v).members = s.members := rfl
@[simp] theorem State.setReg_det (s : State) (pk off : Nat) (v : W64) : (s.setReg pk off v).det = s.det := rfl
@[simp] theorem State.setReg_cyc (s : State) (pk off : Nat) (v : W64) : (s.setReg pk off v).cyc = s.cyc := rfl
@[simp] theorem State.setReg_agenda (s : State) (pk off : Nat) (v : W64) : (s.setReg pk off v).agenda = s.agenda := rfl
@[simp] theorem State.setReg_free (s : State) (pk off : Nat) (v : W64) : (s.setReg pk off v).free = s.free := rfl
@[simp] theorem State.setReg_act (s : State) (pk off : Nat) (v : W64) : (s.setReg pk off v).act = s.act := rfl
@[simp] theorem State.elem_setReg (s : State) (pk off : Nat) (v : W64) (n : Nat) : (s.setReg pk off v).elem n = s.elem n := rfl
@[simp] theorem State.mx_setReg (s : State) (pk off : Nat) (v : W64) (n : Nat) : (s.setReg pk off v).mx n = s.mx n := rfl
@[simp] theorem State.stripe_setReg (s : State) (pk off : Nat) (v : W64) (n : Nat) : (s.setReg pk off v).stripe n = s.stripe n := rfl
@[simp] theorem State.port_setReg (s : State) (pk off : Nat) (v : W64) (n : Nat) : (s.setReg pk off v).port n = s.port n := rfl
@[simp] theorem State.strm_setReg (s : State) (pk off : Nat) (v : W64) (n : Nat) : (s.setReg pk off v).strm n = s.strm n := rfl
@[simp] theorem State.ring_setReg (s : State) (pk off : Nat) (v : W64) (n : Nat) : (s.setReg pk off v).ring n = s.ring n := rfl
@[simp] theorem State.region_setReg (s : State) (pk off : Nat) (v : W64) (n : Nat) : (s.setReg pk off v).region n = s.region n := rfl
@[simp] theorem State.fig_setReg (s : State) (pk off : Nat) (v : W64) (n : Nat) : (s.setReg pk off v).fig n = s.fig n := rfl
@[simp] theorem State.acc_setReg (s : State) (pk off : Nat) (v : W64) (n : Nat) : (s.setReg pk off v).acc n = s.acc n := rfl
@[simp] theorem State.wait_setReg (s : State) (pk off : Nat) (v : W64) (n : Nat) : (s.setReg pk off v).wait n = s.wait n := rfl
@[simp] theorem State.pav_setReg (s : State) (pk off : Nat) (v : W64) (n : Nat) : (s.setReg pk off v).pav n = s.pav n := rfl
@[simp] theorem State.peek_setReg (s : State) (pk off : Nat) (v : W64) (n : Nat) : (s.setReg pk off v).peek n = s.peek n := rfl
/-! #### `setMark` -/
@[simp] theorem State.setMark_fab (s : State) (u : Nat) (x : Option Mark) : (s.setMark u x).fab = s.fab := rfl
@[simp] theorem State.setMark_fl (s : State) (u : Nat) (x : Option Mark) : (s.setMark u x).fl = s.fl := rfl
@[simp] theorem State.setMark_figs (s : State) (u : Nat) (x : Option Mark) : (s.setMark u x).figs = s.figs := rfl
@[simp] theorem State.setMark_regions (s : State) (u : Nat) (x : Option Mark) : (s.setMark u x).regions = s.regions := rfl
@[simp] theorem State.setMark_bufs (s : State) (u : Nat) (x : Option Mark) : (s.setMark u x).bufs = s.bufs := rfl
@[simp] theorem State.setMark_secs (s : State) (u : Nat) (x : Option Mark) : (s.setMark u x).secs = s.secs := rfl
@[simp] theorem State.setMark_iv (s : State) (u : Nat) (x : Option Mark) : (s.setMark u x).iv = s.iv := rfl
@[simp] theorem State.setMark_mem (s : State) (u : Nat) (x : Option Mark) : (s.setMark u x).mem = s.mem := rfl
@[simp] theorem State.setMark_eng (s : State) (u : Nat) (x : Option Mark) : (s.setMark u x).eng = s.eng := rfl
@[simp] theorem State.setMark_work (s : State) (u : Nat) (x : Option Mark) : (s.setMark u x).work = s.work := rfl
@[simp] theorem State.setMark_out (s : State) (u : Nat) (x : Option Mark) : (s.setMark u x).out = s.out := rfl
@[simp] theorem State.setMark_members (s : State) (u : Nat) (x : Option Mark) : (s.setMark u x).members = s.members := rfl
@[simp] theorem State.setMark_regs (s : State) (u : Nat) (x : Option Mark) : (s.setMark u x).regs = s.regs := rfl
@[simp] theorem State.setMark_det (s : State) (u : Nat) (x : Option Mark) : (s.setMark u x).det = s.det := rfl
@[simp] theorem State.setMark_cyc (s : State) (u : Nat) (x : Option Mark) : (s.setMark u x).cyc = s.cyc := rfl
@[simp] theorem State.setMark_agenda (s : State) (u : Nat) (x : Option Mark) : (s.setMark u x).agenda = s.agenda := rfl
@[simp] theorem State.setMark_free (s : State) (u : Nat) (x : Option Mark) : (s.setMark u x).free = s.free := rfl
@[simp] theorem State.setMark_act (s : State) (u : Nat) (x : Option Mark) : (s.setMark u x).act = s.act := rfl
@[simp] theorem State.elem_setMark (s : State) (u : Nat) (x : Option Mark) (n : Nat) : (s.setMark u x).elem n = s.elem n := rfl
@[simp] theorem State.mx_setMark (s : State) (u : Nat) (x : Option Mark) (n : Nat) : (s.setMark u x).mx n = s.mx n := rfl
@[simp] theorem State.stripe_setMark (s : State) (u : Nat) (x : Option Mark) (n : Nat) : (s.setMark u x).stripe n = s.stripe n := rfl
@[simp] theorem State.port_setMark (s : State) (u : Nat) (x : Option Mark) (n : Nat) : (s.setMark u x).port n = s.port n := rfl
@[simp] theorem State.strm_setMark (s : State) (u : Nat) (x : Option Mark) (n : Nat) : (s.setMark u x).strm n = s.strm n := rfl
@[simp] theorem State.ring_setMark (s : State) (u : Nat) (x : Option Mark) (n : Nat) : (s.setMark u x).ring n = s.ring n := rfl
@[simp] theorem State.region_setMark (s : State) (u : Nat) (x : Option Mark) (n : Nat) : (s.setMark u x).region n = s.region n := rfl
@[simp] theorem State.fig_setMark (s : State) (u : Nat) (x : Option Mark) (n : Nat) : (s.setMark u x).fig n = s.fig n := rfl
@[simp] theorem State.acc_setMark (s : State) (u : Nat) (x : Option Mark) (n : Nat) : (s.setMark u x).acc n = s.acc n := rfl
@[simp] theorem State.wait_setMark (s : State) (u : Nat) (x : Option Mark) (n : Nat) : (s.setMark u x).wait n = s.wait n := rfl
@[simp] theorem State.pav_setMark (s : State) (u : Nat) (x : Option Mark) (n : Nat) : (s.setMark u x).pav n = s.pav n := rfl
@[simp] theorem State.peek_setMark (s : State) (u : Nat) (x : Option Mark) (n : Nat) : (s.setMark u x).peek n = s.peek n := rfl
@[simp] theorem State.reg_setMark (s : State) (u : Nat) (x : Option Mark) (q n : Nat) : (s.setMark u x).reg q n = s.reg q n := rfl
/-! #### `setPend` -/
@[simp] theorem State.setPend_fab (s : State) (l : List (Nat × Nat)) : (s.setPend l).fab = s.fab := rfl
@[simp] theorem State.setPend_fl (s : State) (l : List (Nat × Nat)) : (s.setPend l).fl = s.fl := rfl
@[simp] theorem State.setPend_figs (s : State) (l : List (Nat × Nat)) : (s.setPend l).figs = s.figs := rfl
@[simp] theorem State.setPend_regions (s : State) (l : List (Nat × Nat)) : (s.setPend l).regions = s.regions := rfl
@[simp] theorem State.setPend_bufs (s : State) (l : List (Nat × Nat)) : (s.setPend l).bufs = s.bufs := rfl
@[simp] theorem State.setPend_secs (s : State) (l : List (Nat × Nat)) : (s.setPend l).secs = s.secs := rfl
@[simp] theorem State.setPend_iv (s : State) (l : List (Nat × Nat)) : (s.setPend l).iv = s.iv := rfl
@[simp] theorem State.setPend_mem (s : State) (l : List (Nat × Nat)) : (s.setPend l).mem = s.mem := rfl
@[simp] theorem State.setPend_eng (s : State) (l : List (Nat × Nat)) : (s.setPend l).eng = s.eng := rfl
@[simp] theorem State.setPend_work (s : State) (l : List (Nat × Nat)) : (s.setPend l).work = s.work := rfl
@[simp] theorem State.setPend_out (s : State) (l : List (Nat × Nat)) : (s.setPend l).out = s.out := rfl
@[simp] theorem State.setPend_members (s : State) (l : List (Nat × Nat)) : (s.setPend l).members = s.members := rfl
@[simp] theorem State.setPend_regs (s : State) (l : List (Nat × Nat)) : (s.setPend l).regs = s.regs := rfl
@[simp] theorem State.setPend_det (s : State) (l : List (Nat × Nat)) : (s.setPend l).det = s.det := rfl
@[simp] theorem State.setPend_cyc (s : State) (l : List (Nat × Nat)) : (s.setPend l).cyc = s.cyc := rfl
@[simp] theorem State.setPend_agenda (s : State) (l : List (Nat × Nat)) : (s.setPend l).agenda = s.agenda := rfl
@[simp] theorem State.setPend_free (s : State) (l : List (Nat × Nat)) : (s.setPend l).free = s.free := rfl
@[simp] theorem State.setPend_act (s : State) (l : List (Nat × Nat)) : (s.setPend l).act = s.act := rfl
@[simp] theorem State.elem_setPend (s : State) (l : List (Nat × Nat)) (n : Nat) : (s.setPend l).elem n = s.elem n := rfl
@[simp] theorem State.mx_setPend (s : State) (l : List (Nat × Nat)) (n : Nat) : (s.setPend l).mx n = s.mx n := rfl
@[simp] theorem State.stripe_setPend (s : State) (l : List (Nat × Nat)) (n : Nat) : (s.setPend l).stripe n = s.stripe n := rfl
@[simp] theorem State.port_setPend (s : State) (l : List (Nat × Nat)) (n : Nat) : (s.setPend l).port n = s.port n := rfl
@[simp] theorem State.strm_setPend (s : State) (l : List (Nat × Nat)) (n : Nat) : (s.setPend l).strm n = s.strm n := rfl
@[simp] theorem State.ring_setPend (s : State) (l : List (Nat × Nat)) (n : Nat) : (s.setPend l).ring n = s.ring n := rfl
@[simp] theorem State.region_setPend (s : State) (l : List (Nat × Nat)) (n : Nat) : (s.setPend l).region n = s.region n := rfl
@[simp] theorem State.fig_setPend (s : State) (l : List (Nat × Nat)) (n : Nat) : (s.setPend l).fig n = s.fig n := rfl
@[simp] theorem State.acc_setPend (s : State) (l : List (Nat × Nat)) (n : Nat) : (s.setPend l).acc n = s.acc n := rfl
@[simp] theorem State.wait_setPend (s : State) (l : List (Nat × Nat)) (n : Nat) : (s.setPend l).wait n = s.wait n := rfl
@[simp] theorem State.pav_setPend (s : State) (l : List (Nat × Nat)) (n : Nat) : (s.setPend l).pav n = s.pav n := rfl
@[simp] theorem State.peek_setPend (s : State) (l : List (Nat × Nat)) (n : Nat) : (s.setPend l).peek n = s.peek n := rfl
@[simp] theorem State.reg_setPend (s : State) (l : List (Nat × Nat)) (q n : Nat) : (s.setPend l).reg q n = s.reg q n := rfl
/-! #### `setStack` -/
@[simp] theorem State.setStack_fab (s : State) (sk : Nat) (x : Stack) : (s.setStack sk x).fab = s.fab := rfl
@[simp] theorem State.setStack_fl (s : State) (sk : Nat) (x : Stack) : (s.setStack sk x).fl = s.fl := rfl
@[simp] theorem State.setStack_figs (s : State) (sk : Nat) (x : Stack) : (s.setStack sk x).figs = s.figs := rfl
@[simp] theorem State.setStack_regions (s : State) (sk : Nat) (x : Stack) : (s.setStack sk x).regions = s.regions := rfl
@[simp] theorem State.setStack_bufs (s : State) (sk : Nat) (x : Stack) : (s.setStack sk x).bufs = s.bufs := rfl
@[simp] theorem State.setStack_secs (s : State) (sk : Nat) (x : Stack) : (s.setStack sk x).secs = s.secs := rfl
@[simp] theorem State.setStack_iv (s : State) (sk : Nat) (x : Stack) : (s.setStack sk x).iv = s.iv := rfl
@[simp] theorem State.setStack_mem (s : State) (sk : Nat) (x : Stack) : (s.setStack sk x).mem = s.mem := rfl
@[simp] theorem State.setStack_eng (s : State) (sk : Nat) (x : Stack) : (s.setStack sk x).eng = s.eng := rfl
@[simp] theorem State.setStack_work (s : State) (sk : Nat) (x : Stack) : (s.setStack sk x).work = s.work := rfl
@[simp] theorem State.setStack_out (s : State) (sk : Nat) (x : Stack) : (s.setStack sk x).out = s.out := rfl
@[simp] theorem State.setStack_members (s : State) (sk : Nat) (x : Stack) : (s.setStack sk x).members = s.members := rfl
@[simp] theorem State.setStack_regs (s : State) (sk : Nat) (x : Stack) : (s.setStack sk x).regs = s.regs := rfl
@[simp] theorem State.setStack_det (s : State) (sk : Nat) (x : Stack) : (s.setStack sk x).det = s.det := rfl
@[simp] theorem State.setStack_cyc (s : State) (sk : Nat) (x : Stack) : (s.setStack sk x).cyc = s.cyc := rfl
@[simp] theorem State.setStack_agenda (s : State) (sk : Nat) (x : Stack) : (s.setStack sk x).agenda = s.agenda := rfl
@[simp] theorem State.setStack_free (s : State) (sk : Nat) (x : Stack) : (s.setStack sk x).free = s.free := rfl
@[simp] theorem State.setStack_act (s : State) (sk : Nat) (x : Stack) : (s.setStack sk x).act = s.act := rfl
@[simp] theorem State.elem_setStack (s : State) (sk : Nat) (x : Stack) (n : Nat) : (s.setStack sk x).elem n = s.elem n := rfl
@[simp] theorem State.mx_setStack (s : State) (sk : Nat) (x : Stack) (n : Nat) : (s.setStack sk x).mx n = s.mx n := rfl
@[simp] theorem State.stripe_setStack (s : State) (sk : Nat) (x : Stack) (n : Nat) : (s.setStack sk x).stripe n = s.stripe n := rfl
@[simp] theorem State.port_setStack (s : State) (sk : Nat) (x : Stack) (n : Nat) : (s.setStack sk x).port n = s.port n := rfl
@[simp] theorem State.strm_setStack (s : State) (sk : Nat) (x : Stack) (n : Nat) : (s.setStack sk x).strm n = s.strm n := rfl
@[simp] theorem State.ring_setStack (s : State) (sk : Nat) (x : Stack) (n : Nat) : (s.setStack sk x).ring n = s.ring n := rfl
@[simp] theorem State.region_setStack (s : State) (sk : Nat) (x : Stack) (n : Nat) : (s.setStack sk x).region n = s.region n := rfl
@[simp] theorem State.fig_setStack (s : State) (sk : Nat) (x : Stack) (n : Nat) : (s.setStack sk x).fig n = s.fig n := rfl
@[simp] theorem State.acc_setStack (s : State) (sk : Nat) (x : Stack) (n : Nat) : (s.setStack sk x).acc n = s.acc n := rfl
@[simp] theorem State.wait_setStack (s : State) (sk : Nat) (x : Stack) (n : Nat) : (s.setStack sk x).wait n = s.wait n := rfl
@[simp] theorem State.pav_setStack (s : State) (sk : Nat) (x : Stack) (n : Nat) : (s.setStack sk x).pav n = s.pav n := rfl
@[simp] theorem State.peek_setStack (s : State) (sk : Nat) (x : Stack) (n : Nat) : (s.setStack sk x).peek n = s.peek n := rfl
@[simp] theorem State.reg_setStack (s : State) (sk : Nat) (x : Stack) (q n : Nat) : (s.setStack sk x).reg q n = s.reg q n := rfl
/-! #### `detect` -/
@[simp] theorem State.detect_fab (s : State) (pk : Nat) (o : Owner) (k : Nat) (r : FaultRec) : (s.detect pk o k r).fab = s.fab := rfl
@[simp] theorem State.detect_fl (s : State) (pk : Nat) (o : Owner) (k : Nat) (r : FaultRec) : (s.detect pk o k r).fl = s.fl := rfl
@[simp] theorem State.detect_figs (s : State) (pk : Nat) (o : Owner) (k : Nat) (r : FaultRec) : (s.detect pk o k r).figs = s.figs := rfl
@[simp] theorem State.detect_regions (s : State) (pk : Nat) (o : Owner) (k : Nat) (r : FaultRec) : (s.detect pk o k r).regions = s.regions := rfl
@[simp] theorem State.detect_bufs (s : State) (pk : Nat) (o : Owner) (k : Nat) (r : FaultRec) : (s.detect pk o k r).bufs = s.bufs := rfl
@[simp] theorem State.detect_secs (s : State) (pk : Nat) (o : Owner) (k : Nat) (r : FaultRec) : (s.detect pk o k r).secs = s.secs := rfl
@[simp] theorem State.detect_iv (s : State) (pk : Nat) (o : Owner) (k : Nat) (r : FaultRec) : (s.detect pk o k r).iv = s.iv := rfl
@[simp] theorem State.detect_mem (s : State) (pk : Nat) (o : Owner) (k : Nat) (r : FaultRec) : (s.detect pk o k r).mem = s.mem := rfl
@[simp] theorem State.detect_ms (s : State) (pk : Nat) (o : Owner) (k : Nat) (r : FaultRec) : (s.detect pk o k r).ms = s.ms := rfl
@[simp] theorem State.detect_eng (s : State) (pk : Nat) (o : Owner) (k : Nat) (r : FaultRec) : (s.detect pk o k r).eng = s.eng := rfl
@[simp] theorem State.detect_work (s : State) (pk : Nat) (o : Owner) (k : Nat) (r : FaultRec) : (s.detect pk o k r).work = s.work := rfl
@[simp] theorem State.detect_out (s : State) (pk : Nat) (o : Owner) (k : Nat) (r : FaultRec) : (s.detect pk o k r).out = s.out := rfl
@[simp] theorem State.detect_members (s : State) (pk : Nat) (o : Owner) (k : Nat) (r : FaultRec) : (s.detect pk o k r).members = s.members := rfl
@[simp] theorem State.detect_regs (s : State) (pk : Nat) (o : Owner) (k : Nat) (r : FaultRec) : (s.detect pk o k r).regs = s.regs := rfl
@[simp] theorem State.detect_cyc (s : State) (pk : Nat) (o : Owner) (k : Nat) (r : FaultRec) : (s.detect pk o k r).cyc = s.cyc := rfl
@[simp] theorem State.detect_agenda (s : State) (pk : Nat) (o : Owner) (k : Nat) (r : FaultRec) : (s.detect pk o k r).agenda = s.agenda := rfl
@[simp] theorem State.detect_free (s : State) (pk : Nat) (o : Owner) (k : Nat) (r : FaultRec) : (s.detect pk o k r).free = s.free := rfl
@[simp] theorem State.detect_act (s : State) (pk : Nat) (o : Owner) (k : Nat) (r : FaultRec) : (s.detect pk o k r).act = s.act := rfl
@[simp] theorem State.elem_detect (s : State) (pk : Nat) (o : Owner) (k : Nat) (r : FaultRec) (n : Nat) : (s.detect pk o k r).elem n = s.elem n := rfl
@[simp] theorem State.mx_detect (s : State) (pk : Nat) (o : Owner) (k : Nat) (r : FaultRec) (n : Nat) : (s.detect pk o k r).mx n = s.mx n := rfl
@[simp] theorem State.stripe_detect (s : State) (pk : Nat) (o : Owner) (k : Nat) (r : FaultRec) (n : Nat) : (s.detect pk o k r).stripe n = s.stripe n := rfl
@[simp] theorem State.port_detect (s : State) (pk : Nat) (o : Owner) (k : Nat) (r : FaultRec) (n : Nat) : (s.detect pk o k r).port n = s.port n := rfl
@[simp] theorem State.strm_detect (s : State) (pk : Nat) (o : Owner) (k : Nat) (r : FaultRec) (n : Nat) : (s.detect pk o k r).strm n = s.strm n := rfl
@[simp] theorem State.ring_detect (s : State) (pk : Nat) (o : Owner) (k : Nat) (r : FaultRec) (n : Nat) : (s.detect pk o k r).ring n = s.ring n := rfl
@[simp] theorem State.region_detect (s : State) (pk : Nat) (o : Owner) (k : Nat) (r : FaultRec) (n : Nat) : (s.detect pk o k r).region n = s.region n := rfl
@[simp] theorem State.fig_detect (s : State) (pk : Nat) (o : Owner) (k : Nat) (r : FaultRec) (n : Nat) : (s.detect pk o k r).fig n = s.fig n := rfl
@[simp] theorem State.acc_detect (s : State) (pk : Nat) (o : Owner) (k : Nat) (r : FaultRec) (n : Nat) : (s.detect pk o k r).acc n = s.acc n := rfl
@[simp] theorem State.wait_detect (s : State) (pk : Nat) (o : Owner) (k : Nat) (r : FaultRec) (n : Nat) : (s.detect pk o k r).wait n = s.wait n := rfl
@[simp] theorem State.pav_detect (s : State) (pk : Nat) (o : Owner) (k : Nat) (r : FaultRec) (n : Nat) : (s.detect pk o k r).pav n = s.pav n := rfl
@[simp] theorem State.peek_detect (s : State) (pk : Nat) (o : Owner) (k : Nat) (r : FaultRec) (n : Nat) : (s.detect pk o k r).peek n = s.peek n := rfl
@[simp] theorem State.reg_detect (s : State) (pk : Nat) (o : Owner) (k : Nat) (r : FaultRec) (q n : Nat) : (s.detect pk o k r).reg q n = s.reg q n := rfl
/-! #### `setReq` -/
@[simp] theorem State.setReq_fab (s : State) (k : Nat) (x : Req) : (s.setReq k x).fab = s.fab := rfl
@[simp] theorem State.setReq_fl (s : State) (k : Nat) (x : Req) : (s.setReq k x).fl = s.fl := rfl
@[simp] theorem State.setReq_figs (s : State) (k : Nat) (x : Req) : (s.setReq k x).figs = s.figs := rfl
@[simp] theorem State.setReq_regions (s : State) (k : Nat) (x : Req) : (s.setReq k x).regions = s.regions := rfl
@[simp] theorem State.setReq_bufs (s : State) (k : Nat) (x : Req) : (s.setReq k x).bufs = s.bufs := rfl
@[simp] theorem State.setReq_secs (s : State) (k : Nat) (x : Req) : (s.setReq k x).secs = s.secs := rfl
@[simp] theorem State.setReq_iv (s : State) (k : Nat) (x : Req) : (s.setReq k x).iv = s.iv := rfl
@[simp] theorem State.setReq_mem (s : State) (k : Nat) (x : Req) : (s.setReq k x).mem = s.mem := rfl
@[simp] theorem State.setReq_ms (s : State) (k : Nat) (x : Req) : (s.setReq k x).ms = s.ms := rfl
@[simp] theorem State.setReq_work (s : State) (k : Nat) (x : Req) : (s.setReq k x).work = s.work := rfl
@[simp] theorem State.setReq_out (s : State) (k : Nat) (x : Req) : (s.setReq k x).out = s.out := rfl
@[simp] theorem State.setReq_members (s : State) (k : Nat) (x : Req) : (s.setReq k x).members = s.members := rfl
@[simp] theorem State.setReq_regs (s : State) (k : Nat) (x : Req) : (s.setReq k x).regs = s.regs := rfl
@[simp] theorem State.setReq_det (s : State) (k : Nat) (x : Req) : (s.setReq k x).det = s.det := rfl
@[simp] theorem State.setReq_cyc (s : State) (k : Nat) (x : Req) : (s.setReq k x).cyc = s.cyc := rfl
@[simp] theorem State.setReq_agenda (s : State) (k : Nat) (x : Req) : (s.setReq k x).agenda = s.agenda := rfl
@[simp] theorem State.setReq_free (s : State) (k : Nat) (x : Req) : (s.setReq k x).free = s.free := rfl
@[simp] theorem State.setReq_act (s : State) (k : Nat) (x : Req) : (s.setReq k x).act = s.act := rfl
@[simp] theorem State.elem_setReq (s : State) (k : Nat) (x : Req) (n : Nat) : (s.setReq k x).elem n = s.elem n := rfl
@[simp] theorem State.mx_setReq (s : State) (k : Nat) (x : Req) (n : Nat) : (s.setReq k x).mx n = s.mx n := rfl
@[simp] theorem State.stripe_setReq (s : State) (k : Nat) (x : Req) (n : Nat) : (s.setReq k x).stripe n = s.stripe n := rfl
@[simp] theorem State.port_setReq (s : State) (k : Nat) (x : Req) (n : Nat) : (s.setReq k x).port n = s.port n := rfl
@[simp] theorem State.strm_setReq (s : State) (k : Nat) (x : Req) (n : Nat) : (s.setReq k x).strm n = s.strm n := rfl
@[simp] theorem State.ring_setReq (s : State) (k : Nat) (x : Req) (n : Nat) : (s.setReq k x).ring n = s.ring n := rfl
@[simp] theorem State.region_setReq (s : State) (k : Nat) (x : Req) (n : Nat) : (s.setReq k x).region n = s.region n := rfl
@[simp] theorem State.fig_setReq (s : State) (k : Nat) (x : Req) (n : Nat) : (s.setReq k x).fig n = s.fig n := rfl
@[simp] theorem State.acc_setReq (s : State) (k : Nat) (x : Req) (n : Nat) : (s.setReq k x).acc n = s.acc n := rfl
@[simp] theorem State.wait_setReq (s : State) (k : Nat) (x : Req) (n : Nat) : (s.setReq k x).wait n = s.wait n := rfl
@[simp] theorem State.pav_setReq (s : State) (k : Nat) (x : Req) (n : Nat) : (s.setReq k x).pav n = s.pav n := rfl
@[simp] theorem State.peek_setReq (s : State) (k : Nat) (x : Req) (n : Nat) : (s.setReq k x).peek n = s.peek n := rfl
@[simp] theorem State.reg_setReq (s : State) (k : Nat) (x : Req) (q n : Nat) : (s.setReq k x).reg q n = s.reg q n := rfl
/-! #### `delReq` -/
@[simp] theorem State.delReq_fab (s : State) (k : Nat) : (s.delReq k).fab = s.fab := rfl
@[simp] theorem State.delReq_fl (s : State) (k : Nat) : (s.delReq k).fl = s.fl := rfl
@[simp] theorem State.delReq_figs (s : State) (k : Nat) : (s.delReq k).figs = s.figs := rfl
@[simp] theorem State.delReq_regions (s : State) (k : Nat) : (s.delReq k).regions = s.regions := rfl
@[simp] theorem State.delReq_bufs (s : State) (k : Nat) : (s.delReq k).bufs = s.bufs := rfl
@[simp] theorem State.delReq_secs (s : State) (k : Nat) : (s.delReq k).secs = s.secs := rfl
@[simp] theorem State.delReq_iv (s : State) (k : Nat) : (s.delReq k).iv = s.iv := rfl
@[simp] theorem State.delReq_mem (s : State) (k : Nat) : (s.delReq k).mem = s.mem := rfl
@[simp] theorem State.delReq_ms (s : State) (k : Nat) : (s.delReq k).ms = s.ms := rfl
@[simp] theorem State.delReq_work (s : State) (k : Nat) : (s.delReq k).work = s.work := rfl
@[simp] theorem State.delReq_out (s : State) (k : Nat) : (s.delReq k).out = s.out := rfl
@[simp] theorem State.delReq_members (s : State) (k : Nat) : (s.delReq k).members = s.members := rfl
@[simp] theorem State.delReq_regs (s : State) (k : Nat) : (s.delReq k).regs = s.regs := rfl
@[simp] theorem State.delReq_det (s : State) (k : Nat) : (s.delReq k).det = s.det := rfl
@[simp] theorem State.delReq_cyc (s : State) (k : Nat) : (s.delReq k).cyc = s.cyc := rfl
@[simp] theorem State.delReq_agenda (s : State) (k : Nat) : (s.delReq k).agenda = s.agenda := rfl
@[simp] theorem State.delReq_free (s : State) (k : Nat) : (s.delReq k).free = s.free := rfl
@[simp] theorem State.delReq_act (s : State) (k : Nat) : (s.delReq k).act = s.act := rfl
@[simp] theorem State.elem_delReq (s : State) (k : Nat) (n : Nat) : (s.delReq k).elem n = s.elem n := rfl
@[simp] theorem State.mx_delReq (s : State) (k : Nat) (n : Nat) : (s.delReq k).mx n = s.mx n := rfl
@[simp] theorem State.stripe_delReq (s : State) (k : Nat) (n : Nat) : (s.delReq k).stripe n = s.stripe n := rfl
@[simp] theorem State.port_delReq (s : State) (k : Nat) (n : Nat) : (s.delReq k).port n = s.port n := rfl
@[simp] theorem State.strm_delReq (s : State) (k : Nat) (n : Nat) : (s.delReq k).strm n = s.strm n := rfl
@[simp] theorem State.ring_delReq (s : State) (k : Nat) (n : Nat) : (s.delReq k).ring n = s.ring n := rfl
@[simp] theorem State.region_delReq (s : State) (k : Nat) (n : Nat) : (s.delReq k).region n = s.region n := rfl
@[simp] theorem State.fig_delReq (s : State) (k : Nat) (n : Nat) : (s.delReq k).fig n = s.fig n := rfl
@[simp] theorem State.acc_delReq (s : State) (k : Nat) (n : Nat) : (s.delReq k).acc n = s.acc n := rfl
@[simp] theorem State.wait_delReq (s : State) (k : Nat) (n : Nat) : (s.delReq k).wait n = s.wait n := rfl
@[simp] theorem State.pav_delReq (s : State) (k : Nat) (n : Nat) : (s.delReq k).pav n = s.pav n := rfl
@[simp] theorem State.peek_delReq (s : State) (k : Nat) (n : Nat) : (s.delReq k).peek n = s.peek n := rfl
@[simp] theorem State.reg_delReq (s : State) (k : Nat) (q n : Nat) : (s.delReq k).reg q n = s.reg q n := rfl
/-! #### `setTask` -/
@[simp] theorem State.setTask_fab (s : State) (k : Nat) (x : Task) : (s.setTask k x).fab = s.fab := rfl
@[simp] theorem State.setTask_fl (s : State) (k : Nat) (x : Task) : (s.setTask k x).fl = s.fl := rfl
@[simp] theorem State.setTask_figs (s : State) (k : Nat) (x : Task) : (s.setTask k x).figs = s.figs := rfl
@[simp] theorem State.setTask_regions (s : State) (k : Nat) (x : Task) : (s.setTask k x).regions = s.regions := rfl
@[simp] theorem State.setTask_bufs (s : State) (k : Nat) (x : Task) : (s.setTask k x).bufs = s.bufs := rfl
@[simp] theorem State.setTask_secs (s : State) (k : Nat) (x : Task) : (s.setTask k x).secs = s.secs := rfl
@[simp] theorem State.setTask_iv (s : State) (k : Nat) (x : Task) : (s.setTask k x).iv = s.iv := rfl
@[simp] theorem State.setTask_mem (s : State) (k : Nat) (x : Task) : (s.setTask k x).mem = s.mem := rfl
@[simp] theorem State.setTask_ms (s : State) (k : Nat) (x : Task) : (s.setTask k x).ms = s.ms := rfl
@[simp] theorem State.setTask_eng (s : State) (k : Nat) (x : Task) : (s.setTask k x).eng = s.eng := rfl
@[simp] theorem State.setTask_out (s : State) (k : Nat) (x : Task) : (s.setTask k x).out = s.out := rfl
@[simp] theorem State.setTask_members (s : State) (k : Nat) (x : Task) : (s.setTask k x).members = s.members := rfl
@[simp] theorem State.setTask_regs (s : State) (k : Nat) (x : Task) : (s.setTask k x).regs = s.regs := rfl
@[simp] theorem State.setTask_det (s : State) (k : Nat) (x : Task) : (s.setTask k x).det = s.det := rfl
@[simp] theorem State.setTask_cyc (s : State) (k : Nat) (x : Task) : (s.setTask k x).cyc = s.cyc := rfl
@[simp] theorem State.setTask_agenda (s : State) (k : Nat) (x : Task) : (s.setTask k x).agenda = s.agenda := rfl
@[simp] theorem State.setTask_free (s : State) (k : Nat) (x : Task) : (s.setTask k x).free = s.free := rfl
@[simp] theorem State.setTask_act (s : State) (k : Nat) (x : Task) : (s.setTask k x).act = s.act := rfl
@[simp] theorem State.elem_setTask (s : State) (k : Nat) (x : Task) (n : Nat) : (s.setTask k x).elem n = s.elem n := rfl
@[simp] theorem State.mx_setTask (s : State) (k : Nat) (x : Task) (n : Nat) : (s.setTask k x).mx n = s.mx n := rfl
@[simp] theorem State.stripe_setTask (s : State) (k : Nat) (x : Task) (n : Nat) : (s.setTask k x).stripe n = s.stripe n := rfl
@[simp] theorem State.port_setTask (s : State) (k : Nat) (x : Task) (n : Nat) : (s.setTask k x).port n = s.port n := rfl
@[simp] theorem State.strm_setTask (s : State) (k : Nat) (x : Task) (n : Nat) : (s.setTask k x).strm n = s.strm n := rfl
@[simp] theorem State.ring_setTask (s : State) (k : Nat) (x : Task) (n : Nat) : (s.setTask k x).ring n = s.ring n := rfl
@[simp] theorem State.region_setTask (s : State) (k : Nat) (x : Task) (n : Nat) : (s.setTask k x).region n = s.region n := rfl
@[simp] theorem State.fig_setTask (s : State) (k : Nat) (x : Task) (n : Nat) : (s.setTask k x).fig n = s.fig n := rfl
@[simp] theorem State.acc_setTask (s : State) (k : Nat) (x : Task) (n : Nat) : (s.setTask k x).acc n = s.acc n := rfl
@[simp] theorem State.wait_setTask (s : State) (k : Nat) (x : Task) (n : Nat) : (s.setTask k x).wait n = s.wait n := rfl
@[simp] theorem State.pav_setTask (s : State) (k : Nat) (x : Task) (n : Nat) : (s.setTask k x).pav n = s.pav n := rfl
@[simp] theorem State.peek_setTask (s : State) (k : Nat) (x : Task) (n : Nat) : (s.setTask k x).peek n = s.peek n := rfl
@[simp] theorem State.reg_setTask (s : State) (k : Nat) (x : Task) (q n : Nat) : (s.setTask k x).reg q n = s.reg q n := rfl
/-! #### `setWalk` -/
@[simp] theorem State.setWalk_fab (s : State) (k : Nat) (x : Walk) : (s.setWalk k x).fab = s.fab := rfl
@[simp] theorem State.setWalk_fl (s : State) (k : Nat) (x : Walk) : (s.setWalk k x).fl = s.fl := rfl
@[simp] theorem State.setWalk_figs (s : State) (k : Nat) (x : Walk) : (s.setWalk k x).figs = s.figs := rfl
@[simp] theorem State.setWalk_regions (s : State) (k : Nat) (x : Walk) : (s.setWalk k x).regions = s.regions := rfl
@[simp] theorem State.setWalk_bufs (s : State) (k : Nat) (x : Walk) : (s.setWalk k x).bufs = s.bufs := rfl
@[simp] theorem State.setWalk_secs (s : State) (k : Nat) (x : Walk) : (s.setWalk k x).secs = s.secs := rfl
@[simp] theorem State.setWalk_iv (s : State) (k : Nat) (x : Walk) : (s.setWalk k x).iv = s.iv := rfl
@[simp] theorem State.setWalk_mem (s : State) (k : Nat) (x : Walk) : (s.setWalk k x).mem = s.mem := rfl
@[simp] theorem State.setWalk_ms (s : State) (k : Nat) (x : Walk) : (s.setWalk k x).ms = s.ms := rfl
@[simp] theorem State.setWalk_eng (s : State) (k : Nat) (x : Walk) : (s.setWalk k x).eng = s.eng := rfl
@[simp] theorem State.setWalk_out (s : State) (k : Nat) (x : Walk) : (s.setWalk k x).out = s.out := rfl
@[simp] theorem State.setWalk_members (s : State) (k : Nat) (x : Walk) : (s.setWalk k x).members = s.members := rfl
@[simp] theorem State.setWalk_regs (s : State) (k : Nat) (x : Walk) : (s.setWalk k x).regs = s.regs := rfl
@[simp] theorem State.setWalk_det (s : State) (k : Nat) (x : Walk) : (s.setWalk k x).det = s.det := rfl
@[simp] theorem State.setWalk_cyc (s : State) (k : Nat) (x : Walk) : (s.setWalk k x).cyc = s.cyc := rfl
@[simp] theorem State.setWalk_agenda (s : State) (k : Nat) (x : Walk) : (s.setWalk k x).agenda = s.agenda := rfl
@[simp] theorem State.setWalk_free (s : State) (k : Nat) (x : Walk) : (s.setWalk k x).free = s.free := rfl
@[simp] theorem State.setWalk_act (s : State) (k : Nat) (x : Walk) : (s.setWalk k x).act = s.act := rfl
@[simp] theorem State.elem_setWalk (s : State) (k : Nat) (x : Walk) (n : Nat) : (s.setWalk k x).elem n = s.elem n := rfl
@[simp] theorem State.mx_setWalk (s : State) (k : Nat) (x : Walk) (n : Nat) : (s.setWalk k x).mx n = s.mx n := rfl
@[simp] theorem State.stripe_setWalk (s : State) (k : Nat) (x : Walk) (n : Nat) : (s.setWalk k x).stripe n = s.stripe n := rfl
@[simp] theorem State.port_setWalk (s : State) (k : Nat) (x : Walk) (n : Nat) : (s.setWalk k x).port n = s.port n := rfl
@[simp] theorem State.strm_setWalk (s : State) (k : Nat) (x : Walk) (n : Nat) : (s.setWalk k x).strm n = s.strm n := rfl
@[simp] theorem State.ring_setWalk (s : State) (k : Nat) (x : Walk) (n : Nat) : (s.setWalk k x).ring n = s.ring n := rfl
@[simp] theorem State.region_setWalk (s : State) (k : Nat) (x : Walk) (n : Nat) : (s.setWalk k x).region n = s.region n := rfl
@[simp] theorem State.fig_setWalk (s : State) (k : Nat) (x : Walk) (n : Nat) : (s.setWalk k x).fig n = s.fig n := rfl
@[simp] theorem State.acc_setWalk (s : State) (k : Nat) (x : Walk) (n : Nat) : (s.setWalk k x).acc n = s.acc n := rfl
@[simp] theorem State.wait_setWalk (s : State) (k : Nat) (x : Walk) (n : Nat) : (s.setWalk k x).wait n = s.wait n := rfl
@[simp] theorem State.pav_setWalk (s : State) (k : Nat) (x : Walk) (n : Nat) : (s.setWalk k x).pav n = s.pav n := rfl
@[simp] theorem State.peek_setWalk (s : State) (k : Nat) (x : Walk) (n : Nat) : (s.setWalk k x).peek n = s.peek n := rfl
@[simp] theorem State.reg_setWalk (s : State) (k : Nat) (x : Walk) (q n : Nat) : (s.setWalk k x).reg q n = s.reg q n := rfl
/-! #### `setSched` -/
@[simp] theorem State.setSched_fab (s : State) (pk : Nat) (x : Sched) : (s.setSched pk x).fab = s.fab := rfl
@[simp] theorem State.setSched_fl (s : State) (pk : Nat) (x : Sched) : (s.setSched pk x).fl = s.fl := rfl
@[simp] theorem State.setSched_figs (s : State) (pk : Nat) (x : Sched) : (s.setSched pk x).figs = s.figs := rfl
@[simp] theorem State.setSched_regions (s : State) (pk : Nat) (x : Sched) : (s.setSched pk x).regions = s.regions := rfl
@[simp] theorem State.setSched_bufs (s : State) (pk : Nat) (x : Sched) : (s.setSched pk x).bufs = s.bufs := rfl
@[simp] theorem State.setSched_secs (s : State) (pk : Nat) (x : Sched) : (s.setSched pk x).secs = s.secs := rfl
@[simp] theorem State.setSched_iv (s : State) (pk : Nat) (x : Sched) : (s.setSched pk x).iv = s.iv := rfl
@[simp] theorem State.setSched_mem (s : State) (pk : Nat) (x : Sched) : (s.setSched pk x).mem = s.mem := rfl
@[simp] theorem State.setSched_ms (s : State) (pk : Nat) (x : Sched) : (s.setSched pk x).ms = s.ms := rfl
@[simp] theorem State.setSched_eng (s : State) (pk : Nat) (x : Sched) : (s.setSched pk x).eng = s.eng := rfl
@[simp] theorem State.setSched_out (s : State) (pk : Nat) (x : Sched) : (s.setSched pk x).out = s.out := rfl
@[simp] theorem State.setSched_members (s : State) (pk : Nat) (x : Sched) : (s.setSched pk x).members = s.members := rfl
@[simp] theorem State.setSched_regs (s : State) (pk : Nat) (x : Sched) : (s.setSched pk x).regs = s.regs := rfl
@[simp] theorem State.setSched_det (s : State) (pk : Nat) (x : Sched) : (s.setSched pk x).det = s.det := rfl
@[simp] theorem State.setSched_cyc (s : State) (pk : Nat) (x : Sched) : (s.setSched pk x).cyc = s.cyc := rfl
@[simp] theorem State.setSched_agenda (s : State) (pk : Nat) (x : Sched) : (s.setSched pk x).agenda = s.agenda := rfl
@[simp] theorem State.setSched_free (s : State) (pk : Nat) (x : Sched) : (s.setSched pk x).free = s.free := rfl
@[simp] theorem State.setSched_act (s : State) (pk : Nat) (x : Sched) : (s.setSched pk x).act = s.act := rfl
@[simp] theorem State.elem_setSched (s : State) (pk : Nat) (x : Sched) (n : Nat) : (s.setSched pk x).elem n = s.elem n := rfl
@[simp] theorem State.mx_setSched (s : State) (pk : Nat) (x : Sched) (n : Nat) : (s.setSched pk x).mx n = s.mx n := rfl
@[simp] theorem State.stripe_setSched (s : State) (pk : Nat) (x : Sched) (n : Nat) : (s.setSched pk x).stripe n = s.stripe n := rfl
@[simp] theorem State.port_setSched (s : State) (pk : Nat) (x : Sched) (n : Nat) : (s.setSched pk x).port n = s.port n := rfl
@[simp] theorem State.strm_setSched (s : State) (pk : Nat) (x : Sched) (n : Nat) : (s.setSched pk x).strm n = s.strm n := rfl
@[simp] theorem State.ring_setSched (s : State) (pk : Nat) (x : Sched) (n : Nat) : (s.setSched pk x).ring n = s.ring n := rfl
@[simp] theorem State.region_setSched (s : State) (pk : Nat) (x : Sched) (n : Nat) : (s.setSched pk x).region n = s.region n := rfl
@[simp] theorem State.fig_setSched (s : State) (pk : Nat) (x : Sched) (n : Nat) : (s.setSched pk x).fig n = s.fig n := rfl
@[simp] theorem State.acc_setSched (s : State) (pk : Nat) (x : Sched) (n : Nat) : (s.setSched pk x).acc n = s.acc n := rfl
@[simp] theorem State.wait_setSched (s : State) (pk : Nat) (x : Sched) (n : Nat) : (s.setSched pk x).wait n = s.wait n := rfl
@[simp] theorem State.pav_setSched (s : State) (pk : Nat) (x : Sched) (n : Nat) : (s.setSched pk x).pav n = s.pav n := rfl
@[simp] theorem State.peek_setSched (s : State) (pk : Nat) (x : Sched) (n : Nat) : (s.setSched pk x).peek n = s.peek n := rfl
@[simp] theorem State.reg_setSched (s : State) (pk : Nat) (x : Sched) (q n : Nat) : (s.setSched pk x).reg q n = s.reg q n := rfl
/-! #### `setMult` -/
@[simp] theorem State.setMult_fab (s : State) (k : Nat) (x : Mult) : (s.setMult k x).fab = s.fab := rfl
@[simp] theorem State.setMult_fl (s : State) (k : Nat) (x : Mult) : (s.setMult k x).fl = s.fl := rfl
@[simp] theorem State.setMult_figs (s : State) (k : Nat) (x : Mult) : (s.setMult k x).figs = s.figs := rfl
@[simp] theorem State.setMult_regions (s : State) (k : Nat) (x : Mult) : (s.setMult k x).regions = s.regions := rfl
@[simp] theorem State.setMult_bufs (s : State) (k : Nat) (x : Mult) : (s.setMult k x).bufs = s.bufs := rfl
@[simp] theorem State.setMult_secs (s : State) (k : Nat) (x : Mult) : (s.setMult k x).secs = s.secs := rfl
@[simp] theorem State.setMult_iv (s : State) (k : Nat) (x : Mult) : (s.setMult k x).iv = s.iv := rfl
@[simp] theorem State.setMult_mem (s : State) (k : Nat) (x : Mult) : (s.setMult k x).mem = s.mem := rfl
@[simp] theorem State.setMult_eng (s : State) (k : Nat) (x : Mult) : (s.setMult k x).eng = s.eng := rfl
@[simp] theorem State.setMult_work (s : State) (k : Nat) (x : Mult) : (s.setMult k x).work = s.work := rfl
@[simp] theorem State.setMult_out (s : State) (k : Nat) (x : Mult) : (s.setMult k x).out = s.out := rfl
@[simp] theorem State.setMult_members (s : State) (k : Nat) (x : Mult) : (s.setMult k x).members = s.members := rfl
@[simp] theorem State.setMult_regs (s : State) (k : Nat) (x : Mult) : (s.setMult k x).regs = s.regs := rfl
@[simp] theorem State.setMult_det (s : State) (k : Nat) (x : Mult) : (s.setMult k x).det = s.det := rfl
@[simp] theorem State.setMult_cyc (s : State) (k : Nat) (x : Mult) : (s.setMult k x).cyc = s.cyc := rfl
@[simp] theorem State.setMult_agenda (s : State) (k : Nat) (x : Mult) : (s.setMult k x).agenda = s.agenda := rfl
@[simp] theorem State.setMult_free (s : State) (k : Nat) (x : Mult) : (s.setMult k x).free = s.free := rfl
@[simp] theorem State.setMult_act (s : State) (k : Nat) (x : Mult) : (s.setMult k x).act = s.act := rfl
@[simp] theorem State.elem_setMult (s : State) (k : Nat) (x : Mult) (n : Nat) : (s.setMult k x).elem n = s.elem n := rfl
@[simp] theorem State.mx_setMult (s : State) (k : Nat) (x : Mult) (n : Nat) : (s.setMult k x).mx n = s.mx n := rfl
@[simp] theorem State.stripe_setMult (s : State) (k : Nat) (x : Mult) (n : Nat) : (s.setMult k x).stripe n = s.stripe n := rfl
@[simp] theorem State.port_setMult (s : State) (k : Nat) (x : Mult) (n : Nat) : (s.setMult k x).port n = s.port n := rfl
@[simp] theorem State.strm_setMult (s : State) (k : Nat) (x : Mult) (n : Nat) : (s.setMult k x).strm n = s.strm n := rfl
@[simp] theorem State.ring_setMult (s : State) (k : Nat) (x : Mult) (n : Nat) : (s.setMult k x).ring n = s.ring n := rfl
@[simp] theorem State.region_setMult (s : State) (k : Nat) (x : Mult) (n : Nat) : (s.setMult k x).region n = s.region n := rfl
@[simp] theorem State.fig_setMult (s : State) (k : Nat) (x : Mult) (n : Nat) : (s.setMult k x).fig n = s.fig n := rfl
@[simp] theorem State.acc_setMult (s : State) (k : Nat) (x : Mult) (n : Nat) : (s.setMult k x).acc n = s.acc n := rfl
@[simp] theorem State.wait_setMult (s : State) (k : Nat) (x : Mult) (n : Nat) : (s.setMult k x).wait n = s.wait n := rfl
@[simp] theorem State.pav_setMult (s : State) (k : Nat) (x : Mult) (n : Nat) : (s.setMult k x).pav n = s.pav n := rfl
@[simp] theorem State.peek_setMult (s : State) (k : Nat) (x : Mult) (n : Nat) : (s.setMult k x).peek n = s.peek n := rfl
@[simp] theorem State.reg_setMult (s : State) (k : Nat) (x : Mult) (q n : Nat) : (s.setMult k x).reg q n = s.reg q n := rfl
/-! #### `setMember` -/
@[simp] theorem State.setMember_fab (s : State) (pk : Nat) (x : Member) : (s.setMember pk x).fab = s.fab := rfl
@[simp] theorem State.setMember_fl (s : State) (pk : Nat) (x : Member) : (s.setMember pk x).fl = s.fl := rfl
@[simp] theorem State.setMember_figs (s : State) (pk : Nat) (x : Member) : (s.setMember pk x).figs = s.figs := rfl
@[simp] theorem State.setMember_regions (s : State) (pk : Nat) (x : Member) : (s.setMember pk x).regions = s.regions := rfl
@[simp] theorem State.setMember_bufs (s : State) (pk : Nat) (x : Member) : (s.setMember pk x).bufs = s.bufs := rfl
@[simp] theorem State.setMember_secs (s : State) (pk : Nat) (x : Member) : (s.setMember pk x).secs = s.secs := rfl
@[simp] theorem State.setMember_iv (s : State) (pk : Nat) (x : Member) : (s.setMember pk x).iv = s.iv := rfl
@[simp] theorem State.setMember_mem (s : State) (pk : Nat) (x : Member) : (s.setMember pk x).mem = s.mem := rfl
@[simp] theorem State.setMember_ms (s : State) (pk : Nat) (x : Member) : (s.setMember pk x).ms = s.ms := rfl
@[simp] theorem State.setMember_eng (s : State) (pk : Nat) (x : Member) : (s.setMember pk x).eng = s.eng := rfl
@[simp] theorem State.setMember_work (s : State) (pk : Nat) (x : Member) : (s.setMember pk x).work = s.work := rfl
@[simp] theorem State.setMember_out (s : State) (pk : Nat) (x : Member) : (s.setMember pk x).out = s.out := rfl
@[simp] theorem State.setMember_regs (s : State) (pk : Nat) (x : Member) : (s.setMember pk x).regs = s.regs := rfl
@[simp] theorem State.setMember_det (s : State) (pk : Nat) (x : Member) : (s.setMember pk x).det = s.det := rfl
@[simp] theorem State.setMember_cyc (s : State) (pk : Nat) (x : Member) : (s.setMember pk x).cyc = s.cyc := rfl
@[simp] theorem State.setMember_agenda (s : State) (pk : Nat) (x : Member) : (s.setMember pk x).agenda = s.agenda := rfl
@[simp] theorem State.setMember_free (s : State) (pk : Nat) (x : Member) : (s.setMember pk x).free = s.free := rfl
@[simp] theorem State.setMember_act (s : State) (pk : Nat) (x : Member) : (s.setMember pk x).act = s.act := rfl
@[simp] theorem State.elem_setMember (s : State) (pk : Nat) (x : Member) (n : Nat) : (s.setMember pk x).elem n = s.elem n := rfl
@[simp] theorem State.mx_setMember (s : State) (pk : Nat) (x : Member) (n : Nat) : (s.setMember pk x).mx n = s.mx n := rfl
@[simp] theorem State.stripe_setMember (s : State) (pk : Nat) (x : Member) (n : Nat) : (s.setMember pk x).stripe n = s.stripe n := rfl
@[simp] theorem State.port_setMember (s : State) (pk : Nat) (x : Member) (n : Nat) : (s.setMember pk x).port n = s.port n := rfl
@[simp] theorem State.strm_setMember (s : State) (pk : Nat) (x : Member) (n : Nat) : (s.setMember pk x).strm n = s.strm n := rfl
@[simp] theorem State.ring_setMember (s : State) (pk : Nat) (x : Member) (n : Nat) : (s.setMember pk x).ring n = s.ring n := rfl
@[simp] theorem State.region_setMember (s : State) (pk : Nat) (x : Member) (n : Nat) : (s.setMember pk x).region n = s.region n := rfl
@[simp] theorem State.fig_setMember (s : State) (pk : Nat) (x : Member) (n : Nat) : (s.setMember pk x).fig n = s.fig n := rfl
@[simp] theorem State.acc_setMember (s : State) (pk : Nat) (x : Member) (n : Nat) : (s.setMember pk x).acc n = s.acc n := rfl
@[simp] theorem State.wait_setMember (s : State) (pk : Nat) (x : Member) (n : Nat) : (s.setMember pk x).wait n = s.wait n := rfl
@[simp] theorem State.pav_setMember (s : State) (pk : Nat) (x : Member) (n : Nat) : (s.setMember pk x).pav n = s.pav n := rfl
@[simp] theorem State.peek_setMember (s : State) (pk : Nat) (x : Member) (n : Nat) : (s.setMember pk x).peek n = s.peek n := rfl
@[simp] theorem State.reg_setMember (s : State) (pk : Nat) (x : Member) (q n : Nat) : (s.setMember pk x).reg q n = s.reg q n := rfl

/-! ### Registers, accesses and memory -/

/-- A management register reads as it was last written; every other one as before. PWRSTAT and ENERGY are no registers that a write
reaches: they read the draw (R377), which a cap bounds. -/
theorem State.reg_setReg (s : State) (pk off : Nat) (v : W64) (q n : Nat) :
    (s.setReg pk off v).reg q n = if n = 0x68 ∨ n = 0x70 then (s.setReg pk off v).powerReg q n
      else if pk * 0x100000 + off = q * 0x100000 + n then (if v = regReset pk off then regReset q n else v) else s.reg q n := by
  unfold State.reg
  by_cases h : n = 0x68 ∨ n = 0x70
  · rw [if_pos h, if_pos h]
  · rw [if_neg h, if_neg h]
    simp only [State.setReg, FMap.get_put]
    split
    · split <;> simp
    · rfl
theorem State.reg_setReg_same (s : State) (pk off : Nat) (v : W64) (h : ¬(off = 0x68 ∨ off = 0x70)) : (s.setReg pk off v).reg pk off = v := by
  rw [State.reg_setReg, if_neg h, if_pos rfl]; split
  · rename_i h; exact h.symm
  · rfl

theorem find_del {α : Type} (l : List (Nat × α)) (a b : Nat) (h : b ≠ a) :
    (FMap.del l a).find? (fun p => decide (p.1 = b)) = l.find? (fun p => decide (p.1 = b)) := by
  unfold FMap.del
  rw [List.find?_filter]
  congr 1
  funext p
  by_cases hp : p.1 = b
  · simp [hp, h]
  · simp [hp]
theorem find_del_same {α : Type} (l : List (Nat × α)) (a : Nat) : (FMap.del l a).find? (fun p => decide (p.1 = a)) = none := by
  simp [FMap.del, List.find?_eq_none]

@[simp] theorem State.acc_setAcc (s : State) (a : Nat) (x : Access) (n : Nat) : (s.setAcc a x).acc n = if a = n then some x else s.acc n := by
  by_cases h : a = n
  · simp [State.acc, State.setAcc, h]
  · have : n ≠ a := fun e => h e.symm
    simp [State.acc, State.setAcc, h, find_del _ _ _ this]
@[simp] theorem State.acc_delAcc (s : State) (a n : Nat) : (s.delAcc a).acc n = if a = n then none else s.acc n := by
  by_cases h : a = n
  · subst h; simp [State.acc, State.delAcc, find_del_same]
  · have : n ≠ a := fun e => h e.symm
    simp [State.acc, State.delAcc, h, find_del _ _ _ this]
@[simp] theorem State.wait_setWait (s : State) (a : Nat) (x : Wait) (n : Nat) : (s.setWait a x).wait n = if a = n then some x else s.wait n := by
  by_cases h : a = n
  · simp [State.wait, State.setWait, h]
  · have : n ≠ a := fun e => h e.symm
    simp [State.wait, State.setWait, h, find_del _ _ _ this]
@[simp] theorem State.wait_delWait (s : State) (a n : Nat) : (s.delWait a).wait n = if a = n then none else s.wait n := by
  by_cases h : a = n
  · subst h; simp [State.wait, State.delWait, find_del_same]
  · have : n ≠ a := fun e => h e.symm
    simp [State.wait, State.delWait, h, find_del _ _ _ this]

/-- A byte written reads back; a byte outside the bytes written reads as before. -/
theorem State.peek_poke (s : State) (a : Nat) (bs : List Byte) (x : Nat) :
    (s.poke a bs).peek x = if a ≤ x ∧ x < a + bs.length then bs.getD (x - a) 0 else s.peek x := by
  induction bs generalizing s a with
  | nil => simp only [State.poke, List.length_nil, Nat.add_zero]; rw [if_neg (by omega)]
  | cons b bs ih =>
    rw [State.poke, ih]
    have hb : ({ s with mem := s.mem.put 0 a b } : State).peek x = if a = x then b else s.peek x := FMap.get_put ..
    rw [hb, List.length_cons]
    by_cases h1 : a = x
    · subst h1; rw [if_neg (by omega), if_pos rfl, if_pos (by omega), Nat.sub_self, List.getD_cons_zero]
    · by_cases h2 : a + 1 ≤ x ∧ x < a + 1 + bs.length
      · have h3 : a ≤ x ∧ x < a + (bs.length + 1) := by omega
        have h4 : x - a = (x - (a + 1)) + 1 := by omega
        rw [if_pos h2, if_pos h3, h4, List.getD_cons_succ]
      · have h3 : ¬ (a ≤ x ∧ x < a + (bs.length + 1)) := by omega
        rw [if_neg h2, if_neg h3, if_neg h1]
/-- Writing bytes changes memory only. -/
theorem State.poke_eq (s : State) (a : Nat) (bs : List Byte) : s.poke a bs = { s with mem := (s.poke a bs).mem } := by
  induction bs generalizing s a with
  | nil => rfl
  | cons b bs ih => simp only [State.poke]; rw [ih]
@[simp] theorem State.poke_fab (s : State) (a : Nat) (bs : List Byte) : (s.poke a bs).fab = s.fab := by rw [State.poke_eq]
@[simp] theorem State.poke_fl (s : State) (a : Nat) (bs : List Byte) : (s.poke a bs).fl = s.fl := by rw [State.poke_eq]
@[simp] theorem State.poke_figs (s : State) (a : Nat) (bs : List Byte) : (s.poke a bs).figs = s.figs := by rw [State.poke_eq]
@[simp] theorem State.poke_regions (s : State) (a : Nat) (bs : List Byte) : (s.poke a bs).regions = s.regions := by rw [State.poke_eq]
@[simp] theorem State.poke_bufs (s : State) (a : Nat) (bs : List Byte) : (s.poke a bs).bufs = s.bufs := by rw [State.poke_eq]
@[simp] theorem State.poke_secs (s : State) (a : Nat) (bs : List Byte) : (s.poke a bs).secs = s.secs := by rw [State.poke_eq]
@[simp] theorem State.poke_iv (s : State) (a : Nat) (bs : List Byte) : (s.poke a bs).iv = s.iv := by rw [State.poke_eq]
@[simp] theorem State.poke_ms (s : State) (a : Nat) (bs : List Byte) : (s.poke a bs).ms = s.ms := by rw [State.poke_eq]
@[simp] theorem State.poke_eng (s : State) (a : Nat) (bs : List Byte) : (s.poke a bs).eng = s.eng := by rw [State.poke_eq]
@[simp] theorem State.poke_work (s : State) (a : Nat) (bs : List Byte) : (s.poke a bs).work = s.work := by rw [State.poke_eq]
@[simp] theorem State.poke_out (s : State) (a : Nat) (bs : List Byte) : (s.poke a bs).out = s.out := by rw [State.poke_eq]
@[simp] theorem State.poke_members (s : State) (a : Nat) (bs : List Byte) : (s.poke a bs).members = s.members := by rw [State.poke_eq]
@[simp] theorem State.poke_regs (s : State) (a : Nat) (bs : List Byte) : (s.poke a bs).regs = s.regs := by rw [State.poke_eq]
@[simp] theorem State.poke_det (s : State) (a : Nat) (bs : List Byte) : (s.poke a bs).det = s.det := by rw [State.poke_eq]
@[simp] theorem State.poke_cyc (s : State) (a : Nat) (bs : List Byte) : (s.poke a bs).cyc = s.cyc := by rw [State.poke_eq]
@[simp] theorem State.poke_agenda (s : State) (a : Nat) (bs : List Byte) : (s.poke a bs).agenda = s.agenda := by rw [State.poke_eq]
@[simp] theorem State.poke_free (s : State) (a : Nat) (bs : List Byte) : (s.poke a bs).free = s.free := by rw [State.poke_eq]
@[simp] theorem State.poke_act (s : State) (a : Nat) (bs : List Byte) : (s.poke a bs).act = s.act := by rw [State.poke_eq]
/-- Writing bytes changes memory and the marks of their errors only. -/
theorem State.writeBytes_eq (s : State) (a : Nat) (bs : List Byte) :
    s.writeBytes a bs = { s with ms := (s.writeBytes a bs).ms, mem := (s.poke a bs).mem } := by
  have hp : ∀ (s t : State) (a : Nat) (bs : List Byte), s.mem = t.mem → (s.poke a bs).mem = (t.poke a bs).mem := by
    intro s t a bs h
    induction bs generalizing s t a with
    | nil => exact h
    | cons b bs ih => exact ih _ _ _ (by simp [h])
  have one : ∀ (u : State) (n x : Nat), ∃ m, u.overwrite a n x = { u with ms := m } := by
    intro u n x
    unfold State.overwrite
    split
    · exact ⟨_, rfl⟩
    · split
      · exact ⟨_, rfl⟩
      · dsimp only
        split
        · split <;> exact ⟨_, rfl⟩
        · exact ⟨_, rfl⟩
        · exact ⟨_, rfl⟩
  have all : ∀ (n : Nat) (l : List Nat) (u : State), ∃ m, l.foldl (fun s x => s.overwrite a n x) u = { u with ms := m } := by
    intro n l
    induction l with
    | nil => exact fun u => ⟨_, rfl⟩
    | cons x l ih =>
      intro u
      obtain ⟨m, hm⟩ := one u n x
      obtain ⟨k, hk⟩ := ih (u.overwrite a n x)
      exact ⟨k, by rw [List.foldl_cons, hk, hm]⟩
  have h : ∃ m, s.writeBytes a bs = { s with ms := m, mem := (s.poke a bs).mem } := by
    obtain ⟨m, hm⟩ := all bs.length (unitsOf a bs.length) s
    refine ⟨m, ?_⟩
    unfold State.writeBytes
    rw [hm, State.poke_eq, hp { s with ms := m } s a bs rfl]
  obtain ⟨m, h⟩ := h
  rw [h]
theorem State.peek_writeBytes (s : State) (a : Nat) (bs : List Byte) (x : Nat) :
    (s.writeBytes a bs).peek x = if a ≤ x ∧ x < a + bs.length then bs.getD (x - a) 0 else s.peek x := by
  rw [State.writeBytes_eq, ← State.peek_poke]; rfl
@[simp] theorem State.writeBytes_fab (s : State) (a : Nat) (bs : List Byte) : (s.writeBytes a bs).fab = s.fab := by rw [State.writeBytes_eq]
@[simp] theorem State.writeBytes_fl (s : State) (a : Nat) (bs : List Byte) : (s.writeBytes a bs).fl = s.fl := by rw [State.writeBytes_eq]
@[simp] theorem State.writeBytes_figs (s : State) (a : Nat) (bs : List Byte) : (s.writeBytes a bs).figs = s.figs := by rw [State.writeBytes_eq]
@[simp] theorem State.writeBytes_regions (s : State) (a : Nat) (bs : List Byte) : (s.writeBytes a bs).regions = s.regions := by rw [State.writeBytes_eq]
@[simp] theorem State.writeBytes_bufs (s : State) (a : Nat) (bs : List Byte) : (s.writeBytes a bs).bufs = s.bufs := by rw [State.writeBytes_eq]
@[simp] theorem State.writeBytes_secs (s : State) (a : Nat) (bs : List Byte) : (s.writeBytes a bs).secs = s.secs := by rw [State.writeBytes_eq]
@[simp] theorem State.writeBytes_iv (s : State) (a : Nat) (bs : List Byte) : (s.writeBytes a bs).iv = s.iv := by rw [State.writeBytes_eq]
@[simp] theorem State.writeBytes_eng (s : State) (a : Nat) (bs : List Byte) : (s.writeBytes a bs).eng = s.eng := by rw [State.writeBytes_eq]
@[simp] theorem State.writeBytes_work (s : State) (a : Nat) (bs : List Byte) : (s.writeBytes a bs).work = s.work := by rw [State.writeBytes_eq]
@[simp] theorem State.writeBytes_out (s : State) (a : Nat) (bs : List Byte) : (s.writeBytes a bs).out = s.out := by rw [State.writeBytes_eq]
@[simp] theorem State.writeBytes_members (s : State) (a : Nat) (bs : List Byte) : (s.writeBytes a bs).members = s.members := by rw [State.writeBytes_eq]
@[simp] theorem State.writeBytes_regs (s : State) (a : Nat) (bs : List Byte) : (s.writeBytes a bs).regs = s.regs := by rw [State.writeBytes_eq]
@[simp] theorem State.writeBytes_det (s : State) (a : Nat) (bs : List Byte) : (s.writeBytes a bs).det = s.det := by rw [State.writeBytes_eq]
@[simp] theorem State.writeBytes_cyc (s : State) (a : Nat) (bs : List Byte) : (s.writeBytes a bs).cyc = s.cyc := by rw [State.writeBytes_eq]
@[simp] theorem State.writeBytes_agenda (s : State) (a : Nat) (bs : List Byte) : (s.writeBytes a bs).agenda = s.agenda := by rw [State.writeBytes_eq]
@[simp] theorem State.writeBytes_free (s : State) (a : Nat) (bs : List Byte) : (s.writeBytes a bs).free = s.free := by rw [State.writeBytes_eq]
@[simp] theorem State.writeBytes_act (s : State) (a : Nat) (bs : List Byte) : (s.writeBytes a bs).act = s.act := by rw [State.writeBytes_eq]

end Sys2Proof.Machine
end

