-- ==== Sys2Proof/Laws/Memory.lean ====
section
/-! SUPPORT. The laws of memory: every operation that changes it keeps its canonical form, and a line written reads back. -/
namespace Sys2Proof.Machine
open Sys2Proof

/-- Bytes written keep the canonical form. -/
theorem poke_wf (s : State) (a : Nat) (bs : List Byte) (h : Memory.wf s.mem = true) : Memory.wf (s.poke a bs).mem = true := by
  induction bs generalizing s a with
  | nil => exact h
  | cons b bs ih => exact ih _ _ (FMap.wf_put 0 s.mem a b h)

theorem setMark_mem (s : State) (u : Nat) (m : Option Mark) : (s.setMark u m).mem = s.mem := rfl

/-- A fold of steps that leave memory alone leaves it alone. -/
theorem foldl_mem {α : Type} (f : State → α → State) (l : List α) (s : State) (h : ∀ u a, (f u a).mem = u.mem) :
    (l.foldl f s).mem = s.mem := by
  induction l generalizing s with
  | nil => rfl
  | cons a l ih => rw [List.foldl_cons, ih, h]
/-- A fold of steps that keep the canonical form keeps it. -/
theorem foldl_wf {α : Type} (f : State → α → State) (l : List α) (s : State)
    (h : ∀ u a, Memory.wf u.mem = true → Memory.wf (f u a).mem = true) (hs : Memory.wf s.mem = true) :
    Memory.wf (l.foldl f s).mem = true := by
  induction l generalizing s with
  | nil => exact hs
  | cons a l ih => exact ih _ (h s a hs)

/-- The state's parts other than memory do not matter to the bytes that a write leaves. -/
theorem poke_mem_congr (s t : State) (a : Nat) (bs : List Byte) (h : s.mem = t.mem) : (s.poke a bs).mem = (t.poke a bs).mem := by
  induction bs generalizing s t a with
  | nil => exact h
  | cons b bs ih => exact ih _ _ _ (by simp [h])

/-- A write of bytes, with the marks of their errors, changes memory as the bytes alone do. -/
theorem writeBytes_mem (s : State) (a : Nat) (bs : List Byte) : (s.writeBytes a bs).mem = (s.poke a bs).mem := by
  rw [State.writeBytes_eq]
theorem writeBytes_wf (s : State) (a : Nat) (bs : List Byte) (h : Memory.wf s.mem = true) : Memory.wf (s.writeBytes a bs).mem = true := by
  rw [writeBytes_mem]; exact poke_wf s a bs h

theorem setPoison_wf (s : State) (a : Nat) (v : Bool) (h : Memory.wf s.mem = true) : Memory.wf (s.setPoison a v).mem = true := by
  unfold State.setPoison
  split
  · exact h
  · exact poke_wf _ _ _ h

/-- A fold of writes into a canonical map is canonical. -/
theorem FMap.wf_foldl_put {α β : Type} [DecidableEq α] (d : α) (k : β → Nat) (v : β → α) (l : List β) (m : FMap α)
    (h : FMap.wf d m = true) : FMap.wf d (l.foldl (fun r p => FMap.put d r (k p) (v p)) m) = true := by
  induction l generalizing m with
  | nil => exact h
  | cons p l ih => exact ih _ (FMap.wf_put d m (k p) (v p) h)

/-- The bytes of a region that moves are canonical in their new place. -/
theorem layBytes_wf (s : State) (l : List (Nat × Allot)) (bytes : FMap Byte) (marks : FMap (Option Mark)) (h : Memory.wf s.mem = true) :
    Memory.wf (s.layBytes l bytes marks).mem = true :=
  foldl_wf _ _ _ (fun _ _ hu => FMap.wf_foldl_put _ _ _ _ _ (FMap.wf_filter _ _ _ hu)) h

/-- A package's bytes that move to another's place are canonical there. -/
theorem moveAddrs_wf (sc sp lp : Nat) (m : List Host.Cell) (h : Memory.wf m = true) : Memory.wf (moveAddrs 0 sc sp lp m) = true := by
  unfold Memory.wf moveAddrs moveBy
  exact FMap.wf_foldl_put _ _ _ _ _ (FMap.wf_filter _ _ _ h)
theorem wipe_wf (s : State) (pk : Nat) (h : Memory.wf ((s.discardWork pk).dropTraffic pk).mem = true) : Memory.wf (s.wipe pk).mem = true :=
  FMap.wf_filter _ _ _ h
theorem renumber_mem_wf (s : State) (sp lp : Nat) (h : Memory.wf ((s.discardWork lp).dropTraffic lp).mem = true) :
    Memory.wf (s.renumber sp lp).mem = true := moveAddrs_wf 1 sp lp (s.wipe lp).mem (wipe_wf s lp h)
theorem clearHbm_wf (s : State) (pk : Nat) (h : Memory.wf s.mem = true) : Memory.wf (s.clearHbm pk).mem = true :=
  FMap.wf_filter _ _ _ h

end Sys2Proof.Machine
end

