-- ==== Sys2Proof/Laws/Slots.lean ====
section
/-! SUPPORT. The laws of a slot's firing: what the pops leave alone, that a slot which fires its own effect gives its body's results, and everything that a slot's meaning can answer. -/
namespace Sys2Proof.Machine
open Sys2Proof

/-! What the pops of a firing leave as it was: they change elements, reserved entries and a counter. -/
theorem spend_shape (s : State) (op : Nat) (ds : List Dest) : ∃ r, s.spend op ds = { s with fl := { s.fl with resv := r } } := by
  induction ds generalizing s with
  | nil => exact ⟨s.fl.resv, rfl⟩
  | cons d ds ih =>
    obtain ⟨r, h⟩ := ih { s with fl := { s.fl with resv := s.fl.resv.erase (op, d) } }
    exact ⟨r, by rw [State.spend, h]⟩
theorem markFired_shape (s : State) (ds : List Dest) :
    ∃ e r, s.markFired ds = { s with fab := { s.fab with elems := e }, fl := { s.fl with resv := r } } := by
  unfold State.markFired
  dsimp only
  split
  · rename_i h _ _
    split
    · exact ⟨_, _, rfl⟩
    · obtain ⟨r, hr⟩ := spend_shape s h.op ds
      rw [hr]
      exact ⟨_, _, rfl⟩
  · exact ⟨_, s.fl.resv, rfl⟩
theorem popped_shape (s : State) (op f o ps) :
    ∃ e r g, s.popped op f o ps = { s with fab := { s.fab with elems := e }, fl := { s.fl with resv := r }, regs := g } := by
  unfold State.popped
  obtain ⟨e, r, h⟩ := markFired_shape (s.popQueues s.act.el ps) (firingDests op f o s)
  simp only [h]
  split
  · exact ⟨_, _, _, rfl⟩
  · exact ⟨_, _, s.regs, rfl⟩
@[simp] theorem popped_act (s : State) (op f o ps) : (s.popped op f o ps).act = s.act := by
  obtain ⟨_, _, _, h⟩ := popped_shape s op f o ps; rw [h]
@[simp] theorem popped_free (s : State) (op f o ps) : (s.popped op f o ps).free = s.free := by
  obtain ⟨_, _, _, h⟩ := popped_shape s op f o ps; rw [h]
@[simp] theorem popped_cyc (s : State) (op f o ps) : (s.popped op f o ps).cyc = s.cyc := by
  obtain ⟨_, _, _, h⟩ := popped_shape s op f o ps; rw [h]
@[simp] theorem popped_figs (s : State) (op f o ps) : (s.popped op f o ps).figs = s.figs := by
  obtain ⟨_, _, _, h⟩ := popped_shape s op f o ps; rw [h]
@[simp] theorem popped_mem (s : State) (op f o ps) : (s.popped op f o ps).mem = s.mem := by
  obtain ⟨_, _, _, h⟩ := popped_shape s op f o ps; rw [h]
@[simp] theorem popped_secs (s : State) (op f o ps) : (s.popped op f o ps).secs = s.secs := by
  obtain ⟨_, _, _, h⟩ := popped_shape s op f o ps; rw [h]
@[simp] theorem popped_regions (s : State) (op f o ps) : (s.popped op f o ps).regions = s.regions := by
  obtain ⟨_, _, _, h⟩ := popped_shape s op f o ps; rw [h]
@[simp] theorem popped_out (s : State) (op f o ps) : (s.popped op f o ps).out = s.out := by
  obtain ⟨_, _, _, h⟩ := popped_shape s op f o ps; rw [h]
@[simp] theorem popped_det (s : State) (op f o ps) : (s.popped op f o ps).det = s.det := by
  obtain ⟨_, _, _, h⟩ := popped_shape s op f o ps; rw [h]
@[simp] theorem popped_ms (s : State) (op f o ps) : (s.popped op f o ps).ms = s.ms := by
  obtain ⟨_, _, _, h⟩ := popped_shape s op f o ps; rw [h]
@[simp] theorem popped_eng (s : State) (op f o ps) : (s.popped op f o ps).eng = s.eng := by
  obtain ⟨_, _, _, h⟩ := popped_shape s op f o ps; rw [h]
@[simp] theorem popped_work (s : State) (op f o ps) : (s.popped op f o ps).work = s.work := by
  obtain ⟨_, _, _, h⟩ := popped_shape s op f o ps; rw [h]
@[simp] theorem popped_bufs (s : State) (op f o ps) : (s.popped op f o ps).bufs = s.bufs := by
  obtain ⟨_, _, _, h⟩ := popped_shape s op f o ps; rw [h]
@[simp] theorem popped_members (s : State) (op f o ps) : (s.popped op f o ps).members = s.members := by
  obtain ⟨_, _, _, h⟩ := popped_shape s op f o ps; rw [h]
@[simp] theorem popped_strms (s : State) (op f o ps) : (s.popped op f o ps).fab.strms = s.fab.strms := by
  obtain ⟨_, _, _, h⟩ := popped_shape s op f o ps; rw [h]
@[simp] theorem popped_stripes (s : State) (op f o ps) : (s.popped op f o ps).fab.stripes = s.fab.stripes := by
  obtain ⟨_, _, _, h⟩ := popped_shape s op f o ps; rw [h]
@[simp] theorem popped_ports (s : State) (op f o ps) : (s.popped op f o ps).fab.ports = s.fab.ports := by
  obtain ⟨_, _, _, h⟩ := popped_shape s op f o ps; rw [h]
@[simp] theorem popped_rings (s : State) (op f o ps) : (s.popped op f o ps).fab.rings = s.fab.rings := by
  obtain ⟨_, _, _, h⟩ := popped_shape s op f o ps; rw [h]
@[simp] theorem popped_mxs (s : State) (op f o ps) : (s.popped op f o ps).fab.mxs = s.fab.mxs := by
  obtain ⟨_, _, _, h⟩ := popped_shape s op f o ps; rw [h]
@[simp] theorem popped_emits (s : State) (op f o ps) : (s.popped op f o ps).fl.emits = s.fl.emits := by
  obtain ⟨_, _, _, h⟩ := popped_shape s op f o ps; rw [h]
@[simp] theorem popped_accs (s : State) (op f o ps) : (s.popped op f o ps).fl.accs = s.fl.accs := by
  obtain ⟨_, _, _, h⟩ := popped_shape s op f o ps; rw [h]
@[simp] theorem popped_waits (s : State) (op f o ps) : (s.popped op f o ps).fl.waits = s.fl.waits := by
  obtain ⟨_, _, _, h⟩ := popped_shape s op f o ps; rw [h]
@[simp] theorem popped_hops (s : State) (op f o ps) : (s.popped op f o ps).fl.hops = s.fl.hops := by
  obtain ⟨_, _, _, h⟩ := popped_shape s op f o ps; rw [h]
@[simp] theorem popped_next (s : State) (op f o ps) : (s.popped op f o ps).fl.next = s.fl.next := by
  obtain ⟨_, _, _, h⟩ := popped_shape s op f o ps; rw [h]
@[simp] theorem seqOf_popped (s : State) (op f o ps) : ((s.popped op f o ps).seqOf) = s.seqOf := by
  obtain ⟨_, _, _, h⟩ := popped_shape s op f o ps; rw [h]; rfl
@[simp] theorem elOrd_popped (s : State) (op f o ps el) : ((s.popped op f o ps).elOrd el) = s.elOrd el := by
  obtain ⟨_, _, _, h⟩ := popped_shape s op f o ps; rw [h]; rfl
@[simp] theorem region_popped (s : State) (op f o ps rg) : ((s.popped op f o ps).region rg) = s.region rg := by
  obtain ⟨_, _, _, h⟩ := popped_shape s op f o ps; rw [h]; rfl
@[simp] theorem stripe_popped (s : State) (op f o ps st) : ((s.popped op f o ps).stripe st) = s.stripe st := by
  obtain ⟨_, _, _, h⟩ := popped_shape s op f o ps; rw [h]; rfl
@[simp] theorem strm_popped (s : State) (op f o ps rs) : ((s.popped op f o ps).strm rs) = s.strm rs := by
  obtain ⟨_, _, _, h⟩ := popped_shape s op f o ps; rw [h]; rfl
@[simp] theorem port_popped (s : State) (op f o ps p) : ((s.popped op f o ps).port p) = s.port p := by
  obtain ⟨_, _, _, h⟩ := popped_shape s op f o ps; rw [h]; rfl
@[simp] theorem fig_popped (s : State) (op f o ps fg) : ((s.popped op f o ps).fig fg) = s.fig fg := by
  obtain ⟨_, _, _, h⟩ := popped_shape s op f o ps; rw [h]; rfl
@[simp] theorem lctx_popped (s : State) (op f o ps) : ((s.popped op f o ps).lctx) = s.lctx := by
  obtain ⟨_, _, _, h⟩ := popped_shape s op f o ps; rw [h]; rfl
@[simp] theorem portOf_popped (s : State) (op f o ps m) : ((s.popped op f o ps).portOf m) = s.portOf m := by
  obtain ⟨_, _, _, h⟩ := popped_shape s op f o ps; rw [h]; rfl
@[simp] theorem rsOf_popped (s : State) (op f o ps m) : ((s.popped op f o ps).rsOf m) = s.rsOf m := by
  obtain ⟨_, _, _, h⟩ := popped_shape s op f o ps; rw [h]; rfl
@[simp] theorem wordFault_popped (s : State) (op f o ps m b) : ((s.popped op f o ps).wordFault m b) = s.wordFault m b := by
  obtain ⟨_, _, _, h⟩ := popped_shape s op f o ps; rw [h]; rfl
@[simp] theorem clock_popped (s : State) (op f o ps m) : ((s.popped op f o ps).clock m) = s.clock m := by
  obtain ⟨_, _, _, h⟩ := popped_shape s op f o ps; rw [h]; rfl
@[simp] theorem descOf_popped (s : State) (op f o ps m b) : ((s.popped op f o ps).descOf m b) = s.descOf m b := by
  obtain ⟨_, _, _, h⟩ := popped_shape s op f o ps; rw [h]; rfl
@[simp] theorem redundant_popped (s : State) (op f o ps) : ((s.popped op f o ps).redundant) = s.redundant := by
  obtain ⟨_, _, _, h⟩ := popped_shape s op f o ps; rw [h]; rfl
@[simp] theorem read32_popped (s : State) (op f o ps a) : ((s.popped op f o ps).read32 a) = s.read32 a := by
  obtain ⟨_, _, _, h⟩ := popped_shape s op f o ps; rw [h]; rfl

/-- A slot that fires takes its body's effect, and its results leave for their targets. -/
theorem slotExec_fires {s : State} {op f o ps} (h : s.Fires op f o ps) (body) (r : Fired) (hb : body o (s.popped op f o ps) = r)
    (hn : r.breach = none) (he : slotExternal op = true → o.taint = false ∨ s.act.squash = true) :
    slotExec op f s body = .next (s.gives f o r.st r.lat r.outs) := by
  subst hb
  obtain ⟨hr, hc, hs, hp⟩ := h
  have e : (slotExternal op && o.taint && !s.act.squash) = false := by
    cases hx : slotExternal op <;> simp
    intro ht; rcases he hx with h | h <;> simp_all
  simp only [slotExec, hr, slotFire, hc, hs, hp]
  have hp2 : (if (s.act.squash && o.taint) = true then ((s.popQueues s.act.el ps).markFired (firingDests op f o s)).count (elPk s.act.el) 1 (taintedPops s ps)
      else (s.popQueues s.act.el ps).markFired (firingDests op f o s)) = s.popped op f o ps := rfl
  simp only [hp2, hn, if_true, e, State.gives]
  simp
/-- A plain firing is not quiet: its memory effects take place. -/
theorem slotQuiet_plain {op f s o ps} (h : State.Plain s o) : slotQuiet op o (s.popped op f o ps) = false := by
  simp [slotQuiet, h.1, h.2]

/-- A slot's meaning always answers a next state: nothing happens before it is ready, and then it fires. -/
theorem slotExec_answers (op : SlotOp) (f : Slot) (s : State) (body : Opn → State → Fired) :
    (slotReady op f s = none ∧ slotExec op f s body = .next s) ∨
    (∃ o ps, slotReady op f s = some (o, ps) ∧ slotExec op f s body = .next (slotFire op f s o ps body)) := by
  unfold slotExec
  split
  · exact .inl ⟨by assumption, rfl⟩
  · exact .inr ⟨_, _, by assumption, rfl⟩

end Sys2Proof.Machine
end

