-- ==== Sys2Proof/Tests/Slice0.lean ====
section
/-! SUPPORT. Tests: ill-formed terms that are refused, words written out from the encoding tables, single steps whose result the spec gives, and states that meet the premises of each statement. -/
namespace Sys2Proof.Machine
open Sys2Proof
set_option Elab.async false

/-! ### Slots: a small state and its firings -/

/-- An answer is a next state for which `p` holds. -/
def goes (r : Host.Outcome State Fault Refusal) (p : State → Bool) : Bool :=
  match r with
  | .next t => p t
  | _ => false

/-- Element 0 with `a` in `k0`, `b` in `k1` and `x` at the head of `qX`, in the only stripe of region 0, in an event plane. -/
def slotState (a b x : W32) : State :=
  let p : Plane := { valid := true, event := true }
  let s := (State.reset.setStripe 0 { rg := some 0, planes := [(0, p)], av := true }).setRegion 0
    { count := 1, live := true, rsmask := 0xFFFFFFFF, allot := [{ ring := 0, base := 0, len := 4096 }] }
  { s.setElem 0 { av := true, k := FMap.put 0 (FMap.put 0 [] 0 a) 1 b, q := [(2, [dataTok x 0])] } with act := { event := true } }

/-- The same with data tokens `a` and `b` in `qL` and `qR`. -/
def queueState (a b x : W32) : State :=
  let s := slotState a b x
  s.setElem 0 { s.elem 0 with q := [(0, [dataTok a 0]), (1, [dataTok b 0]), (2, [dataTok x 0])] }

/-- A slot with L = k0, R = k1, T1 = k2, no T2. -/
def kSlot (m : BitVec 4) : Slot := { mod := m, pq := false, l := .k 0, r := .k 1, t1 := .kreg 2, t2 := .none, sq := false, cidx := 0 }
/-- A slot that pops both queues, to k2. -/
def qSlot (m : BitVec 4) : Slot := { kSlot m with l := .pop, r := .pop }
/-- A slot without targets. -/
def nSlot (m : BitVec 4) : Slot := { kSlot m with t1 := .none }

/-- The slot fires its own effect plainly, with operands that `p` accepts. -/
def fireW (op : SlotOp) (f : Slot) (s : State) (p : Opn → Bool) : Bool :=
  match slotReady op f s with
  | some (o, ps) => decide (o.bad = none) && decide (sqFault s f o ps = none) && o.pred && !s.act.squash && !o.taint && p o
  | none => false

theorem fireW_spec {op : SlotOp} {f : Slot} {s : State} {p : Opn → Bool} (h : fireW op f s p = true) :
    ∃ o ps, s.Fires op f o ps ∧ s.Plain o ∧ p o = true := by
  unfold fireW at h
  split at h
  · rename_i o ps hr
    simp only [Bool.and_eq_true, Bool.not_eq_true', decide_eq_true_eq] at h
    obtain ⟨⟨⟨⟨⟨h1, h2⟩, h3⟩, h4⟩, h5⟩, h6⟩ := h
    exact ⟨o, ps, ⟨hr, h1, h2, h3⟩, ⟨h4, h5⟩, h6⟩
  · simp at h

/-- Every integer instruction fires with its result. -/
theorem witness_integer_slots :
    ([(SlotOp.add, 2), (.sub, 2), (.mul, 2), (.mulh, 2), (.mad, 2), (.abs, 2), (.neg, 2), (.min, 2), (.max, 2), (.bperm, 0), (.div, 0), (.rem, 0),
      (.sad, 0), (.dp4, 0), (.mov, 0)] : List (SlotOp × BitVec 4)).all
      (fun p => fireW p.1 (kSlot p.2) (slotState 7 3 5) fun o => (intResult (kSlot p.2) o p.1).isSome) = true := by decide +kernel
theorem witness_bit_slots :
    ([(SlotOp.clz, 2), (.popc, 2), (.brev, 2), (.and, 0), (.or, 0), (.xor, 0), (.andn, 0), (.not, 0), (.lop3, 0), (.shl, 2), (.shr, 2), (.rot, 2),
      (.fsh, 0), (.bfx, 0), (.bfi, 0), (.bswap, 0), (.cmp, 0), (.fcmp, 0), (.sel, 0)] : List (SlotOp × BitVec 4)).all
      (fun p => fireW p.1 (kSlot p.2) (slotState 7 3 5) fun o => (bitResult (kSlot p.2) 0 o p.1).isSome) = true := by decide +kernel
theorem witness_float_slots :
    ([(SlotOp.fadd, 0), (.fsub, 0), (.fmul, 0), (.ffma, 0), (.fmin, 0), (.fmax, 0), (.fabs, 0), (.fneg, 0), (.fclass, 0), (.fscale, 0), (.fround, 0),
      (.fcsgn, 0), (.fdot2, 4)] : List (SlotOp × BitVec 4)).all
      (fun p => fireW p.1 (kSlot p.2) (slotState 0x3F800000 0x40000000 0x40400000) fun o => (fpResult (kSlot p.2) (0, 0) o p.1).isSome) = true := by decide +kernel
theorem witness_function_slots :
    ([(SlotOp.frcp, 0), (.frsq, 0), (.fsqrt, 0), (.fexp2, 0), (.flog2, 0), (.fsin, 0), (.fcos, 0), (.ftanh, 0), (.fdiv, 0), (.phx, 0), (.cvti, 0),
      (.pack, 0)] : List (SlotOp × BitVec 4)).all
      (fun p => fireW p.1 (kSlot p.2) (slotState 0x3F800000 0x40000000 0x40400000) fun o => (fpResult (kSlot p.2) (0, 0) o p.1).isSome) = true := by decide +kernel
/-- Two results for two targets; the conversions of one result; two results for one register. -/
theorem witness_pair_slots :
    ([(SlotOp.addc, 0), (.subb, 0), (.cvtf, 8), (.cvtif, 8), (.unpack, 0)] : List (SlotOp × BitVec 4)).all
      (fun p => fireW p.1 (kSlot p.2) (slotState 7 3 1) fun o => (pairResult (kSlot p.2) o p.1).isSome) = true
    ∧ fireW .cvtf (kSlot 0) (slotState 7 3 1) (fun _ => true) = true ∧ fireW .cvtif (kSlot 0) (slotState 7 3 1) (fun _ => true) = true
    ∧ fireW .addc { kSlot 0 with t2 := .kreg 2 } (slotState 7 3 1) (fun o => (pairResult { kSlot 0 with t2 := .kreg 2 } o .addc).isSome) = true := by
  decide +kernel
/-- A predicated firing with a false predicate, and one with a true one. -/
theorem witness_predicated_slots :
    let s (v : W32) := (slotState 7 3 5).setElem 0 { (slotState 7 3 5).elem 0 with q := [(3, [dataTok v 0])] }
    let fires (v : W32) (b : Bool) : Bool := match slotReady .sub { kSlot 0 with pq := true } (s v) with
      | some (o, ps) => decide (o.bad = none) && decide (sqFault (s v) { kSlot 0 with pq := true } o ps = none) && (o.pred == b)
      | none => false
    fires 0 false = true ∧ fires 9 true = true := by decide +kernel
theorem witness_flow_slots :
    ([(SlotOp.steer, 0), (.merge, 0), (.gate, 0), (.inv, 0), (.join, 0), (.pset, 0), (.pget, 0), (.cnt, 0), (.itr, 0),
      (.copyid, 0), (.lastp, 0), (.stagev, 0), (.nop, 0), (.ctokIlast, 0)] : List (SlotOp × BitVec 4)).all
      (fun p => fireW p.1 (kSlot p.2) (slotState 7 3 1) fun o => decide (p.1 ≠ .gate ∨ o.b ≠ 0)) = true
    ∧ fireW .gate (kSlot 0) (slotState 7 0 1) (fun o => decide (o.b = 0)) = true
    ∧ fireW .ctok (kSlot 2) (slotState 7 0 1) (fun o => ctokOk 2 o.a) = true
    ∧ fireW .loopgen { kSlot 0 with l := .pop } (queueState 7 3 1) (fun _ => true) = true
    ∧ fireW .loopgen2 { kSlot 0 with l := .pop } (queueState 7 3 1) (fun _ => true) = true := by decide +kernel
/-- A reduction that keeps its value, one that emits, and the running maximum. -/
theorem witness_reduction_slots :
    ([.radd, .rmax, .rmin] : List SlotOp).all (fun op =>
      fireW op (kSlot 0) (slotState 7 0 1) (fun o => match redStep 0 0 0 [] o.a o.b false with | .insert .. => true | _ => false)
      && fireW op (kSlot 0) (slotState 7 1 1) (fun o => match redStep 0 0 0 [] o.a o.b false with | .emit .. => true | _ => false)) = true
    ∧ fireW .rmaxsc (kSlot 0) (slotState 7 3 1) (fun _ => true) = true := by decide +kernel
/-- A block begun and one going on; a dequantised pair; a quantised block ready to be sent. -/
theorem witness_quantiser_slots :
    let q : Quant := { vals := [(1, false)], n := 32 }
    let s := (slotState 7 32 1).setElem 0 { (slotState 7 32 1).elem 0 with quant := q }
    let u := (slotState 7 32 1).setElem 0 { av := true, quant := { out := [{ tok := dataTok 1 0, ret := { el := 0, t1 := .kreg 2 } }] } }
    fireW .bq (kSlot 0) s (fun _ => true) = true ∧ q.vals ≠ [] ∧ q.vals.length + 1 ≠ q.n
    ∧ fireW .bq (kSlot 0) (slotState 7 32 1) (fun o => bqCtlOk o.b && decide (o.b.toNat % 64 ≠ 1)) = true
    ∧ fireW .bdq { kSlot 0 with l := .pop } (queueState 7 3 1) (fun _ => true) = true
    ∧ (u.elem 0).quant.out ≠ [] ∧ (u.elem 0).quant.ready ≤ u.cyc ∧ u.fits ((u.destOf 0 (.kreg 2)).toList ++ (u.destOf 0 .none).toList) [] = true := by decide +kernel

/-! ### Memory, synchronisation and register slots -/

/-- `slotState` with another element 0. -/
def elemState (s : State) (g : Elem → Elem) : State := s.setElem 0 (g (s.elem 0))

theorem witness_bank_lane_port_slots :
    let s := slotState 8 4 1
    fireW .ldb (kSlot 0) s (fun o => (s.region 0).allots 0 (o.a.toNat + o.b.toNat) 4 && decide ((o.a.toNat + o.b.toNat) % 4 = 0)) = true
    ∧ fireW .stb (kSlot 0) s (fun o => (s.region 0).allots 0 (o.a.toNat + o.b.toNat) 4) = true ∧ ringOf (stOf s.act.el) < baseRing
    ∧ fireW .lnsend (kSlot 0) s (fun _ => true) = true
    ∧ fireW .lntap (kSlot 0) (s.setStripe 0 { s.stripe 0 with lanes := [(0, some (dataTok 5 0, false))] }) (fun _ => true) = true
    ∧ fireW .spop (kSlot 0) (s.setPort 0 { fifo := [dataTok 5 0], rg := some 0 }) (fun o => o.lt.isSome) = true
    ∧ fireW .spush (kSlot 0) (s.setPort 0 { rg := some 0 }) (fun _ => true) = true := by decide +kernel
theorem witness_buffer_slots :
    let s := slotState 64 12 1
    let put (done : Nat) : OpenBuf := { wait := 0, desc := 0, scr := false, len := 12, done := done, addr := 4096, need := 32, placed := true }
    fireW .cbputOpen (nSlot 0) s (fun _ => true) = true ∧ fireW .cbgetOpen (nSlot 0) s (fun _ => true) = true
    ∧ fireW .cbputWord (nSlot 1) (elemState s fun e => { e with put := some (put 0) }) (fun _ => true) = true ∧ (put 0).done + 1 < ((put 0).len + 3) / 4
    ∧ fireW .cbputWord (nSlot 1) (elemState s fun e => { e with put := some (put 2) }) (fun _ => true) = true ∧ ((put 2).len + 3) / 4 ≤ (put 2).done + 1
    ∧ fireW .cbgetWord (nSlot 1) (elemState s fun e => { e with get := some (put 0) }) (fun _ => true) = true := by decide +kernel
theorem witness_stream_slots :
    let s := slotState 3 2 1
    let word (op : SlotOp) (at_ : Bool) : Bool := fireW op (kSlot 0) s fun o => !(s.wordFault o.b at_)
    fireW .agen (kSlot 0) s (fun o => decide (o.a.toNat < 32) && (s.region 0).rsmask.getLsbD o.a.toNat) = true
    ∧ fireW .agen (kSlot 8) s (fun o => decide (o.b.toNat < 2 ^ 15 ∧ o.b.toNat / 16 % 4 ≠ 3)) = true
    ∧ ([.ldg, .ldgx, .pfg, .stg, .stgx] : List SlotOp).all (word · false) = true ∧ ([.atom, .red, .cas] : List SlotOp).all (word · true) = true := by
  decide +kernel
theorem witness_waiting_slots :
    let s := slotState 3 2 1
    let pv := (s.setReg 0 0x11000 1).setPav 0 { started := true }
    ([.fence, .secw, .crd, .msend, .publish, .sealreq, .xreq] : List SlotOp).all (fun op => fireW op (kSlot 0) s fun _ => true) = true
    ∧ fireW .sbar (kSlot 0) s (fun o => decide (o.a &&& ~~~(s.region 0).rsmask = 0 ∧ o.a ≠ 0)) = true
    ∧ fireW .sbar (kSlot 0) (slotState 0 2 1) (fun o => decide (o.a = 0)) = true
    ∧ fireW .publish (kSlot 0) s (fun o => decide (o.a.toNat / 64 % 8192 = elPk 0)) = true
    ∧ fireW .sealreq (kSlot 0) pv (fun _ => true) = true ∧ pv.pvEn 0 = true ∧ s.pvEn 0 = false ∧ (s.fig (figOf s.act.rg)).insts ≤ 1
    ∧ (let two := s.setFig (figOf s.act.rg) { insts := 2 }
       fireW .sealreq (kSlot 0) two (fun _ => true) && decide (1 < (two.fig (figOf two.act.rg)).insts)) = true
    ∧ fireW .xreq (kSlot 0) (elemState s fun e => { e with pkt := [(0, [1, 2, 3, 4, 5, 6, 7])] }) (fun _ => true) = true := by decide +kernel
theorem witness_register_slots :
    let s := slotState 64 2 1
    fireW .lrflush (kSlot 0) s (fun o => decide (o.a.toNat % 64 = 0)) = true ∧ fireW .secwSet (kSlot 1) s (fun _ => true) = true ∧ s.redundant = false
    ∧ fireW .mword (kSlot 3) s (fun _ => true) = true ∧ fireW .rdin (kSlot 0) s (fun _ => true) = true ∧ fireW .evc (kSlot 0) s (fun _ => true) = true
    ∧ fireW .rdcr (kSlot 0) (slotState 1 2 1) (fun o => (s.crRead o.a.toNat).isSome && decide (o.a ≠ 0)) = true
    ∧ fireW .rdcr (kSlot 0) (slotState 0 2 1) (fun o => decide (o.a = 0)) = true
    ∧ fireW .wrcr (kSlot 0) (slotState 8 1 1) (fun o => (s.crRead o.a.toNat).isSome && decide (4 < o.a.toNat ∧ o.b.toNat < 2)) = true := by decide +kernel
theorem witness_traps_and_halt :
    let s := slotState 3 2 1
    fireW .trap (kSlot 0) s (fun _ => true) = true ∧ fireW .brk (kSlot 0) s (fun _ => true) = true ∧ (s.region 0).brken = false
    ∧ fireW .brk (kSlot 0) (s.setRegion 0 { s.region 0 with brken := true }) (fun _ => true) = true
    ∧ fireW .halt (kSlot 0) s (fun _ => true) = true ∧ (s.fig (figOf s.act.rg)).insts ≤ 1 := by decide +kernel
/-- A slot of any kind answers a next state. -/
theorem witness_slots_leave_the_rest : goes (exec (.add (kSlot 2)) (slotState 7 3 5)) (fun t => t.fl.emits.length == 1) = true := by decide +kernel

/-! ### The fabric's events: states that meet the premises -/

/-- A loop context entry: FIRST 0, II 1, STG 1, V. -/
def lcWord : W32 := 0x10210
/-- A region of one stripe in a modulo plane, with a loop context in flight; element 0 holds the slot word `w` and `k0` = 7. -/
def moduloState (w : BitVec 48) : State :=
  let p : Plane := { valid := true, lcs := [(0, lcWord)], els := [(0, { words := FMap.put 0 [] 0 w })] }
  ((State.reset.setStripe 0 { rg := some 0, planes := [(0, p)], av := true }).setRegion 0
    { count := 1, live := true, lcs := [(0, { live := true, sv := 1, n := 1, starts := 1 })] }).setElem 0 { av := true, k := FMap.put 0 [] 0 7 }
/-- `mov k0` to a target; `mov qL` to it. -/
def movK (t : Target) : BitVec 48 := encodeSlot .mov { kSlot 0 with r := .pop, t1 := t }
def movQ (t : Target) : BitVec 48 := encodeSlot .mov { kSlot 0 with l := .pop, r := .pop, t1 := t }

def wIssue : List Bool :=
  let ok (s : State) : Bool :=
    let r := s.region 0
    let c := r.issueCtx 0 0
    r.fires s.cyc && c.live && decide (c.start ≤ s.cyc) && decide (c.issued ≠ s.cyc + 1) && r.scroll.isNone && !s.withholds r c && !((enabledSlots s 0 0 0).any (lowerEnabled s 0 0 0))
      && (enabledSlots s 0 0 0).length == 1
  let s1 := moduloState (movK (.kreg 2))
  let s2 := moduloState (movQ (.kreg 2))
  let s0 := moduloState (movK (.preg 1))
  -- four tokens enter the input of a matrix element in the cycle of the product
  let p5 : Plane := { valid := true, lcs := [(0, lcWord)], els := [(0, { words := FMap.put 0 [] 0 (encodeSlot .mul { kSlot 0 with t1 := .mx 0 }) })] }
  let s5 := s1.setStripe 0 { s1.stripe 0 with planes := [(0, p5)] }
  let s5 : State := { s5 with fl := { s5.fl with emits := List.replicate 4 { due := s5.cyc + 1, ord := 0, src := 1, dst := .opq 64, tok := dataTok 5 0 } } }
  let s3 := s0.setStripe 0 { s0.stripe 0 with pass := [(1, some (dataTok 5 0))] }
  [ok s1, (match allNeeds s1 (enabledSlots s1 0 0 0) with | some n => n.met s1 && (fireAll s1 (enabledSlots s1 0 0 0)).opqOk | none => false),
   ok s5, (match allNeeds s5 (enabledSlots s5 0 0 0) with | some n => n.met s5 && !(fireAll s5 (enabledSlots s5 0 0 0)).opqOk | none => false),
   ok s2, (allNeeds s2 (enabledSlots s2 0 0 0)).isNone,
   ok s3, (match allNeeds s3 (enabledSlots s3 0 0 0) with | some n => !n.met s3 | none => false),
   decide ((({ count := 1, lcs := [(0, { live := true, issued := 1 })] } : Region).issueCtx 0 0).issued = State.reset.cyc + 1),
   -- withheld by the power cap: the ring's decision for the cycle is made
   (let h := (s1.setReg 0 0x60 1).setRing 0 { powerAt := 4, held := true }
    State.withholds { h with cyc := 3 } (h.region 0) { live := true, issued := 3 })]
theorem witness_slot_index : wIssue.all id = true := by decide +kernel

/-- A boundary within the II, and one at its end that starts an iteration. -/
theorem witness_loop_contexts :
    let c : LoopCtx := { ii := 2, stg := 2, sv := 1, live := true, n := 1 }
    c.slot + 1 < c.ii ∧ ({ c with slot := 1 } : LoopCtx).ii ≤ ({ c with slot := 1 } : LoopCtx).slot + 1 ∧ (LoopCtx.advance { c with slot := 1 } true).sv = 3 := by
  decide +kernel

def wHandlers : List Bool :=
  let s := moduloState 0
  let s1 := s.setRegion 0 { s.region 0 with ilast := [(0, 0, 0, 3, 0)] }
  let ch : BitVec 256 := 0x800
  let p : Plane := { valid := true, event := true, els := [(0, { seqb := ch })] }
  let u := (slotState 1 2 3).setStripe 0 { rg := some 0, planes := [(0, p)], av := true }
  let u1 := u.setElem 0 { (u.elem 0) with q := [(0, [dataTok 1 0])] }
  [(s1.region 0).ilast.length == 1, (s1.region 0).scroll.isNone, !((s1.region 0).lcs.get {} 0).xs,
   (u1.elem 0).av, (u1.elem 0).run.isNone, decide ((u1.elem 0).hold ≤ u1.cyc), u1.elLive 0,
   (u1.waveAt 0).isNone,
   (bestChannel (u1.elPlane 0 0) ((List.range 16).filterMap fun c => (u1.runnable 0 c).map fun v => (c, v))).isSome]
theorem witness_exits_and_handlers : wHandlers.all id = true := by decide +kernel

/-- A barrier wavefront. -/
def bar : Token := waveTok 0 0
def wWave : List Bool :=
  let s := (moduloState (encodeSlot .mov { kSlot 0 with l := .pop })).setElem 0 { av := true, q := [(0, [bar])] }
  let b := s.setElem 0 { s.elem 0 with quant := { vals := [(1, false)], n := 32 } }
  let u := (moduloState 0).setMx 64 { av := true, opq := [bar] }
  [decide (s.waveAt 0 = some (bar, [.queue 0 0])), s.elLive 0, (s.elem 0).run.isNone, s.noPending 0, decide ((s.elem 0).fired ≠ s.cyc + 1), bar.wave, !bar.swp, !bar.et,
   s.fits ((s.outputSet 0 (bar.wavePlanes (s.elem 0).av (s.elem 0).act)).map Prod.fst) [.queue 0 0],
   decide (b.waveAt 0 = some (bar, [.queue 0 0])), (b.elem 0).quant.vals != [],
   u.elLive 64, u.noPending 64, decide ((u.mx 64).tcnt = 0), u.fits ((u.mxOuts 64 (bar.wavePlanes (u.mx 64).av (u.mx 64).act)).map Prod.fst) [.opq 64]]
theorem witness_wavefronts : wWave.all id = true := by decide +kernel

/-- Two stripes of one region, with a token in pass register 1 of the first; the plane of the second takes it in queue 0. -/
def passState : State :=
  let p : Plane := { valid := true, event := true, pimask := 2, passin := [] }
  let s := (State.reset.setStripe 0 { rg := some 0, planes := [(0, p)], av := true, pass := [(1, some (dataTok 5 0))] }).setStripe 1
    { rg := some 0, ws := 1, planes := [(0, p)], av := true }
  s.setRegion 0 { count := 2, live := true }
def wCross : List Bool :=
  let s := passState
  let r1 : Region := { count := 1, live := true, scroll := some { v := 2, d := 4, img := 0, lc := 0, tc := 0 } }
  let u := s.setRegion 0 r1
  let pk : Token := dataTok 9 0
  let w := (s.setRegion 0 { r1 with scroll := some { v := 2, d := 4, img := 0, lc := 0, tc := 0, park := [(0, [(1, 0, 0)])] }, wlcs := [(0, { vs := 1 })] })
  let w := { w with cyc := 5 }
  let f := (State.reset.setFig 0 { streams := [(70, { wport := some 3, rport := some 5 })], nreg := 1 }).setPort 3 { fifo := [pk], rg := some 0 }
  [decide ((s.stripe 0).ws + 1 ≠ (s.region 0).count), (s.region 0).feeds 0, s.passRoom (passSrc 0 1) 1 1 0, !(s.passBehind 0 1 1), decide (s.passMap 0 1 1 = 0),
   decide ((s.stripe 0).pass.get none 1 = some (dataTok 5 0)),
   decide ((u.stripe 0).ws + 1 = (u.region 0).count), (match (u.region 0).scroll with | some sc => sc.parkRoom 0 | none => false),
   (match (w.region 0).scroll with | some sc => decide (sc.park.get [] 0 = [(1, 0, 0)]) && decide (sc.phase.get 0 0 = 0) | none => false),
   decide ((FMap.get ({} : LoopCtx) (w.region 0).wlcs 0).vs = (0 + 1) * (w.region 0).count), w.passRoom (passSrc 0 1) 0 1 (w.passMap 0 0 1), decide (0 < w.cyc), !pk.wave,
   decide ((f.fig (70 / 256)).phase = .placed), decide (((f.fig 0).streams.get {} 70).rport = some 5), decide (0 < f.room (.port 5))]
theorem witness_tokens_cross : wCross.all id = true := by decide +kernel

/-- Ring stream 0 in scratchpad mode, bound to port 0, with CTL `c`; partition 0 is valid. -/
def boundState (c : W32) (t : Strm) (fifo : List Token) : State :=
  let s := (slotState 1 2 3).setReg 0 0x41000 0x800
  (s.setStrm 0 { t with ctl := c, port := some 0, rg := some 0 }).setPort 0 { rg := some 0, fifo := fifo }
/-- The answer of an issue is an access that leaves. -/
def gone (r : W64 × Issued) : Bool := match r.2 with | .gone _ => true | _ => false
def wBound : List Bool :=
  let l0 := boundState 0x12 { eos := true } []
  let l1 := boundState 0x12 { left := 2 } []
  let s0 := boundState 0x1A {} [dataTok 5 0]
  let s1 := boundState 0x1A { words := [(5, false)] } []
  let i (s : State) (k : AKind) (d : List W32) (p : Option Nat) : Issue := { id := s.fl.next, kind := k, scope := 4, word := 0, data := d, cmp := 0, ret := {}, f := s.cyc, rg := 0, port := p }
  [l0.boundReady 0, decide ((l0.strm 0).left = 0), (l0.strm 0).eos, !(l0.strm 0).isStore, decide (0 < l0.room (.port 0)),
   l1.boundReady 0, decide ((l1.strm 0).left ≠ 0), decide (1 ≤ l1.room (.port 0)), l1.mayPerform 0 (boundOp 0), gone (l1.issueHead 0 (i l1 (.load false) [] (some 0)) none),
   s0.boundReady 0, (s0.strm 0).isStore, decide ((s0.strm 0).words.length < max 1 ((s0.strm 0).esz / 4)),
   s1.boundReady 0, decide (max 1 ((s1.strm 0).esz / 4) ≤ (s1.strm 0).words.length), gone (s1.issueHead 0 (i s1 (.store false) [5] none) none)]
theorem witness_bound_streams : wBound.all id = true := by decide +kernel

/-- A scrolled placement of four virtual stripes on a window of one, in phase `ph`, at virtual stripe `v`. -/
def scrollState (ph v : Nat) : State :=
  let p : Plane := { valid := true, lcs := [(0, lcWord)] }
  let q : Plane := { p with img := 1 }
  (State.reset.setStripe 0 { rg := some 0, planes := [(0, p), (1, q)], av := true }).setRegion 0
    { count := 1, live := true, scroll := some { v := 4, d := 4, img := 0, lc := 0, tc := 0, phase := FMap.put 0 [] 0 ph }, wlcs := [(0, { vs := v, live := false, starts := 4 })] }
def wScroll : List Bool :=
  let y := scrollState 0 0
  let sv := scrollState 1 0
  let sw := scrollState 2 0
  let r := sw.region 0
  let rs := scrollState 3 1
  [(match (y.region 0).scroll with | some sc => decide (sc.phase.get 0 0 = 0) && decide (((y.region 0).wlcs.get {} 0).vs + 1 ≠ sc.v) && decide (((y.region 0).wlcs.get {} 0).issued ≤ y.cyc) | none => false),
   (y.region 0).stop.isNone, !((y.region 0).wlcs.get {} 0).live, !y.stripePending 0, !y.stripeInbound 0, !y.stripeAccess 0, (y.yieldBreach 0).isNone, (y.stripe 0).pass.isEmpty,
   (match (sv.region 0).scroll with | some sc => decide (sc.phase.get 0 0 = 1) | none => false), !sv.replaying 0, !sv.taintedStripe 0,
   (match r.scroll with
    | some sc => decide (sc.phase.get 0 0 = 2) && decide ((r.scrollNext sc 0).2 ≤ sc.tiles * sc.d) && sc.begins sw.cyc (r.scrollNext sc 0).1 (r.scrollNext sc 0).2 && !sw.filling 0 0 (r.scrollPlane (r.scrollNext sc 0).1)
        && ((sw.stripe 0).planes.get {} (r.scrollPlane (r.scrollNext sc 0).1).toNat).valid
        && decide (((sw.stripe 0).planes.get {} (r.scrollPlane (r.scrollNext sc 0).1).toNat).img = sc.img + (r.scrollNext sc 0).1)
    | none => false),
   (match (rs.region 0).scroll with | some sc => decide (sc.phase.get 0 0 = 3) | none => false), !rs.replaying 0]
theorem witness_scrolled_stripes : wScroll.all id = true := by decide +kernel

def wFill : List Bool :=
  let f : FillReq := { ord := 0, rg := 0, st := 0, p := 2, img := 1 }
  let s := (slotState 1 2 3).setRing 0 { fills := [f] }
  [decide ((s.ring 0).fills = [f]), (s.fillsOf 0).all (fun h => decide (f.ord ≤ h.ord)), decide ((s.stripe 0).rg = some 0), (s.region 0).live, !s.activePlane 0 2,
   (let u := s.setRing 0 { fills := [{ f with begun := true }], cache := [((s.fig 0).imgKey 1, {})] }
    decide (u.ring 0).fills.head?.isSome && ((u.ring 0).cached ((u.fig 0).imgKey 1)).isSome)]
theorem witness_plane_fills : wFill.all id = true := by decide +kernel

/-! ### Accesses, waits and memory management: states that meet the premises -/

/-- An access at the head of ring stream 0, of region 0. -/
def accOp (id : Nat) (k : AKind) : SOp := .acc id k 4 0 none [5] 0 {} 0 0
/-- Element 0's state with ring stream 0 as given. -/
def strmState (t : Strm) : State := { ((slotState 1 2 3).setReg 0 0x41000 0x800).setStrm 0 { t with rg := some 0 } with cyc := 1 }
/-- An issue record of the head. -/
def issueOf (id : Nat) (k : AKind) : Issue := { id := id, kind := k, scope := 4, word := 0, data := [5], cmp := 0, ret := {}, f := 0, rg := 0 }
/-- A translation of page 0 of address space 0, for reading and writing. -/
def page0 : Xlat := { rd := true, wr := true, pa := 0x100000 }

def wStream : List Bool :=
  let c := strmState { q := [.cfg 0 5 0 0] }
  let g := strmState { ctl := 0x12, q := [accOp 9 (.load false)] }
  let m := strmState { ctl := 0x02, q := [accOp 9 (.load false)] }
  let p := strmState { ctl := 0x02, q := [accOp 9 .pfg], kept := some page0 }
  let ok (s : State) : Bool := decide ((s.strm 0).issued ≤ s.cyc) && !(s.strm 0).fault && (s.strm 0).parked.isNone && s.ringUp 0 && s.mayPerform 0 9
  let t : Strm := { ext := FMap.put 0 (FMap.put 0 [] 0 2) 1 2, str := FMap.put 0 [] 0 4 }
  [ok c, (c.strm 0).port.isNone, decide (0 < c.cyc), ok g, gone (g.issueHead 0 (issueOf 9 (.load false)) none),
   (match ((g.setStrm 0 { g.strm 0 with base := 1 }).issueHead 0 (issueOf 9 (.load false)) none).2 with | .fault .. => true | _ => false),
   ok m, (match (m.issueHead 0 (issueOf 9 (.load false)) none).2 with | .miss => true | _ => false),
   ok p, (match (p.issueHead 0 (issueOf 9 .pfg) none).2 with | .gone u => decide (((u.acc 9).bind (·.scr)) = none) | _ => false),
   decide (t.i0 + 1 ≠ t.extent 0), decide (t.i1 ≠ t.extent 1), decide (({ t with i0 := 1 } : Strm).i0 + 1 = t.extent 0),
   decide (({ t with i0 := 1, i1 := 1 } : Strm).i1 + 1 = t.extent 1)]
theorem witness_stream_issue : wStream.all id = true := by decide +kernel

/-- Page tables in memory: address space 0's table at 0x20000, a large leaf for virtual page 0 at level 2. -/
def tables : State :=
  let s := strmState { ctl := 0x02, q := [accOp 9 (.load false)], parked := some 0 }
  ((((s.setReg 0 0x10010 0x10001).poke 0x10000 (leBytes 8 0x20001)).poke 0x20000 (leBytes 8 0x30001)).poke 0x30000 (leBytes 8 0x40001)).poke 0x40000 (leBytes 8 0x4000000F)
def wWalk : List Bool :=
  let s := tables
  let a : Access := { rs := some 0, kind := .load false, va := 0x1000, phase := .moved }
  let u := s.setAcc 7 a
  let ok (r : Except (BitVec 16) Xlat) (p : Xlat → Bool) : Bool := match r with | .ok x => p x | _ => false
  let read := (s.walkReads 0 (s.fig 0).asid 0).foldl (fun u a => u.correct a 8) s
  -- an `agen.ctl` of mode 2 names a program whose image is no image
  let g : State := (s.setReg 0 0x50000 1).setStrm 0 { rg := some 0, q := [.cfg 8 0x22 0 0] }
  [decide ((s.strm 0).parked = some 0), (read.walkBad 0 (s.fig 0).asid 0).isNone, ok (read.walkPage 0 (s.fig 0).asid 0) fun x => decide (x.log2 = 30 ∧ x.pa = 0x40000000 ∧ x.rd),
   decide ((s.setAcc 7 { a with rs := none }).acc 7 = some { a with rs := none }), decide (u.acc 7 = some a), ok (u.walkPage 0 a.asid a.va.toNat) fun x => x.permits a.kind && !u.badPA 0 (x.phys a.va.toNat) && !u.poisoned (x.phys a.va.toNat) && !(u.members.get {} (paPkg (x.phys a.va.toNat))).noSpare,
   (g.namedBase 0 ((g.strm 0).write 8 0x22)).isSome, (g.namedBase 0 ((g.strm 0).write 8 0x02)).isNone]
theorem witness_walks : wWalk.all id = true := by decide +kernel

/-- An access of ring stream 0 to HBM address 0x1000, with the fields that `f` changes. -/
def accState (a : Access) : State := (slotState 1 2 3).setAcc 7 a
def accA : Access := { rs := some 0, pa := 0x1000, va := 0x1000, data := [1, 2, 3, 4] }
def wHome : List Bool :=
  let pa1 := 0x1000
  let ok (a : Access) : Bool :=
    let s := accState a
    decide (s.acc 7 = some a ∧ a.phase = .sent) && !s.heldBack a && a.base.isNone
  let hbm (a : Access) : Bool :=
    let s := accState a
    let pa := s.backing a.pa false
    a.scr.isNone && s.linked (s.region a.rg).pk (paPkg a.pa) && decide (pa = pa1) && decide (paSpace a.pa = 0) && decide (s.migState pa = 0)
      && !s.inArea pa a.size && !s.poisoned pa && !a.prot
  let st := { accA with kind := .store false }
  let far := { accA with pa := 3 * 2 ^ 53 + 64 }
  let scr := { accA with scr := some (0, 0, 64, true) }
  let u := (accState scr).setReg 0 0x41000 0x800
  [ok accA, hbm accA, ok st, hbm st, !st.irv, st.tag.isNone,
   (linesOf 0x1000 4).all (fun l => !(accState st).damagedIn l 64),
   (match (accState st).homeWrite 0x1000 (.set st.data) st.tag false none 7 0 with | .ok _ => true | _ => false),
   ok far, decide (2 ≤ paSpace far.pa), !far.prot, ok { far with kind := .store true },
   ok { accA with pa := 2 ^ 52 }, decide (paPkg (2 ^ 52) ≠ ((accState accA).region 0).pk ∧ accA.link = none),
   ok scr, u.ms.parts.get none 0 |>.isNone, (u.sppCause 0 0 64).isNone]
theorem witness_home : wHome.all id = true := by decide +kernel

def wBind : List Bool :=
  let a := { accA with phase := .home }
  let s := accState a
  let h := { a with pa := hostPA 0 64 }
  let u := accState h
  let ok (s : State) (a : Access) : Bool := decide (s.acc 7 = some a ∧ a.minAt ≤ s.cyc) && a.base.isNone && !s.tokensBefore a && !s.heldBack a
  [ok s a, decide (paSpace a.pa ≠ 1), decide ((s.readBytes (s.backing a.pa false) a.size).2 = (zeros 4, false)), decide (a.pa ≠ 0), decide (a.size < 8), a.toPort.isNone,
   decide (a.emitted = 0), decide (s.atFrame 7 a = none), !a.ret.squash, ok u h, decide (paSpace h.pa = 1), !u.out.hostDown.get false 0]
theorem witness_loads : wBind.all id = true := by decide +kernel

def wDone : List Bool :=
  let a : Access := { accA with kind := .store false, scope := 7, tag := none, phase := .performed }
  let b : Access := { a with phase := .staged }
  [decide ((accState a).acc 7 = some a), (accState a).scopeMet 7 a, decide (a.minAtStore ≤ (accState a).cyc), (accState b).scopeMet 7 b]
theorem witness_stores : wDone.all id = true := by decide +kernel

/-- An atomic minimum of 3 on the 5 that stands at 0x1000. -/
def wAtom : List Bool :=
  let a : Access := { accA with kind := .atom 4 false, data := [3, 0, 0, 0], phase := .home }
  let s := (accState a).poke 0x1000 [5, 0, 0, 0]
  [decide (s.acc 7 = some a), a.kind.isAtomic, !s.heldBack a, a.tag.isNone, decide (a.value = []), !a.prot,
   decide ((s.readBytes (s.backing a.pa false) 4).2.1 = [5, 0, 0, 0]), decide (a.pa ≠ 0), (linesOf (s.backing a.pa false) 4).all (fun l => !s.damagedIn l 64), decide (s.atFrame 7 a = none), !s.atomBefore a,
   goes (exec (.atomicAtHome 7) s) fun u => decide (u.read32 0x1000 = 3)]
theorem witness_atomics : wAtom.all id = true := by decide +kernel

/-- Wait 7 of region 0. -/
def waitState (x : Wait) : State := { (slotState 1 2 3).setWait 7 x with cyc := 1 }
def wWaits : List Bool :=
  let w (k : WKind) : Wait := { kind := k }
  let ok (s : State) (k : WKind) : Bool := decide (s.wait 7 = some (w k)) && !(w k).ret.squash && s.mayPerform 0 7
  let st (k : WKind) : State := waitState (w k)
  let fe := WKind.fence 7 0 none
  let sb := WKind.sbar 4 0 1 none
  let sbs := (st sb).setStrm 0 { q := [.bar 7 0] }
  let pb := WKind.publish 0 3
  let sw := WKind.secw 5 0
  let cr := WKind.crd 3 0
  let crs := ((st cr).setReg 0 0x15010 0x100001).poke (0x100000 + 16 * 3 + 8) [1, 0, 0, 0]
  let sq := WKind.sealreq 0
  let pv := (((st sq).setReg 0 0x11000 1).setReg 0 0x11018 1)
  let pv := { pv with iv := pv.iv.put {} 0 { started := true } }
  let pk := WKind.packet 0 0 [1, 2, 3, 4, 5, 6, 7, 8]
  [ok (st fe) fe, (st fe).elPast 0 7, !(st fe).pvEn 0, (st fe).durable 0 7 (st fe).fl.next ((st fe).fig 0).lastTag, !(st fe).windowHolds 0 ((st fe).fig 0).lastTag,
   ok sbs sb, sbs.barMet 0 7 1, decide (0 < sbs.cyc), sbs.durable 0 4 sbs.fl.next (sbs.fig 0).lastTag, !sbs.windowHolds 0 (sbs.fig 0).lastTag,
   ok (st pb) pb, (((st pb).setReg 0 0x20030 1).spt 0 3).getLsbD 0,
   ok (st sw) sw, decide (((st sw).secs.get 0 5 - 0).toNat < 2 ^ 31),
   ok (st cr) cr, (crs.reg 0 0x15010).getLsbD 0, decide ((crs.read32 (crs.backing (crs.ringEntry 0 3 + 8) false) - 0 - 1).toNat < 2 ^ 31),
   ok pv sq, pv.pvEn 0, decide ((pv.pav 0).begun ≤ (w sq).f),
   ok (st pk) pk, decide (((st pk).eng.queues.get [] 0).length < 16), decide ((st pk).fl.waits.length = 1)]
theorem witness_waits : wWaits.all id = true := by decide +kernel

/-- A circular buffer of 256 bytes at 0x4000 in HBM, described at 0x2000, with the given HEAD and TAIL. -/
def bufState (x : Wait) (head tail : Nat) : State :=
  ((waitState x).poke (scrPA 0 0x2000) (leBytes 4 0x4000 ++ leBytes 4 8 ++ leBytes 4 head ++ leBytes 4 tail)).poke (scrPA 0 0x4000) (leBytes 4 20 ++ leBytes 4 77)
def wBufs : List Bool :=
  let d := scrPA 0 0x2000
  let p (h : Bool) : Wait := { kind := .cbput d true 20 77 0, held := h }
  let g : Wait := { kind := .cbget d true 0 }
  let s := bufState (p false) 0 0
  let u := bufState g 0 48
  let need := 16 + 16 * ((20 + 15) / 16)
  [decide (s.wait 7 = some (p false)), !s.cbBefore 7 (p false) d true, s.cbOk d 0 0, decide (20 ≤ s.cbSize d / 2 - 16), decide (need ≤ s.cbSize d),
   decide (s.bufs.get {} d = {}), goes (exec (.cbputPlacement 7) s) fun t => decide ((t.bufs.get {} d).puts = [(7, 48, false)]),
   goes (exec (.cbputRetry 7) (bufState (p true) 0 0)) fun t => t.wait 7 |>.isNone,
   decide (u.wait 7 = some g), !u.cbBefore 7 g d false, u.cbOk d 0 0, decide ((u.read32 (d + 8)) ≠ u.read32 (d + 12)), !(u.read32 (scrPA 0 0x4000)).getLsbD 16,
   goes (exec (.cbgetDelivery 7) u) fun t => decide ((t.bufs.get {} d).gets = [(7, 48, false)])]
theorem witness_buffers : wBufs.all id = true := by decide +kernel

/-- Intervals run in package 0. -/
def pvState (s : State) : State :=
  let u := (s.setReg 0 0x11000 1).setReg 0 0x11018 1
  { u with iv := u.iv.put {} 0 { started := true } }
def wStaging : List Bool :=
  let m : Wait := { kind := .msend 0 [1] false none }
  let ms : Wait := { kind := .msend 0 [1] true (some 0) }
  let s := pvState (waitState m)
  let a : Access := { accA with kind := .store false, pa := hostPA 0 64, scope := 7, phase := .home }
  let u := pvState (accState a)
  let e : Staged := { tag := none, pa := 3 * 2 ^ 53 + 64, bytes := [1] }
  let h : Staged := { tag := none, pa := hostPA 0 64, bytes := [1] }
  let g : Staged := { tag := none, msg := [1] }
  let st (e : Staged) : State := (slotState 1 2 3).setStaged 0 [e]
  let ok (e : Staged) : Bool := decide ((st e).staged 0 = [e]) && (st e).releasable 0 e && !(st e).stagedBad 0
  [decide (s.wait 7 = some m), s.mayPerform 0 7, s.pvEn 0, decide ((s.staged 0).length < 131072), !(s.pav 0).window,
   decide ((waitState ms).wait 7 = some ms), ivLe 0 ((waitState ms).sealed 0),
   decide (u.acc 7 = some a), a.irrevocable, u.pvEn 0, !u.heldBack a,
   ok e, decide (2 ≤ paSpace e.pa), decide ((st e).migState ((st e).backing e.pa e.shadow) ≠ 1), ok h, decide (paSpace h.pa = 1), !(st h).out.hostDown.get false 0,
   ok g, ((st g).deliverMsg 0 g.msg).isSome]
theorem witness_staging : wStaging.all id = true := by decide +kernel

def wDelta : List Bool :=
  let x : Delta := { data := List.replicate 32 1 }
  let s := { slotState 1 2 3 with ms := { deltas := [(4, x)] }, cyc := 2 ^ 20 }
  let pa := x.dst * 2 ^ 40 + pgOff (s.pgtb x.dst x.grp) + x.off
  [decide (s.ms.deltas.find? (fun p => decide (p.1 = 4)) = some (4, x)), !x.barred, !s.damagedIn (lineOf pa) 64, decide (x.data.length = 32), decide (x.sent + 2 ^ 20 ≤ s.cyc), !x.late]
theorem witness_deltas : wDelta.all id = true := by decide +kernel

/-- Package 0 up, its window open. -/
def upState : State := (slotState 1 2 3).setReg 0 0x18 0x1F
def wMaps : List Bool :=
  let s := upState
  let acc (s : State) (off : Nat) (v : W64) (k : RKind) (i : Nat) : Bool :=
    s.windowOn 0 && decide (regAt off = some (k, i)) && decide (v &&& k.rsv = 0) && !k.bad (s.reg 0 off) v && s.writeAllowed 0 k i off v
  let part := { s with ms := { parts := [(0, some ([(0, 1)], 5))] } }
  let inv := { s.setReg 0 0x10000 0x8000 with ms := { inval := [(0, some 0)] } }
  let mv := (s.setReg 0 0x21000 3).setReg 0 0x21008 0x5000
  [acc s 0x41008 0x801 .spp 1, decide (s.reg 0 0x41008 ≠ 0x801), s.ms.parts.get none 1 |>.isNone,
   decide (part.ms.parts.get none 0 = some ([(0, 1)], 5)), decide (part.fl.accs = []),
   !(s.reg 0 0x10000).getLsbD 15, acc s 0x10000 0x4000 .tlbiv 0,
   decide (inv.ms.inval.get none 0 = some 0),
   acc s 0x21000 0x21 .mvf 0, decide ((s.reg 0 0x21000).toNat / 2 % 4 = 0),
   (mv.reg 0 0x21000).getLsbD 0, decide ((mv.reg 0 0x21000).toNat / 2 % 4 = 1), !(mv.pav 0).window,
   !(mv.readBytes 0 4096).2.2, decide (mv.ms.kept.get none 0 ≠ some .barred), (mv.tagOr 0 0x5000 (keptTag (mv.ms.kept.get none 0))).isNone,
   decide (pageOf (mv.reg 0 0x21008) = 0x5000), (match mv.homeWrite 0x5000 (.set (zeros 4096)) none false (mv.groupAt 0x5000) mv.fl.next 0 with | .ok _ => true | _ => false),
   (part.ms.parts.get none 0).isSome]
theorem witness_mappings : wMaps.all id = true := by decide +kernel

def wStacks : List Bool :=
  let s := upState
  let u := { s with ms := { stks := [(0, { ltag := [(0, 3)], sweep := true })] } }
  [decide (((s.stack 0).rows.get 0 5).toNat + 1 < 4095), s.ms.errs.get none (2 ^ 62 + 5) |>.isNone, (unitsOf 64 64).all (fun u => (s.ms.errs.get none u).isNone),
   decide (((s.setReg 0 0x40080 4095).reg 0 0x40080).toNat % 4096 = 4095), (u.stack 0).sweep,
   (let p := { s with ms := { stks := [(0, { pulled := [(7, 3)], repay := [(7, true)] })] } }
    decide (0 < (p.stack 0).pulled.get 0 7 - 1) && (p.stack 0).repay.get false 7)]
theorem witness_stacks : wStacks.all id = true := by decide +kernel

/-! ### Matrix elements and the Reel: states that meet the premises -/

/-- A matrix word in FP16 with CNT 2 and target `qL` of column 0. -/
def mWord : MWord := { fmt := 3, pi := 0, scsw := 0, scsa := 0, dtgt := .none, cnt := 2, opx := 0 }
/-- Element 64 at the word `op`, with the rest of its state as given. -/
def mxState (sys : Bool) (op : MOp) (w : MWord) (x : MxElem) : State :=
  let p : Plane := { valid := true, sys := sys, mxs := [(0, { words := FMap.put 0 [] 0 (encodeMatrix op w) })] }
  let s := ((State.reset.setStripe 0 { rg := some 0, planes := [(0, p)], av := true }).setRegion 0 { count := 1, live := true }).setMx 64 { x with av := true, tcnt := 1 }
  { s with act := { el := 64 } }
/-- Four data tokens. -/
def four : List Token := [dataTok 1 0, dataTok 2 0, dataTok 3 0, dataTok 4 0]
def wMatrix : List Bool :=
  let a := mxState false .mwld mWord { opq := four, vec := 0 }
  let b := mxState false .mwld mWord { opq := four, vec := 63 }
  let c := mxState false .mma mWord { opq := four }
  let d := mxState false .mdrain mWord { vec := 1 }
  let e := mxState false .mdrain mWord { vec := 1, drained := 15 }
  let r := a.mxRec 64
  [a.mxRuns 64, decide ((a.mx 64).opq = four ∧ (a.mx 64).vec < 63), b.mxRuns 64, decide ((b.mx 64).vec = 63 ∧ mWord.scsw ≠ 1),
   c.mxRuns 64, !(c.mxPlane 64).sys, decide ((c.mx 64).opq.length = 4), decide ((c.mx 64).step = 0 ∧ !(c.mx 64).saV),
   d.mxRuns 64, decide ((d.mx 64).vec ≠ 0 ∧ (d.mx 64).ready ≤ d.cyc ∧ (d.mx 64).drained ≠ 15), mxRoom d 64 (d.mxDest 64 mWord),
   e.mxRuns 64, decide ((e.mx 64).drained = 15), decide (({} : MxElem).wpos = 0), decide (r.words.get 0 1 = 0),
   decide (({ r with words := FMap.put 0 r.words 1 5 } : MxPlane).words.get 0 1 ≠ 0)]
theorem witness_matrix_words : wMatrix.all id = true := by decide +kernel

/-- A run of one stripe with four tokens offered. -/
def wSystolic : List Bool :=
  let s := mxState true .mma mWord { opq := four }
  let r := s.region 0
  let first := runFirst s r 128 0
  let rows := runLen s r 128 first
  let e00 := runEl r first 0 0
  [decide ((s.mx e00).ready ≤ s.cyc), (List.range rows).all (fun i => s.inRun (runEl r first i 0) (s.mx e00).wpos.toNat),
   (List.range 16).all (fun j => !(s.inRun (runEl r first 0 j) (s.mx e00).wpos.toNat) || (s.runWord (runEl r first 0 j)).isSome),
   decide (s.runWord e00 = some (.mma, mWord)), decide (mWord.cnt ≠ 0), decide (rows ≠ 0), r.fires s.cyc, decide (rows = 1),
   (runOffers s r first rows 0 2).all (fun o => match o.2 with | .ok .. => true | _ => false), decide ((runOffers s r first rows 0 2).length = 1),
   (List.range 16).all (fun j => (s.mx (runEl r first 0 j)).outs.isEmpty), decide ((s.mx e00).beat + 1 ≠ 2 + rows + 16)]
theorem witness_systolic_beat : wSystolic.all id = true := by decide +kernel

/-- Program 0 of stack 0 with one word, or with a `bred` behind it: two rows of one block. -/
def baseState (two : Bool) (x : Mult) (opq : List Token) : State :=
  let ws := FMap.put 0 [] 0 (encodeMatrix .bgmv mWord)
  let r : MxPlane := { words := if two then FMap.put 0 ws 1 (encodeMatrix .bred mWord) else ws }
  let s := ((State.reset.setReg 0 0x50000 3).setReg 0 0x50018 2).setStripe (multStripe 0) { planes := [(0, { valid := true, mxs := [(0, r)] })] }
  (s.setMx (128 * multStripe 0 + 64) { opq := opq, av := true }).setMult 0 { x with img := 1 }
def wBase : List Bool :=
  let buf := List.replicate 32 (1, false)
  let a := baseState false {} four
  let b (two : Bool) : State := { baseState two { buf := buf } [] with cyc := 96 }
  let c := baseState true { buf := buf, wpos := 1, blk := 1, parts := [(5, false)] } []
  let d (s : State) := s.bmd 0 (mWord.opx.toNat % 64)
  let at_ (s : State) : Nat := stackPA 0 ((d s).1 + 128 * ((s.mult 0).row * (d s).2.1 + (s.mult 0).blk))
  let acc : Access := { rs := some 0, base := some (0, 0), phase := .home }
  let p := 16 * (baseRing + 64 * 0 + 0)
  let l := ((slotState 1 2 3).setAcc 7 acc).setPort p { fifo := [dataTok 5 0] }
  [a.multRuns 0, decide ((a.mult 0).buf.length < 32 * (d a).2.1), decide ((a.mx (128 * multStripe 0 + 64)).opq = four),
   (b false).multRuns 0, (b true).multRuns 0, decide (32 * (d (b true)).2.1 ≤ ((b true).mult 0).buf.length), decide ((d (b true)).1 + 128 ≤ 2 ^ 36),
   !(b true).inArea (at_ (b true)) 128, decide (((b true).mult 0).full + 96 ≤ (b true).cyc), (let u := b true
    let pa := u.backing (at_ u) false
    decide (u.migState pa ≠ 1) && !u.poisoned (u.movedTo pa) && !(u.readBytes (u.movedTo pa) 128).2.2),
   decide (((b true).multRec 0).words.get 0 1 ≠ 0), decide (((b false).multRec 0).words.get 0 1 = 0), mxRoom (b false) (128 * multStripe 0 + 64) ((b false).destOf (128 * multStripe 0 + 64) mWord.dtgt),
   c.multRuns 0, decide ((mwordOf ((c.multRec 0).words.get 0 0)) = some (.bgmv, mWord)), decide ((c.mult 0).wpos = 1),
   decide (l.fl.accs = [(7, acc)]), decide ((l.port p).fifo = [dataTok 5 0]), decide (acc.minAt ≤ l.cyc)]
theorem witness_base_slices : wBase.all id = true := by decide +kernel

/-- Region 0 with a running section of eight words; `f` changes the section, `g` the region. -/
def reelState (f : Reel → Reel) (g : Region → Region) : State :=
  let p : Plane := { valid := true, lcs := [(0, lcWord)] }
  let s := (State.reset.setStripe 0 { rg := some 0, planes := [(0, p), (2, p)], av := true }).setFig 0 { nimg := 2, nreg := 1 }
  s.setRegion 0 (g { count := 1, live := true, allot := [{ base := 0, len := 4096 }], saveAllot := [{ base := 0, len := 32768 }], reel := f { live := true, count := 8 } })
def wSequence : List Bool :=
  let s := reelState id id
  let f := reelState (fun x => { x with cstk := [3] }) id
  let l := reelState (fun x => { x with lstk := [(1, 4)] }) id
  let n := reelState (fun x => x.setS 0 5) id
  let full := reelState (fun x => { x with lstk := List.replicate 4 (1, 4), cstk := List.replicate 8 3 }) id
  let past := (reelState (fun x => { x with rpc := 8 }) id).moves (.reel 0)
  let u := past.choose.2.tick past.choose.1.dt
  [s.reelRuns, decide ((s.region 0).reel.cstk.length < 8), decide ((3 : BitVec 16).toNat < (s.region 0).reel.count),
   f.reelRuns, decide ((f.region 0).reel.cstk = [3]), decide (field ((s.region 0).reel.val (.imm (0 : BitVec 32))) 0 32 = (0 : W32)),
   n.reelRuns, decide (field ((n.region 0).reel.val (.reg 0 : RegOr 32)) 0 32 ≠ (0 : W32)), decide ((n.region 0).reel.lstk.length < 4),
   l.reelRuns, decide ((l.region 0).reel.lstk = [(1, 4)]), decide ((s.region 0).reel.count ≤ (9 : BitVec 16).toNat),
   decide ((s.region s.act.rg).reel.count = 8),
   full.reelRuns, decide (4 ≤ (full.region 0).reel.lstk.length), decide (8 ≤ (full.region 0).reel.cstk.length),
   decide ((s.region 0).reel.lstk = []), decide ((s.region 0).reel.cstk = []),
   past.choose.1.who = .agent (.reel 0), decide ((u.region 0).reel.count ≤ (u.region 0).reel.rpc.toNat), ({ u with act := { rg := 0 } } : State).reelRuns]
theorem witness_reel_sequencing : wSequence.all id = true := by decide +kernel

def wPlanes : List Bool :=
  let s := reelState (fun x => { x with pnx := 2 }) id
  let r := s.region 0
  [s.reelRuns, r.scroll.isNone, decide ((r.reel.val (.imm (1 : BitVec 16))).toNat % 2 ^ 16 < (s.fig (figOf 0)).nimg), decide ((r.reel.val (.imm (0 : BitVec 7))).toNat % 128 < r.count),
   decide (((s.fillsOf 0).filter fun f => f.fq).length < 8), r.placing.isNone, !r.busy, !s.filling 0 (r.stripeAt 0) r.reel.pnx, !s.holdsToken (r.stripeAt 0),
   ((s.stripe (r.stripeAt 0)).planes.get {} r.reel.pnx.toNat).valid]
theorem witness_reel_planes : wPlanes.all id = true := by decide +kernel

def wArms : List Bool :=
  let s := reelState id id
  let r := s.region 0
  let b := reelState (fun x => { x with barred := true }) id
  let c := reelState (fun x => { x with barred := true, phase := 5 }) id
  let d := reelState id fun r => { r with lcs := [(1, { starts := 3 })] }
  let p := reelState (fun x => { x with plc := true }) id
  let q := reelState id fun r => { r with copies := 2 }
  [s.reelRuns, r.scroll.isNone, r.placing.isNone, decide (r.copies ≤ 1), !r.reel.plc, (s.lcValid r 3).isNone,
   p.reelRuns, (p.region 0).scroll.isNone, (p.region 0).placing.isNone, decide ((p.region 0).copies ≤ 1), (p.region 0).reel.plc,
   q.reelRuns, (q.region 0).scroll.isNone, (q.region 0).placing.isNone, decide ((q.region 0).dlc = 0), (q.region 0).armAt.isNone, decide (1 < (q.region 0).copies), (s.lcValid r 0).isSome, decide ((r.lcs.get {} 0).sv = 0), s.runsOk r,
   !r.reel.barred, b.reelRuns, (b.region 0).reel.barred, decide ((b.region 0).reel.phase = 0), b.drainedFor 0 bar,
   c.reelRuns, decide ((c.region 0).reel.phase ≠ 0), !c.bankOpen 0 4, c.fl.emits.isEmpty,
   d.reelRuns, decide (((d.region 0).lcs.get {} 1).sv = 0), decide (0 < ((d.region 0).lcs.get {} 1).starts), s.mxIdle r, !r.busy]
theorem witness_reel_arms : wArms.all id = true := by decide +kernel

def wReelMem : List Bool :=
  let s := reelState id id
  let r := s.region 0
  let ag (s : State) : Bool := s.reelRuns && s.pvEn 0
  let n := pvState s
  let t := pvState (reelState (fun x => { x with thr := some 0 }) id)
  let m := reelState (fun x => { x with phase := 5 }) id
  [s.reelRuns, decide (r.reel.addr 16 none % 8 = 0), r.allots r.ring (r.reel.addr 16 none) 8,
   r.scroll.isNone, r.placing.isNone, r.slotOk ((r.reel.val (.imm (0x40 : BitVec 26))).toNat % 2 ^ 26), !s.replaying 0, !r.busy, !s.stripePending 0, !s.taintedStripe 0, !s.holdsToken 0,
   !s.pvEn 0, ag n, (n.region 0).reel.thr.isNone, ag t, decide ((t.region 0).reel.thr = some 0), ivLe 0 (t.sealed 0), decide (r.reel.phase = 0), m.reelRuns, (m.wait 4).isNone]
theorem witness_reel_memory : wReelMem.all id = true := by decide +kernel

/-- The header of a scale at a matrix element, and `mpass`; the stops and waits of the Reel's words. -/
def wMore : List Bool :=
  let hd := ctlTok 0x30000000
  let h := mxState false .mma mWord { opq := [hd] }
  let scrolled := reelState id fun r => { r with scroll := some { v := 4, d := 4, img := 0, lc := 0, tc := 0 } }
  let s := reelState (fun x => { x with pnx := 2 }) id
  let fills := s.setRing 0 { fills := List.replicate 8 { ord := 0, rg := 0, st := 0, p := 3, img := 0, fq := true } }
  let held := s.setElem 0 { s.elem 0 with q := [(0, [dataTok 1 0])] }
  let busy := reelState id fun r => { r with lcs := [(0, { live := true, sv := 1, starts := 1 })] }
  let lone := { reelState id (fun r => { r with lcs := [(1, { starts := 3 })] }) with cyc := 2 }
  let plane (fmt : BitVec 4) : Plane := { valid := true, sys := true, mxs := [(0, { words := FMap.put 0 [] 0 (encodeMatrix .mma { mWord with fmt := fmt }) })] }
  let bad := ((reelState id id).setStripe 0 { rg := some 0, av := true, planes := [(0, plane 3)] }).setMx 64 { av := true }
  [h.mxRuns 64, hd.k && !hd.et, decide (hd.sub = 3), decide ((h.mx 64).ready ≤ h.cyc), (let y := mxState false .mpass mWord { opq := four }
    mxRoom y 64 (y.mxDest 64 mWord)),
   scrolled.reelRuns, (scrolled.region 0).scroll.isSome,
   fills.reelRuns, decide (8 ≤ ((fills.fillsOf 0).filter fun f => f.fq).length),
   held.reelRuns, held.holdsToken 0, busy.reelRuns, (busy.region 0).busy, busy.stripeBusy (busy.region 0) 0,
   !((s.stripe 0).planes.get {} 1).valid, decide ((busy.region 0).count ≤ 1 ∧ (s.fig 0).nimg ≤ 2),
   lone.reelRuns, decide ((FMap.get ({} : LoopCtx) (lone.region 0).lcs 1).sv = 0 ∧ 0 < (FMap.get ({} : LoopCtx) (lone.region 0).lcs 1).starts ∧ (FMap.get ({} : LoopCtx) (lone.region 0).lcs 1).issued < lone.cyc),
   decide ((FMap.get ({} : LoopCtx) (busy.region 0).lcs 0).sv ≠ 0), bad.reelRuns, !bad.runsOk (bad.region 0),
   decide ((s.region 0).reel.addr 4 none % 8 ≠ 0), !(s.region 0).slotOk 1, (pvState s).enBit 0, s.reelRuns && !s.enBit 0]
theorem witness_matrix_and_reel_stops : wMore.all id = true := by decide +kernel

/-! ### Requests, launches and walks: states that meet the premises -/

/-- Page tables of package 0: the first gigabyte of address space 0 is the ring banks. -/
def xTables (s : State) : State :=
  ((((s.setReg 0 0x10010 0x10001).poke 0x10000 (leBytes 8 0x20001)).poke 0x20000 (leBytes 8 0x30001)).poke 0x30000 (leBytes 8 0x40001)).poke 0x40000 (leBytes 8 (3 * 2 ^ 53 + 0xF))
/-- Request 5 as given is the one that the step runs. -/
def reqState (r : Req) : State := { (xTables State.reset).setReq 5 r with act := { el := 5 }, cyc := 1 }
def xHead : XHead := { tag := 0, sc := false, cq := false, cring := 0, sctr := 0 }
/-- A copy of four bytes from 0x100 to 0x200. -/
def copyA : CopyArgs := { src := 0x100, dst := 0x200, len := 4 }

/-- A move is made; it is made whatever the two free values are. -/
def moveOk (s : State) (r : Req) (m : Move) : Bool := match s.doMove 5 r m with | (.ok _, _) => true | _ => false
def moveOkWith (before stay : Bool) (s : State) (r : Req) (m : Move) : Bool := match s.moveWith before stay 5 r m with | (.ok _, _) => true | _ => false
theorem moveOk_of_with {s : State} {r : Req} {m : Move} (h : ∀ b c, moveOkWith b c s r m = true) : moveOk s r m = true := h _ _
theorem moveOk_spec {s : State} {r : Req} {m : Move} (h : moveOk s r m = true) : ∃ t q, s.doMove 5 r m = (.ok t, q) := by
  unfold moveOk at h
  split at h
  · exact ⟨_, _, by assumption⟩
  · simp at h

/-- A copy of one part performs it and is over. -/
theorem witness_request_parts :
    let s := reqState {}
    ∃ n f t r1, requestParts s (.transferCopy xHead copyA) = some (n, f) ∧ s.req s.act.el = some {} ∧ (s.pav (tpPk 0)).window = false ∧ ({} : Req).barred = false
      ∧ runMoves s.act.el f (n - 0) 0 (s, {}) s {} = (.ok t, r1) ∧ requestEnd s t r1 (.transferCopy xHead copyA) = (.ok t, r1) := by
  intro s
  have h : moveOk s {} (copyMove copyA.src copyA.dst copyA.len.toNat false 0) = true := moveOk_of_with (by decide +kernel)
  obtain ⟨t, q, hm⟩ := moveOk_spec h
  refine ⟨1, _, t, { q with done := 1 }, rfl, by decide +kernel, by decide +kernel, rfl, ?_, rfl⟩
  have ha : s.act.el = 5 := rfl
  simp only [runMoves, ha, hm]
/-- Requests with a flag: its page holds flags at 0x80000 of the ring banks. -/
def wFlags : List Bool :=
  let s := (reqState {}).setReg 0 0x15008 (BitVec.ofNat 64 (3 * 2 ^ 53 + 0x80000 + 1))
  let ok (i : Instr) : Bool := match requestParts s i with
    | some (n, f) => match runMoves s.act.el f n 0 (s, {}) s {} with
      | (.ok t, r1) => (match requestEnd s t r1 i with | (.ok _, _) => true | _ => false)
      | _ => false
    | none => false
  let stops (i : Instr) : Bool := match requestParts s i with
    | some (n, f) => match runMoves s.act.el f n 0 (s, {}) s {} with
      | (.fault .., _) => true
      | (.ok t, r1) => (match requestEnd s t r1 i with | (.fault .., _) => true | _ => false)
      | _ => false
    | none => false
  [-- a source, and the destination whose package's flag it is, that nothing maps
   stops (.transferCopy xHead { copyA with src := 2 ^ 40 }), stops (.remoteCopy xHead { copyA with len := 0, dst := 2 ^ 40 } 3),
   ok (.setRemoteFlag xHead 3 0 1 0), ok (.remoteCopy xHead { copyA with len := 0 } 3), ok (.shadowCopy xHead { copyA with len := 0 }),
   ok (.gather xHead { (default : RowArgs) with nix := 0 }), ok (.scatter xHead { (default : RowArgs) with nix := 0 }), ok (.fill xHead 0x200 0 5)]
theorem witness_request_ends : wFlags.all id = true := by decide +kernel

/-- A layout record of one dimension with a box of one element, ten elements of four bytes at 0x100; `w` is its second word. -/
def layRec (w : Nat) : List Byte := leBytes 8 0x100 ++ leBytes 8 w ++ leBytes 8 10 ++ zeros 40 ++ leBytes 8 4 ++ zeros 40 ++ leBytes 4 1 ++ zeros 20 ++ leBytes 4 1 ++ zeros 20 ++ leBytes 4 7 ++ zeros 28
def tenA (o : BitVec 96) : TensorArgs := { lr := 0, lsp := false, loc := 0x40, o := o }
theorem witness_tensors :
    let r : Req := { lr := layRec 0x11 }
    let c : Req := { lr := layRec 0x411 }
    let s := reqState r
    let loc : End := .pa (localPA 0 false 0x40)
    s.req s.act.el = some r ∧ lrTotal r.lr = 1 ∧ lrAt r.lr (tenA 2).o 0 = (some 0x108, 0) ∧ (∃ t q, s.doMove 5 r { src := .va 0x108, dst := loc, n := 4 } = (.ok t, q))
      ∧ (∃ t q, s.doMove 5 r { src := loc, dst := .va 0x108, n := 4 } = (.ok t, q)) ∧ (lrAt r.lr (tenA 20).o 0).1 = none ∧ lrClip r.lr ≠ 1
      ∧ (reqState c).req 5 = some c ∧ lrTotal c.lr = 1 ∧ (lrAt c.lr (tenA 20).o 0).1 = none ∧ lrClip c.lr = 1
      ∧ (∃ t q, (reqState c).doMove 5 { c with clipped := true } { src := .const (leBytes 4 7), dst := loc, n := 4 } = (.ok t, q)) := by
  refine ⟨by decide +kernel, by decide +kernel, by decide +kernel, moveOk_spec (moveOk_of_with (by decide +kernel)), moveOk_spec (moveOk_of_with (by decide +kernel)),
    by decide +kernel, by decide +kernel, by decide +kernel, by decide +kernel, by decide +kernel, by decide +kernel, moveOk_spec (moveOk_of_with (by decide +kernel))⟩
def wReduce : List Bool :=
  let s := reqState {}
  [match s.readEnd 0 0 5 (.va 0x100) 4 with | .ok (some _) => true | _ => false,
   match s.endPA 0 0 (.va 0x200) true with | .ok (pa, _) => decide (paSpace pa ≠ 1) | _ => false,
   match s.writeEnd 5 {} (.va 0x200) (wordBytes 5) false true with | (.ok _, _) => true | _ => false]
theorem witness_reductions : wReduce.all id = true := by decide +kernel

theorem witness_small_copies :
    let s := reqState {}
    ∃ x y : Xlat, s.SramAt 0 5 0 0x100 4 false (3 * 2 ^ 53 + 0x100) x ∧ s.SramAt 0 5 0 0x200 4 true (3 * 2 ^ 53 + 0x200) y := by
  intro s
  let x : Xlat := { log2 := 30, pa := 3 * 2 ^ 53, rd := true, wr := true }
  exact ⟨x, x, ⟨by decide +kernel, (by have h : (match s.xlate 0 0 0x100 false with | .ok p => decide (p = (3 * 2 ^ 53 + 0x100, x)) | .error _ => false) = true := by decide +kernel
                                       revert h; split <;> simp_all), by decide +kernel, by decide +kernel, rfl, by decide +kernel, by decide +kernel, by decide +kernel⟩,
    ⟨by decide +kernel, (by have h : (match s.xlate 0 0 0x200 true with | .ok p => decide (p = (3 * 2 ^ 53 + 0x200, x)) | .error _ => false) = true := by decide +kernel
                            revert h; split <;> simp_all), by decide +kernel, by decide +kernel, rfl, by decide +kernel, by decide +kernel, by decide +kernel⟩⟩

def wStart : List Bool :=
  let p : Packet := { bits := (encodeRequest (.transferCopy xHead copyA)).getD 0 }
  let s := xTables { State.reset with eng := { queues := [(0, [p])] } }
  let isOver : Req := { isOver := true }
  let u := reqState isOver
  let q : Packet := { p with bits := (encodeRequest (.transferCopy { xHead with cq := true, cring := 1 } copyA)).getD 0 }
  let cq : Req := { pkt := q, isOver := true }
  let v := ((reqState cq).setReg 0 0x15010 (BitVec.ofNat 64 (3 * 2 ^ 53 + 0x100001))).poke (3 * 2 ^ 53 + 0x100010) (leBytes 8 (3 * 2 ^ 53 + 0x200001 + 8))
  let e := v.ringEntry 0 1
  let sc : Req := { pkt := { p with bits := (encodeRequest (.transferCopy { xHead with sc := true, sctr := 2 } copyA)).getD 0 }, isOver := true, sects := [5] }
  let w := reqState sc
  let ok (x : Part) (f : State → Bool) : Bool := match x with | .ok t => f t | _ => false
  let bad (b : BitVec 256) : Packet := { p with bits := b }
  [decide (cq.overAt < v.cyc), (match decodeRequest 0x01000000 with | .error _ => true | _ => false), !s.ringOk 0 1, q.bits.getLsbD 27,
   (match decodeRequest q.bits with | .ok _ => true | _ => false),
   (let i : Instr := .gather { xHead with sc := true, sctr := 2 } { (default : RowArgs) with log2rsz := 21 }
    let b := (encodeRequest i).getD 0
    match decodeRequest b with | .ok i => (match s.reqCheck 0 (bad b) i with | .error (.breach ..) => true | _ => false) | _ => false),
   decide (s.eng.queues.get [] 0 = [p]), decide (s.portLoad 0 < 64), (match decodeRequest p.bits with | .ok i => decide (i = .transferCopy xHead copyA) && (match s.reqCheck 0 p i with | .ok _ => true | _ => false) | _ => false),
   !p.bits.getLsbD 27, decide (u.req 5 = some isOver), !u.windowHolds 0 isOver.tag, u.landed 0 5, !isOver.barred, !isOver.pkt.bits.getLsbD 27,
   decide (v.req 5 = some cq), cq.pkt.bits.getLsbD 27, v.ringOk 0 1, !v.windowHolds 0 cq.tag, v.landed 0 5, decide (cq.held = none), decide ((v.look64 e).toNat = 3 * 2 ^ 53 + 0x200009), decide ((v.look32 (e + 8)).toNat = 0),
   ok (v.xpoke 0 (3 * 2 ^ 53 + 0x200000) (zeros 24) none false false none 5 0) fun t => ok (t.xpoke 0 (3 * 2 ^ 53 + 0x200018) (leBytes 8 1) none false false none 5 0) fun u => ok (u.xpoke 0 (e + 8) (leBytes 4 1) none false false none 5 0) fun _ => true,
   decide (w.req 5 = some sc), sc.pkt.bits.getLsbD 26, decide (sc.counted < sc.sects.length), !w.windowHolds 0 sc.tag, w.landed 0 5]
theorem witness_requests : wStart.all id = true := by decide +kernel

def wLaunch : List Bool :=
  let s := ((State.reset.setReg 0 0x18 0x10).setReg 0 0x13000 1).setReg 0 0x14000 (1 + 2 * 5 + 3 * 8192)
  let data := zeros 8 ++ leBytes 2 5 ++ zeros 54
  let b : BitVec 512 := (5 : BitVec 512) <<< 64
  let t := s.setChan 0 0 [{ bits := b }]
  let u := s.setChan 0 0 [{ bits := b, taken := true }]
  [s.barsOn 0, decide ((s.members.get {} 0).step = 0), (s.reg 0 0x13000).getLsbD 0, (s.reg 0 0x14000).getLsbD 0,
   decide (bnum data 8 2 % 4096 = (s.reg 0 0x14000).toNat / 2 % 4096), decide ((s.chan 0 0).length < 16),
   decide (firstLm (t.lms 0 fun m => !m.taken) = some (0, 0, 0)), lmOk (((t.chan 0 0).getD 0 {}).bits),
   decide (firstLm (u.lms 0 fun m => m.taken) = some (0, 0, 0)), decide ((u.work.walks.filter fun w => decide (w.2.pk = 0)).length < 1024)]
theorem witness_launches : wLaunch.all id = true := by decide +kernel

/-- Walk 5 as given is the one whose node the step processes. -/
def walkState (w : Walk) : State := { (xTables State.reset).setWalk 5 w with act := { el := 5 } }
def wNodes : List Bool :=
  let s := walkState {}
  let has (w : Walk) : Bool := decide ((walkState w).walk 5 = some w ∧ ¬ w.isOver)
  let f : Frame := { next := 3 }
  let l : Frame := { next := 3, loop := some (2, 4, 0) }
  let done (r : Reach) (p : List Byte → Bool) : Bool := match r with | .done _ v => p v | _ => false
  let pv := pvState s
  [has {}, has { task := some 9 }, decide ((walkState { task := some 9 }).task 9 = none), done (s.graphRead 0 0 5 0x100 4) fun v => decide (v = zeros 4),
   decide (({} : Walk).frames.length < 8), (s.walkTasks 5 0).isEmpty, has { frames := [f] }, ((walkState { frames := [f] }).walkTasks 5 f.mark).isEmpty, has { frames := [l] },
   done (s.graphRead 0 0 5 0x100 8) fun v => decide ((BitVec.ofNat 64 (leNat v) - (0 : W64)).toNat < 2 ^ 63), has { short := true }, done (s.graphAdd 0 0 5 0x100 1) fun _ => true,
   has { frames := List.replicate 8 f }, !s.enBit 0, pv.enBit 0, decide (pv.walk 5 = some {}), has { thr := some 0 }, ivLe 0 (pv.sealed 0), has { msg := some 9 }, decide ((walkState { msg := some 9 }).wait 9 = none)]
theorem witness_nodes : wNodes.all id = true := by decide +kernel

/-! ### The scheduler, pre-emption and resumption: states that meet the premises -/

/-- A Figure object without images: one region of one stripe whose program is one `hlt`. -/
def objBytes : List Byte :=
  leBytes 4 0x4F464D4E ++ leBytes 4 1 ++ ([(64, 0), (64, 1), (96, 0), (96, 1), (128, 0), (128, 0), (128, 0)].map fun p => leBytes 4 p.1 ++ leBytes 4 p.2).flatten
  ++ leBytes 8 8193 ++ [1, 0] ++ zeros 22 ++ leBytes 8 ((encodeReel (.hlt (.imm 0))).getD 0).toNat ++ zeros 24
/-- The object at virtual address 0x1000, and walk 5 with the tasks given. -/
def taskState (ts : FMap Task) : State :=
  let s := (xTables State.reset).poke (3 * 2 ^ 53 + 0x1000) objBytes
  { s.setWalk 5 {} with work := { (s.setWalk 5 {}).work with tasks := ts } }
def kernelT : Task := { walk := 5, obj := 0x1000 }
def copyT : Task := { walk := 5, kernel := false }
def wSched : List Bool :=
  let k := (taskState [(7, kernelT)]).ageTasks 0
  let c := (taskState [(7, copyT)]).ageTasks 0
  let placed (u : State) (o : Obj) : Bool := (u.tryPlace 0 7 (fun _ => false) (List.replicate (u.instancesOf 0 0 0x1000) (o.asks.map some))).isSome
  let done (x : Except State State) : Bool := match x with | .ok _ => true | .error _ => false
  let held := k.setSched 0 { k.sched 0 with victim := some 7 }
  let rc := { copyT with phase := .running }
  let rk := { kernelT with phase := .running, fg := some 3 }
  let u := taskState [(7, rc)]
  let v := (taskState [(7, rk)]).setFig 3 { retired := true, task := 7, lead := 3 }
  [decide ((taskState [(7, kernelT)]).work.tasks = [(7, kernelT)]), decide (k.readyTasks 0 = [(7, kernelT)]), (k.reservedReady 0).isNone, decide (held.reservedReady 0 = some (7, kernelT)), decide ((k.members.get {} 0).step = 0), (k.walk 5).isSome,
   (match k.loadObj 0 0 0x1000 with | .obj u o => placed u o | _ => false),
   decide (c.readyTasks 0 = [(7, copyT)]), (c.reservedReady 0).isNone, decide ((c.eng.queues.get [] 0).length < 16), (c.walk 5).isSome,
   decide (u.task 7 = some rc), u.eng.queues.isEmpty, u.eng.reqs.isEmpty, done (u.countDone 7 rc),
   decide (v.task 7 = some rk), decide ((v.fig 3).phase = .placed), v.groupRetired 3, (v.group 3).all (fun g => !v.figBusy g), done (v.countDone 7 rk)]
theorem witness_tasks : wSched.all id = true := by decide +kernel

/-- Package 0 has 128 resident Figures, one of them of lower priority than the task; a save pool stands ready. -/
def crowded : State :=
  let s := (taskState [(7, { kernelT with prio := 3 })]).setReg 0 0x15000 (0x40000000 + 2 * 25 + 1)
  { s with figs := (List.range 128).map fun i => (i, { task := 100 + i, lead := i, prio := if i = 3 then 2 else 5, nreg := 1 }) }
def haltState : State :=
  let s := (State.reset.setFig 3 { phase := .halting, lead := 3, task := 6, nreg := 1 }).setRegion 192 { count := 1, live := true, stop := some 0, reel := { live := true } }
  { s.setStripe 0 { rg := some 192 } with cyc := 5, act := { rg := 192 } }
def savedState : State :=
  let s := State.reset.setFig 3 { phase := .halted, lead := 3, nreg := 1, save := some (0x100000, 0x40000) }
  (s.setRegion 192 { count := 1, live := true, halted := true }).setStripe 0 { rg := some 192 }
def resumeState : State :=
  let s := (taskState [(7, { kernelT with fg := some 3 })]).setFig 3 { phase := .saved, lead := 3, task := 7, nreg := 0, obj := 0x1000, save := some (0x100000, 0x1000) }
  s.poke 0x100000 (leBytes 4 0x53564B46 ++ leBytes 4 1 ++ leBytes 8 0x1000)
def wPreempt : List Bool :=
  let y := reelState id id
  let c := crowded
  let h := haltState
  let sv := savedState
  let st := (State.reset.setFig 3 { phase := .saved }).setStripe 0 { rg := some 192 }
  let r := resumeState
  [c.preemptOk 0, (match c.headKernel 0 with
    | some (tk, t) => decide (tk = 7) && (match c.wants t with
      | some (u, as) => decide (u.candidates 0 t.prio = [3]) && decide ((List.range 2).find? (fun k => (u.placeWithout 0 7 as ([3].take k)).isSome) = some 1) && (u.commit 0 7 as [3]).isSome
      | none => false)
    | none => false),
   y.reelRuns, decide (y.reelNext.headKernel (y.reelNext.fig (y.reelNext.fig 0).lead).pk = none),
   decide ((h.fig 3).phase = .halting), (h.region 192).live, decide (¬ (h.region 192).halted), (h.region 192).exitWord.isNone, h.regionQuiet 192 (h.region 192),
   decide ((sv.fig 3).phase = .halted), decide ((sv.recOffsets 3).find? (fun p => !(sv.region (192 + p.1)).saved) = some (0, 4096)), !sv.regionOpen 192 (sv.region 192), (sv.taintedAt 0).isNone,
   decide ((st.stripe 0).rg = some 192), decide ((st.fig 3).phase = .saved), st.fl.accs.isEmpty,
   decide ((r.fig 3).phase = .saved), decide ((r.nextKernel 0).map Prod.fst = some 7), decide ((r.fig 3).rank ≠ 1), decide ((r.members.get {} 0).step = 0),
   (r.group 3).all (fun g => (r.regionsOf g).isEmpty && (r.badLine g).isNone && r.recordOk g), r.det.isEmpty, (r.tryPlace 0 7 (fun _ => false) ((r.group 3).map fun g => r.savedAsks g)).isSome]
theorem witness_preemption : wPreempt.all id = true := by decide +kernel

/-! ### The host, intervals and rollback: states that meet the premises -/

/-- What `State.Accepts` asks, as one Bool. -/
def acc (s : State) (off : Nat) (v : W64) (k : RKind) (i : Nat) : Bool :=
  s.windowOn 0 && decide (regAt off = some (k, i)) && decide (v &&& k.rsv = 0) && !k.bad (s.reg 0 off) v && s.writeAllowed 0 k i off v
theorem accepts_of_acc {s : State} {off : Nat} {v : W64} {k : RKind} {i : Nat} (h : acc s off v k i = true) : s.Accepts 0 off v k i := by
  simp only [acc, Bool.and_eq_true, Bool.not_eq_true', decide_eq_true_eq] at h
  obtain ⟨⟨⟨⟨h1, h2⟩, h3⟩, h4⟩, h5⟩ := h
  exact ⟨h1, h2, h3, h4, h5⟩
def wWindow : List Bool :=
  let s := upState
  let off := { s with out := { barsOff := [(0, true)] } }
  let k := { s.setReg 0 0x16008 0x1000 with figs := [(3, { ended := true, kept := true })] }
  let c := s.setReg 0 0x16008 0x1000
  [acc k 0x16008 8 .fltctl 0, (k.reg 0 0x16008).getLsbD 12, !(8 : W64).getLsbD 12, (k.fig 3).kept && (k.fig 3).ended, acc c 0x16008 0x1008 .fltctl 0,
   acc s 0x28 0x1000 .hmbase 0, RKind.simple .hmbase, s.windowOn 0, decide (regAt 0x28 = some (.hmbase, 0)), decide ((1 : W64) &&& RKind.rsv .hmbase ≠ 0), (regAt 0xF00).isNone, decide (0xF00 % 8 = 0), !off.windowOn 0,
   acc (s.setReg 0 0x48 1) 0x48 0 .sucfg 0, ((s.setReg 0 0x48 1).reg 0 0x48).getLsbD 0, decide ((0x5001 : W64) &&& (bitsTo 2 11 ||| bitsTo 40 63) = 0), (s.poisonBit (0 * 2 ^ 40 + 4096 * 5)).isNone,
   acc s 0x16008 8 .fltctl 0, s.figs.all (fun f => !f.2.kept), acc s 0x16620 1 .sprnow 0, s.ms.pend.isEmpty, decide (s.ms.due.get [] 0 = []), !(s.reg 0 0x16620).getLsbD 1]
theorem witness_window : wWindow.all id = true := by decide +kernel

def wHost : List Bool :=
  let s := upState
  let pa := s.aperture 0 0x100
  let far := (s.setReg 0 0x20 (BitVec.ofNat 64 (2 ^ 53)))
  [s.barsOn 0, (s.apertureFault 0 pa 8).isNone, s.ms.errs.isEmpty, decide (s.migState (s.backing pa false) = 0), decide ((s.members.get {} 0).step = 0), !State.reset.barsOn 0,
   far.barsOn 0, (far.apertureFault 0 (far.aperture 0 0) 8).isSome]
theorem witness_host_accesses : wHost.all id = true := by decide +kernel

def wLinks : List Bool :=
  let s := upState.setReg 0 (lnkst 3) 1
  let r := { s with out := { replays := [(3, 2)] } }
  let l := upState.setReg 0 (lnkst 3) 5
  let c := (upState.setReg 0 0x48 1)
  let a : Access := { rs := some 0, pa := 5 * 2 ^ 40, since := some 0 }
  let u := { accState a with cyc := 1800000 }
  let h : Access := { rs := some 0, pa := hostPA 0 64, phase := .home }
  let q : Req := { pkt := { bits := (encodeRequest (.setRemoteFlag xHead 3 7 1 0)).getD 0 }, since := some 0 }
  let st : State := { reqState q with cyc := 1800000 }
  [!s.out.hostDown.get false 0, s.portUp 0 3, r.portUp 0 3, decide (r.out.replays.get 0 3 ≠ 0), decide ((r.lnk 0 3).toNat / 2 ^ 32 ≠ 0xFFFFFFFF),
   (l.lnk 0 3).getLsbD 0, (l.lnk 0 3).getLsbD 2, !(l.lnk 0 3).getLsbD 3, !(l.lnk 0 3).getLsbD 7, (s.crossing 0 3).isEmpty, !s.crossingDeltas 0 3,
   acc c 0x16638 0x10100 .lnkcfg 0, (0x10100 : W64).getLsbD 16, !c.portUp 0 0, (c.reg 0 0x48).getLsbD 0,
   decide (u.acc 7 = some a), !u.linked 0 5, !u.sameDomain 0 5, decide ((accState h).acc 7 = some h), decide (paSpace h.pa = 1), h.kind.reads,
   (st.acc 5).isNone, decide (st.req 5 = some q), decide (st.reqCut q = some 7), !st.sameDomain 0 7]
theorem witness_links : wLinks.all id = true := by decide +kernel

/-- The members that a one-byte map at 0x80000 lists. -/
theorem rdMember_small {s : State} {pk : Nat} {b : Byte} (hr : s.reg pk 0x11008 = 0x80000) (hm : s.mem = [(0x80000, b)]) (q : Nat) :
    s.rdMember pk q = (decide (q < 8) && b.getLsbD q) := by
  unfold State.rdMember State.peek
  rw [hr, hm]
  by_cases h : q < 8
  · have h0 : q / 8 = 0 := by omega
    have h1 : q % 8 = q := by omega
    simp [FMap.get, h0, h1, h]
  · have h0 : q / 8 ≠ 0 := by omega
    simp [FMap.get, h, h0]
theorem small_range {p : Nat → Bool} (h : ∀ q, 8 ≤ q → p q = false) : (List.range 8192).filter p = (List.range 8).filter p := by
  rw [show (8192 : Nat) = 8 + 8184 from rfl, List.range_add, List.filter_append]
  have : ((List.range 8184).map fun x => 8 + x).filter p = [] := by
    rw [List.filter_eq_nil_iff]
    intro a ha
    obtain ⟨x, -, rfl⟩ := List.mem_map.1 ha
    simp [h (8 + x) (by omega)]
  rw [this, List.append_nil]
theorem domain_small {s : State} {pk : Nat} {b : Byte} (hr : s.reg pk 0x11008 = 0x80000) (hm : s.mem = [(0x80000, b)])
    (hl : ∀ q, (s.members.get {} q).lost = false) : s.domain pk = (List.range 8).filter fun q => b.getLsbD q := by
  unfold State.domain
  have : (fun q => s.rdMember pk q && !(s.members.get {} q).lost) = fun q => decide (q < 8) && b.getLsbD q := by
    funext q; rw [rdMember_small hr hm, hl]; simp
  rw [this, small_range (by intro q hq; simp; omega)]
  apply List.filter_congr
  intro q hq
  simp [List.mem_range.1 hq]
theorem lost_small {s : State} {pk : Nat} (hl : ∀ q, (s.members.get {} q).lost = false) : s.lostMembers pk = [] := by
  unfold State.lostMembers State.member
  rw [List.filter_eq_nil_iff]
  intro q _
  have h := hl q
  simp only [h, Bool.and_false, Bool.false_and, Bool.not_eq_true]

/-- Package 0 is the only member and the leader of its recovery domain, its map at 0x80000. -/
def domState : State := ((upState.setReg 0 0x11000 1).setReg 0 0x11008 0x80000).poke 0x80000 [1]
/-- The same with intervals running, the Pavane in phase `ph`. -/
def pvPhase (ph : Nat) (p : Pav) : State :=
  let s := (domState.setReg 0 0x11018 (BitVec.ofNat 64 ph)).setReg 0 0x11010 0x400000005
  { s with iv := s.iv.put {} 0 { p with started := true } }
/-- The same with the member's own state. -/
def rbAt (n : Nat) (p : Pav) (m : Member) : State := let s := pvPhase n p; { s with members := [(0, m)] }
/-- The member's rollback step. -/
def rbState (m : Member) : State := rbAt 0 {} m
theorem domain_one : domState.domain 0 = [0] := (domain_small (b := 1) (by decide +kernel) (by decide +kernel) (fun _ => rfl)).trans (by decide +kernel)
theorem pv_reg (n : Nat) (p : Pav) : (pvPhase n p).reg 0 0x11008 = 0x80000 := by
  have h : domState.reg 0 0x11008 = 0x80000 := by decide +kernel
  simpa [pvPhase, State.reg, State.setReg, FMap.get_put] using h
theorem pv_mem (n : Nat) (p : Pav) : (pvPhase n p).mem = [(0x80000, 1)] := by
  have h : domState.mem = [(0x80000, 1)] := by decide +kernel
  exact h
theorem domain_pv (n : Nat) (p : Pav) : (pvPhase n p).domain 0 = [0] :=
  (domain_small (b := 1) (pv_reg n p) (pv_mem n p) (fun _ => rfl)).trans (by decide +kernel)
theorem rb_lost (n : Nat) (p : Pav) (m : Member) (h : m.lost = false) (q : Nat) : ((rbAt n p m).members.get {} q).lost = false := by
  simp only [rbAt, FMap.get]
  split
  · exact h
  · split <;> rfl
theorem domain_rb (n : Nat) (p : Pav) (m : Member) (h : m.lost = false) : (rbAt n p m).domain 0 = [0] :=
  (domain_small (s := rbAt n p m) (b := 1) (by have h := pv_reg n p; simpa [rbAt, State.reg] using h) (pv_mem n p) (rb_lost n p m h)).trans (by decide +kernel)

/-- The phases of a Pavane of one member. -/
def wPavane : List Bool :=
  let d := domState
  let s := pvPhase 0 { req := true }
  let r := pvPhase 8 {}
  let c := pvPhase 1 { window := true }
  let n := pvPhase 2 {}
  let v := pvPhase 3 {}
  let e := pvPhase 4 {}
  let f := pvPhase 4 { quitting := true }
  let g := rbAt 4 { quitting := true } { report := true }
  [d.enBit 0, decide (d.leader 0 = 0), !(d.pav 0).started, (List.range 16).all fun k => !(d.stack k).sweep,
   s.pvEn 0, (s.pav 0).req, decide (s.leader 0 = 0), decide (s.phase 0 = 0), decide (s.members = []), decide ((s.pav 0).begun + s.period 0 * 1800 ≤ s.cyc),
   r.pvEn 0, decide (r.leader 0 = 0), decide (r.phase 0 = 0), decide (r.members = []), r.reqBit 0,
   c.pvEn 0, decide (c.members = []), decide (c.phase 0 = 1), decide (n.phase 0 = 2), n.pvEn 0, decide (¬ (n.pav 0).drained), n.drainedAt 0,
   v.pvEn 0, decide (v.phase 0 = 3), decide (¬ (v.pav 0).cond), e.pvEn 0, decide (e.phase 0 = 4), decide (¬ (e.pav 0).quitting),
   f.pvEn 0, decide (f.phase 0 = 4), (f.pav 0).quitting, f.det.isEmpty, !(f.members.get {} 0).report, d.windowOn 0,
   g.pvEn 0, decide (g.phase 0 = 4), (g.pav 0).quitting, (g.member 0).report, decide (g.leader 0 = 0)]
theorem witness_intervals : wPavane.all id = true ∧ domState.domain 0 = [0] ∧ (∀ n p, (pvPhase n p).domain 0 = [0])
    ∧ (rbAt 4 { quitting := true } { report := true }).domain 0 = [0]
    ∧ (pvPhase 0 { req := true }).mayClose 0 = true ∧ (pvPhase 8 {}).mayClose 0 = true := by
  refine ⟨by decide +kernel, domain_one, domain_pv, domain_rb _ _ _ rfl, ?_, ?_⟩ <;>
  · unfold State.mayClose State.domainCalm
    rw [domain_pv]
    decide +kernel

def wRollback : List Bool :=
  let a := rbState { report := true }
  let f := rbState { step := 4 }
  let g := rbState { step := 5 }
  [a.pvEn 0, decide (a.leader 0 = 0), decide (a.phase 0 ≠ 4), (a.member 0).report, decide ((a.member 0).step = 0),
   !a.damagedIn (a.undoAt 0 0) 128, (a.poisonBit (a.undoLine 0 0)).isNone,
   decide ((f.member 0).step = 4), (f.domainGroups [0]).isEmpty, decide ((g.member 0).step = 5), g.det.isEmpty]
/-- Two members: package 1 sees its leader silent. -/
def twoState : State :=
  let s := (((domState.setReg 1 0x18 0x1F).setReg 1 0x11000 1).setReg 1 0x11008 0x80000).poke 0x80000 [3]
  { s with iv := [(0, { started := true }), (1, { started := true })], cyc := 1000000 }
theorem domain_two (pk : Nat) (h : pk = 0 ∨ pk = 1) : twoState.domain pk = [0, 1] := by
  rcases h with rfl | rfl
  · exact (domain_small (b := 3) (by decide +kernel) (by decide +kernel) (fun _ => rfl)).trans (by decide +kernel)
  · exact (domain_small (b := 3) (by decide +kernel) (by decide +kernel) (fun _ => rfl)).trans (by decide +kernel)
theorem witness_rollback : wRollback.all id = true ∧ (rbState { report := true }).domain 0 = [0] ∧ (rbState { step := 4 }).lostMembers 0 = []
    ∧ (∀ n ∈ [1, 2, 3], (rbState { step := n, target := 4 }).stepReady 0 n = true)
    ∧ twoState.domain 0 = [0, 1] ∧ twoState.pvEn 0 = true ∧ twoState.leader 0 = 0
    ∧ twoState.pvEn 1 = true ∧ twoState.leader 1 = 0 ∧ ((twoState.domain 1).filter fun q => decide (q ≠ 0)).head? = some 1
    ∧ (twoState.pav 1).begun + (twoState.period 1 + 100) * 1800 ≤ twoState.cyc := by
  refine ⟨by decide +kernel, domain_rb _ _ _ rfl,
    lost_small (rb_lost _ _ _ rfl),
    ?_, domain_two 0 (.inl rfl), by decide +kernel, by decide +kernel, by decide +kernel, by decide +kernel, ?_, by decide +kernel⟩
  · intro n hn
    unfold State.stepReady
    rw [show rbState = rbAt 0 {} from rfl, domain_rb _ _ _ rfl]
    revert n
    decide +kernel
  · rw [domain_two 1 (.inr rfl)]; rfl

/-! ### Damage, redundancy, dispositions, boot: states that meet the premises -/

/-- A token from element 1 arrives at queue 0 of element 0 in this cycle, sent `n` times. -/
def hopState (n : Nat) : State :=
  let s := slotState 1 2 3
  { s with fl := { emits := [{ due := 0, ord := 0, src := 1, dst := .queue 0 0, tok := dataTok 5 0, sends := n }] } }
def hop10 : Nat := (hopCode 1 (.queue 0 0)).getD 0
def wDamage : List Bool :=
  let e (n : Nat) : Emit := { due := 0, ord := 0, src := 1, dst := .queue 0 0, tok := dataTok 5 0, sends := n }
  let h : Hop := { src := 1, dst := .queue 0 0, win := [e 0], from_ := 0 }
  let w : State := { slotState 1 2 3 with fl := { hops := [h] } }
  let r : State := { slotState 1 2 3 with fl := { emits := [{ e 1 with due := 4 }] } }
  let p := slotState 1 2 3
  [decide ((hopState 1).arriving hop10 = some (e 1)), decide ((hopState 9).arriving hop10 = some (e 9)),
   decide (w.fl.hops.find? (fun x => decide (hopCode x.src x.dst = some hop10)) = some h), decide (h.win = [e 0] ∧ h.from_ ≤ w.cyc ∧ (e 0).due ≤ w.cyc ∧ (e 0).sends = 0),
   decide (r.madeNow 1 ≠ []), decide ((p.stripe 0).rg = some 0), ((p.stripe 0).planes.get {} 0).valid, decide ((p.stripe 0).corr < 4096)]
theorem witness_fabric_damage : wDamage.all id = true := by decide +kernel

/-- `n` instances of Figure 2; each that has a value stands at a `secw` of counter 5 (compare point 82). -/
def dupState (n : Nat) (l : List (Option W32)) : State :=
  let fg (i : Nat) : Fig := { inst := i, insts := n, lead := 2, task := 9 }
  let s := { State.reset with figs := (List.range n).map fun i => (2 + i, fg i), regions := (List.range n).map fun i => (64 * (2 + i), { live := true }) }
  { s with fl := { waits := (l.zip (List.range n)).filterMap fun p => p.1.map fun v => (20 + p.2, { kind := .secw 5 v, rg := 64 * (2 + p.2), ord := 20 + p.2 }) } }
def wDup : List Bool :=
  let ok (s : State) : Bool := s.compares 2 && (s.group 2).all fun g => (s.fig g).owed.get [] 82 |>.isEmpty
  let pt (s : State) (g : Nat) : Option (List Nat) := (s.pointAt g 146).map Point.what
  let a := dupState 2 [some 1, some 1]
  let t := dupState 3 [some 1, some 1, some 1]
  let v := dupState 3 [some 1, some 1, some 2]
  let x := dupState 3 [some 1, some 2, some 3]
  let l := dupState 2 [some 1, none]
  let m : State := ({ dupState 2 [some 1, none] with cyc := 2 ^ 22 } : State).setLate 2 82 (some 0)
  let u : State := { upState with ms := { due := [(0, [(4, 5)])], pend := [(4, 5)] } }
  let w : State := ({ dupState 3 [some 1, some 1, none] with cyc := 2 ^ 22 } : State).setLate 2 (lateKey 82 true) (some 0)
  [ok w, decide (w.group 2 = [2, 3, 4]), decide (pt w 2 = pt w 3 ∧ pt w 2 ≠ none ∧ pt w 4 = none), decide ((w.fig 2).late.get none (lateKey 82 true) = some 0),
   decide (w.runClock (w.fig 2) = 2 ^ 22), decide (m.runClock (m.fig 2) = 2 ^ 22),
   ok a, decide (a.group 2 = [2, 3]), decide (pt a 2 = some [0, 5, 1] ∧ pt a 3 = some [0, 5, 1]),
   ok t, decide (t.group 2 = [2, 3, 4]), decide (pt t 2 = some [0, 5, 1] ∧ pt t 4 = some [0, 5, 1]),
   ok v, decide (pt v 3 = some [0, 5, 1] ∧ pt v 4 = some [0, 5, 2]), ok x, decide (pt x 2 = some [0, 5, 1] ∧ pt x 3 = some [0, 5, 2] ∧ pt x 4 = some [0, 5, 3]),
   ok l, decide ((pt l 3) = none), decide ((l.fig 2).late.get none 82 = none), ok m, decide ((m.fig 2).late.get none 82 = some 0), decide (m.cyc = 2 ^ 22),
   decide ((u.ms.due.get [] 0).find? u.partFree = some (4, 5)), decide ((u.members.get {} 0).step = 0)]
theorem witness_redundancy : wDup.all id = true := by decide +kernel

/-- One condition stands. -/
def detState (d : Detected) (x : Fig) : State := { upState.setFig 3 x with det := [d], cyc := 5 }
def wDisposed : List Bool :=
  let d (o : Owner) (code : BitVec 16) (p : BitVec 3) : Detected := { own := o, ord := 0, info := { fcode := code, point := p } }
  let x : Fig := { lead := 3, nreg := 1 }
  let ok (s : State) (o : Owner) (c : BitVec 16) (p : BitVec 3) : Bool :=
    decide (s.det = [d o c p] ∧ (d o c p).info.pkg.toNat = 0 ∧ (d o c p).info.cyc.toNat < s.cyc ∧ (d o c p).info.tier = 4)
  let fig (s : State) : Bool := (s.figs.any fun f => decide (f.1 = 3)) && decide ((s.fig 3).lead = 3 ∧ ¬ (s.fig 3).ended ∧ (s.fig 3).phase = .placed ∧ (s.fig 3).rank = 0)
  let a := detState (d .none 0x9008 7) x
  let b := detState (d (.figure 3) 0x4001 1) x
  let c := detState (d (.figure 3) 0xD001 0) x
  let l := ((upState.setSched 0 { log := [{}] }).setReg 0 0x16008 9).setReg 0 0x16000 0x4000
  let h := upState.setFig 3 { lead := 3, phase := .saved, pageNum := some 6, trapNum := some 7 }
  [ok a .none 0x9008 7, decide ((a.sched 0).log.length < 256), ok b (.figure 3) 0x4001 1, fig b, ok c (.figure 3) 0xD001 0, fig c,
   decide ((l.sched 0).log.length = 1), (l.reg 0 0x16008).getLsbD 0, !l.out.hostDown.get false 0,
   decide (((l.reg 0 0x16010).toNat + 2 ^ 32 - (l.reg 0 0x16018).toNat) % 2 ^ 32 ≠ 2 ^ ((l.reg 0 0x16008).toNat / 2 % 16)),
   h.windowOn 0, decide (h.heldBy 0 false 6 = some 3), decide (h.heldBy 0 true 7 = some 3), decide (h.heldBy 0 false 9 = none), decide (h.heldBy 0 true 9 = none)]
theorem witness_dispositions : wDisposed.all id = true := by decide +kernel

def wBoot : List Bool :=
  let s := State.reset.setReg 0 0x18 2
  let idle : State := { State.reset with cyc := 1800000 }
  [s.windowOn 0, decide (s.reg 0 0x18 = 2), idle.fab.stripes.isEmpty, Nat.ble ((idle.ring 0).busyAt + 1000 * 1800) idle.cyc, Nat.ble (idle.out.clock0.get 0 (pkOf 0) + 1000 * 1800) idle.cyc]
theorem witness_boot : wBoot.all id = true := by decide +kernel

/-! ### The machine as a whole -/

/-- For each kind of agent a state whose next step runs the word placed for it. -/
def wStep : List Bool :=
  let m : MWord := { fmt := 0, pi := 0, scsw := 0, scsa := 0, dtgt := .none, cnt := 1, opx := 0 }
  let slot := State.reset.withFetchWord 48 (encodeSlot .add (kSlot 2)).toNat
  let reel := State.reset.withFetchWord 64 ((encodeReel (.jmp 0)).getD 0).toNat
  let mat := State.reset.withFetchWord 64 (encodeMatrix .mzero m).toNat
  let mult := State.reset.withFetchWord 64 (encodeMatrix .bgmv m).toNat
  let req := State.reset.withFetchWord 256 ((encodeRequest (.transferCopy xHead copyA)).getD 0).toNat
  let walk := State.reset.withFetchWord 512 ((encodeNode (.nodeEnd { prio := 0, next := 0 })).getD 0).toNat
  let c (s : State) : Agent → Bool := fun a => decide (s.choose.1 = { dt := 0, who := .agent a })
  let t (s : State) : State := s.choose.2.tick 0
  let ok (r : Except Reject Instr) : Bool := match r with | .ok _ => true | _ => false
  [c slot (.slot 0), ((t slot).elem 0).run.isSome, ok (decodeSlot (((t slot).elPlane 0 0).words.get 0 0)),
   c reel (.reel 0), ok (decodeReel (((t reel).region 0).reel.words.get 0 0)), decide (((t reel).region 0).reel.rpc.toNat < ((t reel).region 0).reel.count),
   c mat (.matrix 64), decide ((t mat).mxWord 64 ≠ 0), ok (decodeMatrix ((t mat).mxWord 64)),
   c mult (.mult 0), decide (((t mult).multRec 0).words.get 0 0 ≠ 0), ok (decodeMatrix (((t mult).multRec 0).words.get 0 0)),
   c req (.port 0), (match (t req).req 0 with | some r => ok (decodeRequest r.pkt.bits) | none => false),
   c walk (.walk 0), (match (t walk).nodeAt 0 with | .word _ v => ok (decodeNode v) | _ => false),
   (t reel).reelTurn 0, decide (({ State.reset with agenda := [{ dt := 0, who := .damage (.queue 0 2 0) true }] } : State).choose.1.who = .damage (.queue 0 2 0) true),
   decide (((slotState 1 2 3).elem 0).queue 2 ≠ []),
   isEvent (.taskAging 0), !ok (decodeReel (BitVec.ofNat 64 (2 ^ 64 - 1)))]
theorem witness_step : wStep.all id = true := by decide +kernel
/-- A memory in canonical form, whose next step is a next state. -/
theorem witness_canonical : Memory.wf tables.mem = true ∧ goes (step { tables with agenda := [{ dt := 0, who := .event (.taskAging 0) }] }) (fun t => decide (t.mem = tables.mem)) = true := by
  decide +kernel
/-- Every form of encoding has well-formed instructions. -/
theorem witness_encodings :
    SlotOp.wf .add (kSlot 2) = true ∧ MOp.wf .mzero { fmt := 0, pi := 0, scsw := 0, scsa := 0, dtgt := .none, cnt := 1, opx := 0 } = true
    ∧ (Instr.jmp 0).wf = true ∧ (encodeReel (.jmp 0)).isSome = true ∧ (Instr.transferCopy xHead copyA).wf = true ∧ (encodeRequest (.transferCopy xHead copyA)).isSome = true
    ∧ (Instr.nodeEnd { prio := 0, next := 0 }).wf = true ∧ (encodeNode (.nodeEnd { prio := 0, next := 0 })).isSome = true := by
  decide +kernel
/-- Table 20.1: a token whose error is not corrected is tainted and keeps its place, its SEQ and its RID; a corrected one is as it was. -/
theorem test_damaged_token :
    let s := slotState 1 2 3
    let q (t : State) : List (Bool × BitVec 8 × BitVec 6) := ((t.elem 0).queue 2).map fun x => (x.et, x.seq, x.rid)
    q (s.damaged (.queue 0 2 0) true) = [(true, 0, 0)] ∧ ((s.damaged (.queue 0 2 0) false).elem 0).queue 2 = (s.elem 0).queue 2 := by decide +kernel

/-! ### Words written out from the encoding tables -/

/-- The fields of a slot word in the order of Table 8.1. -/
def w (mod : BitVec 4) (pq : Bool) (l r : Src) (t1 t2 : Target) (sq : Bool) (cidx : BitVec 4) : Slot :=
  { mod := mod, pq := pq, l := l, r := r, t1 := t1, t2 := t2, sq := sq, cidx := cidx }
/-- Each word is read as the instruction beside it, and written back from it. -/
def slotWords (l : List (BitVec 48 × Instr)) : Bool :=
  l.all fun p => (match decodeSlot p.1 with | .ok i => decide (i = p.2) | .error _ => false)
    && (match p.2.slot? with | some (op, f) => decide (encodeSlot op f = p.1) | none => false)

/-- OPC of Table 8.4 with the fields of Tables 8.1 and 8.2. -/
theorem test_slot_words_1 : slotWords [
    (0b00000000_0000_0_00_00_0000000000_0000000000_0_0000_000_000#48, .nop (w 0 false .pop .pop .none .none false 0)),
    (0b00000001_0000_0_10_10_1000000010_1010000100_0_0000_011_101#48, .add (w 0 false (.k 5) (.k 3) (.kreg 2) (.preg 4) false 0)),
    (0b00000010_0000_1_01_11_1100000011_1101000101_0_1001_000_000#48, .sub (w 0 true .peek .c (.cw 3) (.ac 5) false 9)),
    (0b00000011_0000_0_00_01_1110001001_1111000110_1_0000_000_000#48, .mul (w 0 false .pop .peek (.sp 9) (.mx 6) true 0)),
    (0b00000100_0000_0_11_00_0111111111_0101000011_0_1001_000_000#48, .mulh (w 0 false .c .pop (.queue 3 63) (.queue 1 3) false 9)),
    (0b00000101_0000_0_00_00_0101000011_0000000000_0_0000_000_000#48, .mad (w 0 false .pop .pop (.queue 1 3) .none false 0)),
    (0b00000110_0000_0_10_00_1000000010_1010000100_0_0000_000_101#48, .abs (w 0 false (.k 5) .pop (.kreg 2) (.preg 4) false 0)),
    (0b00000111_0000_1_01_00_1100000011_1101000101_0_0000_000_000#48, .neg (w 0 true .peek .pop (.cw 3) (.ac 5) false 0)),
    (0b00001000_0000_0_00_01_1110001001_1111000110_1_0000_000_000#48, .min (w 0 false .pop .peek (.sp 9) (.mx 6) true 0)),
    (0b00001001_0000_0_11_00_0111111111_0101000011_0_1001_000_000#48, .max (w 0 false .c .pop (.queue 3 63) (.queue 1 3) false 9)),
    (0b00001010_0000_0_00_00_0101000011_0000000000_0_0000_000_000#48, .clz (w 0 false .pop .pop (.queue 1 3) .none false 0)),
    (0b00001011_0000_0_10_00_1000000010_1010000100_0_0000_000_101#48, .popc (w 0 false (.k 5) .pop (.kreg 2) (.preg 4) false 0)),
    (0b00001100_0000_1_01_00_1100000011_1101000101_0_0000_000_000#48, .brev (w 0 true .peek .pop (.cw 3) (.ac 5) false 0)),
    (0b00001101_0000_0_00_01_1110001001_1111000110_1_0000_000_000#48, .bperm (w 0 false .pop .peek (.sp 9) (.mx 6) true 0)),
    (0b00001110_0000_0_11_00_0111111111_0101000011_0_1001_000_000#48, .addc (w 0 false .c .pop (.queue 3 63) (.queue 1 3) false 9)),
    (0b00001111_0000_0_00_00_0101000011_0000000000_0_0000_000_000#48, .subb (w 0 false .pop .pop (.queue 1 3) .none false 0)),
    (0b00010000_0000_0_10_10_1000000010_1010000100_0_0000_011_101#48, .div (w 0 false (.k 5) (.k 3) (.kreg 2) (.preg 4) false 0)),
    (0b00010001_0000_1_01_11_1100000011_1101000101_0_1001_000_000#48, .rem (w 0 true .peek .c (.cw 3) (.ac 5) false 9)),
    (0b00010010_0000_0_00_01_1110001001_1111000110_1_0000_000_000#48, .sad (w 0 false .pop .peek (.sp 9) (.mx 6) true 0)),
    (0b00010011_0001_0_11_00_0111111111_0101000011_0_1001_000_000#48, .dp4 (w 1 false .c .pop (.queue 3 63) (.queue 1 3) false 9)),
    (0b00010100_0000_0_00_00_0101000011_0000000000_0_0000_000_000#48, .mov (w 0 false .pop .pop (.queue 1 3) .none false 0)),
    (0b00100000_0000_0_10_10_1000000010_1010000100_0_0000_011_101#48, .and (w 0 false (.k 5) (.k 3) (.kreg 2) (.preg 4) false 0))] = true := by
  decide +kernel
/-- OPC of Table 8.4 with the fields of Tables 8.1 and 8.2. -/
theorem test_slot_words_2 : slotWords [
    (0b00100001_0000_1_01_11_1100000011_1101000101_0_1001_000_000#48, .or (w 0 true .peek .c (.cw 3) (.ac 5) false 9)),
    (0b00100010_0000_0_00_01_1110001001_1111000110_1_0000_000_000#48, .xor (w 0 false .pop .peek (.sp 9) (.mx 6) true 0)),
    (0b00100011_0000_0_11_00_0111111111_0101000011_0_1001_000_000#48, .andn (w 0 false .c .pop (.queue 3 63) (.queue 1 3) false 9)),
    (0b00100100_0000_0_00_00_0101000011_0000000000_0_0000_000_000#48, .not (w 0 false .pop .pop (.queue 1 3) .none false 0)),
    (0b00100101_0000_0_10_10_1000000010_1010000100_0_1001_011_101#48, .lop3 (w 0 false (.k 5) (.k 3) (.kreg 2) (.preg 4) false 9)),
    (0b00100110_0000_1_01_11_1100000011_1101000101_0_1001_000_000#48, .shl (w 0 true .peek .c (.cw 3) (.ac 5) false 9)),
    (0b00100111_0000_0_00_01_1110001001_1111000110_1_0000_000_000#48, .shr (w 0 false .pop .peek (.sp 9) (.mx 6) true 0)),
    (0b00101000_0000_0_11_00_0111111111_0101000011_0_1001_000_000#48, .rot (w 0 false .c .pop (.queue 3 63) (.queue 1 3) false 9)),
    (0b00101001_0000_0_00_00_0101000011_0000000000_0_0000_000_000#48, .fsh (w 0 false .pop .pop (.queue 1 3) .none false 0)),
    (0b00101010_0000_0_10_10_1000000010_1010000100_0_0000_011_101#48, .bfx (w 0 false (.k 5) (.k 3) (.kreg 2) (.preg 4) false 0)),
    (0b00101011_0000_1_01_11_1100000011_1101000101_0_1001_000_000#48, .bfi (w 0 true .peek .c (.cw 3) (.ac 5) false 9)),
    (0b00101100_0000_0_00_00_1110001001_1111000110_1_0000_000_000#48, .bswap (w 0 false .pop .pop (.sp 9) (.mx 6) true 0)),
    (0b00110000_0000_0_11_00_0111111111_0101000011_0_1001_000_000#48, .cmp (w 0 false .c .pop (.queue 3 63) (.queue 1 3) false 9)),
    (0b00110001_0000_0_00_00_0101000011_0000000000_0_0000_000_000#48, .fcmp (w 0 false .pop .pop (.queue 1 3) .none false 0)),
    (0b00110010_0000_0_10_10_1000000010_1010000100_0_0000_011_101#48, .sel (w 0 false (.k 5) (.k 3) (.kreg 2) (.preg 4) false 0)),
    (0b00110011_0000_1_01_11_1100000011_1101000101_0_1001_000_000#48, .steer (w 0 true .peek .c (.cw 3) (.ac 5) false 9)),
    (0b00110100_0000_0_00_01_1110001001_1111000110_1_0000_000_000#48, .merge (w 0 false .pop .peek (.sp 9) (.mx 6) true 0)),
    (0b00110101_0000_0_11_00_0111111111_0101000011_0_1001_000_000#48, .gate (w 0 false .c .pop (.queue 3 63) (.queue 1 3) false 9)),
    (0b00110110_0000_0_00_00_0101000011_0000000000_0_0000_000_000#48, .inv (w 0 false .pop .pop (.queue 1 3) .none false 0)),
    (0b00110111_0000_0_10_10_1000000010_1010000100_0_0000_011_101#48, .join (w 0 false (.k 5) (.k 3) (.kreg 2) (.preg 4) false 0)),
    (0b00111000_0000_1_01_00_1100000011_1101000101_0_0000_000_000#48, .ctok (w 0 true .peek .pop (.cw 3) (.ac 5) false 0)),
    (0b00111000_0100_0_00_00_0000000000_0000000000_0_0000_000_000#48, .ctokIlast (w 4 false .pop .pop .none .none false 0))] = true := by
  decide +kernel
/-- OPC of Table 8.4 with the fields of Tables 8.1 and 8.2. -/
theorem test_slot_words_3 : slotWords [
    (0b00111001_0000_0_11_00_0000000000_0000000000_0_1001_000_000#48, .pset (w 0 false .c .pop .none .none false 9)),
    (0b00111010_0000_0_00_00_0101000011_0000000000_0_0000_000_000#48, .pget (w 0 false .pop .pop (.queue 1 3) .none false 0)),
    (0b01000000_0000_0_01_10_1000000010_1010000100_0_0000_011_000#48, .loopgen (w 0 false .peek (.k 3) (.kreg 2) (.preg 4) false 0)),
    (0b01000001_0000_1_01_10_1100000011_1101000101_0_0000_011_000#48, .loopgen2 (w 0 true .peek (.k 3) (.cw 3) (.ac 5) false 0)),
    (0b01000010_0000_0_00_00_1110001001_1111000110_0_0000_000_000#48, .itr (w 0 false .pop .pop (.sp 9) (.mx 6) false 0)),
    (0b01000011_0000_0_00_00_0111111111_0101000011_0_0000_000_000#48, .copyid (w 0 false .pop .pop (.queue 3 63) (.queue 1 3) false 0)),
    (0b01000100_0000_0_00_10_0101000011_0000000000_0_0000_011_000#48, .cnt (w 0 false .pop (.k 3) (.queue 1 3) .none false 0)),
    (0b01000101_0000_0_00_00_1000000010_1010000100_0_0000_000_000#48, .lastp (w 0 false .pop .pop (.kreg 2) (.preg 4) false 0)),
    (0b01000110_0000_1_00_00_1100000011_1101000101_0_0000_000_000#48, .stagev (w 0 true .pop .pop (.cw 3) (.ac 5) false 0)),
    (0b01010000_0000_0_00_01_1110001001_1111000110_1_0000_000_000#48, .fadd (w 0 false .pop .peek (.sp 9) (.mx 6) true 0)),
    (0b01010001_0000_0_11_00_0111111111_0101000011_0_1001_000_000#48, .fsub (w 0 false .c .pop (.queue 3 63) (.queue 1 3) false 9)),
    (0b01010010_0000_0_00_00_0101000011_0000000000_0_0000_000_000#48, .fmul (w 0 false .pop .pop (.queue 1 3) .none false 0)),
    (0b01010011_0000_0_10_10_1000000010_1010000100_0_0000_011_101#48, .ffma (w 0 false (.k 5) (.k 3) (.kreg 2) (.preg 4) false 0)),
    (0b01010100_0000_1_01_11_1100000011_1101000101_0_1001_000_000#48, .fmin (w 0 true .peek .c (.cw 3) (.ac 5) false 9)),
    (0b01010101_0000_0_00_01_1110001001_1111000110_1_0000_000_000#48, .fmax (w 0 false .pop .peek (.sp 9) (.mx 6) true 0)),
    (0b01010110_0000_0_11_00_0111111111_0101000011_0_1001_000_000#48, .fabs (w 0 false .c .pop (.queue 3 63) (.queue 1 3) false 9)),
    (0b01010111_0000_0_00_00_0101000011_0000000000_0_0000_000_000#48, .fneg (w 0 false .pop .pop (.queue 1 3) .none false 0)),
    (0b01011000_0000_0_10_00_1000000010_1010000100_0_0000_000_101#48, .fclass (w 0 false (.k 5) .pop (.kreg 2) (.preg 4) false 0)),
    (0b01011001_0000_1_01_11_1100000011_1101000101_0_1001_000_000#48, .fscale (w 0 true .peek .c (.cw 3) (.ac 5) false 9)),
    (0b01011010_0000_0_00_00_1110001001_1111000110_1_0000_000_000#48, .fround (w 0 false .pop .pop (.sp 9) (.mx 6) true 0)),
    (0b01011011_0000_0_11_00_0111111111_0101000011_0_1001_000_000#48, .fcsgn (w 0 false .c .pop (.queue 3 63) (.queue 1 3) false 9)),
    (0b01011100_0100_0_00_00_0101000011_0000000000_0_0000_000_000#48, .fdot2 (w 4 false .pop .pop (.queue 1 3) .none false 0))] = true := by
  decide +kernel
/-- OPC of Table 8.4 with the fields of Tables 8.1 and 8.2. -/
theorem test_slot_words_4 : slotWords [
    (0b01100000_0000_0_10_00_1000000010_1010000100_0_0000_000_101#48, .frcp (w 0 false (.k 5) .pop (.kreg 2) (.preg 4) false 0)),
    (0b01100001_0000_1_01_00_1100000011_1101000101_0_0000_000_000#48, .frsq (w 0 true .peek .pop (.cw 3) (.ac 5) false 0)),
    (0b01100010_0000_0_00_00_1110001001_1111000110_1_0000_000_000#48, .fsqrt (w 0 false .pop .pop (.sp 9) (.mx 6) true 0)),
    (0b01100011_0000_0_11_00_0111111111_0101000011_0_1001_000_000#48, .fexp2 (w 0 false .c .pop (.queue 3 63) (.queue 1 3) false 9)),
    (0b01100100_0000_0_00_00_0101000011_0000000000_0_0000_000_000#48, .flog2 (w 0 false .pop .pop (.queue 1 3) .none false 0)),
    (0b01100101_0000_0_10_00_1000000010_1010000100_0_0000_000_101#48, .fsin (w 0 false (.k 5) .pop (.kreg 2) (.preg 4) false 0)),
    (0b01100110_0000_1_01_00_1100000011_1101000101_0_0000_000_000#48, .fcos (w 0 true .peek .pop (.cw 3) (.ac 5) false 0)),
    (0b01100111_0000_0_00_00_1110001001_1111000110_1_0000_000_000#48, .ftanh (w 0 false .pop .pop (.sp 9) (.mx 6) true 0)),
    (0b01101000_0000_0_11_00_0111111111_0101000011_0_1001_000_000#48, .fdiv (w 0 false .c .pop (.queue 3 63) (.queue 1 3) false 9)),
    (0b01101001_0000_0_00_00_0101000011_0000000000_0_0000_000_000#48, .phx (w 0 false .pop .pop (.queue 1 3) .none false 0)),
    (0b01101010_0000_0_10_10_1000000010_1010000100_0_0000_011_101#48, .radd (w 0 false (.k 5) (.k 3) (.kreg 2) (.preg 4) false 0)),
    (0b01101011_0000_1_01_11_1100000011_1101000101_0_1001_000_000#48, .rmax (w 0 true .peek .c (.cw 3) (.ac 5) false 9)),
    (0b01101100_0000_0_00_01_1110001001_1111000110_1_0000_000_000#48, .rmin (w 0 false .pop .peek (.sp 9) (.mx 6) true 0)),
    (0b01101101_0000_0_11_10_0111111111_0101000011_0_1001_011_000#48, .rmaxsc (w 0 false .c (.k 3) (.queue 3 63) (.queue 1 3) false 9)),
    (0b01110000_0000_0_00_00_0101000011_0000000000_0_0000_000_000#48, .cvtf (w 0 false .pop .pop (.queue 1 3) .none false 0)),
    (0b01110001_0000_0_10_00_1000000010_1010000100_0_0000_000_101#48, .cvti (w 0 false (.k 5) .pop (.kreg 2) (.preg 4) false 0)),
    (0b01110010_0000_1_01_00_1100000011_1101000101_0_0000_000_000#48, .cvtif (w 0 true .peek .pop (.cw 3) (.ac 5) false 0)),
    (0b01110011_0000_0_00_01_1110001001_1111000110_1_0000_000_000#48, .pack (w 0 false .pop .peek (.sp 9) (.mx 6) true 0)),
    (0b01110100_0000_0_11_00_0111111111_0101000011_0_1001_000_000#48, .unpack (w 0 false .c .pop (.queue 3 63) (.queue 1 3) false 9)),
    (0b01110101_0000_0_00_00_0101000011_1110001001_0_0000_000_000#48, .bq (w 0 false .pop .pop (.queue 1 3) (.sp 9) false 0)),
    (0b01110110_0000_0_00_10_1000000010_1010000100_0_0000_011_000#48, .bdq (w 0 false .pop (.k 3) (.kreg 2) (.preg 4) false 0)),
    (0b10000000_0000_1_01_11_1100000011_1101000101_0_1001_000_000#48, .ldb (w 0 true .peek .c (.cw 3) (.ac 5) false 9))] = true := by
  decide +kernel
/-- OPC of Table 8.4 with the fields of Tables 8.1 and 8.2. -/
theorem test_slot_words_5 : slotWords [
    (0b10000001_0000_0_00_01_1110001001_1111000110_1_0000_000_000#48, .stb (w 0 false .pop .peek (.sp 9) (.mx 6) true 0)),
    (0b10000010_0000_0_10_00_0111111111_0101000011_0_1001_000_101#48, .lnsend (w 0 false (.k 5) .pop (.queue 3 63) (.queue 1 3) false 9)),
    (0b10000011_0000_0_00_00_0101000011_0000000000_0_1001_000_000#48, .lntap (w 0 false .pop .pop (.queue 1 3) .none false 9)),
    (0b10000100_0000_0_00_00_1000000010_1010000100_0_0000_000_000#48, .spop (w 0 false .pop .pop (.kreg 2) (.preg 4) false 0)),
    (0b10000101_0000_1_01_00_0000000000_0000000000_0_0000_000_000#48, .spush (w 0 true .peek .pop .none .none false 0)),
    (0b10000110_0000_0_00_01_1110001001_1111000110_1_0000_000_000#48, .cbputOpen (w 0 false .pop .peek (.sp 9) (.mx 6) true 0)),
    (0b10000110_0001_0_11_00_0111111111_0101000011_0_1001_000_000#48, .cbputWord (w 1 false .c .pop (.queue 3 63) (.queue 1 3) false 9)),
    (0b10000111_0000_0_00_00_0101000011_0000000000_0_0000_000_000#48, .cbgetOpen (w 0 false .pop .pop (.queue 1 3) .none false 0)),
    (0b10000111_0001_0_00_00_1000000010_1010000100_0_0000_000_000#48, .cbgetWord (w 1 false .pop .pop (.kreg 2) (.preg 4) false 0)),
    (0b10010000_0000_1_01_11_0000000000_0000000000_0_1001_000_000#48, .agen (w 0 true .peek .c .none .none false 9)),
    (0b10010001_0000_0_00_01_1110001001_1111000110_0_0000_000_000#48, .ldg (w 0 false .pop .peek (.sp 9) (.mx 6) false 0)),
    (0b10010010_0000_0_11_00_0111111111_0101000011_0_1001_000_000#48, .stg (w 0 false .c .pop (.queue 3 63) (.queue 1 3) false 9)),
    (0b10010011_0000_0_00_00_0101000011_0000000000_0_0000_000_000#48, .ldgx (w 0 false .pop .pop (.queue 1 3) .none false 0)),
    (0b10010100_0000_0_10_10_1000000010_1010000100_0_0000_011_101#48, .stgx (w 0 false (.k 5) (.k 3) (.kreg 2) (.preg 4) false 0)),
    (0b10010101_0000_1_01_11_1100000011_1101000101_0_1001_000_000#48, .pfg (w 0 true .peek .c (.cw 3) (.ac 5) false 9)),
    (0b10100000_0000_0_00_01_1110001001_1111000110_1_0000_000_000#48, .atom (w 0 false .pop .peek (.sp 9) (.mx 6) true 0)),
    (0b10100001_0000_0_11_00_0111111111_0101000011_0_1001_000_000#48, .cas (w 0 false .c .pop (.queue 3 63) (.queue 1 3) false 9)),
    (0b10100010_0000_0_00_00_0101000011_0000000000_0_0000_000_000#48, .red (w 0 false .pop .pop (.queue 1 3) .none false 0)),
    (0b10100011_0000_0_10_00_1000000010_1010000100_0_0000_000_101#48, .fence (w 0 false (.k 5) .pop (.kreg 2) (.preg 4) false 0)),
    (0b10100100_0000_1_01_00_1100000011_1101000101_0_0000_000_000#48, .sbar (w 0 true .peek .pop (.cw 3) (.ac 5) false 0)),
    (0b10100101_0000_0_00_00_1110001001_1111000110_1_0000_000_000#48, .xreq (w 0 false .pop .pop (.sp 9) (.mx 6) true 0)),
    (0b10100110_0000_0_11_00_0111111111_0101000011_0_1001_000_000#48, .lrflush (w 0 false .c .pop (.queue 3 63) (.queue 1 3) false 9))] = true := by
  decide +kernel
/-- OPC of Table 8.4 with the fields of Tables 8.1 and 8.2. -/
theorem test_slot_words_6 : slotWords [
    (0b10100111_0000_0_00_00_0101000011_0000000000_0_0000_000_000#48, .publish (w 0 false .pop .pop (.queue 1 3) .none false 0)),
    (0b10101000_0000_0_10_10_1000000010_1010000100_0_0000_011_101#48, .secw (w 0 false (.k 5) (.k 3) (.kreg 2) (.preg 4) false 0)),
    (0b10101000_0001_1_01_11_1100000011_1101000101_0_1001_000_000#48, .secwSet (w 1 true .peek .c (.cw 3) (.ac 5) false 9)),
    (0b10101001_0000_0_00_01_1110001001_1111000110_1_0000_000_000#48, .crd (w 0 false .pop .peek (.sp 9) (.mx 6) true 0)),
    (0b10110000_0000_0_11_00_0111111111_0101000011_0_1001_000_000#48, .msend (w 0 false .c .pop (.queue 3 63) (.queue 1 3) false 9)),
    (0b10110001_0000_0_00_00_0000000000_0000000000_0_0000_000_000#48, .mword (w 0 false .pop .pop .none .none false 0)),
    (0b10110010_0000_0_00_00_1000000010_1010000100_0_0000_000_000#48, .rdin (w 0 false .pop .pop (.kreg 2) (.preg 4) false 0)),
    (0b10110011_0000_1_00_00_1100000011_1101000101_0_0000_000_000#48, .sealreq (w 0 true .pop .pop (.cw 3) (.ac 5) false 0)),
    (0b10110100_0000_0_00_00_1110001001_1111000110_1_0000_000_000#48, .rdcr (w 0 false .pop .pop (.sp 9) (.mx 6) true 0)),
    (0b10110101_0000_0_11_00_0111111111_0101000011_0_1001_000_000#48, .wrcr (w 0 false .c .pop (.queue 3 63) (.queue 1 3) false 9)),
    (0b10110110_0000_0_00_00_0101000011_0000000000_0_0000_000_000#48, .evc (w 0 false .pop .pop (.queue 1 3) .none false 0)),
    (0b11110000_0000_0_10_00_0000000000_0000000000_0_0000_000_101#48, .trap (w 0 false (.k 5) .pop .none .none false 0)),
    (0b11110001_0000_1_00_00_0000000000_0000000000_0_0000_000_000#48, .brk (w 0 true .pop .pop .none .none false 0)),
    (0b11110010_0000_0_00_00_0000000000_0000000000_1_0000_000_000#48, .halt (w 0 false .pop .pop .none .none true 0))] = true := by
  decide +kernel

/-- MOP of Table 8.7 with the fields of Table 8.6, ranges of Tables 12.3 and 12.7. -/
theorem test_matrix_words : ([
    (0b000001_0010_000000_01_00_0000000000_0000000000000001_000000000000000000#64, .mwld ⟨2, 0, 1, 0, .none, 1, 0⟩),
    (0b000010_0101_000000_10_00_0000000000_0000000000000001_000000000000000000#64, .mwldt ⟨5, 0, 2, 0, .none, 1, 0⟩),
    (0b000011_0000_000000_00_00_0000000000_0000000000000001_000000000000000000#64, .mzero ⟨0, 0, 0, 0, .none, 1, 0⟩),
    (0b000100_0100_111111_00_00_0000000000_1111111111111111_000000000000000000#64, .mma ⟨4, 63, 0, 0, .none, 65535, 0⟩),
    (0b000101_0001_001000_01_10_1110000011_0000000000000000_000000000000000000#64, .mmasc ⟨1, 8, 1, 2, .sp 3, 0, 0⟩),
    (0b000110_0000_000000_00_00_0000000000_0000000000000001_000000000000000000#64, .mpromo ⟨0, 0, 0, 0, .none, 1, 0⟩),
    (0b000111_0000_000000_00_00_0100000101_0000000000000001_000000000000000000#64, .mdrain ⟨0, 0, 0, 0, .queue 0 5, 1, 0⟩),
    (0b001000_0000_000000_00_00_1111000010_0000000000000011_000000000000000000#64, .mpass ⟨0, 0, 0, 0, .mx 2, 3, 0⟩),
    (0b010000_0011_000000_00_00_0000000000_0000000000000111_000000000000111111#64, .bgmv ⟨3, 0, 0, 0, .none, 7, 63⟩),
    (0b010001_0100_000000_00_00_0100000101_0000000000000000_000000000000001011#64, .bred ⟨4, 0, 0, 0, .queue 0 5, 0, 11⟩)]
    : List (BitVec 64 × Instr)).all (fun p => (match decodeMatrix p.1 with | .ok i => decide (i = p.2) | .error _ => false)
      && (match p.2.mword? with | some (op, m) => decide (encodeMatrix op m = p.1) | none => false)) = true := by
  decide +kernel

/-- ROP of Table 8.8 with the fields of Table 13.2: ROP, CND, RA, RB, then the 44 bits of IMM in hexadecimal. -/
theorem test_reel_words : ([
    (0x01_2_0_0_00000051234, .stripe 2 (.imm 0x1234) (.imm 5)), (0x01_D_3_4_00000000000, .stripe 1 (.reg 3) (.reg 4)),
    (0x02_0_0_0_00000000003, .plane (.direct 3)), (0x02_8_0_0_000000002F1, .plane (.pred 15 1 2)),
    (0x03_0_0_0_0000000007F, .swap 127), (0x03_1_0_0_00000000000, .swapAll), (0x03_2_0_0_00000000000, .swapWave),
    (0x04_0_0_0_09876FFF001, .dwell 1 0xFFF 0x9876), (0x05_0_0_0_ABC12345678, .loop (.imm 0x12345678) 0xABC), (0x05_1_9_0_00100000000, .loop (.reg 9) 1),
    (0x06_0_0_0_00000000000, .endl), (0x07_A_0_0_00000011234, .brp 10 true 0x1234), (0x07_3_0_0_00000000005, .brp 3 false 5),
    (0x08_0_0_0_0000000FFFF, .jmp 0xFFFF), (0x09_0_0_0_00000000010, .call 16), (0x0A_0_0_0_00000000000, .ret),
    (0x0B_3_0_0_00012345678, .arm 3 (.imm 0x12345678)), (0x0B_9_F_0_00000000000, .arm 1 (.reg 15)), (0x0B_4_0_0_0000000ABCD, .armMx (.imm 0xABCD)),
    (0x0C_0_0_0_00000000ABC, .waitbBar 0xABC), (0x0C_1_0_0_00000000002, .waitbLc 2), (0x0C_2_0_0_00000000000, .waitbMx)]
    : List (W64 × Instr)).all (fun p => (match decodeReel p.1 with | .ok i => decide (i = p.2) | .error _ => false) && decide (encodeReel p.2 = some p.1)) = true := by
  decide +kernel
theorem test_reel_words_2 : ([
    (0x0D_0_0_0_0000004007F, .save (.imm 127) (.imm 0x400)), (0x0D_3_2_1_00000000000, .save (.reg 1) (.reg 2)), (0x0E_0_0_0_003FFFFC003, .rest (.imm 3) (.imm 0x3FFFFC0)),
    (0x0F_1_5_6_00003FFFFF8, .lds 5 0x3FFFFF8 (some 6)), (0x10_0_5_0_00000000008, .sts 5 8 none), (0x11_0_3_4_FFFFFFFFFFF, .addi 3 4 (-1)),
    (0x12_0_7_0_80000000000, .movs 7 (.imm 0x80000000000)), (0x12_1_7_8_00000000000, .movs 7 (.reg 8)), (0x12_2_7_0_00000000003, .movs 7 (.n 3)), (0x12_3_7_0_0000000000F, .movs 7 (.usr 15)),
    (0x13_2_1_2_00000000020, .cmpj 2 false 1 2 0x20), (0x13_D_1_2_00000000020, .cmpj 5 true 1 2 0x20), (0x14_1_0_0_00000000000, .seqw true none), (0x14_2_C_0_00000000000, .seqw false (some 12)),
    (0x15_1_0_0_000DEADBEEF, .msgr true 0xDEADBEEF), (0x16_0_0_0_00000000000, .yld), (0x17_0_0_0_000CAFEF00D, .hlt (.imm 0xCAFEF00D)), (0x17_1_6_0_00000000000, .hlt (.reg 6))]
    : List (W64 × Instr)).all (fun p => (match decodeReel p.1 with | .ok i => decide (i = p.2) | .error _ => false) && decide (encodeReel p.2 = some p.1)) = true := by
  decide +kernel

/-- Requests by words 7 to 0 (Tables 8.9 and 13.4). -/
theorem test_request_words :
    let h : XHead := { tag := 0xABCDEF, sc := true, cq := true, cring := 0x123, sctr := 0x456 }
    let c : CopyArgs := { src := 0x1111111122222222, dst := 0x3333333344444444, len := 0x7755555555 }
    let t : TensorArgs := { lr := 0x1FFAAAAAAAAAA40, lsp := true, loc := 0x33333333, o := 0x666655554444333322221111 }
    let r : RowArgs := { tab := 0x1AAAAAABBBBBBBB, log2rsz := 20, idx := 0xCCCCCCDDDDDDDD, lsp := true, nix := 0x55555555, loc := 0x66666666 }
    ([(0x00456123_00000077_55555555_33333333_44444444_11111111_22222222_0CABCDEF, .transferCopy h c),
      (0x00456123_66665555_44443333_22221111_33333333_03FFAAAA_AAAAAA40_1CABCDEF, .tensorLoad h t),
      (0x00456123_66665555_44443333_22221111_33333333_03FFAAAA_AAAAAA40_2CABCDEF, .tensorStore h t),
      (0x00456123_66666666_55555555_02CCCCCC_DDDDDDDD_29AAAAAA_BBBBBBBB_3CABCDEF, .gather h r),
      (0x00456123_66666666_55555555_02CCCCCC_DDDDDDDD_29AAAAAA_BBBBBBBB_4CABCDEF, .scatter h r),
      (0x00456123_00000000_99999999_00000077_55555555_11111111_22222222_5CABCDEF, .fill h 0x1111111122222222 0x7755555555 0x99999999),
      (0x00456123_00123477_55555555_33333333_44444444_11111111_22222222_6CABCDEF, .remoteCopy h c 0x1234),
      (0x00456123_00000000_00000000_00000008_77777777_00001FFF_0000FFFF_7CABCDEF, .setRemoteFlag h 0xFFFF 0x1FFF 0x77777777 8),
      (0x00456123_00000077_55555555_33333333_44444444_11111111_22222222_8CABCDEF, .shadowCopy h c),
      (0x00456123_00000004_55555555_33333333_44444444_11111111_22222224_9CABCDEF, .reduceCopy h 0x1111111122222224 0x3333333344444444 0x55555555 4)]
      : List (BitVec 256 × Instr)).all (fun p => match decodeRequest p.1 with | .ok i => decide (i = p.2) | .error _ => false) = true := by
  decide +kernel

/-- Nodes by their 8-byte words 7 to 0 (Tables 8.10 and 13.7). -/
theorem test_node_words :
    let g : GHead := { prio := 5, next := 0x89ABCDEF }
    let n (w7 w6 w5 w4 w3 w2 w1 : W64) (kind : BitVec 4) : BitVec 512 := w7 ++ w6 ++ w5 ++ w4 ++ w3 ++ w2 ++ w1 ++ (0x89ABCDEF : BitVec 32) ++ (0 : BitVec 24) ++ (5 : BitVec 4) ++ kind
    ([(n 0 0 0 0 0 0 0 0, .nodeEnd g), (n 0 0 0x4444444433333333 0x2222222211111111 0x1008 1 0x40 1, .nodeKernel g 0x40 true 0x1008 0x44444444333333332222222211111111),
      (n 7 6 5 4 0 0x1010 0x5F 2, .nodeCopy g true 15 2 0x1010 ((7 : W64) ++ (6 : W64) ++ (5 : W64) ++ (4 : W64))), (n 0 0 0 0 0 9 0x1004 3, .nodeCond g 0x1004 9),
      (n 0 0 0 0 0 0x1004 0x0000000A00000003 4, .nodeLoop g 3 10 0x1004), (n 0 0 0 0 0 77 0x1008 5, .nodeWait g 0x1008 77), (n 0 0 0 0 0 78 0x1008 6, .nodeSignal g 0x1008 78),
      (n 0 0 0 0 0 0 1 7, .nodeSeal g true), (n 7 6 5 4 3 2 1 8, .nodeMsg g ((7 : W64) ++ (6 : W64) ++ (5 : W64) ++ (4 : W64) ++ (3 : W64) ++ (2 : W64) ++ (1 : W64))),
      (n 0 0 0 0 0 12 0x1040 9, .nodeSub g 0x1040 12)]
      : List (BitVec 512 × Instr)).all (fun p => match decodeNode p.1 with | .ok i => decide (i = p.2) | .error _ => false) = true := by
  decide +kernel

/-- Words that encode nothing are refused by name: a reserved OPC, an unused register index, a reserved MOP, ROP, KIND, a reserved bit. -/
theorem test_reserved_words : [
    (match decodeSlot 0b00010101_0000_0_00_00_0000000000_0000000000_0_0000_000_000#48 with | .error .reservedOpc => true | _ => false),
    (match decodeSlot 0b00000001_0000_0_00_00_0000000000_0000000000_0_0000_000_001#48 with | .error .slotAux => true | _ => false),
    (match decodeSlot 0b00000001_0000_0_00_00_1000001000_0000000000_0_0000_000_000#48 with | .error .slotTarget => true | _ => false),
    (match decodeMatrix 0#64 with | .error .reservedMop => true | _ => false), (match decodeReel 0#64 with | .error .reservedRop => true | _ => false),
    (match decodeReel 0x0600000000000001#64 with | .error .reelField => true | _ => false), (match decodeRequest 0xA0000000#256 with | .error .reservedKind => true | _ => false),
    (match decodeRequest 0x01000000#256 with | .error .requestField => true | _ => false), (match decodeNode 0xA#512 with | .error .nodeKind => true | _ => false),
    (match decodeNode 0x70#512 with | .error .nodeField => true | _ => false)].all id = true := by
  decide +kernel

/-! ### Smoke: one ill-formed term for each check of `Instr.wf`, beside a well-formed neighbour -/

/-- A slot word of the plainest fields. -/
def w0 : Slot := w 0 false .pop .pop (.queue 0 0) .none false 0
/-- The checks of a slot word: modifier, left and right selector, CIDX, targets and flags (R177 to R180, R215, R225, R247). -/
theorem smoke_slot_words : ([
    .add { w0 with mod := 3 }, .nop { w0 with t1 := .none, mod := 1 }, .cvtf { w0 with mod := 9 }, .ctokIlast { w0 with t1 := .none },
    .inv { w0 with l := .peek }, .loopgen { w0 with r := .k 3 }, .bq { w0 with l := .peek, t2 := .preg 1 }, .bdq { w0 with r := .k 1, l := .c },
    .lnsend { w0 with l := .c }, .pget { w0 with l := .k 1 },
    .loopgen { w0 with l := .peek }, .cnt w0, .abs { w0 with r := .k 2 },
    .add { w0 with cidx := 1 },
    .pset w0, .add { w0 with t1 := .preg 3, t2 := .preg 3 }, .add { w0 with t1 := .cw 3, t2 := .cw 3 },
    .loopgen { w0 with l := .peek, r := .k 3, t2 := .kreg 3 }, .bq { w0 with t1 := .kreg 1, t2 := .sp 1 }, .bq w0,
    .add { w0 with l := .peek, r := .k 1, sq := true }, .nop { w0 with t1 := .none, pq := true }] : List Instr).all (fun i => !i.wf) = true := by decide
theorem smoke_slot_words_ok : ([
    .add w0, .nop { w0 with t1 := .none }, .cvtf { w0 with mod := 8 }, .ctokIlast { w0 with t1 := .none, mod := 4 }, .inv w0,
    .loopgen { w0 with l := .peek, r := .k 3 }, .bq { w0 with t2 := .preg 1 }, .bdq { w0 with r := .k 1 }, .lnsend { w0 with cidx := 7 }, .pget w0, .cnt { w0 with r := .k 2 },
    .add { w0 with l := .c, cidx := 1 }, .pset { w0 with t1 := .none }, .add { w0 with t1 := .preg 3, t2 := .preg 4 }, .add { w0 with r := .k 1, sq := true }] : List Instr).all Instr.wf = true := by decide

/-- The checks of a matrix word (Tables 12.3 and 12.7). -/
theorem smoke_matrix_words : ([
    .mwld ⟨6, 0, 0, 0, .none, 1, 0⟩, .mwldt ⟨4, 0, 1, 0, .none, 1, 0⟩, .mzero ⟨0, 0, 0, 0, .none, 2, 0⟩, .mma ⟨0, 0, 1, 0, .none, 0, 0⟩, .mmasc ⟨0, 7, 1, 1, .none, 1, 0⟩,
    .mmasc ⟨5, 8, 1, 0, .none, 1, 0⟩, .mpromo ⟨0, 0, 0, 0, .sp 1, 1, 0⟩, .mdrain ⟨0, 0, 0, 0, .none, 1, 0⟩, .mpass ⟨1, 0, 0, 0, .none, 1, 0⟩,
    .bgmv ⟨0, 0, 0, 0, .none, 0, 0⟩, .bred ⟨0, 0, 0, 0, .none, 0, 12⟩] : List Instr).all (fun i => !i.wf) = true := by decide

/-- The checks of reel words, requests and nodes (R322, R330, R334 to R337, R343 to R348). -/
theorem smoke_section_words :
    let h : XHead := { tag := 0, sc := false, cq := false, cring := 0, sctr := 0 }
    let g : GHead := { prio := 0, next := 0 }
    ([.loop (.imm 3) 0, .cmpj 6 false 0 0 0, .tensorLoad h { lr := 32, lsp := false, loc := 0, o := 0 }, .gather h { tab := 0, log2rsz := 21, idx := 0, lsp := false, nix := 0, loc := 0 },
      .setRemoteFlag h 0 0 0 1, .reduceCopy h 0 0 0 5, .reduceCopy h 2 0 0 4, .nodeEnd { g with prio := 7 }, .nodeSub g 32 0, .nodeKernel g 32 false 0 0, .nodeCopy g false 0 0 4 0,
      .nodeCond g 2 0, .nodeLoop g 0 1 2, .nodeWait g 4 0, .nodeSignal g 4 0, .nodeSeal { g with prio := 7 } true, .nodeMsg { g with prio := 7 } 0] : List Instr).all (fun i => !i.wf) = true := by
  decide

/-- The checks of the parts that events name (R13, R17). -/
theorem smoke_events : ([
    .slotIndexIssue 0 4 0, .bqBlockEmit 2147483648, .eventHandlerStart 36507222016, .wavefrontPassage 36507222016, .passRegisterTransfer 0 16, .boundLoadStreamIssue 16777216,
    .boundStoreStreamAccess 16777216, .virtualStripeYield 0 128, .statefulSave 0 128, .scrollSwap 0 128, .statefulRestore 0 128, .parkRead 0 16, .planeFill 524288, .streamAccessIssue 16777216,
    .pageWalkComplete 16777216, .stagingRelease 8192, .hostMessageDelivery 8192, .sppWrite 131072 0 0, .partitionEntryRelease 0 8, .tlbivGo 8192 0, .invalidationComplete 8192, .mvfGo 0 16 0,
    .migrationCopyDone 0 16, .hbmRefresh 0 1024, .rowActivationRefresh 0 0 65536, .patrolScrub 131072 0, .ltagSweep 131072, .systolicBeat 0 128, .baseNodeStreamDelivery 16777216, .transferRequestStart 524288,
    .lm64Write 0 16384 0 [], .lm64Take 8192, .walkStart 8192, .taskAging 8192, .taskDispatch 8192, .preemptCommit 8192, .stripeRelease 16777216, .registerWrite 0 1048576 4 0, .bar4Load 0 68719476736 4,
    .bar4Store 8192 0 4 [], .powerGate 524288, .resultRetry 2147483648 false, .planeRefill 0 4, .ecntWrite 0 16 0, .lnkstWrite 0 32 0, .laneFailing 0 0 8 false, .poisonedHostWrite 0 2 68719476736,
    .memoryPortDomainReset 131072, .fabricDieReset 0 16] : List Instr).all (fun i => !i.wf) = true := by decide
/-- Every event that names its package by itself refuses package 8192. -/
theorem smoke_packages : ([
    .sealPeriodExpiry 8192, .sealRequest 8192, .pavaneClose 8192, .pavaneDrain 8192, .pavaneVote 8192, .pavaneSeal 8192, .intervalEnable 8192, .disableRequest 8192, .coldReset 8192, .bootctlGo 8192 0, .attctlGo 8192 0,
    .hmconsWrite 8192 0, .spareReplacement 8192, .sprnowGo 8192 0, .faultRecordDispatch 8192, .faultRecordPost 8192, .fltconsWrite 8192 0, .fltctlKeepClear 8192 0, .fltstatWrite 8192 0, .hosterrWrite 8192 0,
    .sucfgLinkDisable 8192 0, .psnclrGo 8192 0, .pgfresResume 8192 0, .pgfresEnd 8192 0, .dbgresResume 8192 0, .dbgresEnd 8192 0, .dbgresStep 8192 0, .rollbackStart 8192, .rollbackHold 8192, .rollbackQuiet 8192,
    .rollbackApply 8192, .rollbackRepair 8192, .rollbackResume 8192, .memberLost 0 8192, .leaderTakeover 8192, .linkFlitError 0 32, .linkReplay 8192 0, .portDown 0 32, .lnkcfgRetrain 8192 0, .hostLinkDown 8192,
    .hostLinkUp 8192, .hotReset 8192] : List Instr).all (fun i => !i.wf) = true := by decide

/-! ### The spec's own worked examples, run through the machine -/

/-- What one firing with L = k0, R = k1 sends to its targets. -/
def after (i : Instr) (a b x : W32) : List W32 :=
  match exec i (slotState a b x) with
  | .next t => t.fl.emits.map fun e => e.tok.payload
  | _ => []
/-- Targets k2 and k3. -/
def kk (m : BitVec 4) : Slot := { kSlot m with t2 := .kreg 3 }
/-- One operand only. -/
def k1 (m : BitVec 4) : Slot := { kSlot m with r := .pop }

/-- R207's packed add, R208's carry and borrow, R209, Table 9.2, R211's shifts and R215's table. -/
theorem test_integer_examples : [
    decide (after (.add (kSlot 2)) 0x7F8001FF 0x01FF0101 0 = [0x807F0200]), decide (after (.add (kSlot 10)) 0x7F8001FF 0x01FF0101 0 = [0x7F800200]),
    decide (after (.abs (k1 0)) 0x80000000 0 0 = [0x80000000]), decide (after (.abs (k1 8)) 0x80000000 0 0 = [0x7FFFFFFF]),
    decide (after (.addc (kk 0)) 0xFFFFFFFF 0 0xFFFFFFF1 = [0, 1]), decide (after (.subb (kk 0)) 0 0 1 = [0xFFFFFFFF, 1]),
    decide (after (.bperm (kSlot 0)) 0x11223344 0x0123 0 = [0x44332211]), decide (after (.bperm (kSlot 0)) 0x112233C4 0x8880 0 = [0xC4]),
    decide (after (.bperm (kSlot 0)) 0x112233C4 0x5440 0 = [0x00FFFFC4]), decide (after (.div (kSlot 0)) 7 0 0 = [0xFFFFFFFF]),
    decide (after (.div (kSlot 8)) 7 0 0 = [0x7FFFFFFF]), decide (after (.rem (kSlot 0)) 7 0 0 = [7]),
    decide (after (.div (kSlot 0)) 0x80000000 0xFFFFFFFF 0 = [0x80000000]), decide (after (.div (kSlot 8)) 0x80000000 0xFFFFFFFF 0 = [0x7FFFFFFF]),
    decide (after (.div (kSlot 8)) 0xFFFFFFF9 0 0 = [0x80000000]), decide (after (.div (kSlot 0)) 0xFFFFFFF9 2 0 = [0xFFFFFFFD]),
    decide (after (.rem (kSlot 0)) 0xFFFFFFF9 2 0 = [0xFFFFFFFF]), decide (after (.div (kSlot 4)) 0xFFFFFFF9 2 0 = [0x7FFFFFFC]),
    decide (after (.rem (kSlot 4)) 0xFFFFFFF9 2 0 = [1]), decide (after (.fsh (kSlot 0)) 0x12345678 0x9ABCDEF0 32 = [0x12345678]),
    decide (after (.fsh (kSlot 4)) 0x12345678 0x9ABCDEF0 4 = [0x89ABCDEF]), decide (after (.shl (kSlot 0)) 1 32 0 = [0]),
    decide (after (.shr (kSlot 4)) 0x80000000 99 0 = [0xFFFFFFFF])].all id = true := by decide +kernel

/-- `lop3` of a = 0xC, b = 0xA, x = 0x9 under T = 0xD2 in `c0` is 0xD (R215). -/
theorem test_lop3_example : lop3W 0xD2 0xC 0xA 0x9 = 0xD := by decide +kernel

/-- R235, R241, R243, R244 and R245's examples; 1/3, √2 and 1/√2 rounded to the nearest. -/
theorem test_float_examples : [
    decide (after (.fclass (k1 4)) 0x7FC08001 0 0 = [0x01000004]), decide (after (.phx (kSlot 2)) 0 0 0 = [0xBC57AC4C]),
    decide (after (.cvti (k1 1)) 0xCF000001 0 0 = [0x80000000]), decide (after (.cvtif (k1 7)) 0xFFFFFFFF 0 0 = [0x4F800000]),
    decide (after (.cvtif (k1 5)) 0xFFFFFFFF 0 0 = [0x4F7FFFFF]), decide (after (.pack (kSlot 0)) 0x3FC00000 0xC3FA0000 0 = [0x0000FE3C]),
    decide (after (.pack (kSlot 1)) 0 0x3DA00000 0xFE3C = [0x1A00FE3C]), decide (after (.frcp (k1 0)) 0x40400000 0 0 = [0x3EAAAAAB]),
    decide (after (.fsqrt (k1 0)) 0x40000000 0 0 = [0x3FB504F3]), decide (after (.frsq (k1 0)) 0x40000000 0 0 = [0x3F3504F3]),
    decide (after (.fadd (kSlot 0)) 0x4B800000 0x3F800000 0 = [0x4B800000]), decide (after (.fadd (kSlot 3)) 0x4B800000 0x3F800000 0 = [0x4B800001])].all id = true := by decide +kernel

/-- Known values of the functions: √2 = 2^0.5, sin 1, cos 1, tanh 1, log2 3 to the nearest FP32. -/
theorem test_function_values :
    fexp2W 0x3F000000 = 0x3FB504F3 ∧ fsinW 0x3F800000 = 0x3F576AA4 ∧ fcosW 0x3F800000 = 0x3F0A5140 ∧ ftanhW 0x3F800000 = 0x3F42F7D6 ∧ flog2W 0x40400000 = 0x3FCAE00D := by decide +kernel

/-- R93 and R94's block of four. -/
theorem test_block_example :
    let xs : List W32 := [0x40400000, 0xC47A0000, 0, 0x3E200000]
    blockScale 0 xs = 0x80 ∧ xs.map (quantN 0 0x80) = [0x3C, 0xFE, 0x00, 0x1A]
    ∧ [0x3C, 0xFE, 0x00, 0x1A].map (fun q => dequant 0 q 0x80) = [0x40400000, 0xC4600000, 0, 0x3E200000] := by decide +kernel

/-- R95's one rounding per step: 2^24 and sixteen products of 1.0 give 16,777,232. -/
theorem test_kstep_example : kstepFP 0x4B800000 (List.replicate 16 (fval 0x3F800000)) = 0x4B800008 := by decide +kernel

/-- The leaves of R100 in the order 3, 4, 0, 2, 1 (Table 10.7): what `redStep` leaves of each. -/
def fiveLeaves : List (W32 × W32) → List HoldEnt → Option W32
  | [], _ => none
  | p :: ps, st =>
    match redStep 0 8 4 st p.1 p.2 false with
    | .emit v _ _ _ => if ps.isEmpty then some v else none
    | .insert _ st' => fiveLeaves ps st'
    | .breach _ => none
theorem test_tree_example :
    fiveLeaves [(0x3F800000, 0x180), (0x3F800000, 0x201), (0x4B800000, 0), (0x3F800000, 0x100), (0x3F800000, 0x080)] [] = some 0x4B800002 := by decide +kernel

/-- R169's delta and R455's rebuild of members 3 and 4. -/
theorem test_parity_examples :
    gfMul (gfCoef 1 3) 0x5A = 0xEA ∧ gfMul (gfCoef 0 3) 0x5A = 0x5A ∧ rebuildByte 4 2 [3, 4] [1, 2, 4, 0, 0, 2] = [1, 2, 4, 0x66, 0x61, 0x02] := by decide +kernel

/-- The worked slot words of chapters 8, 10 and 11, and the matrix words of chapter 12. -/
theorem test_worked_words :
    encodeSlot .ffma { mod := 0, pq := true, l := .pop, r := .c, t1 := .queue 0 17, t2 := .kreg 1, sq := true, cidx := 2 } = 0x5309A2300C80
    ∧ encodeSlot .fmul { w0 with r := .c, t1 := .queue 0 1 } = 0x5201A0200000 ∧ encodeSlot .fadd { w0 with t1 := .preg 0 } = 0x500050000000
    ∧ encodeSlot .radd { w0 with mod := 8, t1 := .queue 0 5 } = 0x6A8020A00000 ∧ encodeSlot .stg { w0 with mod := 4, r := .c, t1 := .queue 3 5, cidx := 1 } = 0x9241B8A00040
    ∧ encodeSlot .stg { w0 with mod := 4, pq := true, l := .k 1, r := .c, t1 := .none, cidx := 2 } = 0x924D80000081
    ∧ encodeMatrix .mzero ⟨0, 0, 0, 0, .none, 1, 0⟩ = 0x0C00000000040000 ∧ encodeMatrix .mwld ⟨0, 0, 1, 0, .none, 1, 0⟩ = 0x0400400000040000
    ∧ encodeMatrix .mmasc ⟨0, 8, 1, 1, .none, 8, 0⟩ = 0x1408500000200000 ∧ encodeMatrix .mdrain ⟨0, 0, 0, 0, .queue 0 1, 1, 0⟩ = 0x1C00040400040000
    ∧ (match decodeSlot 0x53C000000000 with | .error _ => true | .ok _ => false) = true := by decide +kernel

/-- SHA-256 of "abc", the example of FIPS 180-4 (log 47). -/
theorem test_sha_example :
    beNat (sha256 [0x61, 0x62, 0x63]) = 0xba7816bf8f01cfea414140de5dae2223b00361a396177a9cb410ff61f20015ad := by decide +kernel

end Sys2Proof.Machine
end

section
/-! SUPPORT. Laws that boot and resets need: filtered maps, folds that keep a part of the state, registers and writes of the window, bytes written, discarded work, withdrawn streams and ports that go down. -/
namespace Sys2Proof

/-! ### Filtered maps -/

/-- A filter that keeps no entry at a key leaves nothing there. -/
theorem FMap.get_filter_gone {α : Type} (d : α) (p : Nat × α → Bool) (m : FMap α) (a : Nat) (h : ∀ v, p (a, v) = false) :
    FMap.get d (m.filter p) a = d := by
  induction m with
  | nil => rfl
  | cons x m ih =>
    obtain ⟨k, w⟩ := x
    by_cases hp : p (k, w) = true
    · have hk : k ≠ a := by rintro rfl; simp [h] at hp
      simp [hp, FMap.get_cons, hk, ih]
    · simp [hp, ih]

/-- A canonical map holds nothing at or below its lower bound. -/
theorem FMap.get_of_wfFrom {α : Type} [DecidableEq α] (d : α) (m : FMap α) (l a : Nat) (h : FMap.wfFrom d (some l) m = true) (ha : a ≤ l) :
    FMap.get d m a = d := by
  cases m with
  | nil => rfl
  | cons x m =>
    obtain ⟨k, w⟩ := x
    obtain ⟨hk, -, -⟩ := (FMap.wfFrom_some ..).1 h
    rw [FMap.get_cons, if_neg (by omega), if_pos (by omega)]

/-- A filter that keeps every entry at a key of a canonical map leaves the reading there. -/
theorem FMap.get_filter_kept {α : Type} [DecidableEq α] (d : α) (p : Nat × α → Bool) (m : FMap α) (a : Nat)
    (hm : FMap.wf d m = true) (h : ∀ v, p (a, v) = true) : FMap.get d (m.filter p) a = FMap.get d m a := by
  induction m with
  | nil => rfl
  | cons x m ih =>
    obtain ⟨k, w⟩ := x
    have hk := ((FMap.wfFrom_none ..).1 hm).2
    have ih := ih (FMap.wf_of_from d m k hk)
    by_cases hp : p (k, w) = true
    · rw [List.filter_cons, if_pos hp, FMap.get_cons, FMap.get_cons, ih]
    · have hka : k ≠ a := by rintro rfl; exact hp (h w)
      rw [List.filter_cons, if_neg hp, FMap.get_cons, if_neg hka]
      by_cases hak : a < k
      · rw [if_pos hak]
        exact FMap.get_of_wfFrom d _ k a (FMap.wfFrom_filter d p m k hk) (Nat.le_of_lt hak)
      · rw [if_neg hak, ih]

end Sys2Proof

namespace Sys2Proof.Machine
open Sys2Proof

/-! ### Folds -/

/-- A fold of steps that keep a part of the state keeps it. -/
theorem foldl_keeps_of_mem {σ α β : Type} (p : σ → β) (f : σ → α → σ) (l : List α) (s : σ) (h : ∀ u, ∀ a ∈ l, p (f u a) = p u) :
    p (l.foldl f s) = p s :=
  List.foldlRecOn (motive := fun u => p u = p s) l f rfl fun u hu a ha => (h u a ha).trans hu
theorem foldl_keeps {σ α β : Type} (p : σ → β) (f : σ → α → σ) (l : List α) (s : σ) (h : ∀ u a, p (f u a) = p u) :
    p (l.foldl f s) = p s := foldl_keeps_of_mem p f l s fun u a _ => h u a

/-! ### Registers and the window -/

/-- A register that no write reaches reads as before. -/
theorem State.reg_setReg_other (s : State) (pk off q n : Nat) (v : W64) (ho : off < 2 ^ 20) (hn : n < 2 ^ 20) (hne : off ≠ n)
    (hp : ¬(n = 0x68 ∨ n = 0x70)) : (s.setReg pk off v).reg q n = s.reg q n := by
  rw [State.reg_setReg, if_neg hp, if_neg (by omega)]

/-- Registers that take their reset values hold them; every other one reads as before. -/
theorem State.reg_foldl_regReset (l : List Nat) (off : Nat → Nat) (s : State) (pk n : Nat) (hp : ¬(n = 0x68 ∨ n = 0x70)) :
    (l.foldl (fun u i => u.setReg pk (off i) (regReset pk (off i))) s).reg pk n
      = if n ∈ l.map off then regReset pk n else s.reg pk n := by
  induction l generalizing s with
  | nil => rfl
  | cons i l ih =>
    rw [List.foldl_cons, ih, State.reg_setReg, if_neg hp]
    by_cases hi : off i = n
    · simp [hi]
    · simp [hi, Ne.symm hi]

/-- PWRSTAT and ENERGY read 0 in the cycle in which the package's clock starts. -/
theorem State.powerReg_of_clock_eq_zero (s : State) (pk off : Nat) (h : s.clock pk = 0) : s.powerReg pk off = 0 := by
  rw [State.powerReg, if_pos h]

theorem regReset_power (pk off : Nat) (h : off = 0x68 ∨ off = 0x70) : regReset pk off = 0 := by
  obtain rfl | rfl := h <;> rfl

theorem State.reg_reset (pk off : Nat) (hp : ¬(off = 0x68 ∨ off = 0x70)) : State.reset.reg pk off = regReset pk off := by
  rw [State.reg, if_neg hp]; rfl

theorem regAt_spp : ∀ m < 16, ∀ n < 8, (regAt (0x41000 + 64 * m + 8 * n)).map Prod.fst = some .spp := by decide

theorem regReset_spp_eq_zero (pk m n : Nat) (hm : m < 16) (hn : n < 8) : regReset pk (0x41000 + 64 * m + 8 * n) = 0 := by
  obtain ⟨⟨k, i⟩, hat, rfl⟩ := Option.map_eq_some_iff.1 (regAt_spp m hm n hn)
  rw [regReset, hat]
  rfl

/-- A write that passes every check of R408 has its effect. -/
theorem State.windowWrite_accepted (s : State) (pk off : Nat) (v : W64) (act : W64 → State → State) (k : RKind) (i : Nat)
    (hon : s.windowOn pk = true) (hat : regAt off = some (k, i)) (hrsv : v &&& k.rsv = 0) (hbad : k.bad (s.reg pk off) v = false)
    (hallow : s.writeAllowed pk k i off v = true) : s.windowWrite pk off v act = act (k.accept (s.reg pk off) v) s := by
  rw [State.windowWrite, if_neg (by simp [hon])]
  simp only [hat]
  rw [if_neg (by simp [hrsv, hbad, hallow])]

/-! ### Bytes -/

theorem leBytes_length (n v : Nat) : (leBytes n v).length = n := by
  induction n generalizing v with
  | zero => rfl
  | succ n ih => rw [leBytes, List.length_cons, ih]
theorem beBytes_length (n v : Nat) : (beBytes n v).length = n := by
  rw [beBytes, List.length_reverse, leBytes_length]

/-- Bytes written read back. -/
theorem State.peeks_poke (s : State) (a n : Nat) (bs : List Byte) (hlen : bs.length = n) : (s.poke a bs).peeks a n = bs := by
  refine List.ext_getElem (by simp [State.peeks, hlen]) fun i _ hi => ?_
  simp only [State.peeks, List.getElem_map, List.getElem_range, State.peek_poke]
  rw [if_pos (by omega), Nat.add_sub_cancel_left, List.getD_eq_getElem?_getD,
    List.getElem?_eq_getElem hi, Option.getD_some]

/-- A write of bytes leaves every byte outside them. -/
theorem State.poke_sameMemExcept (s : State) (a n : Nat) (bs : List Byte) (hlen : bs.length = n) : SameMemExcept s (s.poke a bs) a n :=
  fun x hx => by rw [State.peek_poke, if_neg (by omega)]

/-- States whose memory is the same read the same. -/
theorem sameMem_of_mem_eq {s t : State} (h : t.mem = s.mem) : SameMem s t := fun x => by rw [State.peek, h, State.peek]

/-! ### Discarded work leaves memory -/

@[simp] theorem State.dropFigure_mem (s : State) (fg : Nat) : (s.dropFigure fg).mem = s.mem := foldl_mem _ _ _ fun _ _ => rfl
@[simp] theorem State.endFig_mem (s : State) (fg : Nat) : (s.endFig fg).mem = s.mem := s.dropFigure_mem fg
@[simp] theorem State.reapFig_mem (s : State) (fg : Nat) : (s.reapFig fg).mem = s.mem := by
  unfold State.reapFig; dsimp only; split <;> rfl
@[simp] theorem State.queueRec_mem (s : State) (pk : Nat) (r : FaultRec) : (s.queueRec pk r).1.mem = s.mem := by
  unfold State.queueRec; dsimp only; split <;> rfl
@[simp] theorem State.discardFig_mem (s : State) (fg : Nat) : (s.discardFig fg).mem = s.mem := by
  unfold State.discardFig
  simp only [State.reapFig_mem, State.endFig_mem, State.setFig_mem]
  split
  · exact foldl_mem _ _ _ fun _ _ => State.queueRec_mem ..
  · rfl
@[simp] theorem State.discardWork_mem (s : State) (pk : Nat) : (s.discardWork pk).mem = s.mem :=
  (foldl_mem (fun u (c : Nat × List Lm) => u.setChan pk c.1 []) _ _ fun _ _ => rfl).trans
    (foldl_mem (fun u (f : Nat × Fig) => u.discardFig f.1) _ _ fun u f => u.discardFig_mem f.1)

/-! ### Withdrawn streams, ports that go down, rings in reset -/

/-- Withdrawn accesses and the order given up leave every part of the state but the fabric and what is on its way. -/
theorem State.withdraw_keeps {β : Type} (p : State → β) (h : ∀ (u : State) fab fl, p { u with fab := fab, fl := fl } = p u)
    (s : State) (rs : Nat) : p (s.withdraw rs) = p s := by
  rw [State.withdraw, State.withdrawFrom, State.dropOrder]
  calc p (State.setStrm _ rs _)
    _ = p (List.foldl (fun u (x : Nat × Ret) => u.unreserve x.1) _ _) := h _ _ _
    _ = p (List.foldl (fun u (x : Nat × Access) => (u.delAcc x.1).unreserve x.1) _ _) := foldl_keeps p _ _ _ fun u _ => h u u.fab _
    _ = p s := foldl_keeps p _ _ _ fun u _ => h u u.fab _
/-- So does the reset of its address-generator unit. -/
theorem State.resetStrm_keeps {β : Type} (p : State → β) (h : ∀ (u : State) fab fl, p { u with fab := fab, fl := fl } = p u)
    (s : State) (rs : Nat) : p (s.resetStrm rs) = p s := (h _ _ _).trans (State.withdraw_keeps p h s rs)

/-- A port that goes down changes its registers, and beside them only what is on its way, its replays, free values and fault records. -/
theorem State.downPort_keeps {β : Type} (p : State → β)
    (h : ∀ (u : State) fl r free det, p { u with fl := fl, out := { u.out with replays := r }, free := free, det := det } = p u)
    (s : State) (pk port : Nat) : p (s.downPort pk port) = p (s.setPortUp pk port false) := by
  rw [State.downPort]
  dsimp only
  split
  · exact h _ _ _ _ _
  · refine (h _ _ _ _ _).trans ((foldl_keeps p _ _ _ fun u id => ?_).trans (h _ _ _ _ _))
    split
    · exact h u _ u.out.replays _ u.det
    · exact h u u.fl u.out.replays _ u.det

@[simp] theorem State.setPortUp_mem (s : State) (pk port : Nat) (up : Bool) : (s.setPortUp pk port up).mem = s.mem := by
  cases up <;> rfl
@[simp] theorem State.downPort_mem (s : State) (pk port : Nat) : (s.downPort pk port).mem = s.mem :=
  (State.downPort_keeps State.mem (fun _ _ _ _ _ => rfl) s pk port).trans (State.setPortUp_mem ..)

/-- A port that goes down changes its LNKST and SUSTAT; every other register reads as before. -/
theorem State.reg_downPort (s : State) (pk port q n : Nat) (hport : port < 32) (hn : n < 2 ^ 20) (hl : lnkst port ≠ n) (hs : n ≠ 0x58)
    (hp : ¬(n = 0x68 ∨ n = 0x70)) : (s.downPort pk port).reg q n = s.reg q n := by
  have hlt : lnkst port < 2 ^ 20 := by rw [lnkst]; omega
  rw [State.downPort_keeps (fun u => u.reg q n) fun _ _ _ _ _ => rfl]
  show (((s.setReg pk (lnkst port) _).setReg pk 0x58 _).reg q n) = _
  rw [State.reg_setReg_other _ _ _ _ _ _ (by decide) hn hs.symm hp, State.reg_setReg_other _ _ _ _ _ _ hlt hn hl hp]

/-- Rings that are put into reset are in reset; every other one as before. -/
theorem State.inReset_foldl_setRing (l : List Nat) (f : Nat → Nat) (s : State) (g : Nat) :
    ((l.foldl (fun u i => u.setRing (f i) { u.ring (f i) with inReset := true }) s).ring g).inReset
      = (decide (g ∈ l.map f) || (s.ring g).inReset) := by
  induction l generalizing s with
  | nil => simp
  | cons i l ih =>
    rw [List.foldl_cons, ih, State.ring_setRing]
    by_cases hi : f i = g
    · simp [hi]
    · simp [hi, Ne.symm hi]

end Sys2Proof.Machine
end

section
/-! CERTIFICATE. Boot, attestation, power gating and resets (R8, R119, R373 to R376), and what the machine holds after reset (R8, R54, R374). -/
namespace Sys2Proof.Machine
open Sys2Proof

/-! ### A wiped package -/

/-- A wipe takes the package's bytes outside the host's memory from what memory lists. -/
theorem State.wipe_mem (s : State) (pk : Nat) :
    (s.wipe pk).mem = s.mem.filter fun b => !decide (b.1 < 2 ^ 60 ∧ paSpace b.1 ≠ 1 ∧ paPkg b.1 = pk) := by
  rw [← State.discardWork_mem s pk]; rfl

theorem State.peek_wipe_host (s : State) (pk a : Nat) (hm : Memory.wf s.mem = true) (ha : paSpace a = 1) :
    (s.wipe pk).peek a = s.peek a := by
  unfold State.peek
  rw [State.wipe_mem]
  exact FMap.get_filter_kept 0 _ _ _ hm fun v => by simp [ha]

theorem State.peek_wipe_own (s : State) (a : Nat) (h60 : a < 2 ^ 60) (ha : paSpace a ≠ 1) : (s.wipe (paPkg a)).peek a = 0 := by
  unfold State.peek
  rw [State.wipe_mem]
  exact FMap.get_filter_gone 0 _ _ _ fun _ => congrArg not (decide_eq_true ⟨h60, ha, rfl⟩)

/-- The clock of a package starts again at its wipe. -/
theorem State.clock_wipe (s : State) (pk : Nat) : (s.wipe pk).clock pk = 0 := by
  show (s.wipe pk).cyc - FMap.get 0 (FMap.put 0 _ pk (s.wipe pk).cyc) pk = 0
  rw [FMap.get_put, if_pos rfl, Nat.sub_self]

theorem State.reg_wipe (s : State) (pk off : Nat) (h : off < 2 ^ 20) (hp : ¬(off = 0x68 ∨ off = 0x70)) :
    (s.wipe pk).reg pk off = regReset pk off := by
  have hk : (pk * 0x100000 + off) / 0x100000 = pk := by omega
  have hg : (s.wipe pk).regs.get none (pk * 0x100000 + off) = none :=
    FMap.get_filter_gone none _ _ _ fun v => by simp [hk]
  rw [State.reg, if_neg hp, hg, Option.getD_none]

/-! ### Cold reset -/

/-- The state that a cold reset leaves. -/
def State.coldReset (s : State) (pk : Nat) : State := ((s.wipe pk).setHostDown pk false).bootStep pk 2

theorem exec_coldReset (s : State) (pk : Nat) : exec (.coldReset pk) s = .next (s.coldReset pk) := rfl

theorem State.reg_coldReset_bootstat (s : State) (pk : Nat) : (s.coldReset pk).reg pk 0x18 = 2 :=
  State.reg_setReg_same _ pk 0x18 _ (by decide)

theorem State.reg_coldReset (s : State) (pk off : Nat) (h : off < 2 ^ 20) (hb : off ≠ 0x18) : (s.coldReset pk).reg pk off = regReset pk off := by
  by_cases hp : off = 0x68 ∨ off = 0x70
  · rw [State.reg, if_pos hp, regReset_power pk off hp]
    exact State.powerReg_of_clock_eq_zero _ pk off (s.clock_wipe pk)
  · exact (State.reg_setReg_other _ pk 0x18 pk off _ (by decide) h hb.symm hp).trans (s.reg_wipe pk off h hp)

theorem State.peek_coldReset (s : State) (pk a : Nat) : (s.coldReset pk).peek a = (s.wipe pk).peek a := rfl

/-- A cold reset (R8, R374). -/
theorem coldReset_resets (s : State) (pk : Nat) :
    ∃ t, exec (.coldReset pk) s = .next t ∧ t.reg pk 0x18 = 2 ∧ (∀ off < 2 ^ 20, off ≠ 0x18 → t.reg pk off = regReset pk off)
      ∧ (Memory.wf s.mem = true → ∀ a < 2 ^ 60, paSpace a = 1 → t.peek a = s.peek a)
      ∧ (∀ a < 2 ^ 60, paSpace a ≠ 1 → paPkg a = pk → t.peek a = 0) := by
  refine ⟨_, exec_coldReset s pk, s.reg_coldReset_bootstat pk, s.reg_coldReset pk, fun hm a _ ha => ?_, ?_⟩
  · exact (s.peek_coldReset pk a).trans (s.peek_wipe_host pk a hm ha)
  · rintro a h60 ha rfl
    exact (s.peek_coldReset _ a).trans (s.peek_wipe_own a h60 ha)

/-! ### The boot -/

theorem State.windowWrite_bootctl (s : State) (pk : Nat) (act : W64 → State → State) (hon : s.windowOn pk = true) :
    s.windowWrite pk 0x8 1 act = act (RKind.bootctl.accept (s.reg pk 0x8) 1) s :=
  s.windowWrite_accepted pk 0x8 1 act .bootctl 0 hon rfl (by decide) rfl rfl

/-- Where BOOTSRC says that the bundle lies in the host's memory. -/
def State.bootSrc (s : State) (pk : Nat) : Nat := (s.reg pk 0x10).toNat % 2 ^ 40
/-- The header of that bundle. -/
def State.bootHeader (s : State) (pk : Nat) : List Byte := s.hostBytes pk (s.bootSrc pk) bundleLen

section
variable {s : State} {pk : Nat} (hon : s.windowOn pk = true) (h2 : s.reg pk 0x18 = 2)
include hon h2

/-- A write of BOOTCTL.GO = 1 at step 2 whose header fails a check stops at step 3 (R374). -/
theorem exec_bootctlGo_of_headerCause {c : Nat × Nat} (hh : headerCause pk (s.bootHeader pk) = some c) :
    exec (.bootctlGo pk 1) s = .next (s.bootFail pk 3 c) := by
  show Host.Outcome.next (s.bootWrite pk 1) = _
  unfold State.bootHeader State.bootSrc at hh
  rw [State.bootWrite, State.windowWrite_bootctl s pk _ hon, if_neg (by simp [h2])]
  simp only [hh]

/-- One whose header holds and whose image fails a check stops at step 4 (R374). -/
theorem exec_bootctlGo_of_imageCause {c : Nat × Nat} (hh : headerCause pk (s.bootHeader pk) = none)
    (hi : s.imageCause pk (s.bootSrc pk) (s.bootHeader pk) = some c) : exec (.bootctlGo pk 1) s = .next (s.bootFail pk 4 c) := by
  show Host.Outcome.next (s.bootWrite pk 1) = _
  unfold State.bootHeader State.bootSrc at hh hi
  rw [State.bootWrite, State.windowWrite_bootctl s pk _ hon, if_neg (by simp [h2])]
  simp only [hh, hi]

/-- One that passes both goes on under the header's number (R373, R374). -/
theorem exec_bootctlGo_of_checked (hh : headerCause pk (s.bootHeader pk) = none)
    (hi : s.imageCause pk (s.bootSrc pk) (s.bootHeader pk) = none) : let q := bnum (s.bootHeader pk) 0xC 4 % 8192
    exec (.bootctlGo pk 1) s = .next (if q = pk then s.bootLate pk (s.bootHeader pk)
      else if (s.reg q 0x18).getLsbD 4 then s else (s.renumber pk q).bootLate q (s.bootHeader pk)) := by
  show Host.Outcome.next (s.bootWrite pk 1) = _
  unfold State.bootHeader State.bootSrc at *
  rw [State.bootWrite, State.windowWrite_bootctl s pk _ hon, if_neg (by simp [h2])]
  simp only [hh, hi]
end

/-- A failed check stands in BOOTSTAT and BOOTERR (R374). -/
theorem State.reg_bootFail (s : State) (pk step : Nat) (c : Nat × Nat) (hs : step < 16) (h1 : c.1 < 16) (h2 : c.2 < 2 ^ 32) :
    ((s.bootFail pk step c).reg pk 0x18).toNat = step + 32
      ∧ ((s.bootFail pk step c).reg pk 0x16028).toNat = c.1 + 16 * step + 256 * c.2 := by
  constructor
  · rw [State.bootFail, State.reg_setReg_other _ _ _ _ _ _ (by decide) (by decide) (by decide) (by decide),
      State.reg_setReg_same _ _ _ _ (by decide), BitVec.toNat_ofNat, Nat.mod_eq_of_lt (by omega)]
  · rw [State.bootFail, State.reg_setReg_same _ _ _ _ (by decide), BitVec.toNat_ofNat, Nat.mod_eq_of_lt (by omega)]

/-! ### Attestation -/

/-- The report's first bytes end where Table 15.4 puts the signature. -/
theorem State.reportHead_length (s : State) (pk : Nat) : (s.reportHead pk).length = 0x90 := by
  simp [State.reportHead, leBytes_length, beBytes_length, List.range_succ]
theorem State.report_length (s : State) (pk : Nat) : (s.report pk).length = 528 := by
  rw [State.report, List.length_append, State.reportHead_length, beBytes_length]

theorem exec_attctlGo_one (s : State) (pk : Nat) (hon : s.windowOn pk = true) :
    exec (.attctlGo pk 1) s = .next (s.poke (hostPA pk ((s.reg pk 0x80).toNat % 2 ^ 40)) (s.report pk)) := by
  show Host.Outcome.next (s.attWrite pk 1) = _
  rw [State.attWrite, State.windowWrite_accepted s pk 0x78 1 _ .attctl 0 hon rfl (by decide) rfl rfl, if_pos (by decide)]

/-- The report stands at ATTDST, and nothing else changes in memory (R375). -/
theorem attctlGo_writes_report (s : State) (pk : Nat) (hon : s.windowOn pk = true) : let a := hostPA pk ((s.reg pk 0x80).toNat % 2 ^ 40)
    ∃ t, exec (.attctlGo pk 1) s = .next t ∧ t.peeks a 528 = s.report pk ∧ SameMemExcept s t a 528 :=
  ⟨_, exec_attctlGo_one s pk hon, s.peeks_poke _ _ _ (s.report_length pk), s.poke_sameMemExcept _ _ _ (s.report_length pk)⟩

/-! ### Power gating -/

theorem exec_powerGate_idle (s : State) (ring : Nat) (hfree : ∀ i < 32, (s.stripe (ring * 32 + i)).rg = none)
    (hbusy : (s.ring ring).busyAt + 1000 * 1800 ≤ s.cyc) (hclock : s.out.clock0.get 0 (pkOf ring) + 1000 * 1800 ≤ s.cyc) :
    exec (.powerGate ring) s = .next (s.setRing ring { s.ring ring with gated := true }) := by
  have hidle : ((List.range 32).all fun i => decide ((s.stripe (ring * 32 + i)).rg = none)) = true := by
    simpa [List.all_eq_true] using hfree
  show execPowerGate ring s = _
  rw [execPowerGate]
  exact if_pos ⟨hidle, by rw [usCycles]; omega⟩

/-! ### Resets of a die: the parts of a memory-port die's reset, in order, and a fabric die's -/

/-- The die's scratchpad partitions take their reset values. -/
def State.resetSpps (s : State) (mp : Nat) : State :=
  (List.range 8).foldl (fun u n =>
    u.setReg (mp / 16) (0x41000 + 64 * (mp % 16) + 8 * n) (regReset (mp / 16) (0x41000 + 64 * (mp % 16) + 8 * n))) s
/-- The die's two link ports go down. -/
def State.downDiePorts (s : State) (mp : Nat) : State :=
  [2 * (mp % 16), 2 * (mp % 16) + 1].foldl (fun u p => if u.portUp (mp / 16) p then u.downPort (mp / 16) p else u) s
/-- The streams of the die's address-generator units are reset. -/
def State.resetDieStrms (s : State) (mp : Nat) : State :=
  ((s.fab.strms.map Prod.fst).filter fun rs => decide ((unitOf rs).1 = mp)).foldl State.resetStrm s
/-- The die's part of the close-window tables is gone. -/
def State.clearDieCwt (s : State) (mp : Nat) : State :=
  (stacksOf (mp / 16)).foldl (fun u k => u.setStack k { u.stack k with cwt := (u.stack k).cwt.filter fun l => decide (homeDie l ≠ mp) }) s

/-- The state from which a memory-port die's reset empties its caches and its engine. -/
def State.dieReset (s : State) (mp : Nat) : State := (((s.resetSpps mp).downDiePorts mp).resetDieStrms mp).clearDieCwt mp

theorem State.dieReset_mem (s : State) (mp : Nat) : (s.dieReset mp).mem = s.mem := by
  calc (s.dieReset mp).mem
    _ = (((s.resetSpps mp).downDiePorts mp).resetDieStrms mp).mem := foldl_mem _ _ _ fun _ _ => rfl
    _ = ((s.resetSpps mp).downDiePorts mp).mem := foldl_mem _ _ _ fun u rs => State.resetStrm_keeps State.mem (fun _ _ _ => rfl) u rs
    _ = (s.resetSpps mp).mem := foldl_mem _ _ _ fun u p => by split <;> simp
    _ = s.mem := foldl_mem _ _ _ fun _ _ => rfl

/-- The die's scratchpad partitions are at their reset value after its reset. -/
theorem State.spp_dieReset (s : State) (mp n : Nat) (hn : n < 8) : (s.dieReset mp).spp mp n = 0 := by
  have hm : mp % 16 < 16 := Nat.mod_lt _ (by decide)
  calc (s.dieReset mp).spp mp n
    _ = (((s.resetSpps mp).downDiePorts mp).resetDieStrms mp).spp mp n := foldl_keeps (fun u : State => u.spp mp n) _ _ _ fun _ _ => rfl
    _ = ((s.resetSpps mp).downDiePorts mp).spp mp n :=
      foldl_keeps (fun u : State => u.spp mp n) _ _ _ fun u rs => State.resetStrm_keeps (fun u : State => u.spp mp n) (fun _ _ _ => rfl) u rs
    _ = (s.resetSpps mp).spp mp n := ?ports
    _ = regReset (mp / 16) (0x41000 + 64 * (mp % 16) + 8 * n) := ?spps
    _ = 0 := regReset_spp_eq_zero _ _ _ hm hn
  case ports =>
    refine foldl_keeps_of_mem (fun u : State => u.spp mp n) _ _ _ fun u p hport => ?_
    have hport : p < 32 := by simp only [List.mem_cons, List.not_mem_nil, or_false] at hport; omega
    split
    · exact u.reg_downPort _ p _ _ hport (by omega) (by rw [lnkst]; omega) (by omega) (by omega)
    · rfl
  case spps =>
    exact (s.reg_foldl_regReset _ (fun i => 0x41000 + 64 * (mp % 16) + 8 * i) (mp / 16) _ (by omega)).trans
      (if_pos (List.mem_map.2 ⟨n, List.mem_range.2 hn, rfl⟩))

/-- What a memory-port die's reset takes from its caches, its parity unit's deltas and its Transfer Engine. -/
def State.emptyDie (s : State) (mp : Nat) : State :=
  { s with
    ms := { s.ms with
      parts := s.ms.parts.filter (fun p => decide (p.1 / 8 ≠ mp)), tlb1 := s.ms.tlb1.filter (fun t => decide (t.1 / 16 ≠ mp))
      tlb2 := s.ms.tlb2.filter (fun t => decide (t.1 ≠ mp)), layouts := s.ms.layouts.filter (fun l => decide (l.1 ≠ mp))
      deltas := s.ms.deltas.filter fun d => decide (homeDie (d.2.src * 2 ^ 40 + pgOff (s.pgtb d.2.src d.2.grp) + d.2.off) ≠ mp) }
    eng := {
      queues := s.eng.queues.filter fun q => decide (q.1 / 4 ≠ mp)
      reqs := s.eng.reqs.filter fun r => decide (r.2.tp / 4 ≠ mp) } }

theorem exec_memoryPortDomainReset (s : State) (mp : Nat) : exec (.memoryPortDomainReset mp) s = .next ((s.dieReset mp).emptyDie mp) := rfl

@[simp] theorem State.emptyDie_mem (s : State) (mp : Nat) : (s.emptyDie mp).mem = s.mem := rfl
@[simp] theorem State.spp_emptyDie (s : State) (mp q n : Nat) : (s.emptyDie mp).spp q n = s.spp q n := rfl

/-- A reset of a memory-port die (R119). -/
theorem memoryPortDomainReset_resets (s : State) (mp : Nat) :
    ∃ t, exec (.memoryPortDomainReset mp) s = .next t ∧ SameMem s t ∧ (∀ q ∈ t.eng.queues, q.1 / 4 ≠ mp) ∧ (∀ r ∈ t.eng.reqs, r.2.tp / 4 ≠ mp)
      ∧ (∀ l ∈ t.ms.tlb2, l.1 ≠ mp) ∧ ∀ n < 8, t.spp mp n = 0 := by
  refine ⟨_, exec_memoryPortDomainReset s mp, sameMem_of_mem_eq (((s.dieReset mp).emptyDie_mem mp).trans (s.dieReset_mem mp)), ?_, ?_, ?_, fun n hn => ?_⟩
  · exact fun q hq => of_decide_eq_true (List.mem_filter.1 hq).2
  · exact fun r hr => of_decide_eq_true (List.mem_filter.1 hr).2
  · exact fun l hl => of_decide_eq_true (List.mem_filter.1 hl).2
  · rw [State.spp_emptyDie, s.spp_dieReset mp n hn]

/-- A reset of a fabric die (R119). -/
theorem fabricDieReset_resets (s : State) (pk die : Nat) :
    ∃ t, exec (.fabricDieReset pk die) s = .next t ∧ (∀ i < 4, (t.ring (pk * 64 + 4 * die + i)).inReset = true) ∧ t.ms = s.ms ∧ t.mem = s.mem := by
  refine ⟨_, rfl, fun i hi => ?_, foldl_keeps State.ms _ _ _ fun _ _ => rfl, foldl_mem _ _ _ fun _ _ => rfl⟩
  rw [State.inReset_foldl_setRing _ fun i => pk * 64 + 4 * die + i,
    decide_eq_true (List.mem_map.2 ⟨i, List.mem_range.2 hi, rfl⟩), Bool.true_or]

/-! ### The obligations -/

/-- Settles O59: what nothing has written reads its reset value, and the reset state lists nothing. -/
theorem resetHoldsItsValues : Obligations.ResetHoldsItsValues := by
  have hinstat (pk : Nat) : State.reset.reg pk 0x11010 = 0 := State.reg_reset pk _ (by decide)
  have hpvcfg (pk : Nat) : State.reset.reg pk 0x11000 = 2000 := State.reg_reset pk _ (by decide)
  refine ⟨rfl, rfl, rfl, rfl, rfl, fun pk => ⟨hpvcfg pk, State.reg_reset pk _ (by decide), State.reg_reset pk _ (by decide),
    State.reg_reset pk _ (by decide), State.reg_reset pk _ (by decide), hinstat pk, ?_, ?_, ?_⟩⟩
  · rw [State.pvEn, State.enBit, hpvcfg]; rfl
  · rw [State.open_, hinstat]; rfl
  · rw [State.sealed, hinstat]; rfl

/-- Settles O54, clause by clause: cold reset, the boot's start, its failed checks, attestation, power gating, the resets of a memory-port and of a fabric die. -/
theorem bootAndResets : Obligations.BootAndResets := by
  unfold Obligations.BootAndResets
  intro s pk
  refine ⟨coldReset_resets s pk, ?boot, s.reg_bootFail pk, attctlGo_writes_report s pk, exec_powerGate_idle s,
    memoryPortDomainReset_resets s, fabricDieReset_resets s pk⟩
  case boot =>
    intro hon h2 src h q
    split
    next c hh => exact exec_bootctlGo_of_headerCause hon h2 hh
    next c hh hi => exact exec_bootctlGo_of_imageCause hon h2 hh hi
    next hh hi => exact exec_bootctlGo_of_checked hon h2 hh hi

end Sys2Proof.Machine
end

section
/-! CERTIFICATE. Slot index issue, loop contexts, exits and event handlers (R26 to R28, R55, R56). -/
namespace Sys2Proof.Machine
open Sys2Proof

/-! ### Slot index issue (R26) -/

/-- A loop context issues at most one slot index in a cycle. -/
theorem State.mayIssue_eq_false_of_issued (s : State) (r : Region) (lc ws : Nat) (h : (r.issueCtx lc ws).issued = s.cyc + 1) :
    s.mayIssue r lc ws = false := by
  simp [State.mayIssue, h]

theorem State.mayIssue_eq_true (s : State) (r : Region) (lc ws : Nat) (hfires : r.fires s.cyc = true) (hlive : (r.issueCtx lc ws).live = true)
    (hstart : (r.issueCtx lc ws).start ≤ s.cyc) (hissued : (r.issueCtx lc ws).issued ≠ s.cyc + 1)
    (hscroll : ∀ sc, r.scroll = some sc → lc = sc.lc ∧ ws < r.count ∧ sc.phase.get 0 ws = 0 ∧ sc.ended = false) :
    s.mayIssue r lc ws = true := by
  cases hr : r.scroll with
  | none => simp [State.mayIssue, hr, hfires, hlive, hstart, hissued]
  | some sc =>
    obtain ⟨hlc, hws, hphase, hended⟩ := hscroll sc hr
    simp [State.mayIssue, hr, hfires, hlive, hstart, hissued, ← hlc, hws, hphase, hended]

/-- The state in which every enabled slot of the index has fired in element order, the lanes have stepped, and the loop context
has gone on under the exits raised in the cycle. -/
def State.issueAll (s : State) (rg lc ws : Nat) : State :=
  let r := s.region rg
  let t := { hopAll (fireAll s (enabledSlots s rg lc ws)) r lc with act := s.act }
  let u := applyExits (t.region rg).ilast (t.region rg)
  let d := u.issueCtx lc ws
  (t.noteIssue r false).setRegion rg (u.putCtx lc ws { d.advance (u.startsAt (s.cyc + 1) d) with issued := s.cyc + 1 })

theorem exec_slotIndexIssue_of_issued (s : State) (rg lc ws : Nat) (h : ((s.region rg).issueCtx lc ws).issued = s.cyc + 1) :
    exec (.slotIndexIssue rg lc ws) s = .next s := by
  show execSlotIndexIssue rg lc ws s = _
  rw [execSlotIndexIssue]
  exact if_neg (by simp [s.mayIssue_eq_false_of_issued _ lc ws h])

section
variable {s : State} {rg lc ws : Nat} (hmay : s.mayIssue (s.region rg) lc ws = true)
include hmay

theorem exec_slotIndexIssue_withheld (hw : s.withholds (s.region rg) ((s.region rg).issueCtx lc ws) = true) :
    exec (.slotIndexIssue rg lc ws) s = .next (s.noteIssue (s.region rg) true) := by
  show execSlotIndexIssue rg lc ws s = _
  simp only [execSlotIndexIssue, if_pos hmay, if_pos hw]

variable (hw : s.withholds (s.region rg) ((s.region rg).issueCtx lc ws) = false)
  (hlow : (enabledSlots s rg lc ws).any (lowerEnabled s rg lc ws) = false)
include hw hlow

theorem exec_slotIndexIssue_not_ready (hn : allNeeds s (enabledSlots s rg lc ws) = none) : exec (.slotIndexIssue rg lc ws) s = .next s := by
  show execSlotIndexIssue rg lc ws s = _
  simp [execSlotIndexIssue, hmay, hw, hlow, hn]

variable {n : Needs} (hn : allNeeds s (enabledSlots s rg lc ws) = some n)
include hn

theorem exec_slotIndexIssue_no_space (hmet : n.met s = false) : exec (.slotIndexIssue rg lc ws) s = .next s := by
  show execSlotIndexIssue rg lc ws s = _
  simp [execSlotIndexIssue, hmay, hw, hlow, hn, hmet]

theorem exec_slotIndexIssue_opq_full (hmet : n.met s = true) (hopq : (fireAll s (enabledSlots s rg lc ws)).opqOk = false) :
    exec (.slotIndexIssue rg lc ws) s = .next s := by
  show execSlotIndexIssue rg lc ws s = _
  simp [execSlotIndexIssue, hmay, hw, hlow, hn, hmet, hopq]

theorem exec_slotIndexIssue_fires (hmet : n.met s = true) (hopq : (fireAll s (enabledSlots s rg lc ws)).opqOk = true) :
    exec (.slotIndexIssue rg lc ws) s = .next (s.issueAll rg lc ws) := by
  show execSlotIndexIssue rg lc ws s = _
  simp [execSlotIndexIssue, hmay, hw, hlow, hn, hmet, hopq, State.issueAll]
end

/-! ### Exits and event handlers (R28, R55, R56) -/

/-- The only iteration-last token of an unscrolled region gives its loop context the exit. -/
theorem applyExits_single_unscrolled (r : Region) (lc e ws : Nat) (i : W64) (at_ : Nat) (hr : r.scroll = none) :
    applyExits [(lc, e, ws, i, at_)] r = { r with lcs := r.lcs.put {} lc ((r.lcs.get {} lc).exit e i), ilast := [] } := by
  simp [applyExits, hr]

theorem LoopCtx.exit_of_no_exit (c : LoopCtx) (e : Nat) (i : W64) (h : c.xs = false) :
    c.exit e i = { c with xs := true, sm := (c.sm &&& ~~~stageMask e) ||| (c.sv &&& stageMask e), n := i + 1 } := by
  simp [LoopCtx.exit, h]

theorem exec_iterationLastDelivery (s : State) (rg : Nat) :
    exec (.iterationLastDelivery rg) s = .next (s.setRegion rg (applyExits (s.region rg).ilast (s.region rg))) := rfl

/-- The exit reaches its loop context (R28). -/
theorem iterationLastDelivery_squashes (s : State) (rg lc e ws : Nat) (i : W64) (c : Nat) (hl : (s.region rg).ilast = [(lc, e, ws, i, c)])
    (hr : (s.region rg).scroll = none) (hx : ((s.region rg).lcs.get {} lc).xs = false) :
    ∃ t, exec (.iterationLastDelivery rg) s = .next t ∧ (t.region rg).ilast = []
      ∧ (t.region rg).lcs.get {} lc = { (s.region rg).lcs.get {} lc with
          xs := true, n := i + 1
          sm := (((s.region rg).lcs.get {} lc).sm &&& ~~~stageMask e) ||| (((s.region rg).lcs.get {} lc).sv &&& stageMask e) } := by
  refine ⟨_, exec_iterationLastDelivery s rg, ?_⟩
  rw [State.region_setRegion, if_pos rfl, hl, applyExits_single_unscrolled _ _ _ _ _ _ hr, ← LoopCtx.exit_of_no_exit _ e i hx]
  exact ⟨rfl, (FMap.get_put ..).trans (if_pos rfl)⟩

/-- The state in which channel `c` of an element has its handler started. -/
def State.startHandler (s : State) (el c : Nat) (u : HandlerUse) : State :=
  let x := s.elem el
  let v := chEntry (s.elPlane el x.act) c
  ((s.reserve s.fl.next u.dests).setElem el { x with run := some { pos := chFirst v, last := chLast v, chan := c, op := s.fl.next } }).bump

theorem exec_eventHandlerStart (s : State) (el c : Nat) (u : HandlerUse) (hav : (s.elem el).av = true)
    (hvalid : ((s.stripe (stOf el)).planes.get {} (s.elem el).act.toNat).valid = true)
    (hevent : ((s.stripe (stOf el)).planes.get {} (s.elem el).act.toNat).event = true) (hrun : (s.elem el).run = none)
    (hhold : (s.elem el).hold ≤ s.cyc) (hfired : (s.elem el).fired ≠ s.cyc + 1) (hlive : s.elLive el = true) (hwave : s.waveAt el = none)
    (hbest : bestChannel (s.elPlane el (s.elem el).act) ((List.range 16).filterMap fun c => (s.runnable el c).map fun u => (c, u)) = some (c, u)) :
    exec (.eventHandlerStart el) s = .next (s.startHandler el c u) := by
  show execEventHandlerStart el s = _
  have hstarts : (s.elem el).av ∧ ((s.stripe (stOf el)).planes.get {} (s.elem el).act.toNat).valid
      ∧ ((s.stripe (stOf el)).planes.get {} (s.elem el).act.toNat).event ∧ (s.elem el).run.isNone ∧ (s.elem el).hold ≤ s.cyc
      ∧ (s.elem el).fired ≠ s.cyc + 1 ∧ s.elLive el ∧ (s.waveAt el).isNone :=
    ⟨hav, hvalid, hevent, by rw [hrun]; rfl, hhold, hfired, hlive, by rw [hwave]; rfl⟩
  rw [execEventHandlerStart]
  simp only [if_pos hstarts, hbest, State.startHandler]

/-! ### The obligations -/

/-- Settles O12: the branches of an issue, in their order. -/
theorem slotIndexFiresAllOrNothing : Obligations.SlotIndexFiresAllOrNothing := by
  unfold Obligations.SlotIndexFiresAllOrNothing
  intro s rg lc ws r c as
  refine ⟨exec_slotIndexIssue_of_issued s rg lc ws, fun hfires hlive hstart hissued hscroll => ?_⟩
  have hmay : s.mayIssue r lc ws = true := s.mayIssue_eq_true r lc ws hfires hlive hstart hissued hscroll
  exact ⟨exec_slotIndexIssue_withheld hmay, fun hw hlow =>
    ⟨fun _ hn hmet hopq => exec_slotIndexIssue_fires hmay hw hlow hn hmet hopq,
      fun _ hn hmet hopq => exec_slotIndexIssue_opq_full hmay hw hlow hn hmet hopq,
      exec_slotIndexIssue_not_ready hmay hw hlow,
      fun _ hn hmet => exec_slotIndexIssue_no_space hmay hw hlow hn hmet⟩⟩

/-- Refutes O13: the statement takes every boundary with a start (`advance true`). With S = 1 and a trip count of 1 the arming makes
the only start; that boundary makes a second one, and the loop context is still live where it must be done. -/
theorem not_loopContextsAdvance : ¬ Obligations.LoopContextsAdvance := by
  unfold Obligations.LoopContextsAdvance
  rintro ⟨-, -, hdone⟩
  have hlive : (boundaries 1 (armedCtx (1, 1) 1 0)).live = true := by decide
  exact absurd ((hdone 1 1 0 1 (Nat.le_refl 1) (Nat.le_refl 1) (by decide) (Nat.le_refl 1)).1 hlive) (by decide)

/-- Settles O14: the exit by `applyExits`, the handler by the channel chosen. -/
theorem exitsAndHandlersStart : Obligations.ExitsAndHandlersStart := by
  unfold Obligations.ExitsAndHandlersStart
  intro s
  refine ⟨fun rg lc e ws i c hl hr hx => ?_, fun el c u hav hvalid hevent hrun hhold hfired hlive hwave hbest =>
    exec_eventHandlerStart s el c u hav hvalid hevent hrun hhold hfired hlive hwave hbest⟩
  obtain ⟨t, hexec, hilast, hctx⟩ := iterationLastDelivery_squashes s rg lc e ws i c hl hr hx
  exact ⟨t, hexec, hilast, by rw [hctx], by rw [hctx], by rw [hctx]⟩

end Sys2Proof.Machine
end

section
/-! CERTIFICATE. Tokens between stripes and regions: pass registers, park buffers and logical streams (R36, R69, R73, R74, R78). -/
namespace Sys2Proof.Machine
open Sys2Proof

/-! ### Pass registers (R73, R74) -/

/-- Pass register `i` of stripe `st` has given its token in this cycle. -/
def State.clearPass (s : State) (st i : Nat) : State :=
  s.setStripe st { s.stripe st with pass := (s.stripe st).pass.put none i none, passLeft := (s.stripe st).passLeft.put 0 i (s.cyc + 1) }

theorem State.pass_clearPass (s : State) (st i : Nat) : ((s.clearPass st i).stripe st).pass.get none i = none := by
  simp [State.clearPass]
@[simp] theorem State.region_clearPass (s : State) (st i rg : Nat) : (s.clearPass st i).region rg = s.region rg := rfl
@[simp] theorem State.peeks_clearPass (s : State) (st i a n : Nat) : (s.clearPass st i).peeks a n = s.peeks a n := rfl

section
variable {s : State} {st i : Nat} {tok : Token} {rg : Nat} (htok : (s.stripe st).pass.get none i = some tok) (hrg : (s.stripe st).rg = some rg)
  (hlive : (s.region rg).live = true)
include htok hrg hlive

/-- A token enters the downstream stripe (R73, R74). -/
theorem exec_passRegisterTransfer_downstream (hws : (s.stripe st).ws + 1 ≠ (s.region rg).count) (hfeeds : (s.region rg).feeds (s.stripe st).ws = true)
    (hroom : s.passRoom (passSrc st i) ((s.region rg).stripeAt ((s.stripe st).ws + 1)) i
      (s.passMap st ((s.region rg).stripeAt ((s.stripe st).ws + 1)) i) = true)
    (hfirst : s.passBehind st ((s.region rg).stripeAt ((s.stripe st).ws + 1)) i = false) :
    let down := (s.region rg).stripeAt ((s.stripe st).ws + 1)
    exec (.passRegisterTransfer st i) s
      = .next (((s.clearPass st i).passIn (passSrc st i) down i (s.passMap st down i) tok).passedWave st i tok) := by
  show execPassRegisterTransfer st i s = _
  simp [execPassRegisterTransfer, htok, hrg, hlive, hws, hfeeds, hroom, hfirst, State.clearPass]

/-- A token of the last window stripe of a scrolled placement is parked (R36). -/
theorem exec_passRegisterTransfer_parks {sc : Scroll} (hws : (s.stripe st).ws + 1 = (s.region rg).count) (hsc : (s.region rg).scroll = some sc)
    (hroom : sc.parkRoom (((s.region rg).wlcs.get {} (s.stripe st).ws).vs / (s.region rg).count) = true) :
    exec (.passRegisterTransfer st i) s
      = .next ((s.parkToken rg sc (((s.region rg).wlcs.get {} (s.stripe st).ws).vs / (s.region rg).count) i s.cyc tok).clearPass st i) := by
  show execPassRegisterTransfer st i s = _
  simp only [execPassRegisterTransfer, htok, hrg, hlive, hws, hsc, hroom, if_true, reduceCtorEq, if_false, State.clearPass]
end

/-! ### Park buffers (R36) -/

/-- Bytes written read back, whatever errors stood there. -/
theorem State.peeks_writeBytes (s : State) (a n : Nat) (bs : List Byte) (hlen : bs.length = n) : (s.writeBytes a bs).peeks a n = bs := by
  refine Eq.trans ?_ (s.peeks_poke a n bs hlen)
  simp only [State.peeks, State.peek, writeBytes_mem]

theorem State.peeks_setRegion (s : State) (rg : Nat) (x : Region) (a n : Nat) : (s.setRegion rg x).peeks a n = s.peeks a n := rfl

/-- A parked token stands last in its buffer, at the next place in turn. -/
theorem State.region_parkToken (s : State) (rg : Nat) (sc : Scroll) (g i at_ : Nat) (t : Token) :
    (s.parkToken rg sc g i at_ t).region rg = { s.region rg with
      scroll := some { sc with
        park := sc.park.put [] g (sc.park.get [] g ++ [(i, at_, sc.parked.get 0 g % (16 * sc.d))])
        parked := sc.parked.put 0 g (sc.parked.get 0 g + 1) } } :=
  (State.region_setRegion ..).trans (if_pos rfl)

/-- Its bytes stand at that place. -/
theorem State.peeks_parkToken (s : State) (rg : Nat) (sc : Scroll) (g i at_ : Nat) (t : Token) :
    (s.parkToken rg sc g i at_ t).peeks ((s.region rg).parkPA g (sc.parked.get 0 g % (16 * sc.d))) 8 = leBytes 8 (tokNat t) :=
  (State.peeks_setRegion ..).trans (State.peeks_writeBytes _ _ _ _ (leBytes_length 8 _))

/-- The oldest token of a park buffer enters window stripe 0 (R36, R74). -/
theorem exec_parkRead_enters {s s1 : State} {rg pr : Nat} {sc : Scroll} {i at_ k : Nat} {rest : List (Nat × Nat × Nat)} {tok : Token}
    (hsc : (s.region rg).scroll = some sc) (hpark : sc.park.get [] pr = (i, at_, k) :: rest)
    (hread : s.readToken ((s.region rg).parkPA pr k) = (s1, tok)) (hlive : (s.region rg).live = true)
    (hat : at_ < s.cyc) (hvs : ((s.region rg).wlcs.get {} 0).vs = (pr + 1) * (s.region rg).count) (hphase : sc.phase.get 0 0 = 0) :
    let r := s.region rg
    let st := r.stripeAt 0
    let up := r.stripeAt (r.count - 1)
    let p := s.passMap up st i
    s.passRoom (passSrc up i) st i p = true →
    exec (.parkRead rg pr) s = .next (((s1.setRegion rg { r with scroll := some { sc with park := sc.park.put [] pr rest } }).passIn
      (passSrc up i) st i p tok).passedWave up i tok) := by
  intro r st up p hroom
  show execParkRead rg pr s = _
  unfold execParkRead
  -- how a token is read does not matter here: held as a variable, the reading is not computed
  obtain ⟨read, hfix⟩ : ∃ f, s.readToken = f := ⟨_, rfl⟩
  rw [hfix] at hread ⊢
  simp only [hsc, hpark, hread]
  exact if_pos ⟨hlive, hat, hvs, hphase, hroom⟩

/-! ### Logical streams (R69, R78) -/

theorem exec_streamTokenDelivery_moves {s : State} {si w r : Nat} {t : Token} {ts : List Token}
    (hw : ((s.fig (si / 256)).streams.get {} (si % 256)).wport = some w) (hr : ((s.fig (si / 256)).streams.get {} (si % 256)).rport = some r)
    (hfifo : (s.port w).fifo = t :: ts) (hroom : 0 < s.room (.port r))
    (hphase : (s.fig (si / 256)).phase = .placed ∨ (s.fig (si / 256)).phase = .halting) :
    exec (.streamTokenDelivery si) s = .next ((s.setPort w { s.port w with fifo := ts }).addEmit
      { due := s.cyc, ord := 0, src := portSrc w, dst := .port r, tok := t.resolve (s.portPn r) }) := by
  show execStreamTokenDelivery si s = _
  simp only [execStreamTokenDelivery, hw, hr, hfifo]
  exact if_pos ⟨hroom, hphase⟩

/-- Only a wavefront has its plane resolved (R69). -/
theorem Token.resolve_of_not_wave (t : Token) (pn : BitVec 16) (h : t.wave = false) : t.resolve pn = t := by
  simp [Token.resolve, h]

/-! ### The obligation -/

/-- Settles O16: pass register to stripe and to park buffer, park buffer to stripe, stream to port. -/
theorem tokensCrossStripesAndRegions : Obligations.TokensCrossStripesAndRegions := by
  unfold Obligations.TokensCrossStripesAndRegions
  intro s
  refine ⟨fun st i tok rg htok hrg hlive hws hfeeds hroom hfirst =>
      exec_passRegisterTransfer_downstream htok hrg hlive hws hfeeds hroom hfirst,
    fun st i tok rg sc htok hrg hlive hws hsc hroom => ?park,
    fun rg pr sc i at_ k rest hsc hpark hlive hat hvs hphase hroom => exec_parkRead_enters hsc hpark (Prod.eta _).symm hlive hat hvs hphase hroom,
    fun si w r t ts hw hr hfifo hroom hphase => exec_streamTokenDelivery_moves hw hr hfifo hroom hphase,
    Token.resolve_of_not_wave⟩
  case park =>
    refine ⟨_, exec_passRegisterTransfer_parks htok hrg hlive hws hsc hroom, State.pass_clearPass _ st i, ?_, ?_⟩
    · rw [State.region_clearPass, State.region_parkToken, Option.map_some, FMap.get_put, if_pos rfl]
    · rw [State.peeks_clearPass, State.peeks_parkToken]

end Sys2Proof.Machine
end

section
/-! CERTIFICATE. Scrolled placements: yield, save, swap and restore (R36 to R41, R474). -/
namespace Sys2Proof.Machine
open Sys2Proof

/-! ### Yield (R36, R37, R39) -/

/-- The messages that the stripe's elements hold are given up. -/
def State.clearMsgs (s : State) (st : Nat) : State :=
  (List.range 64).foldl (fun t e => t.setElem (st * 128 + e) { t.elem (st * 128 + e) with msg := [] }) s

/-- The placement once the occupancy at window stripe `ws` is done: behind the last virtual stripe a tile is complete. -/
def Scroll.afterYield (sc : Scroll) (now : Nat) (c : LoopCtx) : Scroll :=
  if c.vs + 1 = sc.v then { sc with tiles := sc.tiles + 1, ended := !(sc.begins now c.vs (c.occ + sc.d)) } else sc

/-- The virtual stripe in stripe `st` leaves state behind, which its save slot must keep. -/
def State.keepsState (s : State) (st : Nat) : Bool :=
  ((s.stripe st).planes.get {} (s.stripe st).act.toNat).stf || s.holdsToken st || s.holdsAcc st

/-- Window stripe `ws` has yielded: a stateful virtual stripe is to be saved, another has no active plane. -/
def State.yieldTo (s : State) (rg ws : Nat) (sc : Scroll) : State :=
  let r := s.region rg
  let st := r.stripeAt ws
  let sc' := sc.afterYield s.cyc (r.wlcs.get {} ws)
  (if s.keepsState st then s.clearMsgs st else (s.clearMsgs st).darkStripe st).setRegion rg
    { r with scroll := some { sc' with phase := sc'.phase.put 0 ws (if s.keepsState st then 1 else 2) } }

theorem State.darkStripe_av (s : State) (st : Nat) : ((s.darkStripe st).stripe st).av = false := by
  simp [State.darkStripe]

theorem State.scroll_yieldTo (s : State) (rg ws : Nat) (sc : Scroll) :
    let sc' := sc.afterYield s.cyc ((s.region rg).wlcs.get {} ws)
    ((s.yieldTo rg ws sc).region rg).scroll
      = some { sc' with phase := sc'.phase.put 0 ws (if s.keepsState ((s.region rg).stripeAt ws) then 1 else 2) } := by
  rw [State.yieldTo, State.region_setRegion, if_pos rfl]

theorem State.av_yieldTo (s : State) (rg ws : Nat) (sc : Scroll) (h : s.keepsState ((s.region rg).stripeAt ws) = false) :
    ((s.yieldTo rg ws sc).stripe ((s.region rg).stripeAt ws)).av = false := by
  rw [State.yieldTo, State.stripe_setRegion, if_neg (Bool.eq_false_iff.1 h), State.darkStripe_av]

section
variable {s : State} {rg ws : Nat} {sc : Scroll} (hsc : (s.region rg).scroll = some sc) (hlive : (s.region rg).live = true)
  (hws : ws < (s.region rg).count)
include hsc hlive hws

theorem exec_virtualStripeYield (hstop : (s.region rg).stop = none) (hphase : sc.phase.get 0 ws = 0)
    (hdone : ((s.region rg).wlcs.get {} ws).live = false) (hissued : ((s.region rg).wlcs.get {} ws).issued ≤ s.cyc)
    (hpend : s.stripePending ((s.region rg).stripeAt ws) = false) (hin : s.stripeInbound ((s.region rg).stripeAt ws) = false)
    (hacc : s.stripeAccess ((s.region rg).stripeAt ws) = false) (hbreach : s.yieldBreach ((s.region rg).stripeAt ws) = none)
    (hpass : (s.region rg).passDue sc ws = false ∨ (s.stripe ((s.region rg).stripeAt ws)).pass = []) :
    exec (.virtualStripeYield rg ws) s = .next (s.yieldTo rg ws sc) := by
  show execVirtualStripeYield rg ws s = _
  have hdue : ¬((s.region rg).passDue sc ws = true ∧ (!(s.stripe ((s.region rg).stripeAt ws)).pass.isEmpty) = true) := by
    obtain hdue | hempty := hpass
    · simp [hdue]
    · simp [hempty]
  have hquiet : (!(s.stripePending ((s.region rg).stripeAt ws) || s.stripeInbound ((s.region rg).stripeAt ws)
      || s.stripeAccess ((s.region rg).stripeAt ws))) = true := by
    rw [hpend, hin, hacc]; rfl
  rw [execVirtualStripeYield]
  simp only [hsc]
  rw [if_pos ⟨hlive, by rw [hstop]; rfl, hws, hphase, hdone, hissued, hquiet⟩]
  simp only [hbreach]
  rw [if_neg hdue, State.yieldTo]
  change (if s.keepsState ((s.region rg).stripeAt ws) = true then _ else _) = _
  by_cases hkeep : s.keepsState ((s.region rg).stripeAt ws) = true
  · simp only [if_pos hkeep]; rfl
  · simp only [if_neg hkeep]; rfl

/-! ### Save, swap and restore (R36, R37, R39 to R41, R72) -/

theorem exec_statefulSave (hphase : sc.phase.get 0 ws = 1) (hrep : s.replaying ((s.region rg).stripeAt ws) = false)
    (htaint : s.taintedStripe ((s.region rg).stripeAt ws) = false) :
    let r := s.region rg
    let st := r.stripeAt ws
    let c := r.wlcs.get {} ws
    exec (.statefulSave rg ws) s
      = .next ((((s.writeBytes (r.slotPA c.vs) (slotBytes s st c.vs (s.stripe st).act (c.occ + c.starts))).emptyStripe st).darkStripe st).setRegion rg
          { r with scroll := some { sc with phase := sc.phase.put 0 ws 2, saved := c.vs :: sc.saved } }) := by
  intro r st c
  show execStatefulSave rg ws s = _
  have hsaves : r.live = true ∧ ws < r.count ∧ sc.phase.get 0 ws = 1 ∧ (!(s.replaying st)) = true :=
    ⟨hlive, hws, hphase, by rw [hrep]; rfl⟩
  rw [execStatefulSave]
  simp only [hsc]
  rw [if_pos hsaves, if_neg (by simp [htaint])]

theorem exec_statefulRestore (hphase : sc.phase.get 0 ws = 3) (hrep : s.replaying ((s.region rg).stripeAt ws) = false) :
    let r := s.region rg
    let st := r.stripeAt ws
    let c := r.wlcs.get {} ws
    exec (.statefulRestore rg ws) s = .next ((s.loadSlot st (r.slotPA c.vs)).setRegion rg
      { r with scroll := some { sc with phase := sc.phase.put 0 ws 0, saved := sc.saved.filter fun v => decide (v ≠ c.vs) } }) := by
  intro r st c
  show execStatefulRestore rg ws s = _
  rw [execStatefulRestore]
  simp only [hsc]
  exact if_pos ⟨hlive, hws, hphase, by rw [hrep]; rfl⟩

theorem exec_scrollSwap (hstop : (s.region rg).stop = none) (hphase : sc.phase.get 0 ws = 2) :
    let r := s.region rg
    let st := r.stripeAt ws
    let c := r.wlcs.get {} ws
    let v := (r.scrollNext sc ws).1
    let base := (r.scrollNext sc ws).2
    let p := r.scrollPlane v
    base ≤ sc.tiles * sc.d → s.filling rg st p = false → sc.begins s.cyc v base = true →
    ((s.stripe st).planes.get {} p.toNat).valid = true → ((s.stripe st).planes.get {} p.toNat).img = sc.img + v →
    let s1 := s.swapStripe st p (some (r.stripeAt ((ws + r.count - 1) % r.count)))
    let sc1 := { sc with phase := sc.phase.put 0 ws (if sc.saved.contains v then 3 else 0), made := sc.made.put 0 v (base + 1) }
    let r1 := { s1.region rg with wlcs := r.wlcs.put {} ws (occCtx (c.ii, c.stg) sc.tc (s.cyc + 1) v base), scroll := some sc1 }
    exec (.scrollSwap rg ws) s = .next ((s1.setRegion rg r1).prefetch rg ws (r1.scrollNext sc1 ws).1) := by
  intro r st c v base p htile hfill hbegins hvalid himg
  show execScrollSwap rg ws s = _
  have hnone : r.stop.isNone = true := by rw [hstop]; rfl
  rw [execScrollSwap]
  simp only [hsc]
  rw [if_pos ⟨hlive, hnone, hws, hphase, .inr htile⟩, if_neg (Bool.eq_false_iff.1 hfill), if_pos ⟨hvalid, himg⟩, if_pos hbegins]
end

/-! ### The obligation -/

/-- Settles O18: the four events of a window stripe's turn. -/
theorem scrolledStripesTakeTurns : Obligations.ScrolledStripesTakeTurns := by
  unfold Obligations.ScrolledStripesTakeTurns
  intro s rg ws sc r st c hsc hlive hws
  refine ⟨?yield, exec_statefulSave hsc hlive hws, fun hstop hphase => exec_scrollSwap hsc hlive hws hstop hphase,
    exec_statefulRestore hsc hlive hws⟩
  case yield =>
    intro pl keep sc' hstop hphase hdone hissued hpend hin hacc hbreach hpass
    exact ⟨_, exec_virtualStripeYield hsc hlive hws hstop hphase hdone hissued hpend hin hacc hbreach hpass,
      s.scroll_yieldTo rg ws sc, s.av_yieldTo rg ws sc⟩

end Sys2Proof.Machine
end

section
/-! CERTIFICATE. Tasks: aging, dispatch and completion (R47, R343, R352, R355, R358). -/
namespace Sys2Proof.Machine
open Sys2Proof

/-! ### Aging (R47) -/

theorem mem_tasks_ageTasks (s : State) (pk : Nat) (p : Nat × Task) (hp : p ∈ s.work.tasks) (hpk : p.2.pk = pk) (hready : p.2.phase = .ready) :
    (p.1, { p.2 with aged := max p.2.aged (min (6 - p.2.prio.toNat) ((s.cyc - p.2.since) / msCycles)) }) ∈ (s.ageTasks pk).work.tasks :=
  List.mem_map.2 ⟨p, hp, if_pos ⟨hpk, hready⟩⟩

/-! ### Dispatch (R352, R355, R358) -/

/-- A KERNEL task whose object is loaded and that finds its places is launched there. -/
theorem State.dispatchKernel_launches {s u : State} {tk : Nat} {t : Task} {w : Walk} {o : Obj} {spots : List (List (Option Spot))}
    (hfg : t.fg = none) (hw : s.walk t.walk = some w) (ho : s.loadObj t.pk w.asid t.obj = .obj u o)
    (hspots : u.tryPlace t.pk tk (fun _ => false) (List.replicate (u.instancesOf t.pk w.asid t.obj) (o.asks.map some)) = some spots) :
    s.dispatchKernel tk t = some (u.launch tk t w o spots) := by
  simp only [State.dispatchKernel, hfg, hw, ho, hspots]

/-- The state in which a COPY task's request stands last in the queue of its port. -/
def State.queueCopy (s : State) (tk : Nat) (t : Task) (w : Walk) : State :=
  ({ s with eng := { s.eng with
      queues := s.eng.queues.put [] t.tp (s.eng.queues.get [] t.tp ++ [{ bits := t.req, asid := w.asid, task := some tk }]) } } : State).setTask tk
    { t with phase := .running }

theorem State.dispatchCopy_queues {s : State} {tk : Nat} {t : Task} {w : Walk} (hw : s.walk t.walk = some w)
    (hroom : (s.eng.queues.get [] t.tp).length < 16) : s.dispatchCopy tk t = some (s.queueCopy tk t w) := by
  simp only [State.dispatchCopy, hw]
  exact if_neg (Nat.not_le.2 hroom)

/-- Where a KERNEL task has resources reserved, it is dispatched ahead of the order. -/
theorem exec_taskDispatch_of_reserved {s u : State} {pk tk : Nat} {t : Task} (hstep : (s.members.get {} pk).step = 0)
    (hres : (s.ageTasks pk).reservedReady pk = some (tk, t)) (hdisp : (s.ageTasks pk).dispatchKernel tk t = some u) :
    exec (.taskDispatch pk) s = .next u := by
  show execTaskDispatch pk s = _
  rw [execTaskDispatch]
  simp only [hstep, hres, Option.bind_some, hdisp]
  rfl

/-- Where none has, the order decides. -/
theorem exec_taskDispatch_of_order {s : State} {pk : Nat} (hstep : (s.members.get {} pk).step = 0)
    (hres : (s.ageTasks pk).reservedReady pk = none) :
    exec (.taskDispatch pk) s
      = .next (((s.ageTasks pk).dispatchList false ((s.ageTasks pk).readyTasks pk)).getD (s.ageTasks pk)) := by
  show execTaskDispatch pk s = _
  rw [execTaskDispatch]
  simp only [hstep, hres, Option.bind_none]
  rfl

theorem State.dispatchList_kernel {s u : State} {tk : Nat} {t : Task} (ts : List (Nat × Task)) (hk : t.kernel = true)
    (hdisp : s.dispatchKernel tk t = some u) : s.dispatchList false ((tk, t) :: ts) = some u := by
  simp [State.dispatchList, hk, hdisp]

theorem State.dispatchList_copy (s : State) (tk : Nat) (t : Task) (ts : List (Nat × Task)) (hk : t.kernel = false) :
    s.dispatchList false ((tk, t) :: ts) = s.dispatchCopy tk t := by
  simp [State.dispatchList, hk]

/-! ### Completion (R343) -/

section
variable {s u : State} {tk : Nat} {t : Task} (ht : s.task tk = some t) (hrun : t.phase = .running) (hdone : s.countDone tk t = .ok u)
include ht hrun hdone

/-- A COPY task of which no packet waits and no request runs is done. -/
theorem exec_kernelTaskComplete_copy (hk : t.kernel = false) (hfault : t.faulted = false)
    (hqueues : ∀ q ∈ s.eng.queues, ∀ p ∈ q.2, p.task ≠ some tk) (hreqs : ∀ r ∈ s.eng.reqs, r.2.pkt.task ≠ some tk) :
    exec (.kernelTaskComplete tk) s = .next (u.endTask tk false) := by
  show execKernelTaskComplete tk s = _
  have hover : ((s.eng.queues.any fun q => q.2.any fun p => decide (p.task = some tk))
      || (s.eng.reqs.any fun r => decide (r.2.pkt.task = some tk))) = false := by
    simp only [Bool.or_eq_false_iff, List.any_eq_false, List.any_eq_true, decide_eq_true_eq]
    exact ⟨fun q hq ⟨p, hp, htask⟩ => hqueues q hq p hp htask, hreqs⟩
  simp only [execKernelTaskComplete, ht, hrun, hk, hover, hfault, hdone]
  rfl

/-- A KERNEL task that has retired wholly and has nothing under way is done: its Figures are over. -/
theorem exec_kernelTaskComplete_kernel {fg : Nat} (hk : t.kernel = true) (hfg : t.fg = some fg) (hphase : (s.fig fg).phase = .placed)
    (hretired : s.groupRetired fg = true) (hidle : ∀ g ∈ s.group fg, s.figBusy g = false) :
    let u := (u.group fg).foldl (fun v g => v.countLost g) u
    exec (.kernelTaskComplete tk) s = .next (((u.group fg).foldl
      (fun v g => (v.dropFigure g).setFig g { (v.dropFigure g).fig g with phase := .saved, ended := true }) u).endTask tk false) := by
  show execKernelTaskComplete tk s = _
  have hgoes : ¬((s.fig fg).phase ≠ .placed ∨ s.groupRetired fg = false ∨ (s.group fg).any s.figBusy = true) := by
    simpa [hphase, hretired] using hidle
  rw [execKernelTaskComplete]
  simp only [ht, hk, hfg]
  rw [if_neg (fun hne => hne hrun), if_pos trivial, if_neg hgoes]
  simp only [hdone]
end

/-! ### The obligation -/

/-- Settles O43: aging, the dispatch of a KERNEL task (reserved or first in the order) and of a COPY task, and the completion of both. -/
theorem tasksAreDispatchedAndComplete : Obligations.TasksAreDispatchedAndComplete := by
  unfold Obligations.TasksAreDispatchedAndComplete
  intro s pk
  refine ⟨⟨s.ageTasks pk, rfl, mem_tasks_ageTasks s pk⟩, ?kernel, ?copy,
    fun tk t u ht hrun hk hfault hqueues hreqs hdone => exec_kernelTaskComplete_copy ht hrun hdone hk hfault hqueues hreqs,
    fun tk t fg u ht hrun hk hfg hphase hretired hidle hdone =>
      exec_kernelTaskComplete_kernel ht hrun hdone hk hfg hphase hretired hidle⟩
  case kernel =>
    intro tk t ts w u o spots a hstep hfirst hk hfg hw ho hspots
    have hdisp : a.dispatchKernel tk t = some (u.launch tk t w o spots) := State.dispatchKernel_launches hfg hw ho hspots
    obtain hres | ⟨hnone, horder⟩ := hfirst
    · exact exec_taskDispatch_of_reserved hstep hres hdisp
    · rw [exec_taskDispatch_of_order hstep hnone, horder, State.dispatchList_kernel ts hk hdisp, Option.getD_some]
  case copy =>
    intro tk t ts w a hstep hnone horder hk hw hroom
    rw [exec_taskDispatch_of_order hstep hnone, horder, State.dispatchList_copy _ tk t ts hk, State.dispatchCopy_queues hw hroom,
      Option.getD_some]
    rfl

end Sys2Proof.Machine
end

section
/-! CERTIFICATE. The passage of wavefronts through scalar and matrix elements (R54, R64, R65, R68, R249, R309). -/
namespace Sys2Proof.Machine
open Sys2Proof

section
variable {s : State} {el : Nat} {t : Token}

/-- An element without an active plane is passed by a wavefront with SWP = 1 (R54). -/
theorem swp_of_not_active {av : Bool} (h : av = true ∨ t.swp = true) (hav : av = false) : t.swp = true :=
  h.resolve_left (Bool.eq_false_iff.1 hav)

/-- The plane that a swap names is filled. -/
theorem filled_of_swp (h : t.swp = true → s.filled (stOf el) t.plt = true) : (!t.swp || s.filled (stOf el) t.plt) = true := by
  cases hswp : t.swp
  · rfl
  · simp [h hswp]

/-! ### Scalar elements -/

/-- The wavefront has left the inputs of a scalar element, a copy of it for each place of `outs`; a swap has taken effect (R65, R68). -/
def State.passScalar (s : State) (el : Nat) (t : Token) (ins : List Dest) (outs : List (Dest × BitVec 6)) : State :=
  let s2 := emitCopies (s.popInputs el ins) el t outs
  let s3 := s2.setElem el { s2.elem el with fired := s.cyc + 1, waves := (s.elem el).waves.tail }
  let s4 := s3.reachSink ((s.stripe (stOf el)).rg.getD 0) (.kreg el 0) t
  if t.swp then s4.swapElem el t.plt else s4

section
variable {ins : List Dest} (hscalar : eOf el < 64) (hactive : (s.elem el).av = true ∨ t.swp = true) (hlive : s.elLive el = true)
  (hrun : (s.elem el).run = none) (hfired : (s.elem el).fired ≠ s.cyc + 1) (hwave : s.waveAt el = some (t, ins))
  (hclean : ∀ u ∈ ins.filterMap s.headAt, u.et = false)
include hscalar hactive hlive hrun hfired hwave hclean

/-- A wavefront stands at every input of a scalar element: a partial block of the quantiser is closed, or the wavefront passes once it may. -/
theorem exec_wavefrontPassage_scalar :
    let x := s.elem el
    let outs := s.outputSet el (t.wavePlanes x.av x.act)
    exec (.wavefrontPassage el) s = .next (
      if !x.quant.vals.isEmpty then s.setElem el { x with quant := x.quant.close true }
      else if x.quant.out.isEmpty && s.noPending el && (!t.swp || s.filled (stOf el) t.plt) && s.fits (outs.map Prod.fst) ins then
        s.passScalar el t ins outs
      else s) := by
  show execWavefrontPassage el s = _
  have hgo : s.elLive el = true ∧ (s.elem el).run.isNone = true ∧ (s.elem el).fired ≠ s.cyc + 1 := ⟨hlive, by rw [hrun]; rfl, hfired⟩
  have hplane : ¬((s.elem el).av = false ∧ t.swp = false) := by
    rintro ⟨hav, hswp⟩
    exact absurd (swp_of_not_active hactive hav) (by simp [hswp])
  have huntainted : (ins.filterMap s.headAt).find? (fun u => u.et) = none := by
    simpa only [List.find?_eq_none, Bool.not_eq_true] using hclean
  rw [execWavefrontPassage, if_pos hscalar, scalarPassage]
  simp only [if_pos hgo, hwave, if_neg hplane, huntainted]
  rfl

/-- The wavefront closes a partial block (R249). -/
theorem exec_wavefrontPassage_closes (hvals : (s.elem el).quant.vals ≠ []) :
    exec (.wavefrontPassage el) s = .next (s.setElem el { s.elem el with quant := (s.elem el).quant.close true }) := by
  rw [exec_wavefrontPassage_scalar hscalar hactive hlive hrun hfired hwave hclean, if_pos (by simpa using hvals)]

/-- The wavefront passes (R65). -/
theorem exec_wavefrontPassage_passes (hvals : (s.elem el).quant.vals = []) (hout : (s.elem el).quant.out = []) (hpend : s.noPending el = true)
    (hfilled : t.swp = true → s.filled (stOf el) t.plt = true)
    (hfits : s.fits ((s.outputSet el (t.wavePlanes (s.elem el).av (s.elem el).act)).map Prod.fst) ins = true) :
    exec (.wavefrontPassage el) s = .next (s.passScalar el t ins (s.outputSet el (t.wavePlanes (s.elem el).av (s.elem el).act))) := by
  rw [exec_wavefrontPassage_scalar hscalar hactive hlive hrun hfired hwave hclean, if_neg (by simp [hvals]),
    if_pos (by simp [hout, hpend, filled_of_swp hfilled, hfits])]
end

/-! ### Matrix elements -/

/-- At an idle matrix element the wavefront leaves OPQ (R309). -/
theorem exec_wavefrontPassage_matrix {rest : List Token} (hmatrix : 64 ≤ eOf el) (hactive : (s.mx el).av = true ∨ t.swp = true)
    (hlive : s.elLive el = true) (hpend : s.noPending el = true) (hopq : (s.mx el).opq = t :: rest) (hwave : t.wave = true) (hclean : t.et = false)
    (hidle : (s.mx el).tcnt = 0 ∨ (s.mx el).av = false) (hfilled : t.swp = true → s.filled (stOf el) t.plt = true)
    (hfits : s.fits ((s.mxOuts el (t.wavePlanes (s.mx el).av (s.mx el).act)).map Prod.fst) [.opq el] = true) :
    exec (.wavefrontPassage el) s = .next (mxLeave s el t (s.mxOuts el (t.wavePlanes (s.mx el).av (s.mx el).act)) false) := by
  show execWavefrontPassage el s = _
  have hplane : ¬((!t.wave || (!(s.mx el).av && !t.swp)) = true) := by
    simpa [hwave] using swp_of_not_active hactive
  rw [execWavefrontPassage, if_neg (Nat.not_lt.2 hmatrix), mxPassage]
  simp only [if_pos (And.intro hlive hpend), hopq, if_neg hplane, hclean, reduceCtorEq, if_false, if_pos hidle, filled_of_swp hfilled, hfits,
    Bool.and_self, if_true]
end

/-! ### The obligation -/

/-- Settles O15: the scalar element, which first closes a partial block, and the idle matrix element. -/
theorem wavefrontsPassElements : Obligations.WavefrontsPassElements := by
  unfold Obligations.WavefrontsPassElements
  intro s el t
  refine ⟨?scalar, ?matrix⟩
  case scalar =>
    intro ins x outs hscalar hactive hlive hrun hfired hwave hclean
    exact ⟨exec_wavefrontPassage_closes hscalar hactive hlive hrun hfired hwave hclean,
      exec_wavefrontPassage_passes hscalar hactive hlive hrun hfired hwave hclean⟩
  case matrix =>
    intro rest x outs hmatrix hactive hlive hpend hopq hwave hclean hidle hfilled hfits
    exact exec_wavefrontPassage_matrix hmatrix hactive hlive hpend hopq hwave hclean hidle hfilled hfits

end Sys2Proof.Machine
end

section
/-! CERTIFICATE. Compute slots: one value to both targets, or one of two results to each (R206 to R217, R231 to R246). -/
namespace Sys2Proof.Machine
open Sys2Proof

/-! ### A firing that only computes, and one whose predicate is false -/

/-- The slot's word means a firing that reaches nothing beyond the window and, for the operands `o`, changes nothing and sends `outs`
with latency `lat`. -/
def State.Computes (s : State) (op : SlotOp) (f : Slot) (o : Opn) (lat : Nat) (outs : State → List Out) : Prop :=
  slotExternal op = false ∧ ∃ body, exec (op.mk f) s = slotExec op f s body ∧ ∀ t, body o t = { st := t, outs := outs t, lat := lat }

section
variable {s : State} {op : SlotOp} {f : Slot} {o : Opn} {ps : List (BitVec 2)} {lat : Nat}

theorem State.Computes.exec_eq {outs : State → List Out} (h : s.Computes op f o lat outs) (hf : s.Fires op f o ps)
    (houts : outs (s.popped op f o ps) = outs s) :
    exec (op.mk f) s = .next (s.gives f o (s.popped op f o ps) lat (outs s)) := by
  obtain ⟨hin, body, hexec, hbody⟩ := h
  rw [hexec, slotExec_fires hf body _ (hbody _) rfl (by simp [hin]), houts]

theorem result_popped (v : W32) : (s.popped op f o ps).result v = s.result v := by rw [State.result, seqOf_popped, State.result]
theorem results_popped (v : W32 × W32) : (s.popped op f o ps).results v = s.results v := by rw [State.results, seqOf_popped, State.results]

/-- A false predicate leaves only the pops (R200). -/
theorem slotExec_of_pred_false (body : Opn → State → Fired) (hready : slotReady op f s = some (o, ps)) (hclean : o.bad = none)
    (hseq : sqFault s f o ps = none) (hpred : o.pred = false) : slotExec op f s body = .next (s.popped op f o ps).stepBreak := by
  simp only [slotExec, hready, slotFire, hclean, hseq, hpred]
  rfl

/-- Every slot word means a firing. -/
theorem exec_mk_eq_slotExec (op : SlotOp) (f : Slot) (s : State) : ∃ body, exec (op.mk f) s = slotExec op f s body := by
  cases op
  case cvtf =>
    change ∃ body, execCvtf f s = slotExec .cvtf f s body
    rw [execCvtf]
    split <;> exact ⟨_, rfl⟩
  case cvtif =>
    change ∃ body, execCvtif f s = slotExec .cvtif f s body
    simp only [execCvtif]
    split <;> exact ⟨_, rfl⟩
  all_goals exact ⟨_, rfl⟩

/-! ### The instructions -/

/-- The integer instructions (R206 to R210). -/
theorem computes_of_intResult {v : W32} (h : intResult f o op = some (lat, v)) : s.Computes op f o lat (·.result v) := by
  cases op <;> cases h <;> exact ⟨rfl, _, rfl, fun _ => rfl⟩

/-- The bit, condition and selection instructions (R212 to R217). -/
theorem computes_of_bitResult {v : W32} (h : bitResult f (s.creg f.cidx) o op = some (lat, v)) : s.Computes op f o lat (·.result v) := by
  cases op <;> cases h <;> exact ⟨rfl, _, rfl, fun _ => rfl⟩

/-- The floating-point instructions with one result (R231 to R241, R243, R245). -/
theorem computes_of_fpResult {v : W32} (h : fpResult f (s.creg 14, s.creg 15) o op = some (lat, v)) : s.Computes op f o lat (·.result v) := by
  cases op <;> cases h <;> exact ⟨rfl, _, rfl, fun _ => rfl⟩

theorem cvtf_computes_wide (hm : f.mod.getLsbD 3 = true) :
    s.Computes .cvtf f o 2 (·.results (widen2 (if f.mod.getLsbD 2 then fp16 else bf16) o.a)) :=
  ⟨rfl, _, if_pos hm, fun _ => rfl⟩
theorem cvtf_computes_narrow (hm : f.mod.getLsbD 3 = false) :
    s.Computes .cvtf f o 2 (·.result (narrow2 (if f.mod.getLsbD 2 then fp16 else bf16) (mlo f.mod).toNat o.a o.b)) :=
  ⟨rfl, _, if_neg (Bool.eq_false_iff.1 hm), fun _ => rfl⟩
theorem cvtif_computes_wide (hm : f.mod.getLsbD 3 = true) :
    s.Computes .cvtif f o 2
      (·.results (fword 0 (.ofInt (laneV (f.mod.getLsbD 2) 16 o.a 0)), fword 0 (.ofInt (laneV (f.mod.getLsbD 2) 16 o.a 1)))) :=
  ⟨rfl, _, if_pos hm, fun _ => rfl⟩
theorem cvtif_computes_narrow (hm : f.mod.getLsbD 3 = false) :
    s.Computes .cvtif f o 2 (·.result (fword (mlo f.mod).toNat (.ofInt (laneV (f.mod.getLsbD 2) 32 o.a 0)))) :=
  ⟨rfl, _, if_neg (Bool.eq_false_iff.1 hm), fun _ => rfl⟩

/-- The instructions with two results (R208, R242, R244, R246). -/
theorem computes_of_pairResult {v : W32 × W32} (h : pairResult f o op = some (lat, v)) : s.Computes op f o lat (·.results v) := by
  cases op
  case cvtf =>
    obtain ⟨hm, heq⟩ := Option.ite_none_right_eq_some.1 h
    cases heq
    exact cvtf_computes_wide hm
  case cvtif =>
    obtain ⟨hm, heq⟩ := Option.ite_none_right_eq_some.1 h
    cases heq
    exact cvtif_computes_wide hm
  all_goals cases h <;> exact ⟨rfl, _, rfl, fun _ => rfl⟩

end

/-! ### Both targets name one register (R51) -/

theorem State.gives_one_register (s t : State) (f : Slot) (o : Opn) (lat : Nat) (v : W32 × W32) (i : BitVec 3) (h1 : f.t1 = .kreg i)
    (h2 : f.t2 = .kreg i) : ∃ out ∈ s.results v, s.gives f o t lat (s.results v)
      = (({ t with free := t.free + 1 } : State).emitRet (s.ret f o.taint) (s.cyc + lat - 1) out).stepBreak := by
  have hone : (s.ret f o.taint).oneReg = true := by simp [Ret.oneReg, State.ret, h1, h2]
  refine ⟨if Config.freeFirst t.free then { which := 1, tok := dataTok v.1 s.seqOf } else { which := 2, tok := dataTok v.2 s.seqOf }, ?_, ?_⟩
  · split <;> simp [State.results]
  · simp [State.gives, State.results, State.emitAll, hone]

/-- One of two results goes to its own target. -/
theorem State.emitRet_of_mem_results (s u : State) (f : Slot) (o : Opn) (due : Nat) (v : W32 × W32) (i : BitVec 3) (h1 : f.t1 = .kreg i)
    (h2 : f.t2 = .kreg i) (out : Out) (hout : out ∈ s.results v) :
    u.emitRet (s.ret f o.taint) due out = u.emitTo s.act.el s.cyc due (decide (out.which = 2)) (.kreg i) (s.routeOf (decide (out.which = 2)))
      s.act.squash o.taint out.tok := by
  simp only [State.results, List.mem_cons, List.not_mem_nil, or_false] at hout
  obtain rfl | rfl := hout <;> simp [State.emitRet, State.ret, h1, h2]

/-! ### The obligation -/

/-- Settles O1: each instruction only computes; a false predicate; two results for one register. -/
theorem computeSlotsGiveTheirResult : Obligations.ComputeSlotsGiveTheirResult := by
  unfold Obligations.ComputeSlotsGiveTheirResult
  intro s op f o ps
  refine ⟨fun hf => ⟨fun lat v hv => ?value, fun lat v hv => ?pair, ?cvtf, ?cvtif⟩, ?pred, fun t i lat v h1 h2 => ?register⟩
  case value =>
    have hc : s.Computes op f o lat (·.result v) := by
      obtain hint | hbit | hfp := hv
      · exact computes_of_intResult hint
      · exact computes_of_bitResult hbit
      · exact computes_of_fpResult hfp
    exact hc.exec_eq hf (result_popped v)
  case pair => exact (computes_of_pairResult hv).exec_eq hf (results_popped v)
  case cvtf =>
    rintro rfl hm
    exact (cvtf_computes_narrow hm).exec_eq hf (result_popped _)
  case cvtif =>
    rintro rfl hm
    exact (cvtif_computes_narrow hm).exec_eq hf (result_popped _)
  case pred =>
    intro hready hclean hseq hpred
    obtain ⟨body, hexec⟩ := exec_mk_eq_slotExec op f s
    rw [hexec, slotExec_of_pred_false body hready hclean hseq hpred]
  case register =>
    obtain ⟨out, hout, hgives⟩ := s.gives_one_register t f o lat v i h1 h2
    exact ⟨out, hout, hgives, fun u => s.emitRet_of_mem_results u f o _ v i h1 h2 out hout⟩

end Sys2Proof.Machine
end

section
/-! CERTIFICATE. Streams bound to ports: loads that feed one and stores that drain one (R77, R79). -/
namespace Sys2Proof.Machine
open Sys2Proof

/-- The access that a stream bound to port `p` issues next. -/
def State.boundIssue (s : State) (p : Nat) (kind : AKind) (data : List W32) (port : Option Nat) : Issue :=
  let rg := ((s.port p).rg).getD 0
  { id := s.fl.next, kind := kind, scope := 4, word := 0, data := data, cmp := 0, ret := {}, f := s.cyc, rg := rg, port := port }

section
variable {s : State} {rs p : Nat} (hport : (s.strm rs).port = some p) (hready : s.boundReady rs = true)
include hport hready

/-! ### Load streams -/

/-- The stream of a load that is over ends with one end-of-stream token. -/
theorem exec_boundLoadStreamIssue_end (hload : (s.strm rs).isStore = false) (hleft : (s.strm rs).left = 0) (heos : (s.strm rs).eos = true)
    (haccs : ∀ a ∈ s.fl.accs, a.2.rs ≠ some rs) (hroom : 0 < s.room (.port p)) :
    exec (.boundLoadStreamIssue rs) s = .next ((s.setStrm rs { s.strm rs with eos := false }).addEmit
      { due := s.cyc, ord := 0, src := portSrc p, dst := .port p, tok := ctlTok 0x20000000 }) := by
  show execBoundLoadStreamIssue rs s = _
  have hidle : (s.fl.accs.any fun a => decide (a.2.rs = some rs)) = false := by simpa using haccs
  simp [execBoundLoadStreamIssue, hport, hready, hload, hleft, heos, hidle, hroom]

/-- A load stream issues its next access, which keeps room for its tokens at the port. -/
theorem exec_boundLoadStreamIssue_issues {va : W64} {u : State} (hload : (s.strm rs).isStore = false) (hleft : (s.strm rs).left ≠ 0)
    (hroom : max 1 ((s.strm rs).esz / 4) ≤ s.room (.port p)) (hmay : s.mayPerform (((s.port p).rg).getD 0) (boundOp rs) = true)
    (hissue : s.issueHead rs (s.boundIssue p (.load false) [] (some p)) none = (va, .gone u)) :
    exec (.boundLoadStreamIssue rs) s = .next ((((u.setStrm rs { u.strm rs with left := (s.strm rs).left - 1, issued := s.cyc + 1 }).reserve s.fl.next
      (List.replicate (max 1 ((s.strm rs).esz / 4)) (.port p))).passTwins (boundOp rs) s.fl.next).bump) := by
  show execBoundLoadStreamIssue rs s = _
  have hgo : ¬(s.boundReady rs = false ∨ (s.strm rs).isStore = true) := by simp [hready, hload]
  have hfree : ¬(s.room (.port p) < max 1 ((s.strm rs).esz / 4) ∨ s.mayPerform (((s.port p).rg).getD 0) (boundOp rs) = false) :=
    not_or.2 ⟨Nat.not_lt.2 hroom, by simp [hmay]⟩
  rw [State.boundIssue] at hissue
  simp only [execBoundLoadStreamIssue, hport, if_neg hgo, if_neg hleft, if_neg hfree, hissue]

/-! ### Store streams -/

/-- The store at hand is not whole: it takes the port's head token. -/
theorem exec_boundStoreStreamAccess_takes {h : Token} {rest : List Token} (hstore : (s.strm rs).isStore = true)
    (hpart : (s.strm rs).words.length < max 1 ((s.strm rs).esz / 4)) (hfifo : (s.port p).fifo = h :: rest) (hdata : h.k = false) :
    exec (.boundStoreStreamAccess rs) s
      = .next ((s.setPort p { s.port p with fifo := rest }).setStrm rs { s.strm rs with words := (s.strm rs).words ++ [(h.payload, h.et)] }) := by
  show execBoundStoreStreamAccess rs s = _
  have hgo : ¬(s.boundReady rs = false ∨ (s.strm rs).isStore = false) := by simp [hready, hstore]
  have hwhole : ¬(max 1 ((s.strm rs).esz / 4) ≤ (s.strm rs).words.length) := Nat.not_le.2 hpart
  simp only [execBoundStoreStreamAccess, hport, if_neg hgo, hwhole, false_and, if_false, hfifo, hdata, if_true]

/-- The store at hand is whole: it issues. -/
theorem exec_boundStoreStreamAccess_issues {va : W64} {u : State} (hstore : (s.strm rs).isStore = true)
    (hwhole : max 1 ((s.strm rs).esz / 4) ≤ (s.strm rs).words.length) (hmay : s.mayPerform (((s.port p).rg).getD 0) (boundOp rs) = true)
    (hclean : ∀ w ∈ (s.strm rs).words, w.2 = false)
    (hissue : s.issueHead rs (s.boundIssue p (.store false) ((s.strm rs).words.map Prod.fst) none) none = (va, .gone u)) :
    exec (.boundStoreStreamAccess rs) s
      = .next (((u.setStrm rs { u.strm rs with words := [], issued := s.cyc + 1 }).passTwins (boundOp rs) s.fl.next).bump) := by
  show execBoundStoreStreamAccess rs s = _
  have hgo : ¬(s.boundReady rs = false ∨ (s.strm rs).isStore = false) := by simp [hready, hstore]
  have huntainted : ¬((s.strm rs).words.any Prod.snd = true) := by simpa using hclean
  rw [State.boundIssue] at hissue
  simp only [execBoundStoreStreamAccess, hport, if_neg hgo, hmay, reduceCtorEq, false_and, and_false, if_false, if_pos hwhole, if_neg huntainted,
    hissue]
end

/-! ### The obligation -/

/-- Settles O17: both halves of a load stream and of a store stream. -/
theorem boundStreamsMoveTheirPort : Obligations.BoundStreamsMoveTheirPort := by
  unfold Obligations.BoundStreamsMoveTheirPort
  intro s rs p t rg words issue hport hready
  exact ⟨exec_boundLoadStreamIssue_end hport hready,
    fun va u hload hleft hroom hmay hissue => exec_boundLoadStreamIssue_issues hport hready hload hleft hroom hmay hissue,
    fun h rest hstore hpart hfifo hdata => exec_boundStoreStreamAccess_takes hport hready hstore hpart hfifo hdata,
    fun va u hstore hwhole hmay hclean hissue => exec_boundStoreStreamAccess_issues hport hready hstore hwhole hmay hclean hissue⟩

end Sys2Proof.Machine
end

section
/-! CERTIFICATE. Plane fills: where one begins and where it ends (R71, R323). -/
namespace Sys2Proof.Machine
open Sys2Proof

/-! ### The configuration cache and the plane of a fill -/

@[simp] theorem Ring.fetch_fills (g : Ring) (k : Nat × Nat × Nat) (p : Plane) : (g.fetch k p).fills = g.fills := by
  unfold Ring.fetch
  split <;> rfl

/-- An image fetched is in the cache. -/
theorem Ring.cached_fetch (g : Ring) (k : Nat × Nat × Nat) (p : Plane) : ((g.fetch k p).cached k).isSome = true := by
  unfold Ring.fetch
  by_cases h : (g.cached k).isSome = true
  · rwa [if_pos h]
  · rw [if_neg h]
    simp [Ring.cached]

/-- The plane that a fill names holds `pl`. -/
def State.putPlane (s : State) (f : FillReq) (pl : Plane) : State :=
  s.setStripe f.st { s.stripe f.st with planes := (s.stripe f.st).planes.put {} f.p.toNat pl }

section
variable (s : State) (f : FillReq) (pl : Plane)

@[simp] theorem State.ring_putPlane (n : Nat) : (s.putPlane f pl).ring n = s.ring n := rfl
theorem State.plane_putPlane : ((s.putPlane f pl).stripe f.st).planes.get {} f.p.toNat = pl := by simp [State.putPlane]
/-- No other plane of the stripe changes, and no other stripe. -/
theorem State.putPlane_others : (∀ p, p ≠ f.p.toNat → ((s.putPlane f pl).stripe f.st).planes.get {} p = (s.stripe f.st).planes.get {} p)
    ∧ ∀ st, st ≠ f.st → (s.putPlane f pl).stripe st = s.stripe st :=
  ⟨fun p hp => by simp [State.putPlane, hp.symm], fun st hst => by simp [State.putPlane, hst.symm]⟩
end

/-! ### The two halves of a fill -/

section
variable {s : State} {ring : Nat} {f : FillReq} {fs : List FillReq} (hfills : (s.ring ring).fills = f :: fs)
include hfills

/-- The next fill begins: its image is fetched, and its plane is invalid. -/
theorem exec_planeFill_begins (hnew : f.begun = false) (hrest : ∀ h ∈ fs, h.begun = false) (hord : ∀ h ∈ s.fillsOf f.rg, f.ord ≤ h.ord)
    (hst : (s.stripe f.st).rg = some f.rg) (hlive : (s.region f.rg).live = true) (hact : s.activePlane f.st f.p = false) :
    let x := s.fig (figOf f.rg)
    let g : Ring := { s.ring ring with fills := (f :: fs).map fun h => if h = f then { f with begun := true } else h }
    exec (.planeFill ring) s = .next ((s.setRing ring (g.fetch (x.imgKey f.img) (x.imgs.get {} f.img))).putPlane f {}) := by
  show execPlaneFill ring s = _
  have hnone : (f :: fs).find? (fun h => h.begun) = none := by simpa [hnew] using hrest
  have hfirst : (f :: fs).find? (fun f => ((s.fillsOf f.rg).all fun h => decide (f.ord ≤ h.ord))
      && decide ((s.stripe f.st).rg = some f.rg)) = some f :=
    List.find?_cons_of_pos (by simpa [hst] using hord)
  simp only [execPlaneFill, hfills, hnone, hfirst, hlive, hact]
  rfl

/-- A fill that was begun ends: its plane takes the cached image. -/
theorem exec_planeFill_ends {pl : Plane} (hbegun : f.begun = true) (hplace : f.place = false)
    (hcached : (s.ring ring).cached ((s.fig (figOf f.rg)).imgKey f.img) = some pl) :
    exec (.planeFill ring) s = .next ((s.setRing ring { s.ring ring with fills := (f :: fs).filter fun h => decide (h ≠ f) }).putPlane f
      { pl with valid := true, img := f.img }) := by
  show execPlaneFill ring s = _
  have hfound : (f :: fs).find? (fun h => h.begun) = some f := List.find?_cons_of_pos hbegun
  simp only [execPlaneFill, hfills, hfound, hcached, hplace]
  rfl
end

/-! ### The obligation -/

/-- Settles O19: a fill's beginning and its end. -/
theorem fillsLoadWholePlanes : Obligations.FillsLoadWholePlanes := by
  unfold Obligations.FillsLoadWholePlanes
  intro s ring f fs x k others hfills
  refine ⟨fun hnew hrest hord hst hlive hact => ?begins, fun pl hbegun hplace hcached => ?ends⟩
  case begins =>
    refine ⟨_, exec_planeFill_begins hfills hnew hrest hord hst hlive hact, State.putPlane_others _ f _, State.plane_putPlane _ f _,
      ⟨{ f with begun := true }, ?_, rfl⟩, ?_⟩
    · simp
    · simpa using Ring.cached_fetch _ _ _
  case ends =>
    exact ⟨_, exec_planeFill_ends hfills hbegun hplace hcached, State.putPlane_others _ f _, State.plane_putPlane _ f _, by simp⟩

end Sys2Proof.Machine
end

section
/-! CERTIFICATE. A step runs the instruction that its agent's word decodes to (R56, R299, R314, R319, R320, R332, R342). -/
namespace Sys2Proof.Machine
open Sys2Proof

/-! ### A step by who moves -/

/-- What a step does with a fetched word. -/
def Fetched.run : Fetched → Host.Outcome State Fault Refusal
  | .idle u => .next u
  | .word u i => exec i u

/-- The state in which the chosen one moves: the cycles of the choice have passed. -/
def State.atMove (s : State) : State := s.choose.2.tick (s.choose.2.pace s.choose.1.dt)

theorem step_of_agent {s : State} {a : Agent} (h : s.choose.1.who = .agent a) : step s = (s.atMove.fetch a).run := by
  simp only [step, h, State.atMove]
  rfl

theorem step_of_event {s : State} {i : Instr} (h : s.choose.1.who = .event i) : step s = if isEvent i then exec i s.atMove else .next s.atMove := by
  simp only [step, h, State.atMove]

theorem step_of_damage {s : State} {d : Damage} {double : Bool} (h : s.choose.1.who = .damage d double) :
    step s = .next (s.atMove.damaged d double) := by
  simp only [step, h, State.atMove]

/-! ### What an agent fetches -/

theorem Fetched.run_of_ok (u : State) {d : Except Reject Instr} {i : Instr} (h : d = .ok i) : (Fetched.of u d).run = exec i u := by
  rw [h]; rfl
theorem Fetched.run_of_error (u : State) {d : Except Reject Instr} {e : Reject} (h : d = .error e) : (Fetched.of u d).run = .next u := by
  rw [h]; rfl

theorem State.fetch_slot {t : State} {el : Nat} {h : Handler} (hrun : (t.elem el).run = some h) :
    t.fetch (.slot el) = .of { t with act := t.slotAct el h.pos }
      (decodeSlot ((t.elPlane el (t.slotAct el h.pos).plane).words.get 0 (t.slotAct el h.pos).pos)) := by
  simp only [State.fetch, hrun]

theorem State.fetch_reel_of_ok {t : State} {rg : Nat} {i : Instr} (hin : (t.region rg).reel.rpc.toNat < (t.region rg).reel.count)
    (hword : decodeReel ((t.region rg).reel.words.get 0 (t.region rg).reel.rpc.toNat) = .ok i) :
    t.fetch (.reel rg) = if t.reelTurn rg then .word ((t.atReel rg).chooseReel rg) i else .idle (t.atReel rg) := by
  simp only [State.fetch, if_neg (Nat.not_le.2 hin), hword]

theorem State.fetch_reel_of_error {t : State} {rg : Nat} {e : Reject} (hin : (t.region rg).reel.rpc.toNat < (t.region rg).reel.count)
    (hword : decodeReel ((t.region rg).reel.words.get 0 (t.region rg).reel.rpc.toNat) = .error e) : t.fetch (.reel rg) = .idle (t.atReel rg) := by
  simp only [State.fetch, if_neg (Nat.not_le.2 hin), hword]

theorem State.fetch_matrix {t : State} {el : Nat} (hword : t.mxWord el ≠ 0) :
    t.fetch (.matrix el) = .of { t with act := { el := el } } (decodeMatrix (t.mxWord el)) := by
  simp only [State.fetch, if_neg hword]

theorem State.fetch_mult {t : State} {m : Nat} (hword : (t.multRec m).words.get 0 (t.mult m).wpos ≠ 0) :
    t.fetch (.mult m) = .of { t with act := { el := m } } (decodeMatrix ((t.multRec m).words.get 0 (t.mult m).wpos)) := by
  simp only [State.fetch, if_neg hword]

theorem State.fetch_port {t : State} {rq : Nat} {r : Req} (hreq : t.req rq = some r) :
    t.fetch (.port rq) = .of { t with act := { el := rq } } (decodeRequest r.pkt.bits) := by
  simp only [State.fetch, hreq]

theorem State.fetch_walk_of_ok {t u : State} {wk : Nat} {v : BitVec 512} {i : Instr} (hnode : t.nodeAt wk = .word u v)
    (hword : decodeNode v = .ok i) : t.fetch (.walk wk) = .word { u with act := { el := wk } } i := by
  simp only [State.fetch, hnode, hword]

/-- A step of an agent whose word is decoded: it runs what the word decodes to, and a word that encodes nothing only leaves the state. -/
theorem step_of_fetch_of {s u : State} {a : Agent} {d : Except Reject Instr} (hwho : s.choose.1.who = .agent a)
    (hfetch : s.atMove.fetch a = .of u d) : (∀ i, d = .ok i → step s = exec i u) ∧ (∀ e, d = .error e → step s = .next u) := by
  rw [step_of_agent hwho, hfetch]
  exact ⟨fun _ h => Fetched.run_of_ok u h, fun _ h => Fetched.run_of_error u h⟩

/-! ### The obligation -/

/-- Settles O57: a step by who moves, with the word that each kind of agent fetches. -/
theorem aStepRunsTheDecodedInstruction : Obligations.AStepRunsTheDecodedInstruction := by
  unfold Obligations.AStepRunsTheDecodedInstruction
  rintro s t c rfl ht runs
  obtain rfl : s.atMove = t := ht
  refine ⟨fun el h hwho hrun => step_of_fetch_of hwho (State.fetch_slot hrun), ?reel,
    fun el hwho hword => step_of_fetch_of hwho (State.fetch_matrix hword), fun m hwho hword => step_of_fetch_of hwho (State.fetch_mult hword),
    fun rq r hwho hreq => step_of_fetch_of hwho (State.fetch_port hreq), ?walk, fun i hwho => step_of_event hwho,
    fun d double hwho => step_of_damage hwho⟩
  case reel =>
    intro rg hwho x u g hin
    refine ⟨fun i hword => ?_, fun e hword => ?_⟩
    · rw [step_of_agent hwho, State.fetch_reel_of_ok hin hword]
      split <;> rfl
    · rw [step_of_agent hwho, State.fetch_reel_of_error hin hword]
      rfl
  case walk =>
    intro wk u v i hwho hnode hword
    rw [step_of_agent hwho, State.fetch_walk_of_ok hnode hword]
    rfl

end Sys2Proof.Machine
end

section
/-! CERTIFICATE. Reductions in the tree of R98 and the running maximum (R251 to R258). -/
namespace Sys2Proof.Machine
open Sys2Proof

section
variable {s : State} {op : SlotOp} {f : Slot} {o : Opn} {ps : List (BitVec 2)} {kind : Nat}

/-! ### A firing's step on the hold store -/

/-- A firing combines with what stands in its stripe's hold store. -/
def State.redStepOf (s : State) (kind : Nat) (f : Slot) (o : Opn) : RedRes :=
  redStep kind f.mod s.act.el (s.stripe (stOf s.act.el)).hold o.a o.b o.taint

/-- The pops of a firing leave the hold store to its combine. -/
theorem redStepOf_popped : (s.popped op f o ps).redStepOf kind f o = s.redStepOf kind f o := by
  simp only [State.redStepOf, popped_act, stripe_popped]

/-- A value that stays in the hold store is sent nowhere (R254). -/
theorem redFired_of_insert {t : State} {c : Nat} {store : List HoldEnt} (h : t.redStepOf kind f o = .insert c store) :
    redFired kind f o t = { st := held t c store } := by
  rw [State.redStepOf] at h
  simp only [redFired, h]
  rfl

/-- The root of a tree leaves three cycles and its combines after the firing (R98, R254). -/
theorem redFired_of_emit {t : State} {v : W32} {tn : Bool} {c : Nat} {store : List HoldEnt} (h : t.redStepOf kind f o = .emit v tn c store) :
    redFired kind f o t = { st := held t c store, outs := [{ tok := { dataTok v t.seqOf with et := tn } }], lat := 4 + c } := by
  rw [State.redStepOf] at h
  simp only [redFired, h]
  rfl

/-! ### The instructions -/

/-- `radd`, `rmax` and `rmin` are firings of their kind. -/
theorem exec_of_redKind (f : Slot) (s : State) (h : redKind op = some kind) : exec (op.mk f) s = slotExec op f s (redFired kind f) := by
  cases op <;> cases h <;> rfl
theorem slotExternal_of_redKind (h : redKind op = some kind) : slotExternal op = false := by
  cases op <;> cases h <;> rfl

/-- A reduction slot that keeps its value (R254, R255). -/
theorem exec_reduction_insert {c : Nat} {store : List HoldEnt} (hf : s.Fires op f o ps) (hk : redKind op = some kind)
    (h : s.redStepOf kind f o = .insert c store) :
    exec (op.mk f) s = .next (s.gives f o (held (s.popped op f o ps) c store) 1 []) := by
  rw [exec_of_redKind f s hk,
    slotExec_fires hf _ _ (redFired_of_insert (redStepOf_popped.trans h)) rfl (by simp [slotExternal_of_redKind hk])]

/-- A reduction slot that emits a root (R254, R255). -/
theorem exec_reduction_emit {v : W32} {tn : Bool} {c : Nat} {store : List HoldEnt} (hf : s.Fires op f o ps) (hk : redKind op = some kind)
    (h : s.redStepOf kind f o = .emit v tn c store) :
    exec (op.mk f) s
      = .next (s.gives f o (held (s.popped op f o ps) c store) (4 + c) [{ tok := { dataTok v s.seqOf with et := tn } }]) := by
  rw [exec_of_redKind f s hk,
    slotExec_fires hf _ _ (redFired_of_emit (redStepOf_popped.trans h)) rfl (by simp [slotExternal_of_redKind hk]), seqOf_popped]

/-- `rmaxsc` writes the new maximum and emits the rescale factor and it (R258). -/
theorem exec_rmaxsc (hf : s.Fires .rmaxsc f o ps) :
    let m := BitVec.ofNat 32 (fminmax fp32 true o.b.toNat o.a.toNat)
    exec (.rmaxsc f) s = .next (s.gives f o ((s.popped .rmaxsc f o ps).writeK f.r m o.taint) 10 (s.results (rescaleW o.b m, m))) := by
  intro m
  show execRmaxsc f s = _
  rw [execRmaxsc, slotExec_fires hf _ _ rfl rfl (by simp [slotExternal]), ← results_popped (op := .rmaxsc) (f := f) (o := o) (ps := ps)]
  rfl
end

/-! ### The obligation -/

/-- Settles O3: a reduction slot that keeps its value, one that emits a root, and `rmaxsc`. -/
theorem reductionSlotsCombine : Obligations.ReductionSlotsCombine := by
  unfold Obligations.ReductionSlotsCombine
  intro s f o ps op kind t
  exact ⟨fun hf hk => ⟨fun c store h => exec_reduction_insert hf hk h, fun v tn c store h => exec_reduction_emit hf hk h⟩, exec_rmaxsc⟩

end Sys2Proof.Machine
end

section
/-! CERTIFICATE. Block quantisation and dequantisation (R247, R248, R250). -/
namespace Sys2Proof.Machine
open Sys2Proof

/-! ### Blocks collected and lane pairs dequantised -/

section
variable {s : State} {f : Slot} {o : Opn} {ps : List (BitVec 2)}

/-- The quantiser with one more value in its block: the first brings the block's length, tile and format, the last completes it (R247, R248). -/
def Quant.take (q : Quant) (f : Slot) (o : Opn) (ret : Ret) : Quant :=
  let q0 := if q.vals = [] then { q with n := o.b.toNat % 64, tile := o.b.toNat / 256 % 256, fmt := mhi f.mod } else q
  let q1 := { q0 with vals := q0.vals ++ [(o.a, o.taint)], ret := ret }
  if q1.vals.length = q1.n then q1.close false else q1

/-- The state with the firing's value in its element's quantiser. -/
def State.quantised (t : State) (f : Slot) (o : Opn) : State :=
  t.setElem t.act.el { t.elem t.act.el with quant := (t.elem t.act.el).quant.take f o (t.ret f false) }

/-- `bq` adds its value to the element's block (R247). -/
theorem exec_bq (hf : s.Fires .bq f o ps) (hctl : ((s.popped .bq f o ps).elem s.act.el).quant.vals = [] → bqCtlOk o.b = true) :
    exec (.bq f) s = .next (s.gives f o ((s.popped .bq f o ps).quantised f o) 1 []) := by
  show execBq f s = _
  have hgood : ¬(((s.popped .bq f o ps).elem (s.popped .bq f o ps).act.el).quant.vals = [] ∧ bqCtlOk o.b = false) := by
    rw [popped_act]
    exact fun ⟨hempty, hbad⟩ => Bool.false_ne_true (hbad.symm.trans (hctl hempty))
  refine slotExec_fires hf _ { st := (s.popped .bq f o ps).quantised f o } ?_ rfl (by simp [slotExternal])
  simp only [List.isEmpty_iff, Bool.not_eq_true', if_neg hgood]
  rfl

/-- `bdq` latches the scale headers and gives one dequantised lane pair (R250). -/
theorem exec_bdq (hf : s.Fires .bdq f o ps) :
    let t := s.popped .bdq f o ps
    let sb := if o.x.toNat / 0x10000000 = 3 then o.x.toNat % 256 else 127
    let g (i : Nat) : W32 := dequant (mhi f.mod) (laneN o.a (packWidth f.mod) i) sb
    let q := (mlo f.mod).toNat
    exec (.bdq f) s = .next (s.gives f o
      (if (scaleHeads ((s.elem s.act.el).queue 0)).2.1 = 0 then t else t.writeK f.r o.x o.taint) 4 (s.results (g (2 * q), g (2 * q + 1)))) := by
  intro t sb g q
  show execBdq f s = _
  rw [execBdq, slotExec_fires hf _ _ rfl rfl (by simp [slotExternal]), ← results_popped (op := .bdq) (f := f) (o := o) (ps := ps)]
  rfl
end

/-! ### The quantiser's next token -/

/-- What `exec` does for one target of the quantiser's token is `quantSend`: a port gets nothing of a squashed block, every other place gets
the token. -/
theorem quantSend_eq (el : Nat) (d : QTok) (second : Bool) (u : State) :
    quantSend el d second u = (match u.destOf el (if second then d.ret.t2 else d.ret.t1) with
      | none => u
      | some x => match d.ret.squash, x with
        | true, .port _ => u
        | _, _ => u.addEmit { due := u.cyc, ord := u.elRank el, src := el, dst := x, tok := { d.tok with rid := if second then d.ret.r2 else d.ret.r1 },
                              k := if second then 1 else 0 }) := by
  unfold quantSend
  cases hdest : u.destOf el (if second then d.ret.t2 else d.ret.t1) with
  | none => rfl
  | some x => cases x <;> cases d.ret.squash <;> rfl

/-- A token whose cycle has come and whose targets have space leaves for both (R248). -/
theorem exec_bqBlockEmit {s : State} {el : Nat} {d : QTok} {rest : List QTok} (hout : (s.elem el).quant.out = d :: rest)
    (hready : (s.elem el).quant.ready ≤ s.cyc) (hfrom : d.from_ ≤ s.cyc)
    (hfits : s.fits ((s.destOf el d.ret.t1).toList ++ (s.destOf el d.ret.t2).toList) [] = true) :
    exec (.bqBlockEmit el) s = .next (quantSend el d true (quantSend el d false
      (s.setElem el { s.elem el with quant := { (s.elem el).quant with out := rest, ready := s.cyc + 1 } }))) := by
  show execBqBlockEmit el s = _
  have hcome : ¬ s.cyc < max (s.elem el).quant.ready d.from_ := Nat.not_lt.2 (Nat.max_le.2 ⟨hready, hfrom⟩)
  simp only [execBqBlockEmit, hout, if_neg hcome, hfits, if_true, quantSend_eq]
  rfl

/-! ### The obligation -/

/-- Settles O4: `bq`, `bdq` and the quantiser's next token. -/
theorem quantiserSlotsWork : Obligations.QuantiserSlotsWork := by
  unfold Obligations.QuantiserSlotsWork
  refine ⟨?bq, fun s f o ps hf => exec_bdq hf, fun s el d rest hout hready hfrom hfits => exec_bqBlockEmit hout hready hfrom hfits⟩
  case bq =>
    intro s f o ps hf t e q q' hctl
    rw [exec_bq hf hctl, State.quantised, popped_act]
    rfl

end Sys2Proof.Machine
end

section
/-! CERTIFICATE. Stream slots: a configuration write or an access takes its place in its ring stream's order (R129, R271, R273, R275, R276). -/
namespace Sys2Proof.Machine
open Sys2Proof

section
variable {s : State} {op : SlotOp} {f : Slot} {o : Opn} {ps : List (BitVec 2)}

/-! ### A plain firing -/

/-- A plain firing takes the effect that its body gives for the state of the pops. -/
theorem slotExec_plain {body : Opn → State → Fired} {u : State} {lat : Nat} {outs : List Out} (hf : s.Fires op f o ps) (hplain : s.Plain o)
    (hbody : body o (s.popped op f o ps) = { st := u, outs := outs, lat := lat }) :
    slotExec op f s body = .next (s.gives f o u lat outs) :=
  slotExec_fires hf body _ hbody rfl fun _ => .inl hplain.2

/-! ### The order of a stream -/

/-- The place of an entry depends on the element order only. -/
theorem State.insertOp_congr {s t : State} (h : ∀ el, t.elOrd el = s.elOrd el) (e : SOp) (l : List SOp) : t.insertOp e l = s.insertOp e l := by
  have hkey (x : SOp) : t.opKey x = s.opKey x := by cases x <;> simp only [State.opKey, h]
  induction l with
  | nil => rfl
  | cons x xs ih => simp only [State.insertOp, hkey, ih]

@[simp] theorem insertOp_popped (e : SOp) (l : List SOp) : (s.popped op f o ps).insertOp e l = s.insertOp e l :=
  State.insertOp_congr (elOrd_popped s op f o ps) e l

@[simp] theorem insertOp_setElem (el : Nat) (x : Elem) (e : SOp) (l : List SOp) : (s.setElem el x).insertOp e l = s.insertOp e l :=
  State.insertOp_congr (s := s) (t := s.setElem el x) (fun _ => rfl) e l

/-- An access stands in its stream's order. -/
theorem State.q_pushAcc (t : State) (kind : AKind) (scope : BitVec 3) (idx : Option W32) (data : List W32) (cmp : W32) (ds : List Dest) :
    ((t.pushAcc op f o kind scope idx data cmp ds).strm (t.rsOf o.b)).q
      = t.insertOp (.acc t.fl.next kind scope o.b idx data cmp (t.retQ op f o) t.cyc t.act.rg) (t.strm (t.rsOf o.b)).q := by
  show ((t.setStrm _ _).strm _).q = _
  rw [State.strm_setStrm, if_pos rfl]

@[simp] theorem retQ_setElem (el : Nat) (x : Elem) : (s.setElem el x).retQ op f o = s.retQ op f o := rfl

theorem State.elem_pushAcc (t : State) (kind : AKind) (scope : BitVec 3) (idx : Option W32) (data : List W32) (cmp : W32) (ds : List Dest) (el : Nat) :
    (t.pushAcc op f o kind scope idx data cmp ds).elem el = t.elem el := rfl

/-- The access of a firing stands in its stream's order under the next number (R129, R271). -/
theorem pushAcc_popped (kind : AKind) (scope : BitVec 3) (idx : Option W32) (data : List W32) (cmp : W32) (ds : List Dest) :
    (s.popped op f o ps).pushAcc op f o kind scope idx data cmp ds
      = (((s.popped op f o ps).setStrm (s.rsOf o.b) { s.strm (s.rsOf o.b) with
          q := s.insertOp (.acc s.fl.next kind scope o.b idx data cmp ((s.popped op f o ps).retQ op f o) s.cyc s.act.rg) (s.strm (s.rsOf o.b)).q
        }).reserve s.fl.next ds).bump := by
  simp [State.pushAcc]

/-! ### Configuration writes, loads, prefetches and atomics -/

variable (hplain : s.Plain o)
include hplain

theorem exec_agen (hf : s.Fires .agen f o ps) (hstream : o.a.toNat < 32) (hmask : (s.region s.act.rg).rsmask.getLsbD o.a.toNat = true)
    (hctl : f.mod = 8 → o.b.toNat < 2 ^ 15 ∧ o.b.toNat / 16 % 4 ≠ 3) :
    exec (.agen f) s = .next (s.gives f o ((s.popped .agen f o ps).setStrm (s.rsOf o.a) { s.strm (s.rsOf o.a) with
      q := s.insertOp (.cfg f.mod o.b s.cyc s.act.el) (s.strm (s.rsOf o.a)).q, rg := some s.act.rg }) 1 []) := by
  show execAgen f s = _
  have hnamed : ¬(o.a.toNat / 32 ≠ 0 ∨ (!(s.region s.act.rg).rsmask.getLsbD (o.a.toNat % 32)) = true) := by
    rw [Nat.mod_eq_of_lt hstream, hmask, Nat.div_eq_of_lt hstream]
    simp
  have hgood : ¬(f.mod = 8 ∧ (o.b.toNat / 2 ^ 15 ≠ 0 ∨ o.b.toNat / 16 % 4 = 3)) := by
    rintro ⟨hm, hbad⟩
    obtain ⟨hlt, hmode⟩ := hctl hm
    exact hbad.elim (fun h => h (Nat.div_eq_of_lt hlt)) hmode
  refine slotExec_plain hf hplain ?_
  simp only [popped_act, region_popped, hnamed, and_false, if_false, slotQuiet_plain hplain, hgood, rsOf_popped, strm_popped, insertOp_popped,
    popped_cyc]
  rfl

section
variable (hword : s.wordFault o.b false = false)
include hword

theorem loadFired_plain (idx : Option W32) :
    loadFired op f o (s.popped op f o ps) idx
      = { st := (s.popped op f o ps).pushAcc op f o (.load (f.mod.getLsbD 0)) 0 idx [] 0 ((s.popped op f o ps).tgts f) } := by
  simp [loadFired, hword, slotQuiet_plain hplain]

theorem exec_ldg (hf : s.Fires .ldg f o ps) :
    exec (.ldg f) s = .next (s.gives f o
      ((s.popped .ldg f o ps).pushAcc .ldg f o (.load (f.mod.getLsbD 0)) 0 none [] 0 ((s.popped .ldg f o ps).tgts f)) 1 []) :=
  slotExec_plain hf hplain (loadFired_plain hplain hword none)

theorem exec_ldgx (hf : s.Fires .ldgx f o ps) :
    exec (.ldgx f) s = .next (s.gives f o
      ((s.popped .ldgx f o ps).pushAcc .ldgx f o (.load (f.mod.getLsbD 0)) 0 (some o.a) [] 0 ((s.popped .ldgx f o ps).tgts f)) 1 []) :=
  slotExec_plain hf hplain (loadFired_plain hplain hword (some o.a))

theorem exec_pfg (hf : s.Fires .pfg f o ps) :
    exec (.pfg f) s = .next (s.gives f o
      ((s.popped .pfg f o ps).pushAcc .pfg f o .pfg 0 (some o.a) [] 0 ((s.popped .pfg f o ps).tgts f)) 1 []) :=
  slotExec_plain hf hplain (by simp [hword, slotQuiet_plain hplain])
end

section
variable (hword : s.wordFault o.b true = false)
include hword

theorem exec_atom (hf : s.Fires .atom f o ps) :
    exec (.atom f) s = .next (s.gives f o ((s.popped .atom f o ps).pushAcc .atom f o (.atom (field o.b 8 4) true) (field f.mod 0 3)
      (if o.b.getLsbD 12 then some o.x else none) [o.a] 0 ((s.popped .atom f o ps).tgts f)) 1 []) :=
  slotExec_plain hf hplain (by simp [hword, slotQuiet_plain hplain])

theorem exec_red (hf : s.Fires .red f o ps) :
    exec (.red f) s = .next (s.gives f o ((s.popped .red f o ps).pushAcc .red f o (.atom (field o.b 8 4) false) (field f.mod 0 3)
      (if o.b.getLsbD 12 then some o.x else none) [o.a] 0 ((s.popped .red f o ps).tgts f)) 1 []) :=
  slotExec_plain hf hplain (by simp [hword, slotQuiet_plain hplain])

theorem exec_cas (hf : s.Fires .cas f o ps) :
    exec (.cas f) s = .next (s.gives f o
      ((s.popped .cas f o ps).pushAcc .cas f o .cas (field f.mod 0 3) none [o.x] o.a ((s.popped .cas f o ps).tgts f)) 1 []) :=
  slotExec_plain hf hplain (by simp [hword, slotQuiet_plain hplain])
end

/-! ### Stores -/

section
variable (hword : s.wordFault o.b false = false)
  (hwhole : ((s.popped op f o ps).elem s.act.el).partSquash.get false (o.b.toNat % 32) = false)
include hword hwhole

/-- The last word of a store issues it, with the words collected before. -/
theorem storeFired_last {idx : Option W32}
    (hlast : lastWord ((s.popped op f o ps).elem s.act.el) (o.b.toNat % 32) (s.strm (s.rsOf o.b)).eszBehind = true) :
    let e := (s.popped op f o ps).elem s.act.el
    let n := o.b.toNat % 32
    let t := (s.popped op f o ps).setElem s.act.el { e with part := e.part.put [] n [], partSquash := e.partSquash.put false n false }
    storeFired op f o (s.popped op f o ps) idx
      = { st := t.pushAcc op f o (.store (f.mod.getLsbD 3)) (field f.mod 0 3) idx (e.part.get [] n ++ [o.a]) 0 (t.tgts f) } := by
  simp [storeFired, hword, hwhole, hlast, slotQuiet_plain hplain]

/-- An earlier word waits in the element. -/
theorem storeFired_more {idx : Option W32}
    (hmore : ¬lastWord ((s.popped op f o ps).elem s.act.el) (o.b.toNat % 32) (s.strm (s.rsOf o.b)).eszBehind = true) :
    let e := (s.popped op f o ps).elem s.act.el
    let n := o.b.toNat % 32
    let u := (s.popped op f o ps).setElem s.act.el
      { e with part := e.part.put [] n (e.part.get [] n ++ [o.a]), partSquash := e.partSquash.put false n false }
    storeFired op f o (s.popped op f o ps) idx = { st := u } := by
  simp [storeFired, hword, hwhole, hmore, slotQuiet_plain hplain]

/-- A store slot collects its word, and with the last one its access stands in its stream's order (R273). -/
theorem exec_store {idx : Option W32} {body : Opn → State → Fired} (hf : s.Fires op f o ps) (hexec : exec (op.mk f) s = slotExec op f s body)
    (hbody : ∀ t, body o t = storeFired op f o t idx) :
    let e := (s.popped op f o ps).elem s.act.el
    let n := o.b.toNat % 32
    let ws := e.part.get [] n ++ [o.a]
    ∃ u, exec (op.mk f) s = .next (s.gives f o u 1 [])
      ∧ (if lastWord e n (s.strm (s.rsOf o.b)).eszBehind
         then (u.strm (s.rsOf o.b)).q = s.insertOp (.acc s.fl.next (.store (f.mod.getLsbD 3)) (field f.mod 0 3) o.b idx ws 0
             ((s.popped op f o ps).retQ op f o) s.cyc s.act.rg) (s.strm (s.rsOf o.b)).q
           ∧ (u.elem s.act.el).part.get [] n = []
         else (u.elem s.act.el).part.get [] n = ws) := by
  intro e n ws
  by_cases hlast : lastWord e n (s.strm (s.rsOf o.b)).eszBehind = true
  · refine ⟨_, hexec.trans (slotExec_plain hf hplain ((hbody _).trans (storeFired_last hplain hword hwhole hlast))), ?_⟩
    have hrs (x : Elem) : ((s.popped op f o ps).setElem s.act.el x).rsOf o.b = s.rsOf o.b := rsOf_popped ..
    rw [if_pos hlast, ← hrs, State.q_pushAcc, hrs, State.elem_pushAcc, State.elem_setElem, if_pos rfl]
    exact ⟨by simp [e, n, ws], (FMap.get_put ..).trans (if_pos rfl)⟩
  · refine ⟨_, hexec.trans (slotExec_plain hf hplain ((hbody _).trans (storeFired_more hplain hword hwhole hlast))), ?_⟩
    rw [if_neg hlast, State.elem_setElem, if_pos rfl]
    exact (FMap.get_put ..).trans (if_pos rfl)
end
end

/-! ### The obligation -/

/-- Settles O8: a configuration write, loads and prefetches, atomics, and stores with their collected words. -/
theorem streamSlotsQueueTheirAccess : Obligations.StreamSlotsQueueTheirAccess := by
  unfold Obligations.StreamSlotsQueueTheirAccess
  intro s f o ps t rs entry acc indexed
  have hacc (op : SlotOp) (kind : AKind) (scope : BitVec 3) (idx : Option W32) (data : List W32) (cmp : W32) :
      (t op).pushAcc op f o kind scope idx data cmp ((t op).tgts f) = acc op kind scope idx data cmp := pushAcc_popped ..
  refine ⟨fun hf hplain hstream hmask hctl => exec_agen hplain hf hstream hmask hctl, fun hplain hword => ?loads, fun hplain hword => ?atomics,
    ?stores⟩
  case loads =>
    simp only [← hacc]
    exact ⟨exec_ldg hplain hword, exec_ldgx hplain hword, exec_pfg hplain hword⟩
  case atomics =>
    simp only [← hacc]
    exact ⟨exec_atom hplain hword, exec_red hplain hword, exec_cas hplain hword⟩
  case stores =>
    rintro op idx (⟨rfl, rfl⟩ | ⟨rfl, rfl⟩) hf hplain hword e ws hwhole
    · exact exec_store hplain hword hwhole hf rfl fun _ => rfl
    · exact exec_store hplain hword hwhole hf rfl fun _ => rfl

end Sys2Proof.Machine
end

section
/-! CERTIFICATE. Waiting slots: the operation stands under the next number until a step of its own completes it (R136, R143, R279, R283 to R287). -/
namespace Sys2Proof.Machine
open Sys2Proof

section
variable {s : State} {op : SlotOp} {f : Slot} {o : Opn} {ps : List (BitVec 2)}

/-! ### What the pops leave alone -/

@[simp] theorem homeRing_popped (st : Nat) : (s.popped op f o ps).homeRing st = s.homeRing st := by
  obtain ⟨_, _, _, h⟩ := popped_shape s op f o ps; rw [h]; rfl
@[simp] theorem xport_popped (m : BitVec 4) : (s.popped op f o ps).xport m = s.xport m := by
  rw [State.xport, popped_act, State.xport]

/-- The pops of a plain firing leave the registers too: they count no dropped token. -/
theorem popped_shape_of_plain (hplain : s.Plain o) :
    ∃ e r, s.popped op f o ps = { s with fab := { s.fab with elems := e }, fl := { s.fl with resv := r } } := by
  obtain ⟨e, r, h⟩ := markFired_shape (s.popQueues s.act.el ps) (firingDests op f o s)
  exact ⟨e, r, by rw [State.popped, if_neg (by simp [hplain.1])]; exact h⟩

theorem domSize_popped (hplain : s.Plain o) (pk : Nat) : (s.popped op f o ps).domSize pk = s.domSize pk := by
  obtain ⟨_, _, h⟩ := popped_shape_of_plain hplain; rw [h]; rfl
theorem pvEn_popped (hplain : s.Plain o) (pk : Nat) : (s.popped op f o ps).pvEn pk = s.pvEn pk := by
  obtain ⟨_, _, h⟩ := popped_shape_of_plain hplain; rw [h]; rfl

/-! ### An operation that waits -/

@[simp] theorem State.elem_addWait (t : State) (k : WKind) (el : Nat) : (t.addWait op f o k).elem el = t.elem el := rfl

/-- The operation stands under the next number. -/
theorem State.wait_addWait (t : State) (k : WKind) :
    (t.addWait op f o k).wait t.fl.next = some { kind := k, ret := t.retQ op f o, rg := t.act.rg, ord := t.fl.next, f := t.cyc } :=
  (State.wait_setWait ..).trans (if_pos rfl)

/-! ### Fences, barriers and publishes -/

section
variable (hplain : s.Plain o)
include hplain

theorem exec_fence (hf : s.Fires .fence f o ps) :
    exec (.fence f) s = .next (s.gives f o ((s.popped .fence f o ps).addWait .fence f o
      (.fence (field f.mod 0 3) s.act.el (s.fig (figOf s.act.rg)).lastTag)) 1 []) :=
  slotExec_plain hf hplain (by simp [slotQuiet_plain hplain])

/-- A barrier takes its place in the streams that it names, and waits (R131). -/
theorem exec_sbar (hf : s.Fires .sbar f o ps) (hmask : o.a &&& ~~~(s.region s.act.rg).rsmask = 0) (hnamed : o.a ≠ 0) :
    exec (.sbar f) s = .next (s.gives f o
      (((s.popped .sbar f o ps).placeBars (s.homeRing (stOf s.act.el)) s.fl.next o.a (List.range 32)).addWait .sbar f o
        (.sbar (field f.mod 0 3) (s.homeRing (stOf s.act.el)) o.a none)) 1 []) :=
  slotExec_plain hf hplain (by simpa [slotQuiet_plain hplain, hmask] using hnamed)

/-- A barrier that names no stream completes at once. -/
theorem exec_sbar_zero (hf : s.Fires .sbar f o ps) (hzero : o.a = 0) :
    exec (.sbar f) s = .next (s.gives f o (s.popped .sbar f o ps) 1 [{ tok := doneTok s.seqOf }]) :=
  slotExec_plain hf hplain (by simp [slotQuiet_plain hplain, hzero])

theorem exec_publish (hf : s.Fires .publish f o ps) (hlt : o.a.toNat < 2 ^ 19)
    (hpk : o.a.toNat / 64 % 8192 ≠ elPk s.act.el → o.a.toNat / 64 % 8192 < s.domSize (elPk s.act.el)) :
    exec (.publish f) s = .next (s.gives f o ((s.popped .publish f o ps).addWait .publish f o
      (.publish (o.a.toNat / 64 % 8192) (field o.a 0 6))) 1 []) := by
  have hgood : ¬(o.a.toNat / 2 ^ 19 ≠ 0 ∨ (o.a.toNat / 64 % 8192 ≠ elPk s.act.el ∧ o.a.toNat / 64 % 8192 ≥ s.domSize (elPk s.act.el))) := by
    rintro (hbig | ⟨hother, hbeyond⟩)
    · exact hbig (Nat.div_eq_of_lt hlt)
    · exact absurd (hpk hother) (Nat.not_lt.2 hbeyond)
  refine slotExec_plain hf hplain ?_
  simp only [slotQuiet_plain hplain, popped_act, domSize_popped hplain, if_neg hgood]
  rfl

/-! ### Counters, records, messages and seals -/

theorem exec_secw (hf : s.Fires .secw f o ps) (hlt : o.a.toNat < 4096) :
    exec (.secw f) s = .next (s.gives f o ((s.popped .secw f o ps).addWait .secw f o (.secw (elPk s.act.el * 4096 + o.a.toNat) o.b)) 1 []) :=
  slotExec_plain hf hplain (by simp [slotQuiet_plain hplain, hlt])

theorem exec_crd (hf : s.Fires .crd f o ps) (hlt : o.a.toNat < 4096) :
    exec (.crd f) s = .next (s.gives f o ((s.popped .crd f o ps).addWait .crd f o (.crd (elPk s.act.el * 4096 + o.a.toNat) o.b)) 1 []) :=
  slotExec_plain hf hplain (by simp [slotQuiet_plain hplain, hlt])

theorem exec_msend (hf : s.Fires .msend f o ps) :
    exec (.msend f) s = .next (s.gives f o ((s.popped .msend f o ps).addWait .msend f o (.msend (elPk s.act.el)
      ((List.range 14).map (fun i => ((s.popped .msend f o ps).elem s.act.el).msg.get 0 i) ++ [(s.fig (figOf s.act.rg)).tag, o.a])
      (f.mod.getLsbD 3) none)) 1 []) :=
  slotExec_plain hf hplain (by simp [slotQuiet_plain hplain])

theorem exec_sealreq (hf : s.Fires .sealreq f o ps) (hwaits : s.pvEn (elPk s.act.el) = true ∨ 1 < (s.fig (figOf s.act.rg)).insts) :
    exec (.sealreq f) s = .next (s.gives f o ((s.popped .sealreq f o ps).addWait .sealreq f o (.sealreq (elPk s.act.el))) 1 []) :=
  slotExec_plain hf hplain (by simp [slotQuiet_plain hplain, pvEn_popped hplain, hwaits])

/-- Without intervals, and in a Figure that is not redundant, a seal request completes at once. -/
theorem exec_sealreq_at_once (hf : s.Fires .sealreq f o ps) (hoff : s.pvEn (elPk s.act.el) = false) (hinsts : (s.fig (figOf s.act.rg)).insts ≤ 1) :
    exec (.sealreq f) s = .next (s.gives f o (s.popped .sealreq f o ps) 2 [{ tok := doneTok s.seqOf }]) :=
  slotExec_plain hf hplain (by simp [slotQuiet_plain hplain, pvEn_popped hplain, hoff, Nat.not_lt.2 hinsts, doneAfter])

/-! ### Packets -/

/-- A word of a packet that is not the eighth waits in the element (R279). -/
theorem exec_xreq_more (hf : s.Fires .xreq f o ps) :
    let e := (s.popped .xreq f o ps).elem s.act.el
    let n := f.mod.toNat % 8
    (e.pkt.get [] n).length < 7 →
    ∃ u, exec (.xreq f) s = .next (s.gives f o u 1 []) ∧ (u.elem s.act.el).pkt.get [] n = e.pkt.get [] n ++ [o.a] := by
  intro e n hlen
  let u := (s.popped .xreq f o ps).setElem s.act.el
    { e with pkt := e.pkt.put [] n (e.pkt.get [] n ++ [o.a]), pktSquash := e.pktSquash.put false n (e.pktSquash.get false n || false) }
  have hshort : (e.pkt.get [] n ++ [o.a]).length < 8 := by rw [List.length_append]; exact Nat.succ_lt_succ hlen
  refine ⟨u, slotExec_plain hf hplain ?_, ?_⟩
  · simp only [popped_act, slotQuiet_plain hplain]
    exact if_pos hshort
  · rw [State.elem_setElem, if_pos rfl]
    exact (FMap.get_put ..).trans (if_pos rfl)

/-- The eighth word offers the packet to its port (R279). -/
theorem exec_xreq_last (hf : s.Fires .xreq f o ps) :
    let e := (s.popped .xreq f o ps).elem s.act.el
    let n := f.mod.toNat % 8
    (e.pkt.get [] n).length = 7 → e.pktSquash.get false n = false →
    ∃ u, exec (.xreq f) s = .next (s.gives f o u 1 []) ∧ (u.elem s.act.el).pkt.get [] n = []
      ∧ (u.wait s.fl.next).map Wait.kind = some (.packet (s.xport f.mod) s.act.el (e.pkt.get [] n ++ [o.a])) := by
  intro e n hlen hwhole
  let t := (s.popped .xreq f o ps).setElem s.act.el { e with pkt := e.pkt.put [] n [], pktSquash := e.pktSquash.put false n false }
  have hnext : t.fl.next = s.fl.next := popped_next ..
  have hxport : t.xport f.mod = s.xport f.mod := xport_popped f.mod
  have hfull : ¬(e.pkt.get [] n ++ [o.a]).length < 8 := by simp [hlen]
  refine ⟨t.addWait .xreq f o (.packet (s.xport f.mod) s.act.el (e.pkt.get [] n ++ [o.a])), slotExec_plain hf hplain ?_, ?_, ?_⟩
  · rw [← hxport]
    simp only [popped_act, slotQuiet_plain hplain, State.setElem_act]
    exact (if_neg hfull).trans (if_neg (by rw [hwhole]; decide))
  · rw [State.elem_addWait, State.elem_setElem, if_pos rfl]
    exact (FMap.get_put ..).trans (if_pos rfl)
  · rw [← hnext, State.wait_addWait]
    rfl
end
end

/-! ### The obligation -/

/-- Settles O9, instruction by instruction. -/
theorem waitingSlotsBeginToWait : Obligations.WaitingSlotsBeginToWait := by
  unfold Obligations.WaitingSlotsBeginToWait
  intro s f o ps t el waits hplain
  exact ⟨exec_fence hplain, exec_sbar hplain, exec_sbar_zero hplain, exec_publish hplain, exec_secw hplain, exec_crd hplain, exec_msend hplain,
    exec_sealreq hplain, exec_sealreq_at_once hplain, exec_xreq_more hplain, exec_xreq_last hplain⟩

end Sys2Proof.Machine
end

section
/-! SUPPORT. Laws of storage and of emission that accesses need: what a correction leaves, reads and writes where nothing is damaged, and what a token that leaves does not touch (R133, R436, R437). -/
namespace Sys2Proof.Machine
open Sys2Proof

/-! ### What a correction leaves -/

/-- `t` is `s` but for registers, memory and the memory side's records, where correctable errors alone may be gone. -/
def State.Mends (s t : State) : Prop :=
  ∃ g m y, t = { s with regs := g, mem := m, ms := y }
    ∧ ∀ u, y.errs.get none u = s.ms.errs.get none u ∨ (s.ms.errs.get none u = some .single ∧ y.errs.get none u = none)

theorem State.Mends.refl (s : State) : s.Mends s := ⟨s.regs, s.mem, s.ms, rfl, fun _ => .inl rfl⟩

theorem State.Mends.trans {s t u : State} (h1 : s.Mends t) (h2 : t.Mends u) : s.Mends u := by
  obtain ⟨g1, m1, y1, rfl, herrs1⟩ := h1
  obtain ⟨g2, m2, y2, rfl, herrs2⟩ := h2
  refine ⟨g2, m2, y2, rfl, fun n => ?_⟩
  obtain hsame | ⟨hsingle, hgone⟩ := herrs2 n
  · rw [hsame]
    exact herrs1 n
  · obtain hbefore | ⟨-, hnone⟩ := herrs1 n
    · exact .inr ⟨hbefore ▸ hsingle, hgone⟩
    · exact absurd (hsingle.symm.trans hnone) nofun

theorem State.mends_ite {p : Prop} [Decidable p] {s t u : State} (ht : s.Mends t) (hu : s.Mends u) : s.Mends (if p then t else u) := by
  split
  · exact ht
  · exact hu

theorem State.mends_foldl {α : Type} (f : State → α → State) (l : List α) (s : State) (h : ∀ (u : State) (a : α), u.Mends (f u a)) :
    s.Mends (l.foldl f s) := by
  induction l generalizing s with
  | nil => exact .refl s
  | cons a l ih => exact (h s a).trans (ih _)

section
variable (s : State)

/-- A step that leaves the errors as they stand. -/
theorem State.mends_of_eq {t : State} (h : t = { s with regs := t.regs, mem := t.mem, ms := t.ms }) (herrs : t.ms.errs = s.ms.errs) : s.Mends t :=
  ⟨_, _, _, h, fun _ => .inl (by rw [herrs])⟩

theorem State.mends_setReg (pk off : Nat) (v : W64) : s.Mends (s.setReg pk off v) := s.mends_of_eq rfl rfl
theorem State.mends_mark (kind n : Nat) : s.Mends (s.mark kind n) := State.mends_ite (.refl s) (s.mends_of_eq rfl rfl)
theorem State.mends_setPoison (pa : Nat) (v : Bool) : s.Mends (s.setPoison pa v) := by
  unfold State.setPoison
  split
  · exact .refl s
  · exact s.mends_of_eq (by rw [State.poke_eq]) (by rw [State.poke_ms])

theorem State.mends_markRow (n : Nat) : s.Mends (s.markRow n) :=
  State.mends_ite (.refl s) (State.mends_ite (State.mends_foldl _ _ _ fun u l => u.mends_setPoison l true)
    ((s.mends_mark 4 n).trans (State.mends_setReg ..)))
theorem State.mends_markBank (n : Nat) : s.Mends (s.markBank n) :=
  State.mends_ite (.refl s) (State.mends_ite (s.mends_setReg ..) ((s.mends_mark 2 n).trans ((State.mends_setReg ..).trans (State.mends_setReg ..))))
theorem State.mends_markScratch (n : Nat) : s.Mends (s.markScratch n) :=
  State.mends_ite (.refl s) (State.mends_ite (s.mends_setReg ..) ((s.mends_mark 3 n).trans (State.mends_setReg ..)))

/-- What is counted against rows and banks. -/
theorem State.mends_counts (rows banks : FMap (Nat × Nat)) : s.Mends { s with ms := { s.ms with rowCnt := rows, bankCnt := banks } } :=
  s.mends_of_eq rfl rfl
theorem State.mends_wearRow (pa : Nat) : s.Mends (s.wearRow pa) :=
  State.mends_ite ((s.mends_counts _ s.ms.bankCnt).trans (State.mends_markRow ..)) (s.mends_counts _ s.ms.bankCnt)
theorem State.mends_wearBank (pa : Nat) (bad : Bool) : s.Mends (s.wearBank pa bad) := by
  unfold State.wearBank
  split
  · exact .refl s
  · have hcounts := s.mends_counts s.ms.rowCnt
    exact State.mends_ite (State.mends_ite ((hcounts _).trans (State.mends_markBank ..)) ((hcounts _).trans (State.mends_markScratch ..))) (hcounts _)

/-- A correctable error is taken away. -/
theorem State.mends_setMark_none {u : Nat} (h : s.ms.errs.get none u = some .single) : s.Mends (s.setMark u none) := by
  refine ⟨s.regs, s.mem, _, rfl, fun n => ?_⟩
  rw [FMap.get_put]
  by_cases hn : u = n
  · exact .inr ⟨hn ▸ h, if_pos hn⟩
  · exact .inl (if_neg hn)

theorem State.mends_correct (pa n : Nat) : s.Mends (s.correct pa n) := by
  refine State.mends_foldl _ _ _ fun t u => ?_
  dsimp only
  split
  next hsingle =>
    exact (t.mends_setMark_none hsingle).trans ((State.mends_setReg ..).trans (State.mends_ite (State.mends_wearRow ..) (State.mends_wearBank ..)))
  next => exact .refl t
end

section
variable {s t : State} (h : s.Mends t)
include h

theorem State.Mends.damagedByte (pa : Nat) : t.damagedByte pa = s.damagedByte pa := by
  obtain ⟨g, m, y, rfl, herrs⟩ := h
  simp only [State.damagedByte]
  obtain hsame | ⟨hsingle, hgone⟩ := herrs (pa / 8)
  · rw [hsame]
  · rw [hsingle, hgone]

/-- A range that was sound still is. -/
theorem State.Mends.sound {pa n : Nat} (hsound : s.damagedIn pa n = false) : t.damagedIn pa n = false := by
  refine Bool.eq_false_iff.2 fun hdamaged => Bool.eq_false_iff.1 hsound ?_
  simp only [State.damagedIn, Bool.and_eq_true, List.any_eq_true, h.damagedByte] at hdamaged ⊢
  obtain ⟨⟨u, hu, hsome⟩, hbyte⟩ := hdamaged
  refine ⟨⟨u, hu, ?_⟩, hbyte⟩
  obtain ⟨g, m, y, rfl, herrs⟩ := h
  obtain hsame | ⟨hsingle, -⟩ := herrs u
  · exact hsame ▸ hsome
  · rw [hsingle]
    rfl

/-- The places of a return address are the same. -/
theorem State.Mends.retDests (r : Ret) (w1 w2 : Bool) : t.retDests r w1 w2 = s.retDests r w1 w2 := by
  obtain ⟨g, m, y, rfl, -⟩ := h
  rfl
end

theorem State.retDests_writeBytes (s : State) (a : Nat) (bs : List Byte) (r : Ret) (w1 w2 : Bool) :
    (s.writeBytes a bs).retDests r w1 w2 = s.retDests r w1 w2 := by
  rw [State.writeBytes_eq]
  rfl

/-! ### Reads and writes where nothing is damaged -/

/-- A read of sound bytes gives them, with their correctable errors corrected (R436). -/
theorem State.readBytes_of_sound {s : State} {pa n : Nat} (h : s.damagedIn pa n = false) :
    s.readBytes pa n = (s.correct pa n, (s.correct pa n).peeks pa n, false) := by
  rw [State.readBytes]
  exact if_neg (Bool.eq_false_iff.1 ((s.mends_correct pa n).sound h))

theorem State.mends_of_readBytes {s t : State} {pa n : Nat} {v : List Byte} {bad : Bool} (h : s.damagedIn pa n = false)
    (hread : s.readBytes pa n = (t, v, bad)) : s.Mends t ∧ t.peeks pa n = v := by
  rw [State.readBytes_of_sound h] at hread
  injection hread with ht hrest
  injection hrest with hv
  exact ⟨ht ▸ s.mends_correct pa n, ht ▸ hv⟩

/-- The line of an address is among those of a range from it on. -/
theorem lineOf_mem_linesOf (pa : Nat) {n : Nat} (h : 0 < n) : lineOf pa ∈ linesOf pa n :=
  List.mem_map.2 ⟨0, List.mem_range.2 (by omega), rfl⟩

/-- A write of no interval to sound lines of no parity group only writes its bytes (R155, R169). -/
theorem State.homeWrite_untagged {s : State} {pa : Nat} {u : Upd} (irv : Bool) (op fg : Nat)
    (hsound : ∀ l ∈ linesOf pa u.size, s.damagedIn l 64 = false) :
    s.homeWrite pa u none irv none op fg = .ok (s.writeBytes pa (u.on (s.peeks pa u.size))) := by
  have hbad : (linesOf pa u.size).filter (fun l => s.damagedIn l 64) = [] :=
    List.filter_eq_nil_iff.2 fun l hl => Bool.eq_false_iff.1 (hsound l hl)
  have hnoted : s.noteBad u (linesOf pa u.size) = .ok s := by
    simp only [State.noteBad, hbad]
    cases u <;> rfl
  simp only [State.homeWrite, ite_self, hnoted]

/-- A number's bytes read back as it. -/
theorem leNat_wordBytes (v : W32) : BitVec.ofNat 32 (leNat (wordBytes v)) = v := by
  refine BitVec.eq_of_toNat_eq ?_
  simp only [wordBytes, List.range_succ, List.range_zero, List.nil_append, List.cons_append, List.map_cons, List.map_nil, leNat,
    BitVec.extractLsb'_toNat, BitVec.toNat_ofNat, Nat.shiftRight_eq_div_pow]
  omega

@[simp] theorem wordBytes_length (v : W32) : (wordBytes v).length = 4 := rfl

/-- A word written reads back. -/
theorem State.read32_writeBytes (s : State) (a : Nat) (v : W32) : (s.writeBytes a (wordBytes v)).read32 a = v := by
  rw [State.read32, State.peeks_writeBytes _ _ _ _ (wordBytes_length v), leNat_wordBytes]

theorem State.writeBytes_sameMemExcept (s : State) (a n : Nat) (bs : List Byte) (hlen : bs.length = n) : SameMemExcept s (s.writeBytes a bs) a n :=
  fun x hx => by rw [State.peek_writeBytes, if_neg (by omega)]

/-! ### A token that leaves -/

section
variable (s : State)

@[simp] theorem State.accs_addEmit (e : Emit) : (s.addEmit e).fl.accs = s.fl.accs := by
  unfold State.addEmit
  dsimp only
  split <;> rfl
@[simp] theorem State.accs_emitTo (el f due : Nat) (second : Bool) (t : Target) (rid : BitVec 6) (squash taint : Bool) (tok : Token) :
    (s.emitTo el f due second t rid squash taint tok).fl.accs = s.fl.accs := by
  unfold State.emitTo
  dsimp only
  split
  · split <;> rfl
  · split
    · rfl
    · exact State.accs_addEmit ..
@[simp] theorem State.accs_emitRet (r : Ret) (due : Nat) (o : Out) : (s.emitRet r due o).fl.accs = s.fl.accs := by
  unfold State.emitRet
  dsimp only
  split <;> split <;> simp
@[simp] theorem State.accs_emitAll (r : Ret) (due : Nat) (outs : List Out) : (s.emitAll r due outs).fl.accs = s.fl.accs := by
  induction s, outs using State.emitAll.induct (r := r) (due := due) with
  | case1 => rfl
  | case2 => exact State.accs_emitRet ..
  | case3 s o p os hone => simp [State.emitAll, hone]
  | case4 s o p os hone ih => simp [State.emitAll, hone, ih]
@[simp] theorem State.accs_tellTwin (taint : Bool) (outs : List Out) (t : Nat × Nat × Ret) : (s.tellTwin taint outs t).fl.accs = s.fl.accs := by
  unfold State.tellTwin
  dsimp only
  split
  · split
    · exact foldl_keeps (fun u : State => u.fl.accs) _ _ _ fun _ _ => State.accs_addEmit ..
    · rfl
  · exact State.accs_emitAll ..
@[simp] theorem State.accs_tellTwins (op : Nat) (taint : Bool) (outs : List Out) : (s.tellTwins op taint outs).fl.accs = s.fl.accs := by
  unfold State.tellTwins
  dsimp only
  have htold := foldl_keeps (fun u : State => u.fl.accs) (fun u t => u.tellTwin taint outs t) (s.fl.twins.get [] op) s fun u t => u.accs_tellTwin ..
  split
  · exact htold
  · exact htold
end

end Sys2Proof.Machine
end

section
/-! CERTIFICATE. Accesses at their home: loads bind and emit, stores complete, atomics are one step (R127, R133, R134, R136 to R138, R273, R276, R369). -/
namespace Sys2Proof.Machine
open Sys2Proof

section
variable {s : State} {ac : Nat} {a : Access}

/-! ### Loads -/

section
variable {sx : Bool}

/-- A load of at most four bytes emits its token and is over with it (R133, R273). -/
theorem State.emitLoad_narrow (s : State) (id : Nat) (hkind : a.kind = .load sx) (hsize : a.size < 8) (hport : a.toPort = none) (hfirst : a.emitted = 0)
    (hplain : a.ret.squash = false) : let out : Out := { tok := dataTok (loadWord a.value a.size 0 sx) a.ret.seq }
    s.emitLoad id a = (((((s.unreserve id).emitRet { a.ret with squash := false } (s.opqCycle a.ret) out).tellTwins id a.ret.taint [out]).delAcc
      id).unreserve id).forget id := by
  intro out
  have hwords : a.words = 1 := by rw [Access.words]; omega
  simp [State.emitLoad, hkind, hport, hfirst, hplain, hwords, out]

/-- The intervals of the lines of HBM that a load reads count for its Figure's fences (R136). -/
def State.noteRead (s : State) (rg pa n : Nat) : State :=
  if paSpace pa = 0 then (linesOf pa n).foldl (fun u l => u.noteTag rg (u.lineTag l)) s else s

/-- A load of device memory takes the bytes read as its value. -/
theorem State.bind_of_readBytes {t : State} {v : List Byte} {bad : Bool} (hread : s.readBytes (s.backing a.pa false) a.size = (t, v, bad))
    (hpa : a.pa ≠ 0) (hdevice : paSpace a.pa ≠ 1) :
    s.bind ac a = ((t.blame s.det.length a.rg).noteRead a.rg (s.backing a.pa false) a.size).emitLoad ac
      { a with phase := .performed, value := v, ret := { a.ret with taint := a.ret.taint || bad } } := by
  simp only [State.bind, hread, hpa, hdevice, false_and, if_false, List.foldl_nil]
  rfl

section
variable (hacc : s.acc ac = some a) (hkind : a.kind = .load sx) (hhome : a.phase = .home) (hcycle : a.minAt ≤ s.cyc) (hbase : a.base = none)
  (htokens : s.tokensBefore a = false) (hback : s.heldBack a = false)
include hacc hkind hhome hcycle hbase htokens hback

theorem exec_loadBound (hdevice : paSpace a.pa ≠ 1) (hframe : s.atFrame ac a = none) : exec (.loadBound ac) s = .next (s.bind ac a) := by
  show execLoadBound ac s = _
  simp [execLoadBound, hacc, hkind, hhome, hcycle, hbase, htokens, hback, hdevice, hframe]

theorem exec_hostReadCompletion (hhost : paSpace a.pa = 1) (hup : s.out.hostDown.get false (paPkg a.pa) = false) :
    exec (.hostReadCompletion ac) s = .next (s.bind ac a) := by
  show execHostReadCompletion ac s = _
  simp [execHostReadCompletion, hacc, hkind, hhome, hcycle, hbase, htokens, hback, hhost, hup]
end
end

/-! ### Stores -/

/-- An access whose completion token has left is in flight no more. -/
theorem State.acc_completeStore (s : State) (id : Nat) (a : Access) : (s.completeStore id a).acc id = none := by
  have hgone : (s.completeStore id a).fl.accs = (s.delAcc id).fl.accs := by
    show (State.tellTwins _ _ _ _).fl.accs = _
    rw [State.accs_tellTwins, State.accs_emitRet]
    rfl
  calc (s.completeStore id a).acc id
    _ = (s.delAcc id).acc id := by rw [State.acc, hgone, State.acc]
    _ = none := (State.acc_delAcc ..).trans (if_pos rfl)

theorem exec_storePerformed (hacc : s.acc ac = some a) (hkind : ∀ sx, a.kind ≠ .load sx) (hscope : s.scopeMet ac a = true)
    (hphase : (a.phase = .performed ∧ a.minAtStore ≤ s.cyc) ∨ a.phase = .staged) :
    exec (.storePerformed ac) s = .next (s.completeStore ac a) := by
  show execStorePerformed ac s = _
  obtain ⟨hperformed, hcycle⟩ | hstaged := hphase
  · simp only [execStorePerformed, hacc, hperformed]
    cases hk : a.kind with
    | load sx => exact absurd hk (hkind sx)
    | _ => exact if_pos ⟨hcycle, hscope⟩
  · simp only [execStorePerformed, hacc, hstaged]
    cases hk : a.kind with
    | load sx => exact absurd hk (hkind sx)
    | _ => exact if_pos hscope

/-! ### Atomics -/

/-- `atom` and `cas` give the old value back (R275). -/
def AKind.givesOld (k : AKind) : Bool := match k with | .atom _ old => old | .cas => true | _ => false

theorem AKind.givesOld_iff (k : AKind) : k.givesOld = true ↔ k = .cas ∨ ∃ op, k = .atom op true := by
  cases k <;> simp [AKind.givesOld]

/-- An atomic counts as performed, and one that returns the old value sends it (R137). -/
def State.answerAtomic (s : State) (ac : Nat) (a : Access) (old : W32) : State :=
  let out : Out := { which := 1, tok := dataTok old a.ret.seq }
  let u := if a.kind.givesOld then ((s.unreserveAt ac (s.retDests a.ret true false)).emitRet a.ret (s.opqCycle a.ret) out).tellTwins ac a.ret.taint [out]
    else s
  u.setAcc ac { a with phase := .performed }

/-- An atomic reads, computes and writes in one step (R137). -/
theorem exec_atomicAtHome {t : State} {v : List Byte} (hacc : s.acc ac = some a) (hatomic : a.kind.isAtomic = true) (hhome : a.phase = .home)
    (hback : s.heldBack a = false) (htag : a.tag = none) (hvalue : a.value = []) (hprot : a.prot = false) (hframe : s.atFrame ac a = none)
    (hfirst : s.atomBefore a = false) (hsound : s.damagedIn (s.backing a.pa false) 4 = false)
    (hlines : paSpace (s.backing a.pa false) = 0 → a.pa ≠ 0 ∧ ∀ l ∈ linesOf (s.backing a.pa false) 4, s.damagedIn l 64 = false)
    (hread : s.readBytes (s.backing a.pa false) 4 = (t, v, false)) :
    let old : W32 := BitVec.ofNat 32 (leNat v)
    exec (.atomicAtHome ac) s = .next ((t.writeBytes (s.backing a.pa false)
      (wordBytes (atomNew a.kind old (BitVec.ofNat 32 (leNat a.data)) a.cmp))).answerAtomic ac a old) := by
  intro old
  obtain ⟨hmends, rfl⟩ := State.mends_of_readBytes hsound hread
  have hgrp : a.grp = none := by rw [Access.grp, hprot]; rfl
  show execAtomicAtHome ac s = _
  simp only [execAtomicAtHome, hacc, State.answerAtomic]
  rw [if_pos ⟨hatomic, hhome, by rw [hback]; rfl⟩, htag, if_neg (by simp [State.windowHolds]), if_neg (fun h => h hvalue)]
  simp only [hframe, hfirst, hread, Bool.or_false, hgrp]
  by_cases hspace : paSpace (s.backing a.pa false) = 0
  · obtain ⟨hpa, hls⟩ := hlines hspace
    have hwritten := State.homeWrite_untagged (u := .atom a.kind (BitVec.ofNat 32 (leNat a.data)) a.cmp) a.irv ac (figOf a.rg)
      fun l hl => hmends.sound (hls l hl)
    simp only [hspace, hpa, hls _ (lineOf_mem_linesOf _ (Nat.succ_pos 3)), hwritten, ne_eq, not_false_eq_true, and_self, decide_true,
      Bool.false_eq_true, and_false, if_false, if_true]
    rfl
  · simp only [hspace, false_and, decide_false, Bool.false_eq_true, if_false]
    rfl
end

/-! ### The new value of an atomic (Table 11.4) -/

theorem atomNew_min_signed (old v cmp : W32) (r : Bool) : (atomNew (.atom 4 r) old v cmp).toInt = min old.toInt v.toInt := by
  show (if v.toInt < old.toInt then v else old).toInt = _
  split <;> omega
theorem atomNew_max_signed (old v cmp : W32) (r : Bool) : (atomNew (.atom 5 r) old v cmp).toInt = max old.toInt v.toInt := by
  show (if old.toInt < v.toInt then v else old).toInt = _
  split <;> omega
theorem atomNew_min_unsigned (old v cmp : W32) (r : Bool) : (atomNew (.atom 6 r) old v cmp).toNat = min old.toNat v.toNat := by
  show (if v.toNat < old.toNat then v else old).toNat = _
  split <;> omega
theorem atomNew_max_unsigned (old v cmp : W32) (r : Bool) : (atomNew (.atom 7 r) old v cmp).toNat = max old.toNat v.toNat := by
  show (if old.toNat < v.toNat then v else old).toNat = _
  split <;> omega

/-! ### The obligations -/

/-- Settles O23: a load of device memory, one of host memory, and the token of a narrow one. -/
theorem loadsBindAndEmit : Obligations.LoadsBindAndEmit := by
  unfold Obligations.LoadsBindAndEmit
  intro s ac a sx hacc hkind hhome hcycle hbase htokens hback
  refine ⟨exec_loadBound hacc hkind hhome hcycle hbase htokens hback, exec_hostReadCompletion hacc hkind hhome hcycle hbase htokens hback, ?narrow⟩
  case narrow =>
    intro t v bad hread hpa hdevice hsize hport hfirst hplain out pa met u
    exact (State.bind_of_readBytes hread hpa hdevice).trans (State.emitLoad_narrow _ ac hkind hsize hport hfirst hplain)

/-- Settles O24: a store whose scope is met completes and is over. -/
theorem storesCompleteAtTheirScope : Obligations.StoresCompleteAtTheirScope := by
  unfold Obligations.StoresCompleteAtTheirScope
  intro s ac a hacc hkind hscope hphase
  exact ⟨exec_storePerformed hacc hkind hscope hphase, s.acc_completeStore ac a⟩

/-- Settles O25: the step of an atomic, the word that it leaves, and Table 11.4. -/
theorem atomicsAreOneStep : Obligations.AtomicsAreOneStep := by
  unfold Obligations.AtomicsAreOneStep
  refine ⟨?step, fun old v cmp r => ⟨rfl, rfl, rfl, rfl, rfl, atomNew_min_signed old v cmp r, atomNew_max_signed old v cmp r,
    atomNew_min_unsigned old v cmp r, atomNew_max_unsigned old v cmp r, rfl⟩⟩
  case step =>
    intro s ac a t v pa hacc hatomic hhome hback htag hvalue hprot hframe hfirst hsound hlines hread old new w out u
    refine ⟨?_, t.read32_writeBytes pa new, t.writeBytes_sameMemExcept pa 4 _ (wordBytes_length new)⟩
    rw [exec_atomicAtHome hacc hatomic hhome hback htag hvalue hprot hframe hfirst hsound hlines hread, State.answerAtomic]
    obtain ⟨hmends, -⟩ := State.mends_of_readBytes hsound hread
    simp only [AKind.givesOld_iff, State.retDests_writeBytes, hmends.retDests]
    rfl

end Sys2Proof.Machine
end

section
/-! CERTIFICATE. What waits completes: fences, barriers, publishes, counters, records, seal requests and packets (R131, R136, R138, R143, R153, R279, R283, R284, R287). -/
namespace Sys2Proof.Machine
open Sys2Proof

/-! ### Barriers leave their streams -/

/-- A stream's order without barrier `w`. -/
def Strm.dropBar (t : Strm) (w : Nat) : Strm :=
  { t with q := t.q.filter fun o => match o with | .bar v _ => decide (v ≠ w) | _ => true }

theorem Strm.not_mem_dropBar (t : Strm) (w f : Nat) : .bar w f ∉ (t.dropBar w).q := by
  simp [Strm.dropBar]

/-- A barrier leaves stream `k` of the ring if its mask names it. -/
def State.dropBar (ring w : Nat) (mask : W32) (s : State) (k : Nat) : State :=
  if mask.getLsbD k then s.setStrm (ring * 32 + k) ((s.strm (ring * 32 + k)).dropBar w) else s

theorem State.dropBars_eq (ring w : Nat) (mask : W32) (s : State) :
    State.dropBars ring w mask s = (List.range 32).foldl (State.dropBar ring w mask) s := rfl

theorem State.strm_dropBar (ring w : Nat) (mask : W32) (s : State) (k j : Nat) :
    (State.dropBar ring w mask s k).strm (ring * 32 + j)
      = if k = j ∧ mask.getLsbD k = true then (s.strm (ring * 32 + j)).dropBar w else s.strm (ring * 32 + j) := by
  unfold State.dropBar
  by_cases hk : k = j
  · subst hk
    by_cases hm : mask.getLsbD k = true <;> simp [hm]
  · by_cases hm : mask.getLsbD k = true <;> simp [hm, hk]

/-- A barrier that a stream has lost does not come back. -/
theorem State.not_mem_foldl_dropBar (ring w : Nat) (mask : W32) (l : List Nat) (s : State) (k f : Nat)
    (h : (k ∈ l ∧ mask.getLsbD k = true) ∨ .bar w f ∉ (s.strm (ring * 32 + k)).q) :
    .bar w f ∉ ((l.foldl (State.dropBar ring w mask) s).strm (ring * 32 + k)).q := by
  induction l generalizing s with
  | nil => exact h.resolve_left fun ⟨hmem, _⟩ => List.not_mem_nil hmem
  | cons j l ih =>
    refine ih _ ?_
    rw [State.strm_dropBar]
    by_cases hj : j = k ∧ mask.getLsbD j = true
    · exact .inr (by rw [if_pos hj]; exact Strm.not_mem_dropBar _ w f)
    · rw [if_neg hj]
      refine h.imp_left fun ⟨hmem, hm⟩ => ⟨(List.mem_cons.1 hmem).resolve_left ?_, hm⟩
      rintro rfl
      exact hj ⟨rfl, hm⟩

/-- A released barrier stands in none of its streams (R131). -/
theorem State.not_mem_dropBars (ring w : Nat) (mask : W32) (s : State) (k f : Nat) (hk : k < 32) (hmask : mask.getLsbD k = true) :
    .bar w f ∉ ((State.dropBars ring w mask s).strm (ring * 32 + k)).q := by
  rw [State.dropBars_eq]
  exact State.not_mem_foldl_dropBar ring w mask _ s k f (.inl ⟨List.mem_range.2 hk, hmask⟩)

section
variable {s : State} {w : Nat} {x : Wait} (hwait : s.wait w = some x)

/-! ### Fences and barriers -/

/-- The newest interval that a fence or barrier covers: fixed once it is held (R136). -/
def Wait.newest (x : Wait) (s : State) (last : Option W32) : Option W32 := if x.held then last else (s.fig (figOf x.rg)).lastTag
/-- The operations that stand before a fence or barrier is held. -/
def Wait.mark (x : Wait) (s : State) : Nat := if x.held then x.ord else s.fl.next
/-- What a fence or barrier covers is durable at its scope, and no close window holds its token (R138, R153). -/
def Wait.met (x : Wait) (s : State) (scope : BitVec 3) (last : Option W32) : Bool :=
  s.durable (s.region x.rg).pk scope (x.mark s) (x.newest s last) && !(s.windowHolds (s.region x.rg).pk (x.newest s last))

/-- A fence or barrier whose accesses are past completes, or goes on waiting with what it covers fixed. -/
theorem State.coveredDone_eq (s : State) (w : Nat) (x : Wait) (hplain : x.ret.squash = false) (scope : BitVec 3) (last : Option W32)
    (again : Option W32 → WKind) (free : State → State) (hkind : x.held = true → x.kind = again last) :
    s.coveredDone w x scope last again free = if x.met s scope last
      then (free s).finishWait w { x.ret with squash := false } [{ tok := doneTok x.ret.seq }]
      else s.setWait w { x with kind := again (x.newest s last), held := true, ord := x.mark s } := by
  simp only [State.coveredDone, hplain, Wait.met, Wait.mark, Wait.newest]
  by_cases hheld : x.held = true
  · have hsame : { x with kind := again last, held := true, ord := x.ord } = x := by
      rw [← hkind hheld, ← hheld]
    simp only [hheld, if_true, hsame]
    rfl
  · simp only [hheld]
    rfl

include hwait

theorem exec_fenceConditionMet (hplain : x.ret.squash = false) {scope : BitVec 3} {el : Nat} {last : Option W32} (hkind : x.kind = .fence scope el last)
    (hpast : s.elPast el w = true) :
    exec (.fenceConditionMet w) s = .next (if x.met s scope last then s.finishWait w { x.ret with squash := false } [{ tok := doneTok x.ret.seq }]
      else s.setWait w { x with kind := .fence scope el (x.newest s last), held := true, ord := x.mark s }) := by
  show execFenceConditionMet w s = _
  simp only [execFenceConditionMet, hwait, hkind, hpast, if_true]
  rw [State.coveredDone_eq s w x hplain scope last (.fence scope el) id fun _ => hkind]
  rfl

/-- A barrier that is met releases its streams (R131). -/
theorem exec_sbarRelease (hplain : x.ret.squash = false) {scope : BitVec 3} {ring : Nat} {mask : W32} {last : Option W32}
    (hkind : x.kind = .sbar scope ring mask last) (hbar : s.barMet ring w mask = true) (hfired : x.f < s.cyc) (hmet : x.met s scope last = true) :
    exec (.sbarRelease w) s
      = .next ((State.dropBars ring w mask s).finishWait w { x.ret with squash := false } [{ tok := doneTok x.ret.seq }]) := by
  show execSbarRelease w s = _
  simp only [execSbarRelease, hwait, hkind]
  rw [if_pos ⟨hbar, hfired⟩, State.coveredDone_eq s w x hplain scope last (.sbar scope ring mask) _ fun _ => hkind, if_pos hmet]

/-! ### Publishes, counters, records and seal requests -/

theorem exec_publishPerformed (hplain : x.ret.squash = false) {pk : Nat} {n : BitVec 6} (hkind : x.kind = .publish pk n)
    (hvalid : (s.spt pk n.toNat).getLsbD 0 = true) (hmay : s.mayPerform x.rg w = true) :
    exec (.publishPerformed w) s = .next ((s.setReg pk (0x20000 + 16 * n.toNat) (s.spt pk n.toNat ^^^ 0x40)).finishWait w
      { x.ret with squash := false } [{ tok := doneTok x.ret.seq }]) := by
  show execPublishPerformed w s = _
  simp only [execPublishPerformed, hwait, hkind, hplain]
  rw [if_neg (by simp only [hmay]; decide), if_neg (by simp only [hvalid]; decide)]
  rfl

theorem exec_secwCountReached {c : Nat} {v : W32} (hkind : x.kind = .secw c v) (hmay : s.mayPerform x.rg w = true)
    (hreached : (s.secs.get 0 c - v).toNat < 2 ^ 31) :
    exec (.secwCountReached w) s = .next (s.finishWait w x.ret [{ tok := doneTok x.ret.seq }]) := by
  show execSecwCountReached w s = _
  simp only [execSecwCountReached, hwait, hkind]
  exact if_pos ⟨hmay, hreached⟩

theorem exec_crdRecordArrival {c : Nat} {v : W32} (hkind : x.kind = .crd c v) (hmay : s.mayPerform x.rg w = true)
    (hon : (s.reg (c / 4096) 0x15010).getLsbD 0 = true)
    (harrived : (s.read32 (s.backing (s.ringEntry (c / 4096) (c % 4096) + 8) false) - v - 1).toNat < 2 ^ 31) :
    exec (.crdRecordArrival w) s = .next (s.finishWait w x.ret [{ tok := dataTok v x.ret.seq }]) := by
  show execCrdRecordArrival w s = _
  simp only [execCrdRecordArrival, hwait, hkind]
  exact if_pos ⟨hmay, hon, harrived⟩

theorem exec_sealreqRecorded {pk : Nat} (hkind : x.kind = .sealreq pk) (hmay : s.mayPerform x.rg w = true) (hon : s.pvEn pk = true)
    (hopen : (s.pav pk).begun ≤ x.f) :
    exec (.sealreqRecorded w) s = .next ((s.noteReq pk).finishWait w x.ret [{ tok := doneTok x.ret.seq }]) := by
  show execSealreqRecorded w s = _
  simp [execSealreqRecorded, hwait, hkind, hmay, hon, Nat.not_lt.2 hopen]

/-! ### Packets -/

/-- A port takes the first packet of its order, where its queue has room (R279). -/
theorem exec_xreqPacketAccepted (hplain : x.ret.squash = false) {tp el : Nat} {ws : List W32} (hkind : x.kind = .packet tp el ws)
    (hroom : (s.eng.queues.get [] tp).length < 16) (hmay : s.mayPerform x.rg w = true) (hfired : x.f < s.cyc)
    (hfirst : ∀ p ∈ s.fl.waits, (p.2.f < x.f ∨ (p.2.f = x.f ∧ ordBefore (s.elOrd p.2.ret.el) (s.elOrd el) = true)) →
      ∀ el' ws', p.2.kind ≠ .packet tp el' ws') :
    let p : Packet := {
      bits := BitVec.ofNat 256 (leNat ((ws.map wordBytes).flatten)), asid := (s.fig (figOf x.rg)).asid, fg := some (figOf x.rg), el := el, rg := x.rg }
    exec (.xreqPacketAccepted w) s
      = .next (({ s with eng := { s.eng with queues := s.eng.queues.put [] tp (s.eng.queues.get [] tp ++ [p]) } } : State).finishWait w
          { x.ret with squash := false } [{ tok := doneTok x.ret.seq }]) := by
  intro p
  show execXreqPacketAccepted w s = _
  simp only [execXreqPacketAccepted, hwait, hkind, hplain]
  refine if_neg ?_
  rintro (hbefore | hnow | hfull | hheld)
  · obtain ⟨q, hq, hearlier⟩ := List.any_eq_true.1 hbefore
    obtain ⟨hord, hport⟩ := Bool.and_eq_true_iff.1 hearlier
    cases hk : q.2.kind with
    | packet tp' el' ws' =>
      rw [hk] at hport
      exact hfirst q hq (of_decide_eq_true hord) el' ws' (of_decide_eq_true hport ▸ hk)
    | _ =>
      rw [hk] at hport
      exact Bool.false_ne_true hport
  · exact absurd hfired (Nat.not_lt.2 hnow)
  · exact absurd hroom (Nat.not_lt.2 hfull)
  · exact Bool.false_ne_true (hheld.symm.trans hmay)
end

/-! ### The obligation -/

/-- Settles O26, completion by completion. -/
theorem waitsComplete : Obligations.WaitsComplete := by
  unfold Obligations.WaitsComplete
  intro s w x done hwait hplain pk newest mark met
  refine ⟨fun scope el last hkind hpast => exec_fenceConditionMet hwait hplain hkind hpast, ?sbar,
    fun pk n hkind hvalid hmay => exec_publishPerformed hwait hplain hkind hvalid hmay,
    fun c v hkind hmay hreached => exec_secwCountReached hwait hkind hmay hreached,
    fun c v hkind hmay hon harrived => exec_crdRecordArrival hwait hkind hmay hon harrived,
    fun pk hkind hmay hon hopen => exec_sealreqRecorded hwait hkind hmay hon hopen,
    fun tp el ws hkind hroom hmay hfired hfirst => exec_xreqPacketAccepted hwait hplain hkind hroom hmay hfired hfirst⟩
  case sbar =>
    intro scope ring mask last hkind hbar hfired hmet t
    exact ⟨exec_sbarRelease hwait hplain hkind hbar hfired hmet, fun k f hk hmask => s.not_mem_dropBars ring w mask k f hk hmask⟩

end Sys2Proof.Machine
end

section
/-! CERTIFICATE. Small copies and fills between places in SRAM (R139, R332, R334). -/
namespace Sys2Proof.Machine
open Sys2Proof

/-! ### Addresses outside HBM -/

section
variable (s : State) {pa : Nat} (h : paSpace pa ≠ 0)
include h

theorem State.inArea_of_space_ne_zero (n : Nat) : s.inArea pa n = false := by simp [State.inArea, h]
theorem State.poisoned_of_space_ne_zero : s.poisoned pa = false := by simp [State.poisoned, State.poisonBit, h]
theorem State.backing_of_space_ne_zero (shadow : Bool) : s.backing pa shadow = pa := if_pos h
theorem State.migState_of_space_ne_zero : s.migState pa = 0 := by
  have hnone : (List.range 16).findSome? (fun _ => (none : Option Nat)) = none := List.findSome?_eq_none_iff.2 fun _ _ => rfl
  simp [State.migState, h, hnone]
theorem State.newerIn_of_space_ne_zero (n : Nat) : s.newerIn pa n = false := by simp [State.newerIn, h]
/-- No write there is tagged (R151). -/
theorem State.tagOr_of_space_ne_zero (pk : Nat) (kept : Option W32) : s.tagOr pk pa kept = none := by
  have hnone : s.engineTag pk pa = none := if_neg fun ⟨_, hspace, _⟩ => h hspace
  simp only [State.tagOr, hnone]
end

/-! ### Storage without errors -/

theorem State.correct_of_errs_nil {s : State} (h : s.ms.errs = []) (pa n : Nat) : s.correct pa n = s :=
  List.foldlRecOn (motive := fun t => t = s) _ _ rfl fun t ht u _ => by
    subst ht
    exact if_neg (by simp [h])

theorem State.readBytes_of_errs_nil {s : State} (h : s.ms.errs = []) (pa n : Nat) : s.readBytes pa n = (s, s.peeks pa n, false) := by
  rw [State.readBytes_of_sound (by simp [State.damagedIn, h]), State.correct_of_errs_nil h]

/-! ### One part of a request -/

/-- A range within a page is not cut. -/
theorem cutPage_of_le {a n : Nat} (h : a % 4096 + n ≤ 4096) : cutPage a n = [(0, n)] := if_pos (by omega)

/-- A request that has written nothing reads its sources as they are. -/
theorem State.olds_nil (s : State) (pk : Nat) (asid : BitVec 12) (va : W64) (v : List Byte) (h : va.toNat % 4096 + v.length ≤ 4096) :
    s.olds pk asid [] (.va va) v = v := by
  have hsame (pa : Nat) : s.oldBytes [] pa v = v := by
    refine List.ext_getElem (by simp [State.oldBytes]) fun i _ hi => ?_
    simp [State.oldBytes, List.getD_eq_getElem?_getD, hi]
  simp only [State.olds, End.addr, cutPage_of_le h, List.map_cons, List.map_nil, List.drop_zero, List.take_length, List.flatten_cons,
    List.flatten_nil, List.append_nil]
  split
  · exact hsame _
  · rfl

section
variable {s : State} {pk who : Nat} {asid : BitVec 12} {va : W64} {n : Nat} {pa : Nat} {x : Xlat}

section
variable {write : Bool} (h : s.SramAt pk who asid va n write pa x)
include h

theorem State.SramAt.space_ne_zero : paSpace pa ≠ 0 := by
  obtain hs | hs := h.sram <;> simp [hs]
theorem State.SramAt.space_ne_one : paSpace pa ≠ 1 := by
  obtain hs | hs := h.sram <;> simp [hs]
theorem State.SramAt.pageFault : s.pageFault pa x = none := if_neg (by simp [h.plain])

/-- The bytes there are read at once. -/
theorem State.SramAt.xpeek : s.xpeek pa n = .ok (some (s, s.peeks pa n)) := by
  have h0 := h.space_ne_zero
  simpa [State.xpeek, s.inArea_of_space_ne_zero h0, s.poisoned_of_space_ne_zero h0, h.space_ne_one, s.backing_of_space_ne_zero h0,
    s.migState_of_space_ne_zero h0, s.newerIn_of_space_ne_zero h0, State.readBytes_of_errs_nil h.good] using h.calm
end

/-- A source there gives its bytes. -/
theorem State.SramAt.readEnd (h : s.SramAt pk who asid va n false pa x) : s.readEnd pk asid who (.va va) n = .ok (some (s, s.peeks pa n)) := by
  simp only [State.readEnd, cutPage_of_le h.page, List.foldl_cons, List.foldl_nil, BitVec.add_zero, h.trans, h.carried, h.pageFault, h.xpeek]
  rfl

section
variable (h : s.SramAt pk who asid va n true pa x)
include h

theorem State.SramAt.endPA : s.endPA pk asid (.va va) true = .ok (pa, some x) := by
  simp only [State.endPA, h.trans]
  rfl

/-- A write there is performed at once. -/
theorem State.SramAt.xpoke {v : List Byte} (fg : Nat) : s.xpoke pk pa v (some x) false false none who fg = .ok (s.writeBytes pa v) := by
  have h0 := h.space_ne_zero
  simpa [State.xpoke, irrevocable, h.kept, s.inArea_of_space_ne_zero h0, s.poisoned_of_space_ne_zero h0, State.wayOpen, h.carried, h0,
    h.space_ne_one, h.pageFault] using h.calm
end
end

section
variable {s : State} {r : Req} {who : Nat} {va : W64} {n : Nat} {pa : Nat} {x : Xlat} {v : List Byte}
  (h : s.SramAt (tpPk r.tp) who r.pkt.asid va n true pa x) (hlen : v.length = n)
include h hlen

/-- A destination there takes the bytes, and they are counted. -/
theorem State.SramAt.writeEnd : ∃ q, s.writeEnd who r (.va va) v false = (.ok (s.writeBytes pa v), q) ∧ q.bytes = r.bytes + n := by
  have hpage : cutPage va.toNat v.length = [(0, n)] := by rw [hlen, cutPage_of_le h.page]
  have htake : (v.drop 0).take n = v := by rw [List.drop_zero, ← hlen, List.take_length]
  have hplus : (End.va va).plus 0 = .va va := by rw [End.plus, BitVec.add_zero]
  simp only [State.writeEnd, End.addr, hpage, List.foldl_cons, List.foldl_nil, hplus, h.endPA, htake, s.tagOr_of_space_ne_zero h.space_ne_zero,
    h.xpoke]
  exact ⟨_, rfl, by rw [hlen]⟩

/-- A part that goes there is written at once, from bytes that its source gives. -/
theorem State.SramAt.doMove {src : End} (hheld : r.held = none) (hwindow : (s.pav (tpPk r.tp)).window = false) (hold : r.old = [])
    (hread : s.readEnd (tpPk r.tp) r.pkt.asid who src n = .ok (some (s, v))) (hsrc : s.olds (tpPk r.tp) r.pkt.asid [] src v = v) :
    ∃ q, s.doMove who r { src := src, dst := .va va, n := n } = (.ok (s.writeBytes pa v), q) ∧ q.bytes = r.bytes + n := by
  simp only [State.doMove, State.moveWith, h.endPA, State.elsewhere, hwindow, hheld, Option.bind_none, hread, hold, hsrc, ite_self,
    Bool.false_and, Bool.false_eq_true, if_false, List.isEmpty_nil, if_true]
  exact State.SramAt.writeEnd h hlen
end

/-! ### A request of one part -/

section
variable {s t : State} {r q : Req} {f : Nat → State → Req → Part × Req}

/-- The request's one part done, it is over. -/
theorem State.runReq_one (hreq : s.req s.act.el = some r) (hover : r.isOver = false) (hbarred : r.barred = false) (hheld : r.held = none)
    (hwindow : (s.pav (tpPk r.tp)).window = false) (hdone : r.done = 0) (hpart : f 0 s r = (.ok t, q)) :
    s.runReq 1 f noMore = t.setReq s.act.el { q with done := 1, isOver := true, old := [], held := none, overAt := t.cyc } := by
  have hsame (p : HeldPart → Bool) : { r with held := r.held.filter p } = r := by rw [hheld, Option.filter_none, ← hheld]
  have hmoves : runMoves s.act.el f (1 - r.done) r.done (s, r) s r = (.ok t, { q with done := 1 }) := by
    simp only [hdone, runMoves, hpart]
  simp only [State.runReq, hreq, hsame, hmoves, noMore]
  exact if_neg (by simp [hover, hbarred, hwindow])

theorem State.req_setReq_same (s : State) (rq : Nat) (r : Req) : (s.setReq rq r).req rq = some r := by
  simp [State.req, State.setReq]

/-- What a request of one part leaves: its bytes at their place and no others, counted. -/
theorem State.runReq_writes {total pa n : Nat} {v : List Byte} (htotal : total = 1) (hreq : s.req s.act.el = some r) (hover : r.isOver = false)
    (hbarred : r.barred = false) (hheld : r.held = none) (hwindow : (s.pav (tpPk r.tp)).window = false) (hdone : r.done = 0) (hlen : v.length = n)
    (hpart : ∃ q, f 0 s r = (.ok (s.writeBytes pa v), q) ∧ q.bytes = r.bytes + n) :
    ∃ t q, (.next (s.runReq total f noMore) : Host.Outcome State Fault Refusal) = .next t ∧ t.peeks pa n = v ∧ SameMemExcept s t pa n
      ∧ t.req s.act.el = some q ∧ q.isOver = true ∧ q.bytes = r.bytes + n := by
  obtain ⟨q, hmove, hbytes⟩ := hpart
  rw [htotal, State.runReq_one hreq hover hbarred hheld hwindow hdone hmove]
  exact ⟨_, _, rfl, s.peeks_writeBytes pa n v hlen, s.writeBytes_sameMemExcept pa n v hlen, State.req_setReq_same .., rfl, hbytes⟩
end

/-- A range within one aligned 8-byte part of its destination is moved as one part, whole (R139). -/
theorem partsOf_eq_one {dst n : Nat} (hn : 0 < n) (hfit : dst % 8 + n ≤ 8) : partsOf dst n = 1 := by
  rw [partsOf, if_neg (by omega)]
  omega
theorem partOff_zero (dst : Nat) : partOff dst 0 = 0 := rfl
theorem partLen_zero {dst n : Nat} (hfit : dst % 8 + n ≤ 8) : partLen dst n 0 = n := by
  show min (8 * 1 - dst % 8) n - 0 = n
  omega

/-! ### Copies and fills -/

section
variable {s : State} {r : Req} {n pd : Nat} {xd : Xlat} (hreq : s.req s.act.el = some r) (hover : r.isOver = false) (hbarred : r.barred = false)
  (hheld : r.held = none) (hwindow : (s.pav (tpPk r.tp)).window = false) (hdone : r.done = 0) (hold : r.old = []) (hn : 0 < n)
include hreq hover hbarred hheld hwindow hdone hold hn

theorem transferCopy_moves (h : XHead) (a : CopyArgs) {ps : Nat} {xs : Xlat} (hlen : a.len.toNat = n) (hfit : a.dst.toNat % 8 + n ≤ 8)
    (hsrc : s.SramAt (tpPk r.tp) s.act.el r.pkt.asid a.src n false ps xs) (hdst : s.SramAt (tpPk r.tp) s.act.el r.pkt.asid a.dst n true pd xd) :
    ∃ t q, exec (.transferCopy h a) s = .next t ∧ t.peeks pd n = s.peeks ps n ∧ SameMemExcept s t pd n
      ∧ t.req s.act.el = some q ∧ q.isOver = true ∧ q.bytes = r.bytes + n := by
  have hsize : (s.peeks ps n).length = n := by simp [State.peeks]
  have hparts : partsOf a.dst.toNat a.len.toNat = 1 := by rw [hlen, partsOf_eq_one hn hfit]
  have hmove : copyMove a.src a.dst a.len.toNat false 0 = { src := .va a.src, dst := .va a.dst, n := n } := by
    simp only [copyMove, hlen, partLen_zero hfit, partOff_zero, BitVec.add_zero]
  refine State.runReq_writes hparts hreq hover hbarred hheld hwindow hdone hsize ?_
  rw [hmove]
  exact hdst.doMove hsize hheld hwindow hold hsrc.readEnd (s.olds_nil _ _ _ _ (hsize.symm ▸ hsrc.page))

theorem fill_writes (h : XHead) {dst : W64} {len : BitVec 40} (pat : W32) (hlen : len.toNat = n) (hfit : dst.toNat % 8 + n ≤ 8)
    (hdst : s.SramAt (tpPk r.tp) s.act.el r.pkt.asid dst n true pd xd) :
    ∃ t q, exec (.fill h dst len pat) s = .next t ∧ t.peeks pd n = (wordBytes pat ++ wordBytes pat).take n ∧ SameMemExcept s t pd n
      ∧ t.req s.act.el = some q ∧ q.isOver = true ∧ q.bytes = r.bytes + n := by
  have htwo : (wordBytes pat ++ wordBytes pat).length = 8 := rfl
  have hsize : ((wordBytes pat ++ wordBytes pat).take n).length = n := by rw [List.length_take]; omega
  have hparts : partsOf dst.toNat len.toNat = 1 := by rw [hlen, partsOf_eq_one hn hfit]
  have hbytes : (wordBytes pat ++ wordBytes pat ++ wordBytes pat).take n = (wordBytes pat ++ wordBytes pat).take n :=
    List.take_append_of_le_length (by omega)
  refine State.runReq_writes hparts hreq hover hbarred hheld hwindow hdone hsize ?_
  simp only [hlen, partLen_zero hfit, partOff_zero, BitVec.add_zero, Nat.zero_mod, List.drop_zero, hbytes]
  exact hdst.doMove hsize hheld hwindow hold rfl rfl
end

/-! ### The obligation -/

/-- Settles O39: a copy of one part and a fill of one part. -/
theorem smallCopiesMoveTheirBytes : Obligations.SmallCopiesMoveTheirBytes := by
  unfold Obligations.SmallCopiesMoveTheirBytes
  intro s h r n pd xd pk hreq hover hbarred hheld hwindow hdone hold hn
  exact ⟨fun a ps xs => transferCopy_moves hreq hover hbarred hheld hwindow hdone hold hn h a,
    fun dst len pat => fill_writes hreq hover hbarred hheld hwindow hdone hold hn h pat⟩

end Sys2Proof.Machine
end

section
/-! CERTIFICATE. The staging buffer releases in order, and parity deltas reach their lines (R164 to R169, R286, R370, R445). -/
namespace Sys2Proof.Machine
open Sys2Proof

/-! ### Entries accepted and released (R164, R165, R286, R370) -/

section
variable {s : State} {w : Nat} {x : Wait} (hwait : s.wait w = some x) (hplain : x.ret.squash = false)
include hwait hplain

theorem exec_msendAccepted_staged {pk : Nat} {m : List W32} (hkind : x.kind = .msend pk m false none) (hmay : s.mayPerform x.rg w = true)
    (hon : s.pvEn pk = true) (hroom : (s.staged pk).length < 131072) (hwindow : (s.pav pk).window = false) :
    exec (.msendAccepted w) s = .next ((s.stage pk { tag := some (s.open_ pk), msg := m }).finishWait w { x.ret with squash := false }
      [{ tok := doneTok x.ret.seq }]) := by
  have hopen : ¬(131072 ≤ (s.staged pk).length ∨ (s.pav pk).window = true) := by simp [hroom, hwindow]
  show execMsendAccepted w s = _
  simp only [execMsendAccepted, hwait, hkind, hmay, hon, hplain]
  rw [if_neg (by decide), if_pos trivial, if_neg hopen]
  rfl

theorem exec_msendAccepted_sealed {pk : Nat} {m : List W32} {sl : Bool} {t : W32} (hkind : x.kind = .msend pk m sl (some t))
    (hsealed : ivLe t (s.sealed pk) = true) :
    exec (.msendAccepted w) s = .next (s.finishWait w { x.ret with squash := false } [{ tok := doneTok x.ret.seq }]) := by
  show execMsendAccepted w s = _
  simp only [execMsendAccepted, hwait, hkind, hplain]
  exact if_pos (.inr hsealed)
end

theorem exec_irrevocableWriteAccept {s : State} {ac : Nat} {a : Access} (hacc : s.acc ac = some a) (hirr : a.irrevocable = true)
    (hhome : a.phase = .home) (hon : s.pvEn (s.region a.rg).pk = true) (hroom : (s.staged (s.region a.rg).pk).length < 131072)
    (hwindow : (s.pav (s.region a.rg).pk).window = false) (hheld : s.heldBack a = false) :
    let pk := (s.region a.rg).pk
    let e : Staged := { tag := some (s.open_ pk), pa := a.pa, bytes := a.data, src := a.rs.map fun r => (r, figOf a.rg) }
    let t := (s.stage pk e).noteTag a.rg e.tag
    let b := { a with phase := .staged, tag := some (s.open_ pk) }
    exec (.irrevocableWriteAccept ac) s = .next (if a.scope = 7 then t.setAcc ac b else t.completeStore ac b) := by
  intro pk e t b
  show execIrrevocableWriteAccept ac s = _
  have hscope : a.scope.toNat = 7 ↔ a.scope = 7 := (BitVec.toNat_inj (y := 7))
  simp only [execIrrevocableWriteAccept, hacc, hscope]
  rw [if_pos ⟨hirr, hhome, hon, hroom, hwindow, by rw [hheld]; rfl⟩, apply_ite Host.Outcome.next]

/-- An entry may leave with no tag, without intervals, or once its interval is sealed (R165). -/
theorem State.releasable_iff (s : State) (pk : Nat) (e : Staged) :
    s.releasable pk e = true ↔ e.tag = none ∨ s.pvEn pk = false ∨ ∃ t, e.tag = some t ∧ ivLe t (s.sealed pk) = true := by
  unfold State.releasable
  cases e.tag <;> simp

section
variable {s : State} {pk : Nat} {e : Staged} {es : List Staged} (hstaged : s.staged pk = e :: es) (hready : s.releasable pk e = true)
  (hsound : s.stagedBad pk = false)
include hstaged hready hsound

theorem exec_stagingRelease_device (hwrite : e.msg = []) (hspace : paSpace e.pa ≠ 1) (hstill : s.migState (s.backing e.pa e.shadow) ≠ 1) :
    exec (.stagingRelease pk) s = .next ((s.writeBytes (s.movedTo (s.backing e.pa e.shadow)) e.bytes).setStaged pk es) := by
  show execStagingRelease pk s = _
  simp only [execStagingRelease, hstaged]
  rw [if_neg (by simp [hwrite, hready]), if_neg (by simp [hsound]), if_neg hspace, if_neg hstill]

theorem exec_stagingRelease_host (hwrite : e.msg = []) (hspace : paSpace e.pa = 1) (hup : s.out.hostDown.get false (paPkg e.pa) = false) :
    exec (.stagingRelease pk) s = .next ((s.poke e.pa e.bytes).setStaged pk es) := by
  show execStagingRelease pk s = _
  simp only [execStagingRelease, hstaged]
  rw [if_neg (by simp [hwrite, hready]), if_neg (by simp [hsound]), if_pos hspace, if_neg (by simp [hup])]

theorem exec_hostMessageDelivery {t : State} (hmsg : e.msg ≠ []) (hdeliver : s.deliverMsg pk e.msg = some t) :
    exec (.hostMessageDelivery pk) s = .next (t.setStaged pk es) := by
  show execHostMessageDelivery pk s = _
  simp only [execHostMessageDelivery, hstaged, hdeliver]
  rw [if_neg (by simp [hmsg, hready]), if_neg (by simp [hsound])]
end

/-! ### Parity deltas (R168, R169, R445) -/

/-- The record of a late delta: that of its destination's loss, where the member was declared lost (R445, R451). -/
def Delta.lateRecord (x : Delta) (s : State) : FaultRec :=
  if s.isLost x.dst then { fcode := 0xE301, tier := 3, point := 6, detail := BitVec.ofNat 32 x.dst } else { fcode := 0xE204, tier := 2, point := 2 }

section
variable {s : State} {d : Nat} {x : Delta} (hfind : s.ms.deltas.find? (fun p => decide (p.1 = d)) = some (d, x))
include hfind

/-- A delta that belongs to no interval is XORed into sound bytes of its parity line, and is on its way no longer. -/
theorem exec_parityDeltaArrival_untagged (htag : x.tag = none) (hbarred : x.barred = false)
    (hsound : s.damagedIn (lineOf (x.dst * 2 ^ 40 + pgOff (s.pgtb x.dst x.grp) + x.off)) 64 = false) :
    let pa := x.dst * 2 ^ 40 + pgOff (s.pgtb x.dst x.grp) + x.off
    let u := s.writeBytes pa (List.zipWith (· ^^^ ·) (s.peeks pa 32) x.data)
    exec (.parityDeltaArrival d) s = .next { u with ms := { u.ms with deltas := u.ms.deltas.del d } } := by
  intro pa u
  show execParityDeltaArrival d s = _
  simp only [execParityDeltaArrival, hfind, htag, ite_self]
  rw [if_neg (by simp [hbarred]), if_neg (by rw [hsound]; decide)]

/-- A delta without an acknowledgement for 2^20 cycles is marked late, with one record. -/
theorem exec_parityDeltaTimeout_late (hlate : x.late = false) (hdue : x.sent + 2 ^ 20 ≤ s.cyc) :
    exec (.parityDeltaTimeout d) s
      = .next (({ s with ms := { s.ms with deltas := (d, { x with late := true }) :: s.ms.deltas.del d } } : State).detect x.src .none (2 ^ 90)
        (x.lateRecord s)) := by
  show execParityDeltaTimeout d s = _
  simp only [execParityDeltaTimeout, hfind]
  rw [if_neg (not_or.2 ⟨Bool.eq_false_iff.1 hlate, Nat.not_lt.2 hdue⟩)]
  rfl
end

/-! ### The obligation -/

/-- Settles O28: entries accepted and released, and a delta that arrives or is late. -/
theorem stagedWritesAndParityFollow : Obligations.StagedWritesAndParityFollow := by
  unfold Obligations.StagedWritesAndParityFollow
  refine ⟨fun s => ⟨?accepted, ?sealed, ?irrevocable, ?oldest, s.releasable_iff⟩, fun s d x hfind => ⟨?arrival, ?timeout⟩⟩
  case accepted =>
    intro w x pk m hwait hkind hplain
    exact exec_msendAccepted_staged hwait hplain hkind
  case sealed =>
    intro w x pk m sl t hwait hkind hplain
    exact exec_msendAccepted_sealed hwait hplain hkind
  case irrevocable => exact fun ac a => exec_irrevocableWriteAccept
  case oldest =>
    intro pk e es hstaged hready
    exact ⟨fun hwrite hsound => exec_stagingRelease_device hstaged hready hsound hwrite,
      fun hwrite hsound => exec_stagingRelease_host hstaged hready hsound hwrite,
      fun t hmsg hsound => exec_hostMessageDelivery hstaged hready hsound hmsg⟩
  case arrival =>
    intro pa htag hbarred hsound hsize
    have hlen : (List.zipWith (· ^^^ ·) (s.peeks pa 32) x.data).length = 32 := by simp [State.peeks, hsize]
    refine ⟨_, exec_parityDeltaArrival_untagged hfind htag hbarred hsound, s.peeks_writeBytes pa 32 _ hlen,
      s.writeBytes_sameMemExcept pa 32 _ hlen, fun e he => ?_⟩
    exact of_decide_eq_true (List.mem_filter.1 he).2
  case timeout =>
    intro hlate hdue
    exact ⟨_, exec_parityDeltaTimeout_late hfind hlate hdue, List.length_append, List.mem_cons_self, fun _ => rfl⟩

end Sys2Proof.Machine
end

section
/-! CERTIFICATE. The Reel's words on ring banks, its seals and its messages (R160, R322, R329, R331). -/
namespace Sys2Proof.Machine
open Sys2Proof

section
variable {s : State} (hruns : s.reelRuns = true)
include hruns

/-! ### Words of the ring's banks (R322) -/

/-- A word whose conditions hold has its effect. -/
theorem reelWhen_of_runs (t : State) : reelWhen s true t = .next t := if_pos (by rw [hruns]; rfl)

section
variable {a : BitVec 4} {off : BitVec 26} {b : Option (BitVec 4)} {p : Nat} (hp : s.reelRg.reel.addr off b = p)
include hp

section
variable (halign : p % 8 = 0) (hallot : s.reelRg.allots s.reelRg.ring p 8 = true)
include halign hallot

theorem exec_lds {t : State} {v : List Byte} {bad : Bool} (hread : s.readBytes (ringPA s.reelRg.ring p) 8 = (t, v, bad)) :
    exec (.lds a off b) s
      = .next ((t.setReel (s.reelRg.reel.setS a (BitVec.ofNat 64 (leNat v)))).reelTo (s.reelRg.reel.rpc + 1) 4) := by
  subst hp
  show execLds a off b s = _
  rw [execLds, reelWhen_of_runs hruns, if_neg (by simp [halign, hallot]), hread]

theorem exec_sts :
    exec (.sts a off b) s
      = .next ((s.writeBytes (ringPA s.reelRg.ring p) (leBytes 8 (s.reelRg.reel.sreg a).toNat)).reelTo (s.reelRg.reel.rpc + 1) 4) := by
  subst hp
  show execSts a off b s = _
  rw [execSts, reelWhen_of_runs hruns, if_neg (by simp [halign, hallot])]
end

/-- Neither reaches an address that is not aligned or lies outside the allotment. -/
theorem exec_lds_sts_breach (hout : p % 8 ≠ 0 ∨ s.reelRg.allots s.reelRg.ring p 8 = false) :
    exec (.lds a off b) s = .next (s.wordBreach 0x7008) ∧ exec (.sts a off b) s = .next (s.wordBreach 0x7008) := by
  subst hp
  refine ⟨?lds, ?sts⟩
  case lds =>
    show execLds a off b s = _
    rw [execLds, reelWhen_of_runs hruns, if_pos hout]
  case sts =>
    show execSts a off b s = _
    rw [execSts, reelWhen_of_runs hruns, if_pos hout]
end

/-! ### Save slots (R329) -/

section
variable {ws : RegOr 7} {addr : RegOr 26}

theorem exec_save_rest_scrolling (hscroll : s.reelRg.scroll ≠ none) :
    exec (.save ws addr) s = .next (s.wordBreach 0x7004) ∧ exec (.rest ws addr) s = .next (s.wordBreach 0x7004) := by
  have hsome := Option.isSome_iff_ne_none.2 hscroll
  refine ⟨?save, ?rest⟩
  case save =>
    show execSave ws addr s = _
    rw [execSave, if_pos hruns, if_pos hsome]
  case rest =>
    show execRest ws addr s = _
    rw [execRest, if_pos hruns, if_pos hsome]

section
variable {w a : Nat} (hw : (s.reelRg.reel.val ws).toNat % 128 = w) (ha : (s.reelRg.reel.val addr).toNat % 2 ^ 26 = a)
  (hscroll : s.reelRg.scroll = none) (hplaced : s.reelRg.placing = none)
include hw ha hscroll hplaced

theorem exec_save_breach (hout : s.reelRg.busy = true ∨ s.reelRg.count ≤ w ∨ s.reelRg.slotOk a = false) :
    exec (.save ws addr) s = .next (s.wordBreach 0x7006) := by
  subst hw ha
  show execSave ws addr s = _
  rw [execSave, if_pos hruns, if_neg (by simp [hscroll]), if_neg (by simp [hplaced]), if_pos hout]

variable {st : Nat} (hst : s.reelRg.stripeAt w = st) (hws : w < s.reelRg.count) (hslot : s.reelRg.slotOk a = true) (hrep : s.replaying st = false)
include hst hws hslot hrep

theorem exec_save (hbusy : s.reelRg.busy = false) (hpend : s.stripePending st = false) (htaint : s.taintedStripe st = false) :
    let r := s.reelRg
    exec (.save ws addr) s = .next (((s.writeBytes (ringPA r.ring a)
      (slotBytes s st w (s.stripe st).act (r.lcs.get {} r.dlc.toNat).n.toNat)).emptyStripe st).reelTo (r.reel.rpc + 1) 32) := by
  subst hw ha hst
  intro r
  show execSave ws addr s = _
  rw [execSave, if_pos hruns, if_neg (by simp [hscroll]), if_neg (by simp [hplaced]), if_neg (by rw [hslot]; simp [hbusy, hws]),
    if_neg (by simp [hrep, hpend]), if_neg (by simp [htaint])]

theorem exec_rest : exec (.rest ws addr) s = .next (if s.holdsToken st then s.wordBreach 0x7006
    else (s.loadSlot st (ringPA s.reelRg.ring a)).reelTo (s.reelRg.reel.rpc + 1) 32) := by
  subst hw ha hst
  show execRest ws addr s = _
  rw [execRest, if_pos hruns, if_neg (by simp [hscroll]), if_neg (by simp [hplaced]), if_neg (by rw [hslot]; simp [hws]),
    if_neg (by simp [hrep]), apply_ite Host.Outcome.next]
end
end

/-! ### Seals (R160) -/

section
variable {req : Bool} {abs : Option (BitVec 4)}

theorem exec_seqw_off (hoff : s.enBit s.reelRg.pk = false) : exec (.seqw req abs) s = .next s.reelNext := by
  show execSeqw req abs s = _
  unfold execSeqw
  rw [if_pos hruns, if_pos hoff]

theorem exec_seqw_first (hon : s.enBit s.reelRg.pk = true) (hthr : s.reelRg.reel.thr = none) :
    let r := s.reelRg
    let thr : W32 := match abs with | some i => field (r.reel.sreg i) 0 32 | none => s.open_ r.pk
    let t := s.setReel { r.reel with thr := some thr }
    exec (.seqw req abs) s = .next (if req then t.raiseSeal r.pk else t) := by
  intro r thr t
  show execSeqw req abs s = _
  unfold execSeqw
  rw [if_pos hruns, if_neg (by simp [hon])]
  simp only [hthr]
  rfl

theorem exec_seqw_again (hon : s.enBit s.reelRg.pk = true) {n : W32} (hthr : s.reelRg.reel.thr = some n) :
    exec (.seqw req abs) s = .next (if ivLe n (s.sealed s.reelRg.pk) then s.reelNext else s) := by
  show execSeqw req abs s = _
  unfold execSeqw
  rw [if_pos hruns, if_neg (by simp [hon])]
  simp only [hthr]
  rw [apply_ite Host.Outcome.next]
end

/-! ### Messages (R331) -/

section
variable {sl : Bool} {imm : BitVec 32}

/-- The message of `msgr`: registers S0 to S13, the Figure's tag and the immediate (R331). -/
def State.reelMsg (s : State) (imm : BitVec 32) : List W32 :=
  (List.range 14).map (fun i => (field (s.reelRg.reel.s.get 0 i) 0 32 : W32)) ++ [(s.fig (figOf s.act.rg)).tag, imm]

/-- A message begins to wait for the staging buffer under the next number. -/
theorem exec_msgr_first (hphase : s.reelRg.reel.phase = 0) :
    let n := s.fl.next
    exec (.msgr sl imm) s = .next ((s.setReel { s.reelRg.reel with phase := n + 1 }).setWait n
      { kind := .msend s.reelRg.pk (s.reelMsg imm) sl none, rg := s.act.rg, ord := n, f := s.cyc }).bump := by
  intro n
  show execMsgr sl imm s = _
  rw [execMsgr, if_pos hruns, if_pos hphase]
  rfl

theorem exec_msgr_over (hphase : s.reelRg.reel.phase ≠ 0) (hover : s.wait (s.reelRg.reel.phase - 1) = none) :
    exec (.msgr sl imm) s = .next s.reelNext := by
  show execMsgr sl imm s = _
  rw [execMsgr, if_pos hruns, if_neg hphase, if_pos (by rw [hover]; rfl)]
end
end

/-! ### The obligation -/

/-- Settles O36, word by word. -/
theorem reelMemoryAndMessages : Obligations.ReelMemoryAndMessages := by
  unfold Obligations.ReelMemoryAndMessages
  intro s rg r x hruns
  refine ⟨fun a off b => ⟨?bank, exec_lds_sts_breach hruns rfl⟩, fun ws addr => ⟨exec_save_rest_scrolling hruns, ?slots⟩,
    fun req abs => ⟨exec_seqw_off hruns, exec_seqw_first hruns, fun n hon hthr => exec_seqw_again hruns hon hthr⟩,
    fun sl imm => ⟨?message, exec_msgr_over hruns⟩⟩
  case bank =>
    intro halign hallot
    rcases hread : s.readBytes (ringPA r.ring (x.addr off b)) 8 with ⟨t, v, bad⟩
    refine ⟨⟨_, exec_lds hruns rfl halign hallot hread, fun hgood => ?_⟩, exec_sts hruns rfl halign hallot⟩
    rw [State.readBytes_of_errs_nil hgood] at hread
    obtain ⟨-, rfl, -⟩ := hread
    rfl
  case slots =>
    intro hscroll hplaced
    refine ⟨fun hws hslot hrep => ?_, exec_save_breach hruns rfl rfl hscroll hplaced⟩
    have hrest := exec_rest hruns rfl rfl hscroll hplaced rfl hws hslot hrep
    exact ⟨exec_save hruns rfl rfl hscroll hplaced rfl hws hslot hrep, fun hempty => hrest.trans (congrArg _ (if_neg (Bool.eq_false_iff.1 hempty))),
      fun hholds => hrest.trans (congrArg _ (if_pos hholds))⟩
  case message =>
    intro hphase
    refine ⟨_, exec_msgr_first hruns hphase, ?_, ?_⟩
    · show (((s.setReel _).region rg)).reel.phase = _
      simp [State.setReel, rg]
    · show (((s.setReel _).setWait s.fl.next _).wait s.fl.next).map Wait.kind = _
      rw [State.wait_setWait, if_pos rfl]
      rfl

end Sys2Proof.Machine
end

section
/-! CERTIFICATE. Recovery intervals begin, close, drain and are sealed (R149, R150, R153, R157, R159, R173). -/
namespace Sys2Proof.Machine
open Sys2Proof

/-! ### A package's interval: EN, INSTAT, PVSTAT and the seal coordinator's record -/

/-- What a package holds of recovery intervals, and the cycle that it reads. -/
structure Interval where
  en : Bool
  open_ : W32
  sealed : W32
  phase : Nat
  req : Bool
  pav : Pav
  now : Nat

/-- The interval of package `q`. -/
def State.interval (s : State) (q : Nat) : Interval :=
  { en := s.enBit q, open_ := s.open_ q, sealed := s.sealed q, phase := s.phase q, req := s.reqBit q, pav := s.pav q, now := s.cyc }

section
variable {s : State} {q : Nat} {x : Interval} (h : s.interval q = x)
include h

theorem State.enBit_of_interval : s.enBit q = x.en := h ▸ rfl
theorem State.open_of_interval : s.open_ q = x.open_ := h ▸ rfl
theorem State.sealed_of_interval : s.sealed q = x.sealed := h ▸ rfl
theorem State.phase_of_interval : s.phase q = x.phase := h ▸ rfl
theorem State.reqBit_of_interval : s.reqBit q = x.req := h ▸ rfl
theorem State.pav_of_interval : s.pav q = x.pav := h ▸ rfl
end

/-- The intervals `i`, but for `x` at package `p`. -/
def setAt (i : Nat → Interval) (p : Nat) (x : Interval) : Nat → Interval := fun q => if q = p then x else i q

theorem setAt_self (i : Nat → Interval) (p : Nat) (x : Interval) : setAt i p x p = x := if_pos rfl
theorem setAt_of_ne {p q : Nat} (h : q ≠ p) (i : Nat → Interval) (x : Interval) : setAt i p x q = i q := if_neg h
theorem eq_setAt {i j : Nat → Interval} {p : Nat} {x : Interval} (hat : j p = x) (hother : ∀ q, q ≠ p → j q = i q) : j = setAt i p x := by
  funext q
  by_cases hq : q = p
  · rw [hq, hat, setAt_self]
  · rw [hother q hq, setAt_of_ne hq]
theorem setAt_idem (i : Nat → Interval) (p : Nat) (x y : Interval) : setAt (setAt i p x) p y = setAt i p y :=
  eq_setAt (setAt_self ..) fun _ hq => (setAt_of_ne hq ..).trans (setAt_of_ne hq ..)
theorem setAt_eq_self (i : Nat → Interval) (p : Nat) : setAt i p (i p) = i := (eq_setAt rfl fun _ _ => rfl).symm

section
variable (s : State) (p : Nat)

@[simp] theorem State.interval_setPav (x : Pav) : (s.setPav p x).interval = setAt s.interval p { s.interval p with pav := x } := by
  have hpav (q : Nat) : (s.setPav p x).interval q = { s.interval q with pav := if p = q then x else s.pav q } := by
    rw [← State.pav_setPav]
    rfl
  exact eq_setAt (by rw [hpav, if_pos rfl]) fun q hq => by rw [hpav, if_neg hq.symm]; rfl

theorem State.enBit_setPav (x : Pav) (q : Nat) : (s.setPav p x).enBit q = s.enBit q := rfl
theorem State.sealed_setPav (x : Pav) (q : Nat) : (s.setPav p x).sealed q = s.sealed q := rfl

/-- A register other than PWRSTAT and ENERGY reads as it was last written. -/
theorem State.reg_setReg_ite (off q n : Nat) (v : W64) (hoff : off < 2 ^ 20) (hn : n < 2 ^ 20) (hp : ¬(n = 0x68 ∨ n = 0x70)) :
    (s.setReg p off v).reg q n = if q = p ∧ off = n then v else s.reg q n := by
  split
  next h =>
    obtain ⟨rfl, rfl⟩ := h
    exact s.reg_setReg_same q off v hp
  next h => rw [State.reg_setReg, if_neg hp, if_neg (by omega)]

/-- Of the registers, PVCFG, INSTAT and PVSTAT hold the interval. -/
theorem State.interval_setReg (off : Nat) (v : W64) (hoff : off < 2 ^ 20) :
    (s.setReg p off v).interval = setAt s.interval p { s.interval p with
      en := if off = 0x11000 then v.getLsbD 0 else (s.interval p).en
      open_ := if off = 0x11010 then field v 0 32 else (s.interval p).open_
      sealed := if off = 0x11010 then field v 32 32 else (s.interval p).sealed
      phase := if off = 0x11018 then v.toNat % 8 else (s.interval p).phase
      req := if off = 0x11018 then v.getLsbD 3 else (s.interval p).req } := by
  have hreg (q n : Nat) (hn : n < 2 ^ 20) (hp : ¬(n = 0x68 ∨ n = 0x70)) := s.reg_setReg_ite p off q n v hoff hn hp
  have hcfg (q : Nat) := hreg q 0x11000 (by decide) (by decide)
  have hinstat (q : Nat) := hreg q 0x11010 (by decide) (by decide)
  have hstat (q : Nat) := hreg q 0x11018 (by decide) (by decide)
  refine eq_setAt ?_ fun q hq => ?_
  · simp only [State.interval, State.enBit, State.open_, State.sealed, State.phase, State.reqBit, hcfg, hinstat, hstat, true_and, State.pav_setReg,
      State.setReg_cyc]
    congr 1 <;> split <;> rfl
  · simp only [State.interval, State.enBit, State.open_, State.sealed, State.phase, State.reqBit, hcfg, hinstat, hstat, hq, false_and, if_false,
      State.pav_setReg, State.setReg_cyc]

/-- A register that holds nothing of intervals. -/
theorem State.interval_setReg_other (off : Nat) (v : W64) (hoff : off < 2 ^ 20) (hcfg : off ≠ 0x11000) (hinstat : off ≠ 0x11010)
    (hstat : off ≠ 0x11018) : (s.setReg p off v).interval = s.interval := by
  rw [s.interval_setReg p off v hoff]
  simp only [hcfg, hinstat, hstat, if_false]
  exact setAt_eq_self s.interval p

theorem State.interval_setPvstat (v : W64) :
    (s.setReg p 0x11018 v).interval = setAt s.interval p { s.interval p with phase := v.toNat % 8, req := v.getLsbD 3 } :=
  s.interval_setReg p 0x11018 v (by decide)

@[simp] theorem State.interval_setInstat (a b : W32) :
    (s.setInstat p a b).interval = setAt s.interval p { s.interval p with open_ := a, sealed := b } := by
  have hopen : field (a.zeroExtend 64 ||| (b.zeroExtend 64 <<< 32)) 0 32 = a := by
    ext i hi
    have hwide : i < 64 := by omega
    simp [field, hi, hwide]
  have hsealed : field (a.zeroExtend 64 ||| (b.zeroExtend 64 <<< 32)) 32 32 = b := by
    ext i hi
    have hwide : 32 + i < 64 ∧ i < 64 := by omega
    simp [field, hi, hwide]
  unfold State.setInstat
  dsimp only
  rw [State.interval_setReg _ _ _ _ (by decide), hopen, hsealed]
  split <;> rfl

/-- Words that agree in their low three bits agree modulo 8. -/
theorem toNat_mod_eight_congr {a b : W64} (h : ∀ i < 3, a.getLsbD i = b.getLsbD i) : a.toNat % 8 = b.toNat % 8 := by
  have hlow : a.setWidth 3 = b.setWidth 3 := BitVec.eq_of_getLsbD_eq fun i hi => by simp [hi, h i hi]
  simpa using congrArg BitVec.toNat hlow

theorem State.interval_setPhase {n : Nat} (hn : n < 8) : (s.setPhase p n).interval = setAt s.interval p { s.interval p with phase := n } := by
  have hphase : ((s.reg p 0x11018 &&& ~~~(7 : W64)) ||| BitVec.ofNat 64 n).toNat % 8 = n := by
    have hmask : ∀ i < 3, (~~~(7 : W64)).getLsbD i = false := by decide
    rw [toNat_mod_eight_congr (b := BitVec.ofNat 64 n) fun i hi => by
      rw [BitVec.getLsbD_or, BitVec.getLsbD_and, hmask i hi, Bool.and_false, Bool.false_or], BitVec.toNat_ofNat]
    omega
  have hreq : ((s.reg p 0x11018 &&& ~~~(7 : W64)) ||| BitVec.ofNat 64 n).getLsbD 3 = s.reqBit p := by
    have hmask : (~~~(7 : W64)).getLsbD 3 = true := by decide
    rw [BitVec.getLsbD_or, BitVec.getLsbD_and, hmask, BitVec.getLsbD_ofNat, Nat.testBit_lt_two_pow hn, Bool.and_false, Bool.or_false, Bool.and_true]
    rfl
  rw [State.setPhase, State.interval_setPvstat, hphase, hreq]
  rfl

@[simp] theorem State.interval_setReqBit (b : Bool) : (s.setReqBit p b).interval = setAt s.interval p { s.interval p with req := b } := by
  have hset : ∀ i < 3, (8 : W64).getLsbD i = false := by decide
  have hclear : ∀ i < 3, (~~~(8 : W64)).getLsbD i = true := by decide
  rw [State.setReqBit, State.interval_setPvstat]
  cases b
  case false =>
    rw [if_neg nofun, toNat_mod_eight_congr (b := s.reg p 0x11018) fun i hi => by rw [BitVec.getLsbD_and, hclear i hi, Bool.and_true]]
    simp [State.interval, State.phase]
  case true =>
    rw [if_pos rfl, toNat_mod_eight_congr (b := s.reg p 0x11018) fun i hi => by rw [BitVec.getLsbD_or, hset i hi, Bool.or_false]]
    simp [State.interval, State.phase]

theorem State.reqBit_setReqBit (b : Bool) (q : Nat) : (s.setReqBit p b).reqBit q = if q = p then b else s.reqBit q := by
  have h := congrArg Interval.req (congrFun (s.interval_setReqBit p b) q)
  rw [setAt, apply_ite Interval.req] at h
  exact h

/-- PVSTAT.LAST holds nothing else. -/
theorem State.interval_setLast (v : W64) :
    (s.setReg p 0x11018 ((s.reg p 0x11018 &&& 0xFFFFFFFF) ||| (v <<< 32))).interval = s.interval := by
  have hmask : ∀ i < 4, ((0xFFFFFFFF : Nat) : W64).getLsbD i = true := by decide
  have hlow : ∀ i < 4, ((s.reg p 0x11018 &&& 0xFFFFFFFF) ||| (v <<< 32)).getLsbD i = (s.reg p 0x11018).getLsbD i := by
    intro i hi
    have hshift : i < 32 := by omega
    simp only [BitVec.getLsbD_or, BitVec.getLsbD_and, hmask i hi, Bool.and_true, BitVec.getLsbD_shiftLeft, hshift, decide_true, Bool.not_true,
      Bool.and_false, Bool.false_and, Bool.or_false]
  rw [State.interval_setPvstat, toNat_mod_eight_congr fun i hi => hlow i (by omega), hlow 3 (by decide)]
  exact setAt_eq_self s.interval p

/-! ### Steps that leave every interval as it was -/

@[simp] theorem State.interval_sweepTags (sk : Nat) (o : W32) (age : Nat) : (s.sweepTags sk o age).interval = s.interval := rfl
@[simp] theorem State.interval_syncUsed (sk : Nat) : (s.syncUsed sk).interval = s.interval :=
  s.interval_setReg_other _ _ _ (by omega) (by omega) (by omega) (by omega)
@[simp] theorem State.interval_freeUndo (sk : Nat) (n : W32) : (s.freeUndo sk n).interval = s.interval := State.interval_syncUsed _ sk
@[simp] theorem State.interval_quitUndo (sk : Nat) : (s.quitUndo sk).interval = s.interval := State.interval_syncUsed _ sk
@[simp] theorem State.interval_setStaged (l : List Staged) : (s.setStaged p l).interval = s.interval :=
  State.interval_setReg_other _ p _ _ (by decide) (by decide) (by decide) (by decide)
@[simp] theorem State.interval_point : (s.point p).interval = s.interval := rfl
@[simp] theorem State.interval_untag : (s.untag p).interval = s.interval := rfl
@[simp] theorem State.interval_noCwt : (s.noCwt p).interval = s.interval := foldl_keeps State.interval _ _ s fun _ _ => rfl
end

/-! ### The steps of a Pavane on one member's interval -/

/-- The first interval begins (R149). -/
def Interval.first (x : Interval) (now : Nat) : Interval := { x with open_ := 1, sealed := 0, pav := { started := true, begun := now } }
/-- CLOSE (R153, R157). -/
def Interval.close (x : Interval) : Interval :=
  { x with
    open_ := x.open_ + 1
    phase := 1
    req := false
    pav := { x.pav with window := true, begun := x.now, drained := false, req := false, quitting := x.pav.disable } }
/-- CLOSE-complete (R153). -/
def Interval.drain (x : Interval) : Interval := { x with phase := 2, pav := { x.pav with window := false } }
/-- SEAL (R157). -/
def Interval.seal (x : Interval) : Interval :=
  { x with sealed := x.open_ - 1, phase := 0, pav := { x.pav with drained := false, window := false } }
/-- Interval operation ends (R173). -/
def Interval.quit (x : Interval) : Interval := { x with en := false, open_ := 0, sealed := 0, req := false, pav := {} }

section
variable (s : State) (q : Nat)

/-- CLOSE on one member. -/
def State.closeAt (s : State) (q : Nat) : State :=
  let n := s.open_ q
  let v := (stacksOf q).foldl (fun t k => t.sweepTags k (n + 1) (2 ^ 14)) s
  (((v.setInstat q (n + 1) (v.sealed q)).setPav q
    { v.pav q with window := true, begun := v.cyc, drained := false, req := false, quitting := (v.pav q).disable }).setPhase q 1).setReqBit q false

theorem State.interval_first (now : Nat) : ((s.setInstat q 1 0).setPav q { started := true, begun := now }).interval
    = setAt s.interval q ((s.interval q).first now) := by
  simp only [State.interval_setPav, State.interval_setInstat, setAt_self, setAt_idem]
  rfl

theorem State.interval_closeAt : (s.closeAt q).interval = setAt s.interval q (s.interval q).close := by
  have hswept := foldl_keeps State.interval (fun t k => t.sweepTags k (s.open_ q + 1) (2 ^ 14)) (stacksOf q) s fun u k =>
    u.interval_sweepTags k _ _
  unfold State.closeAt
  dsimp only
  generalize (stacksOf q).foldl (fun t k => t.sweepTags k (s.open_ q + 1) (2 ^ 14)) s = v at *
  rw [State.interval_setReqBit, State.interval_setPhase _ _ (by decide), State.interval_setPav, State.interval_setInstat]
  simp only [setAt_self, setAt_idem, ← hswept]
  have hopen : s.open_ q = v.open_ q := congrArg Interval.open_ (congrFun hswept.symm q)
  rw [hopen]
  rfl

/-- CLOSE-complete on one member. -/
def State.endWindow (s : State) (q : Nat) : State := ((s.setPav q { s.pav q with window := false }).noCwt q).setPhase q 2

theorem State.interval_endWindow : (s.endWindow q).interval = setAt s.interval q (s.interval q).drain := by
  rw [State.endWindow, State.interval_setPhase _ _ (by decide), State.interval_noCwt, State.interval_setPav]
  simp only [setAt_self, setAt_idem]
  rfl

theorem State.interval_sealAt : (s.sealAt q).interval = setAt s.interval q (s.interval q).seal := by
  have hfreed := (foldl_keeps State.interval _ (stacksOf q) _ fun u k => u.interval_freeUndo k (s.open_ q - 1)).trans
    (s.interval_setInstat q (s.open_ q) (s.open_ q - 1))
  unfold State.sealAt
  dsimp only
  generalize (stacksOf q).foldl _ _ = v at *
  rw [State.interval_point, State.interval_setLast, State.interval_setPav, State.interval_setPhase _ _ (by decide)]
  simp only [setAt_self, setAt_idem]
  change setAt v.interval q { v.interval q with phase := 0, pav := { (v.interval q).pav with drained := false, window := false } } = _
  rw [hfreed]
  simp only [setAt_self, setAt_idem]
  rfl

theorem State.interval_quitAt : (s.quitAt q).interval = setAt s.interval q (s.interval q).quit := by
  have hquit : ((stacksOf q).foldl State.quitUndo (s.untag q)).interval = s.interval :=
    (foldl_keeps State.interval _ _ _ State.interval_quitUndo).trans (s.interval_untag q)
  have hclear (v : W64) : (v &&& ~~~1).getLsbD 0 = false := by simp
  unfold State.quitAt
  dsimp only
  rw [State.interval_setPav, State.interval_setReqBit, State.interval_setInstat, State.interval_setReg _ _ _ _ (by decide), hclear,
    State.interval_setStaged, hquit]
  simp only [setAt_self, setAt_idem, if_true]
  rfl
end

/-! ### Every member takes the step -/

section
variable {f : State → Nat → State} {g : Interval → Interval} (h : ∀ u q, (f u q).interval = setAt u.interval q (g (u.interval q)))
include h

theorem interval_foldl_of_not_mem (l : List Nat) (s : State) {q : Nat} (hq : q ∉ l) : (l.foldl f s).interval q = s.interval q :=
  foldl_keeps_of_mem (fun u => u.interval q) f l s fun u p hp => by rw [h, setAt_of_ne (ne_of_mem_of_not_mem hp hq).symm]

/-- A step taken once by every member of a list takes each of them once. -/
theorem interval_foldl_of_mem {l : List Nat} (hl : l.Nodup) (s : State) {q : Nat} (hq : q ∈ l) : (l.foldl f s).interval q = g (s.interval q) := by
  induction l generalizing s with
  | nil => exact absurd hq List.not_mem_nil
  | cons p l ih =>
    obtain ⟨hp, hl⟩ := List.nodup_cons.1 hl
    rw [List.foldl_cons]
    obtain rfl | hq := List.mem_cons.1 hq
    · rw [interval_foldl_of_not_mem h l _ hp, h, setAt_self]
    · rw [ih hl _ hq, h, setAt_of_ne (ne_of_mem_of_not_mem hq hp)]
end

/-- What a step brings about at one place of a list, and no other step takes away, holds after all of them. -/
theorem foldl_reaches {σ α : Type} (P : σ → Prop) (f : σ → α → σ) {l : List α} {a : α} (ha : a ∈ l) (hset : ∀ u, P (f u a))
    (hkeep : ∀ u b, P u → P (f u b)) (s : σ) : P (l.foldl f s) := by
  obtain ⟨l1, l2, rfl⟩ := List.append_of_mem ha
  rw [List.foldl_append, List.foldl_cons]
  exact List.foldlRecOn (motive := P) l2 f (hset _) fun u hu b _ => hkeep u b hu

theorem State.stack_setStack (s : State) (sk n : Nat) (x : Stack) : (s.setStack sk x).stack n = if sk = n then x else s.stack n := FMap.get_put ..
/-- A close-window table that is cleared leaves the empty ones empty. -/
theorem State.cwt_setStack (s : State) (sk n : Nat) (h : (s.stack n).cwt = []) :
    ((s.setStack sk { s.stack sk with cwt := [] }).stack n).cwt = [] := by
  rw [State.stack_setStack]
  split
  · rfl
  · exact h

theorem State.stack_setPhase (s : State) (p n sk : Nat) : (s.setPhase p n).stack sk = s.stack sk := rfl
theorem State.cwt_noCwt_of_empty {s : State} {n : Nat} (q : Nat) (h : (s.stack n).cwt = []) : ((s.noCwt q).stack n).cwt = [] :=
  List.foldlRecOn (motive := fun u : State => (u.stack n).cwt = []) _ _ h fun u hu _ _ => u.cwt_setStack _ n hu
theorem State.cwt_noCwt (s : State) (q : Nat) {k : Nat} (hk : k < 16) : ((s.noCwt q).stack (q * 16 + k)).cwt = [] :=
  foldl_reaches (fun u : State => (u.stack (q * 16 + k)).cwt = []) _ (List.mem_range.2 hk) (fun u => by rw [State.stack_setStack, if_pos rfl])
    (fun u _ => u.cwt_setStack _ _) s

theorem State.pav_foldl_setPhase (l : List Nat) (n : Nat) (s : State) (q : Nat) : (l.foldl (fun t p => t.setPhase p n) s).pav q = s.pav q :=
  foldl_keeps (fun u : State => u.pav q) _ l s fun _ _ => rfl

theorem State.nodup_domain (s : State) (pk : Nat) : (s.domain pk).Nodup := List.nodup_range.filter _

section
variable (s : State) (pk : Nat) {q : Nat} (hq : q ∈ s.domain pk)
include hq

theorem State.phase_foldl_setPhase {n : Nat} (hn : n < 8) (u : State) : ((s.domain pk).foldl (fun t p => t.setPhase p n) u).phase q = n :=
  State.phase_of_interval (interval_foldl_of_mem (fun v p => v.interval_setPhase p hn) (g := fun x => { x with phase := n }) (s.nodup_domain pk) u hq)

theorem State.interval_foldl_sealAt : ((s.domain pk).foldl State.sealAt s).interval q = (s.interval q).seal :=
  interval_foldl_of_mem State.interval_sealAt (s.nodup_domain pk) s hq

theorem State.interval_closeAll : (s.closeAll pk).interval q = (s.interval q).close := by
  have hrest (u : State) (fab) (ms) (out) : ({ u with fab := fab, ms := ms, out := out } : State).interval q = u.interval q := rfl
  unfold State.closeAll
  dsimp only
  rw [hrest]
  exact interval_foldl_of_mem State.interval_closeAt (s.nodup_domain pk) s hq

/-- The close-window tables of every member are empty (R155). -/
theorem State.cwt_foldl_endWindow {k : Nat} (hk : k < 16) : (((s.domain pk).foldl State.endWindow s).stack (q * 16 + k)).cwt = [] := by
  refine foldl_reaches (fun u : State => (u.stack (q * 16 + k)).cwt = []) State.endWindow hq (fun u => ?_) (fun u p hu => ?_) s
  · rw [State.endWindow, State.stack_setPhase, State.cwt_noCwt _ _ hk]
  · rw [State.endWindow, State.stack_setPhase]
    exact State.cwt_noCwt_of_empty p hu
end

/-! ### What is on its way when interval operation ends (R173) -/

section
variable {β : Type} (part : State → β) (h : ∀ (u : State) ms iv regs, part { u with ms := ms, iv := iv, regs := regs } = part u)
  (s : State) (q : Nat)
include h

theorem State.setReg_keeps (off : Nat) (v : W64) : part (s.setReg q off v) = part s := h s s.ms s.iv _
theorem State.setPav_keeps (x : Pav) : part (s.setPav q x) = part s := h s s.ms _ s.regs
/-- INSTAT, SEAL and the end of interval operation change registers, the coordinator's record and the memory side, and the last also
what carries a tag. -/
theorem State.setInstat_keeps (a b : W32) : part (s.setInstat q a b) = part s := by
  unfold State.setInstat
  dsimp only
  split
  · exact s.setReg_keeps part h q _ _
  · exact h s _ s.iv _
theorem State.sealAt_keeps : part (s.sealAt q) = part s := by
  have hpoint (u : State) : part (u.point q) = part u := h u _ u.iv u.regs
  have hfree (u : State) (k : Nat) (n : W32) : part (u.freeUndo k n) = part u := h u _ u.iv _
  rw [State.sealAt, hpoint, State.setReg_keeps part h, State.setPav_keeps part h, State.setPhase, State.setReg_keeps part h,
    foldl_keeps part _ _ _ fun u k => hfree u k _, State.setInstat_keeps part h]
theorem State.quitAt_keeps : part (s.quitAt q) = part (s.untag q) := by
  have hstaged (u : State) (l : List Staged) : part (u.setStaged q l) = part u := h u _ u.iv _
  have hquit (u : State) (k : Nat) : part (u.quitUndo k) = part u := h u _ u.iv _
  rw [State.quitAt, State.setPav_keeps part h, State.setReqBit, State.setReg_keeps part h, State.setInstat_keeps part h,
    State.setReg_keeps part h, hstaged, foldl_keeps part _ _ _ hquit]
end

/-- No access of package `q` on its way carries a tag. -/
def State.Untagged (s : State) (q : Nat) : Prop := ∀ a ∈ s.fl.accs, (s.region a.2.rg).pk = q → a.2.tag = none

/-- An access on its way when interval operation ends on `q` was on its way before, without its tag if it is one of `q`. -/
theorem State.mem_accs_quitAt {s : State} {q : Nat} {a : Nat × Access} (ha : a ∈ (s.quitAt q).fl.accs) :
    ∃ b ∈ s.fl.accs, a = if (s.region b.2.rg).pk = q then (b.1, { b.2 with tag := none }) else b := by
  rw [s.quitAt_keeps State.fl (fun _ _ _ _ => rfl) q] at ha
  obtain ⟨b, hb, rfl⟩ := List.mem_map.1 ha
  exact ⟨b, hb, rfl⟩

theorem State.regions_quitAt (s : State) (q : Nat) : (s.quitAt q).regions = s.regions := s.quitAt_keeps State.regions (fun _ _ _ _ => rfl) q

theorem State.untagged_quitAt (s : State) (q : Nat) : (s.quitAt q).Untagged q := by
  intro a ha hq
  obtain ⟨b, hb, rfl⟩ := State.mem_accs_quitAt ha
  rw [State.region, State.regions_quitAt] at hq
  split
  · rfl
  next hother =>
    rw [if_neg hother] at hq
    exact absurd hq hother
theorem State.Untagged.quitAt {s : State} {q : Nat} (h : s.Untagged q) (p : Nat) : (s.quitAt p).Untagged q := by
  intro a ha hq
  obtain ⟨b, hb, rfl⟩ := State.mem_accs_quitAt ha
  rw [State.region, State.regions_quitAt] at hq
  split
  · rfl
  next hother =>
    rw [if_neg hother] at hq
    exact h b hb hq

/-- Interval operation has ended on every member: none has an access on its way that carries a tag. -/
theorem State.untagged_quitAll (s : State) (pk : Nat) {a : Nat × Access}
    (ha : a ∈ ((s.domain pk).foldl State.quitAt ((s.domain pk).foldl State.sealAt s)).fl.accs) (hmem : (s.region a.2.rg).pk ∈ s.domain pk) :
    a.2.tag = none := by
  have huntagged : ((s.domain pk).foldl State.quitAt ((s.domain pk).foldl State.sealAt s)).Untagged (s.region a.2.rg).pk :=
    foldl_reaches (fun u : State => u.Untagged _) State.quitAt hmem (fun u => u.untagged_quitAt _) (fun u p h => h.quitAt p) _
  have hregions : ((s.domain pk).foldl State.quitAt ((s.domain pk).foldl State.sealAt s)).regions = s.regions :=
    (foldl_keeps State.regions _ _ _ State.regions_quitAt).trans
      (foldl_keeps State.regions _ _ _ fun u q => u.sealAt_keeps State.regions (fun _ _ _ _ => rfl) q)
  exact huntagged a ha (by rw [State.region, hregions, State.region])

/-! ### The events (R149, R157, R159, R173) -/

section
variable {s : State} {pk : Nat}

theorem exec_intervalEnable (hen : s.enBit pk = true) (hleader : s.leader pk = pk) (hmem : pk ∈ s.domain pk)
    (hready : ∀ q ∈ s.domain pk, s.enBit q = true ∧ (s.pav q).started = false)
    (hswept : ∀ q ∈ s.domain pk, ∀ k < 16, (s.stack (q * 16 + k)).sweep = false) :
    exec (.intervalEnable pk) s
      = .next ((s.domain pk).foldl (fun t q => (t.setInstat q 1 0).setPav q { started := true, begun := s.cyc }) s) := by
  show execIntervalEnable pk s = _
  refine if_pos ⟨hen, hleader, List.contains_iff_mem.2 hmem, List.all_eq_true.2 fun q hq => ?_, List.all_eq_true.2 fun q hq => ?_⟩
  · obtain ⟨hq, hstarted⟩ := hready q hq
    rw [hq, hstarted]
    rfl
  · exact List.all_eq_true.2 fun k hk => by rw [hswept q hq k (List.mem_range.1 hk)]; rfl

theorem exec_disableRequest (hen : s.enBit pk = true) (hleader : s.leader pk = pk) (hwindow : s.windowOn pk = true) :
    exec (.disableRequest pk) s = .next (s.disableNow pk) := by
  show execDisableRequest pk s = _
  rw [execDisableRequest, if_pos hen, State.pvcfgWrite]
  exact congrArg _ (if_pos ⟨hen, rfl, hleader, hwindow⟩)

theorem exec_sealPeriodExpiry (hmay : s.mayClose pk = true) (hdue : (s.pav pk).begun + s.period pk * 1800 ≤ s.cyc) :
    exec (.sealPeriodExpiry pk) s = .next (s.closeAll pk) := if_pos ⟨hmay, hdue⟩

theorem exec_pavaneClose (hmay : s.mayClose pk = true) (hasked : s.reqBit pk = true ∨ (s.pav pk).disable = true) :
    exec (.pavaneClose pk) s = .next (s.closeAll pk) := if_pos ⟨hmay, hasked⟩

section
variable (hon : s.pvEn pk = true)
include hon

theorem exec_sealRequest (hreq : (s.pav pk).req = true) :
    exec (.sealRequest pk) s
      = .next (((s.setPav pk { s.pav pk with req := false }).setReqBit pk true).setReqBit (s.leader pk) true) := if_pos ⟨hon, hreq⟩

section
variable (hcalm : (s.members.get {} pk).step = 0)
include hcalm

theorem exec_pavaneDrain_closed (hphase : s.phase pk = 1) (hleader : s.leader pk = pk) :
    exec (.pavaneDrain pk) s = .next ((s.domain pk).foldl State.endWindow s) := by
  show execPavaneDrain pk s = _
  rw [execPavaneDrain, if_neg (not_or.2 ⟨by simp [hon], fun h => h hcalm⟩), if_pos hphase, if_pos hleader]
  rfl

/-- The last member that reports drained begins the vote. -/
theorem exec_pavaneDrain_reports (hphase : s.phase pk = 2) (hopen : (s.pav pk).drained = false) (hdrained : s.drainedAt pk = true) :
    let u := s.setPav pk { s.pav pk with drained := true }
    exec (.pavaneDrain pk) s
      = .next (if ∀ q ∈ s.domain pk, (u.pav q).drained = true then (s.domain pk).foldl (fun t q => t.setPhase q 3) u else u) := by
  intro u
  show execPavaneDrain pk s = _
  rw [execPavaneDrain, if_neg (not_or.2 ⟨by simp [hon], fun h => h hcalm⟩), if_neg (by simp [hphase]),
    if_pos ⟨hphase, by rw [hopen]; rfl, hdrained⟩, apply_ite Host.Outcome.next]
  exact ite_congr (propext List.all_eq_true) (fun _ => rfl) fun _ => rfl
end

section
variable (hleader : s.leader pk = pk)
include hleader

theorem exec_pavaneVote (hphase : s.phase pk = 3) (hcalm : (s.members.get {} pk).step = 0) (hvotes : ∀ q ∈ s.domain pk, (s.pav q).cond = false) :
    exec (.pavaneVote pk) s = .next ((s.domain pk).foldl (fun t q => t.setPhase q 4) s) :=
  if_pos ⟨hon, hleader, hphase, hcalm, List.all_eq_true.2 fun q hq => by rw [hvotes q hq]; rfl⟩

variable (hphase : s.phase pk = 4)
include hphase

theorem exec_pavaneSeal (hstay : (s.pav pk).quitting = false) : exec (.pavaneSeal pk) s = .next ((s.domain pk).foldl State.sealAt s) := by
  show execPavaneSeal pk s = _
  rw [execPavaneSeal, if_pos ⟨hon, hleader, hphase⟩, if_neg (Bool.eq_false_iff.1 hstay)]

variable (hquit : (s.pav pk).quitting = true)
include hquit

theorem exec_pavaneSeal_quits (hdet : s.det = []) (hreport : ∀ q ∈ s.domain pk, (s.members.get {} q).report = false) :
    exec (.pavaneSeal pk) s = .next ((s.domain pk).foldl State.quitAt ((s.domain pk).foldl State.sealAt s)) := by
  show execPavaneSeal pk s = _
  rw [execPavaneSeal, if_pos ⟨hon, hleader, hphase⟩, if_pos hquit]
  refine if_pos (List.all_eq_true.2 fun q hq => ?_)
  rw [hreport q hq, hdet]
  rfl

/-- A disable request is abandoned where a member asks for a rollback. -/
theorem exec_pavaneSeal_abandons {q : Nat} (hq : q ∈ s.domain pk) (hreport : (s.members.get {} q).report = true) :
    let u := (s.domain pk).foldl State.sealAt s
    exec (.pavaneSeal pk) s = .next (u.setPav pk { u.pav pk with disable := false, quitting := false }) := by
  intro u
  show execPavaneSeal pk s = _
  rw [execPavaneSeal, if_pos ⟨hon, hleader, hphase⟩, if_pos hquit]
  refine if_neg fun hall => ?_
  have hquiet := List.all_eq_true.1 hall q hq
  rw [hreport] at hquiet
  exact Bool.false_ne_true hquiet
end
end
end

/-! ### The obligation -/

/-- Settles O49, event by event. -/
theorem intervalsAreSealed : Obligations.IntervalsAreSealed := by
  unfold Obligations.IntervalsAreSealed
  intro s pk ms closed
  have hms : ms.Nodup := s.nodup_domain pk
  have hclosed (t : State) (hall : ∀ q ∈ ms, t.interval q = (s.interval q).close) : closed t := by
    intro q hq
    have h := hall q hq
    have hpav := State.pav_of_interval h
    exact ⟨State.open_of_interval h, State.sealed_of_interval h, State.phase_of_interval h, congrArg Pav.window hpav, congrArg Pav.begun hpav,
      congrArg Pav.quitting hpav, State.reqBit_of_interval h⟩
  refine ⟨?first, ?request, fun hmay hdue => ⟨_, exec_sealPeriodExpiry hmay hdue, hclosed _ fun _ => s.interval_closeAll pk⟩,
    fun hmay hasked => ⟨_, exec_pavaneClose hmay hasked, hclosed _ fun _ => s.interval_closeAll pk⟩, ?drain, ?report,
    ?vote, ?commit, ?quit, ?abandon, ?disable⟩
  case first =>
    intro hen hleader hmem hready hswept
    refine ⟨_, exec_intervalEnable hen hleader hmem hready hswept, fun q hq => ?_⟩
    have h := interval_foldl_of_mem (fun u p => u.interval_first p s.cyc) (g := fun x => x.first s.cyc) hms s hq
    exact ⟨State.open_of_interval h, State.sealed_of_interval h, congrArg Pav.started (State.pav_of_interval h)⟩
  case request =>
    intro hon hreq
    refine ⟨_, exec_sealRequest hon hreq, ?_, ?_, ?_⟩
    · rw [State.reqBit_setReqBit, State.reqBit_setReqBit, if_pos rfl, ite_self]
    · rw [State.reqBit_setReqBit, if_pos rfl]
    · show ((s.setPav pk _).pav pk).req = false
      rw [State.pav_setPav, if_pos rfl]
  case drain =>
    intro hon hcalm hphase hleader
    refine ⟨_, exec_pavaneDrain_closed hon hcalm hphase hleader, fun q hq => ?_⟩
    have h := interval_foldl_of_mem State.interval_endWindow hms s hq
    exact ⟨congrArg Pav.window (State.pav_of_interval h), State.phase_of_interval h, fun k hk => s.cwt_foldl_endWindow pk hq hk⟩
  case report =>
    intro hon hcalm hphase hopen hdrained hmem
    have hown : ((s.setPav pk { s.pav pk with drained := true }).pav pk).drained = true := by rw [State.pav_setPav, if_pos rfl]
    refine ⟨_, exec_pavaneDrain_reports hon hcalm hphase hopen hdrained, ?_, fun hothers q hq => ?_⟩
    · split
      · rw [State.pav_foldl_setPhase, hown]
      · exact hown
    · have hall : ∀ q ∈ ms, ((s.setPav pk { s.pav pk with drained := true }).pav q).drained = true := by
        intro q hq
        by_cases hpk : q = pk
        · rw [hpk, hown]
        · rw [State.pav_setPav, if_neg (Ne.symm hpk), hothers q hq hpk]
      rw [if_pos hall, s.phase_foldl_setPhase pk hq (by decide)]
  case vote =>
    intro hon hleader hphase hcalm hvotes
    exact ⟨_, exec_pavaneVote hon hleader hphase hcalm hvotes, fun q hq => s.phase_foldl_setPhase pk hq (by decide) s⟩
  case commit =>
    intro hon hleader hphase hstay
    refine ⟨_, exec_pavaneSeal hon hleader hphase hstay, fun q hq => ?_⟩
    have h := s.interval_foldl_sealAt pk hq
    exact ⟨State.sealed_of_interval h, State.open_of_interval h, State.phase_of_interval h, congrArg Pav.window (State.pav_of_interval h)⟩
  case quit =>
    intro hon hleader hphase hquit hdet hreport
    refine ⟨_, exec_pavaneSeal_quits hon hleader hphase hquit hdet hreport, fun q hq => ?_, fun a ha hmem => s.untagged_quitAll pk ha hmem⟩
    have h := interval_foldl_of_mem State.interval_quitAt hms (ms.foldl State.sealAt s) hq
    exact ⟨State.enBit_of_interval h, State.open_of_interval h, State.sealed_of_interval h⟩
  case abandon =>
    rintro hon hleader hphase hquit ⟨m, hm, hreport⟩
    refine ⟨_, exec_pavaneSeal_abandons hon hleader hphase hquit hm hreport, fun q hq => ?_, ?_⟩
    · rw [State.sealed_setPav, State.enBit_setPav]
      have h := s.interval_foldl_sealAt pk hq
      exact ⟨State.sealed_of_interval h, State.enBit_of_interval h⟩
    · rw [State.pav_setPav, if_pos rfl]
      exact ⟨rfl, rfl⟩
  case disable =>
    intro hen hleader hwindow
    refine ⟨_, exec_disableRequest hen hleader hwindow, ?_, ?_⟩
    · rw [State.disableNow, State.pav_setPav, if_pos rfl]
    · show (s.setReqBit pk true).reqBit pk = true
      rw [State.reqBit_setReqBit, if_pos rfl]

end Sys2Proof.Machine
end

section
/-! CERTIFICATE. The encoded forms (R176 to R186, R322, R333, R344): what the encoder writes, the decoder reads back. -/
namespace Sys2Proof

/-! ### The fields of a word -/

section
variable {v w n : Nat} (x : BitVec v) (y : BitVec w) (lo : Nat)

theorem getLsbD_field (i : Nat) : (field x lo n).getLsbD i = (decide (i < n) && x.getLsbD (lo + i)) :=
  BitVec.getLsbD_extractLsb' ..

theorem toNat_field : (field x lo n).toNat = x.toNat / 2 ^ lo % 2 ^ n := by
  rw [field, BitVec.extractLsb'_toNat, Nat.shiftRight_eq_div_pow]

@[simp] theorem field_all : field x 0 v = x := BitVec.extractLsb'_eq_self

@[simp] theorem field_ofNat (a : Nat) : field (BitVec.ofNat v a) lo n = BitVec.ofNat n (a % 2 ^ v / 2 ^ lo) := by
  rw [← BitVec.toNat_inj, toNat_field, BitVec.toNat_ofNat, BitVec.toNat_ofNat]

@[simp] theorem field_field {a m : Nat} (h : a + m ≤ n) : field (field x lo n) a m = field x (lo + a) m := by
  refine BitVec.eq_of_getLsbD_eq fun i hi => ?_
  simp only [getLsbD_field, decide_eq_true (show a + i < n by omega), Bool.true_and, Nat.add_assoc]

/-- A field below the place where two parts of a word meet lies in the low part. The encoders' widths are sums and the decoders' are
numerals, so the rule is not found by the shape of its word. -/
@[simp] theorem field_append_low (h : lo + n ≤ w) : field (no_index (x ++ y)) lo n = field y lo n := by
  refine BitVec.eq_of_getLsbD_eq fun i hi => ?_
  simp only [getLsbD_field, BitVec.getLsbD_append, if_pos (show lo + i < w by omega)]

/-- A field above that place lies in the high part. -/
@[simp] theorem field_append_high (h : w ≤ lo) : field (no_index (x ++ y)) lo n = field x (lo - w) n := by
  refine BitVec.eq_of_getLsbD_eq fun i _ => ?_
  simp only [getLsbD_field, BitVec.getLsbD_append, if_neg (show ¬ lo + i < w by omega), Nat.sub_add_comm h]

/-! ### Bits and bounds as fields -/

theorem getLsbD_eq_field (i : Nat) : x.getLsbD i = decide (field x i 1 = 1#1) :=
  BitVec.getLsbD_eq_extractLsb' x i

/-- A word is below a power of two where its upper bits are zero. -/
theorem toNat_lt_iff_field {b : Nat} (k : Nat) (hb : b = 2 ^ k) : x.toNat < b ↔ field x k (v - k) = 0#(v - k) := by
  have hquot : x.toNat / 2 ^ k < 2 ^ (v - k) := by
    refine Nat.div_lt_of_lt_mul (Nat.lt_of_lt_of_le x.isLt ?_)
    rw [← Nat.pow_add]
    exact Nat.pow_le_pow_right Nat.two_pos (by omega)
  rw [hb, ← BitVec.toNat_inj, toNat_field, Nat.mod_eq_of_lt hquot, BitVec.toNat_ofNat, Nat.zero_mod,
    Nat.div_eq_zero_iff_lt (Nat.two_pow_pos k)]

/-- The low bits of a word are zero where it is a multiple of their power of two. -/
theorem field_low_eq_zero_iff (k : Nat) : field x 0 k = 0#k ↔ x.toNat % 2 ^ k = 0 := by
  rw [← BitVec.toNat_inj, toNat_field, Nat.pow_zero, Nat.div_one, BitVec.toNat_ofNat, Nat.zero_mod]

@[simp] theorem decide_ofBool_eq_one (b : Bool) : decide (BitVec.ofBool b = 1#1) = b := by cases b <;> rfl
end

/-! ### The parts of a word -/

@[simp] theorem decodeTarget_encodeTarget (t : Target) : decodeTarget (encodeTarget t) = some t := by
  simp only [decodeTarget, getLsbD_eq_field]
  cases t <;> simp [encodeTarget]

@[simp] theorem decodeSrc_encodeSrc (s : Src) : decodeSrc (encodeSrc s) (srcIdx s) = s := by
  cases s <;> rfl

/-- A selector that names no local register leaves its index zero (R177). -/
theorem srcIdx_eq_zero {s : Src} (h : encodeSrc s ≠ 2) : srcIdx s = 0 := by
  cases s with
  | k i => exact absurd rfl h
  | _ => rfl

/-- OPC and the modifiers that an operation admits name it (Tables 8.4 and 8.5): a modifier tells apart the two that share an OPC. -/
theorem decodeSlotOp_opc {op : SlotOp} {m : BitVec 4} (h : op.modOk m = true) : decodeSlotOp op.opc m = some op := by
  cases op
  case ctok | ctokIlast | cbputOpen | cbputWord | cbgetOpen | cbgetWord | secw | secwSet => revert m; decide
  all_goals rfl

@[simp] theorem decodeMOp_code (op : MOp) : decodeMOp op.code = some op := by
  cases op <;> rfl

@[simp] theorem decodeRegOr_val {n : Nat} (r : RegOr n) : decodeRegOr (decide (r.isReg = 1#1)) r.ridx r.val = some r := by
  cases r <;> rfl

@[simp] theorem ite_optBit (r : Option (BitVec 4)) : (if optBit r = 1#1 then some (optReg r) else none) = r := by
  cases r <;> rfl

/-- A register that is absent leaves its index zero. -/
@[simp] theorem optBit_eq_one_or (r : Option (BitVec 4)) : optBit r = 1#1 ∨ optReg r = 0#4 := by
  cases r with
  | none => exact .inr rfl
  | some r => exact .inl rfl

/-! ### The five forms

Each proof first reads the decoder's bit tests and bounds as fields; where the fields lie among the parts that the encoder joins then decides
each of its branches, up to the ranges that `wf` gives. -/

theorem SlotOp.modOk_of_wf {op : SlotOp} {f : Slot} (h : op.wf f = true) : op.modOk f.mod = true := by
  simp only [SlotOp.wf, Bool.and_eq_true] at h
  obtain ⟨⟨⟨⟨⟨hmod, -⟩, -⟩, -⟩, -⟩, -⟩ := h
  exact hmod

/-- A slot word (R176 to R181). -/
theorem decodeSlot_encodeSlot {op : SlotOp} {f : Slot} (h : op.wf f = true) : decodeSlot (encodeSlot op f) = .ok (op.mk f) := by
  have hop := decodeSlotOp_opc (SlotOp.modOk_of_wf h)
  have haux (s : Src) : ¬ (¬ encodeSrc s = 2#2 ∧ ¬ srcIdx s = 0#3) := fun ⟨hk, hidx⟩ => hidx (srcIdx_eq_zero hk)
  simp only [decodeSlot, getLsbD_eq_field]
  simp [encodeSlot, hop, haux, h]

/-- A matrix word (R182, R183). -/
theorem decodeMatrix_encodeMatrix {op : MOp} {w : MWord} (h : op.wf w = true) : decodeMatrix (encodeMatrix op w) = .ok (op.mk w) := by
  simp [decodeMatrix, encodeMatrix, h]

/-- A reel word, row by row of Table 13.2. -/
theorem decodeReel_encodeReel {i : Instr} {w : W64} (hwf : i.wf = true) (h : encodeReel i = some w) : decodeReel w = .ok i := by
  simp only [decodeReel, getLsbD_eq_field, toNat_lt_iff_field _ _ rfl, -Nat.reducePow]
  cases i
  case plane sel => cases sel <;> cases h <;> simp [reelWord, reelIf]
  case movs src => cases src <;> cases h <;> simp [reelWord, reelIf]
  case loop | cmpj =>
    have hranges := of_decide_eq_true hwf
    cases h
    simpa [reelWord, reelIf] using hranges
  case stripe | swap | swapAll | swapWave | dwell | endl | brp | jmp | call | ret | arm | armMx | waitbBar | waitbLc | waitbMx | save | rest | lds
      | sts | addi | seqw | msgr | yld | hlt =>
    cases h
    simp [reelWord, reelIf]
  all_goals cases h

/-- A request, kind by kind of Table 13.4. -/
theorem decodeRequest_encodeRequest {i : Instr} {x : BitVec 256} (hwf : i.wf = true) (h : encodeRequest i = some x) :
    decodeRequest x = .ok i := by
  simp only [decodeRequest, xword, xpair, getLsbD_eq_field, toNat_lt_iff_field _ _ rfl, toNat_lt_iff_field (b := 16) _ 4 rfl,
    toNat_lt_iff_field (b := 256) _ 8 rfl, toNat_lt_iff_field (b := 8192) _ 13 rfl, toNat_lt_iff_field (b := 65536) _ 16 rfl, -Nat.reducePow]
  cases i
  case tensorLoad | tensorStore =>
    have hranges := of_decide_eq_true hwf
    cases h
    simpa [reqWord, tensorMid, reqIf, field_low_eq_zero_iff] using hranges
  case transferCopy | shadowCopy | gather | scatter | fill | remoteCopy | setRemoteFlag | reduceCopy =>
    cases h
    simp [reqWord, copyMid, rowMid, reqIf]
  all_goals cases h

/-- A node, kind by kind of Table 13.7. -/
theorem decodeNode_encodeNode {i : Instr} {x : BitVec 512} (hwf : i.wf = true) (h : encodeNode i = some x) : decodeNode x = .ok i := by
  simp only [decodeNode, getLsbD_eq_field]
  cases i
  case nodeEnd | nodeKernel | nodeCopy | nodeCond | nodeLoop | nodeWait | nodeSignal | nodeSeal | nodeMsg | nodeSub =>
    have hranges := of_decide_eq_true hwf
    cases h
    simpa [nodeHead, nodeIf, field_low_eq_zero_iff] using hranges
  all_goals cases h

end Sys2Proof

namespace Sys2Proof.Machine
open Sys2Proof

/-! ### The obligations -/

/-- Settles O55: what the encoder writes, form by form. -/
theorem encodingsDecodeBack : Obligations.EncodingsDecodeBack :=
  ⟨fun _ _ => decodeSlot_encodeSlot, fun _ _ => decodeMatrix_encodeMatrix, fun _ _ => decodeReel_encodeReel,
    fun _ _ => decodeRequest_encodeRequest, fun _ _ => decodeNode_encodeNode⟩

/-- The node of Table 8.10 with KIND 0, priority 0 and NEXT 7. -/
theorem encodeNode_nodeEnd_seven : encodeNode (.nodeEnd { prio := 0, next := 7 }) = some 0x700000000#512 := by decide +kernel

/-- Settles O56: the decoder read on each word; the node's is one that the encoder writes. -/
theorem writtenWordsDecode : Obligations.WrittenWordsDecode :=
  ⟨rfl, rfl, rfl, rfl, rfl, decodeNode_encodeNode (by decide) encodeNode_nodeEnd_seven⟩

end Sys2Proof.Machine
end

section
/-! CERTIFICATE. What a slot's firing leaves as it was (R200, R201, R269, R270, R340). -/
namespace Sys2Proof.Machine
open Sys2Proof

/-! ### ECNTn -/

/-- PWRSTAT and ENERGY read no register but PWRCAP (R377). -/
theorem State.powerReg_setReg (s : State) (pk off : Nat) (v : W64) (q n : Nat) (ho : off < 2 ^ 20) (hcap : off ≠ 0x60) :
    (s.setReg pk off v).powerReg q n = s.powerReg q n := by
  have hclock : (s.setReg pk off v).clock q = s.clock q := rfl
  have hregs : FMap.get none (s.setReg pk off v).regs (q * 0x100000 + 0x60) = s.regs.get none (q * 0x100000 + 0x60) :=
    (FMap.get_put ..).trans (if_neg (by omega))
  simp only [State.powerReg, hclock, hregs, State.setReg_cyc]

/-- The count of dropped tokens, ECNT1, is read by no register outside ECNTn (R406). -/
theorem State.reg_count_one (s : State) (pk k q n : Nat) (hn : n < 2 ^ 20) (hout : n < 0x16040 ∨ 0x160C0 ≤ n) :
    (s.count pk 1 k).reg q n = s.reg q n := by
  by_cases hp : n = 0x68 ∨ n = 0x70
  · rw [State.count, State.reg, if_pos hp, State.powerReg_setReg _ _ _ _ _ _ (by decide) (by decide), State.reg, if_pos hp]
  · exact State.reg_setReg_other _ _ _ _ _ _ (by decide) hn (by omega) hp

/-! ### What tokens that leave and conditions that arise do not touch -/

/-- `p` reads nothing that a firing changes beside its effect: what is on its way, regions and Figures, fault records, free values, and the
count of dropped tokens. -/
structure SparedBySending {β : Type} (p : State → β) : Prop where
  flight : ∀ (u : State) fl figs regions det free, p { u with fl := fl, figs := figs, regions := regions, det := det, free := free } = p u
  counted : ∀ (u : State) (pk k : Nat), p (u.count pk 1 k) = p u

section
variable {β : Type} {p : State → β} (hp : SparedBySending p) (u : State)
include hp

theorem SparedBySending.addEmit (e : Emit) : p (u.addEmit e) = p u := by
  unfold State.addEmit
  dsimp only
  split <;> exact hp.flight ..

theorem SparedBySending.emitTo (el f due : Nat) (second : Bool) (t : Target) (rid : BitVec 6) (squash taint : Bool) (tok : Token) :
    p (u.emitTo el f due second t rid squash taint tok) = p u := by
  unfold State.emitTo
  dsimp only
  split
  · split
    · exact hp.counted ..
    · rfl
  · split
    · rfl
    · exact hp.addEmit ..

theorem SparedBySending.emitRet (r : Ret) (due : Nat) (o : Out) : p (u.emitRet r due o) = p u := by
  unfold State.emitRet
  dsimp only
  split <;> split <;> simp only [hp.emitTo]

theorem SparedBySending.emitAll (r : Ret) (due : Nat) (outs : List Out) : p (u.emitAll r due outs) = p u := by
  induction u, outs using State.emitAll.induct (r := r) (due := due) with
  | case1 => rfl
  | case2 => exact hp.emitRet ..
  | case3 u o o' os hone =>
    rw [State.emitAll, if_pos hone, hp.emitRet]
    exact hp.flight ..
  | case4 u o o' os hone ih => rw [State.emitAll, if_neg hone, ih, hp.emitRet, hp.emitRet]

theorem SparedBySending.complete (op : Nat) (r : Ret) (outs : List Out) : p (u.complete op r outs) = p u :=
  (hp.emitAll ..).trans (hp.flight ..)

theorem SparedBySending.slotFault (code : BitVec 16) (tier : BitVec 4) (detail : W32) : p (u.slotFault code tier detail) = p u :=
  hp.flight u u.fl u.figs _ _ u.free

theorem SparedBySending.stepBreak : p u.stepBreak = p u := by
  unfold State.stepBreak
  dsimp only
  split
  · rfl
  · split
    · exact (hp.slotFault ..).trans (hp.flight ..)
    · rfl

/-- The pops touch the firing's element besides. -/
theorem SparedBySending.popped (hown : ∀ v x, p (v.setElem u.act.el x) = p v) (op : SlotOp) (f : Slot) (o : Opn) (ps : List (BitVec 2)) :
    p (u.popped op f o ps) = p u := by
  have hmark (ds : List Dest) : p ((u.popQueues u.act.el ps).markFired ds) = p u := by
    unfold State.markFired
    dsimp only
    split
    · rename_i h _ _
      split
      · exact (hown ..).trans ((hp.flight ..).trans (hown ..))
      · obtain ⟨r, hr⟩ := spend_shape (u.popQueues u.act.el ps) h.op ds
        rw [hr]
        exact (hown ..).trans ((hp.flight ..).trans (hown ..))
    · exact (hown ..).trans (hown ..)
  unfold State.popped
  dsimp only
  split
  · exact (hp.counted ..).trans (hmark _)
  · exact hmark _
end

/-- What a slot that is ready leads to: a fault condition ahead of its effect (R199, R395, R423), the pops alone (R200), its body's results
(R201), or those of a tainted effect beyond the window with the fault condition that it meets (R421). -/
theorem slotFire_cases (op : SlotOp) (f : Slot) (s : State) (o : Opn) (ps : List (BitVec 2)) (body : Opn → State → Fired) :
    let r := body o (s.popped op f o ps)
    (∃ code tier detail, slotFire op f s o ps body = s.slotFault code tier detail)
    ∨ slotFire op f s o ps body = (s.popped op f o ps).stepBreak
    ∨ slotFire op f s o ps body = s.gives f o r.st r.lat r.outs
    ∨ slotFire op f s o ps body = ((r.st.emitAll (s.ret f o.taint) (s.cyc + r.lat - 1) r.outs).slotFault 0xE104 2 o.a).stepBreak := by
  intro r
  cases hclean : o.bad with
  | some c => exact .inl ⟨_, _, _, by simp only [slotFire, hclean]; rfl⟩
  | none =>
    cases hseq : sqFault s f o ps with
    | some d => exact .inl ⟨_, _, _, by simp only [slotFire, hclean, hseq]; rfl⟩
    | none =>
      cases hpred : o.pred with
      | false => exact .inr (.inl (by simp only [slotFire, hclean, hseq, hpred]; rfl))
      | true =>
        cases hbreach : r.breach with
        | some c => exact .inl ⟨_, _, _, by simp only [r, State.popped] at hbreach; simp only [slotFire, hclean, hseq, hpred, hbreach, if_true]; rfl⟩
        | none =>
          refine .inr (.inr ?_)
          simp only [r, State.popped] at hbreach
          simp only [slotFire, hclean, hseq, hpred, hbreach, if_true]
          split
          · exact .inr rfl
          · exact .inl rfl

/-- A slot keeps what its firing's bookkeeping and its body keep. -/
theorem slotExec_keeps {β : Type} {p : State → β} (hp : SparedBySending p) {s t : State} {op : SlotOp} {f : Slot} {body : Opn → State → Fired}
    (hown : ∀ v x, p (v.setElem s.act.el x) = p v)
    (hbody : ∀ o ps, p (body o (s.popped op f o ps)).st = p (s.popped op f o ps))
    (h : slotExec op f s body = .next t) : p t = p s := by
  obtain ⟨-, hidle⟩ | ⟨o, ps, -, hfire⟩ := slotExec_answers op f s body
  · rw [hidle] at h
    cases h
    rfl
  · rw [hfire] at h
    cases h
    have hpop := hp.popped s hown op f o ps
    obtain ⟨_, _, _, heq⟩ | heq | heq | heq := slotFire_cases op f s o ps body <;> rw [heq]
    · exact hp.slotFault ..
    · rw [hp.stepBreak, hpop]
    · rw [State.gives, hp.stepBreak, hp.emitAll, hbody, hpop]
    · rw [hp.stepBreak, hp.slotFault, hp.emitAll, hbody, hpop]

/-! ### The instructions that compute -/

/-- They leave the state of their pops. -/
theorem exec_of_slotComputes {op : SlotOp} {f : Slot} {o : Opn} (h : slotComputes op f o = true) (s : State) :
    ∃ body, exec (op.mk f) s = slotExec op f s body ∧ ∀ o t, (body o t).st = t := by
  cases op
  case cvtf =>
    cases hm : f.mod.getLsbD 3
    · rw [slotComputes, pairResult, if_neg (Bool.eq_false_iff.1 hm)] at h
      cases h
    · exact ⟨_, if_pos hm, fun _ _ => rfl⟩
  case cvtif =>
    cases hm : f.mod.getLsbD 3
    · rw [slotComputes, pairResult, if_neg (Bool.eq_false_iff.1 hm)] at h
      cases h
    · exact ⟨_, if_pos hm, fun _ _ => rfl⟩
  all_goals cases h <;> exact ⟨_, rfl, fun _ _ => rfl⟩

theorem exec_keeps_of_slotComputes {β : Type} {p : State → β} (hp : SparedBySending p) {s t : State} {op : SlotOp} {f : Slot} {o : Opn}
    (hc : slotComputes op f o = true) (hown : ∀ v x, p (v.setElem s.act.el x) = p v) (h : exec (op.mk f) s = .next t) : p t = p s := by
  obtain ⟨body, hexec, hbody⟩ := exec_of_slotComputes hc s
  exact slotExec_keeps hp hown (fun o ps => by rw [hbody]) (hexec ▸ h)

/-! ### What no slot changes but those of a buffer and `secw.set` -/

/-- `p` reads nothing that a slot's effect changes either: elements, stripes, ports, streams and rings, buffers, and the memory side's records.
Memory and sector counters it may read. -/
structure SparedBySlots {β : Type} (p : State → β) : Prop extends SparedBySending p where
  inside : ∀ (u : State) fab fl regions bufs ms, p { u with fab := fab, fl := fl, regions := regions, bufs := bufs, ms := ms } = p u

/-- A write of at most `n` bytes at `a` leaves `p`. -/
def Spares {β : Type} (p : State → β) (a n : Nat) : Prop := ∀ (u : State) (bs : List Byte), bs.length ≤ n → p (u.writeBytes a bs) = p u

/-- Both branches keep a part, so the choice does: for states and for bodies. -/
theorem keeps_ite {β : Type} {p : State → β} {q : β} {c : Prop} [Decidable c] {u v : State} (h : p u = q) (h' : p v = q) :
    p (if c then u else v) = q := by
  split
  · exact h
  · exact h'
theorem fired_keeps_ite {β : Type} {p : State → β} {q : β} {c : Prop} [Decidable c] {r r' : Fired} (h : p r.st = q) (h' : p r'.st = q) :
    p (if c then r else r').st = q := by
  split
  · exact h
  · exact h'

section
variable {β : Type} {p : State → β} (hp : SparedBySlots p) (t : State)
include hp

theorem SparedBySlots.setElem (el : Nat) (x : Elem) : p (t.setElem el x) = p t := hp.inside t _ t.fl t.regions t.bufs t.ms
theorem SparedBySlots.setStripe (st : Nat) (x : Stripe) : p (t.setStripe st x) = p t := hp.inside t _ t.fl t.regions t.bufs t.ms
theorem SparedBySlots.setPort (n : Nat) (x : Port) : p (t.setPort n x) = p t := hp.inside t _ t.fl t.regions t.bufs t.ms
theorem SparedBySlots.setStrm (rs : Nat) (x : Strm) : p (t.setStrm rs x) = p t := hp.inside t _ t.fl t.regions t.bufs t.ms
theorem SparedBySlots.setRegion (rg : Nat) (x : Region) : p (t.setRegion rg x) = p t := hp.inside t t.fab t.fl _ t.bufs t.ms
theorem SparedBySlots.setFig (fg : Nat) (x : Fig) : p (t.setFig fg x) = p t := hp.flight t t.fl _ t.regions t.det t.free
theorem SparedBySlots.setWait (w : Nat) (x : Wait) : p (t.setWait w x) = p t := hp.inside t t.fab _ t.regions t.bufs t.ms
theorem SparedBySlots.delWait (w : Nat) : p (t.delWait w) = p t := hp.inside t t.fab _ t.regions t.bufs t.ms
theorem SparedBySlots.setBufs (b : FMap CBuf) : p { t with bufs := b } = p t := hp.inside t t.fab t.fl t.regions b t.ms
theorem SparedBySlots.setMs (m : MemSide) : p { t with ms := m } = p t := hp.inside t t.fab t.fl t.regions t.bufs m

theorem SparedBySlots.addWait (op : SlotOp) (f : Slot) (o : Opn) (k : WKind) : p (t.addWait op f o k) = p t :=
  hp.inside t t.fab _ t.regions t.bufs t.ms
theorem SparedBySlots.pushAcc (op : SlotOp) (f : Slot) (o : Opn) (kind : AKind) (scope : BitVec 3) (idx : Option W32) (data : List W32)
    (cmp : W32) (ds : List Dest) : p (t.pushAcc op f o kind scope idx data cmp ds) = p t := hp.inside t _ _ t.regions t.bufs t.ms
theorem SparedBySlots.writeK (src : Src) (v : W32) (taint : Bool) : p (t.writeK src v taint) = p t := by
  cases src
  case k => exact hp.addEmit ..
  all_goals rfl
theorem SparedBySlots.dropTaint (taint : Bool) : p (t.dropTaint taint) = p t := keeps_ite (hp.counted ..) rfl
theorem SparedBySlots.placeBars (ring w : Nat) (mask : W32) (ks : List Nat) : p (t.placeBars ring w mask ks) = p t := by
  induction ks generalizing t with
  | nil => rfl
  | cons k ks ih =>
    unfold State.placeBars
    split
    · rw [ih, hp.setStrm]
    · exact ih t
theorem SparedBySlots.retire (rg key : Nat) (reel : Bool) (w : W32) : p (t.retire rg key reel w) = p t :=
  keeps_ite (hp.inside t t.fab _ _ t.bufs t.ms)
    (keeps_ite ((hp.setFig ..).trans (hp.setRegion ..)) (hp.setRegion ..))

/-! #### Bodies that several instructions share -/

theorem SparedBySlots.bankFired (op : SlotOp) (f : Slot) (o : Opn) (kind : AKind) (data : List Byte) : p (bankFired op f o t kind data).st = p t :=
  fired_keeps_ite rfl (fired_keeps_ite rfl (hp.inside t t.fab _ t.regions t.bufs t.ms))
theorem SparedBySlots.baseFired (f : Slot) (o : Opn) : p (baseFired f o t).st = p t := hp.inside t t.fab _ t.regions t.bufs t.ms
theorem SparedBySlots.loadFired (op : SlotOp) (f : Slot) (o : Opn) (idx : Option W32) : p (loadFired op f o t idx).st = p t :=
  fired_keeps_ite rfl (fired_keeps_ite rfl (hp.pushAcc ..))
theorem SparedBySlots.storeFired (op : SlotOp) (f : Slot) (o : Opn) (idx : Option W32) : p (storeFired op f o t idx).st = p t :=
  fired_keeps_ite rfl (fired_keeps_ite (fired_keeps_ite (hp.setElem ..) ((hp.pushAcc ..).trans (hp.setElem ..))) (hp.setElem ..))
theorem SparedBySlots.redFired (kind : Nat) (f : Slot) (o : Opn) : p (redFired kind f o t).st = p t := by
  unfold Machine.redFired
  dsimp only
  split
  · rfl
  · exact hp.inside t _ t.fl t.regions t.bufs t.ms
  · exact hp.inside t _ t.fl t.regions t.bufs t.ms
end

/-- An instruction that writes no buffer changes, in its body, only what slots may change; `secw.set` a sector counter besides (R283). -/
theorem exec_body_keeps {β : Type} {p : State → β} (hp : SparedBySlots p) (op : SlotOp) (f : Slot) (s : State) (hput : op ≠ .cbputWord)
    (hget : op ≠ .cbgetWord) (hsecs : op = .secwSet → ∀ (u : State) x, p { u with secs := x } = p u) :
    ∃ body, exec (op.mk f) s = slotExec op f s body ∧ ∀ o t, p (body o t).st = p t := by
  cases op
  case cbputWord => exact absurd rfl hput
  case cbgetWord => exact absurd rfl hget
  case secwSet =>
    exact ⟨_, rfl, fun o t => fired_keeps_ite rfl (fired_keeps_ite rfl (fired_keeps_ite (hp.addWait ..) (hsecs rfl t _)))⟩
  case cvtf =>
    cases hm : f.mod.getLsbD 3
    · exact ⟨_, if_neg (Bool.eq_false_iff.1 hm), fun _ _ => rfl⟩
    · exact ⟨_, if_pos hm, fun _ _ => rfl⟩
  case cvtif =>
    cases hm : f.mod.getLsbD 3
    · exact ⟨_, if_neg (Bool.eq_false_iff.1 hm), fun _ _ => rfl⟩
    · exact ⟨_, if_pos hm, fun _ _ => rfl⟩
  case gate => exact ⟨_, rfl, fun o t => fired_keeps_ite rfl (hp.dropTaint ..)⟩
  case ctok => exact ⟨_, rfl, fun o t => fired_keeps_ite rfl rfl⟩
  case ctokIlast => exact ⟨_, rfl, fun o t => hp.setRegion ..⟩
  case pset => exact ⟨_, rfl, fun o t => fired_keeps_ite rfl (hp.addEmit ..)⟩
  case loopgen | loopgen2 => exact ⟨_, rfl, fun o t => hp.writeK ..⟩
  case cnt => exact ⟨_, rfl, fun o t => (hp.writeK ..).trans (hp.dropTaint ..)⟩
  case bq => exact ⟨_, rfl, fun o t => fired_keeps_ite rfl (hp.setElem ..)⟩
  case bdq => exact ⟨_, rfl, fun o t => keeps_ite rfl (hp.writeK ..)⟩
  case rmaxsc => exact ⟨_, rfl, fun o t => hp.writeK ..⟩
  case radd | rmax | rmin => exact ⟨_, rfl, fun o t => hp.redFired ..⟩
  case ldb => exact ⟨_, rfl, fun o t => fired_keeps_ite rfl (fired_keeps_ite (hp.baseFired ..) (hp.bankFired ..))⟩
  case stb => exact ⟨_, rfl, fun o t => fired_keeps_ite rfl (hp.bankFired ..)⟩
  case lnsend => exact ⟨_, rfl, fun o t => hp.addEmit ..⟩
  case lntap =>
    refine ⟨_, rfl, fun o t => fired_keeps_ite rfl ?_⟩
    dsimp only
    split
    · rfl
    · exact keeps_ite (hp.setStripe ..) (hp.setStripe ..)
  case spop =>
    refine ⟨_, rfl, fun o t => ?_⟩
    dsimp only
    split
    · rfl
    · exact hp.setPort ..
  case spush => exact ⟨_, rfl, fun o t => fired_keeps_ite rfl (hp.addEmit ..)⟩
  case cbputOpen => exact ⟨_, rfl, fun o t => fired_keeps_ite (hp.setElem ..) (hp.inside t _ _ t.regions t.bufs t.ms)⟩
  case cbgetOpen => exact ⟨_, rfl, fun o t => fired_keeps_ite rfl ((hp.addWait ..).trans (hp.setElem ..))⟩
  case agen => exact ⟨_, rfl, fun o t => fired_keeps_ite rfl (fired_keeps_ite rfl (fired_keeps_ite rfl (hp.setStrm ..)))⟩
  case ldg | ldgx => exact ⟨_, rfl, fun o t => hp.loadFired ..⟩
  case stg | stgx => exact ⟨_, rfl, fun o t => hp.storeFired ..⟩
  case pfg | atom | red | cas => exact ⟨_, rfl, fun o t => fired_keeps_ite rfl (fired_keeps_ite rfl (hp.pushAcc ..))⟩
  case fence | msend => exact ⟨_, rfl, fun o t => fired_keeps_ite rfl (hp.addWait ..)⟩
  case secw | crd | publish => exact ⟨_, rfl, fun o t => fired_keeps_ite rfl (fired_keeps_ite rfl (hp.addWait ..))⟩
  case sbar =>
    exact ⟨_, rfl, fun o t => fired_keeps_ite rfl (fired_keeps_ite rfl (fired_keeps_ite rfl ((hp.addWait ..).trans (hp.placeBars ..))))⟩
  case xreq =>
    exact ⟨_, rfl, fun o t => fired_keeps_ite (hp.setElem ..) (fired_keeps_ite (hp.setElem ..) ((hp.addWait ..).trans (hp.setElem ..)))⟩
  case lrflush =>
    exact ⟨_, rfl, fun o t => fired_keeps_ite rfl (fired_keeps_ite rfl (fired_keeps_ite (hp.addWait ..) (hp.setMs ..)))⟩
  case mword => exact ⟨_, rfl, fun o t => fired_keeps_ite rfl (hp.setElem ..)⟩
  case sealreq => exact ⟨_, rfl, fun o t => fired_keeps_ite rfl (fired_keeps_ite (hp.addWait ..) rfl)⟩
  case rdcr =>
    refine ⟨_, rfl, fun o t => ?_⟩
    dsimp only
    split
    · rfl
    · exact keeps_ite (hp.setElem ..) rfl
  case wrcr => exact ⟨_, rfl, fun o t => fired_keeps_ite rfl (fired_keeps_ite rfl (fired_keeps_ite rfl (hp.addEmit ..)))⟩
  case evc => exact ⟨_, rfl, fun o t => fired_keeps_ite rfl (hp.addEmit ..)⟩
  case trap | brk => exact ⟨_, rfl, fun o t => fired_keeps_ite rfl (hp.slotFault ..)⟩
  case halt => exact ⟨_, rfl, fun o t => fired_keeps_ite rfl (hp.retire ..)⟩
  all_goals exact ⟨_, rfl, fun _ _ => rfl⟩

/-! ### Buffers -/

/-- The pops leave the put and the get that an element has open. -/
theorem popAll_put_get (e : Elem) (qs : List (BitVec 2)) : (popAll e qs).put = e.put ∧ (popAll e qs).get = e.get := by
  induction qs generalizing e with
  | nil => exact ⟨rfl, rfl⟩
  | cons q qs ih => exact ih _

theorem markFired_put_get (s : State) (ds : List Dest) {el : Nat} (hel : s.act.el = el) :
    ((s.markFired ds).elem el).put = (s.elem el).put ∧ ((s.markFired ds).elem el).get = (s.elem el).get := by
  subst hel
  unfold State.markFired
  dsimp only
  split
  · split <;> simp only [State.elem_setElem, if_true, and_self]
  · simp only [State.elem_setElem, if_true, and_self]

theorem popped_put_get (s : State) (op : SlotOp) (f : Slot) (o : Opn) (ps : List (BitVec 2)) :
    ((s.popped op f o ps).elem s.act.el).put = (s.elem s.act.el).put ∧ ((s.popped op f o ps).elem s.act.el).get = (s.elem s.act.el).get := by
  have hmark := markFired_put_get (s.popQueues s.act.el ps) (firingDests op f o s) (el := s.act.el) rfl
  rw [State.popQueues, State.elem_setElem, if_pos rfl] at hmark
  obtain ⟨hput, hget⟩ := popAll_put_get (s.elem s.act.el) ps
  rw [State.popped]
  exact ⟨keeps_ite (p := fun u => (u.elem s.act.el).put) (hmark.1.trans hput) (hmark.1.trans hput),
    keeps_ite (p := fun u => (u.elem s.act.el).get) (hmark.2.trans hget) (hmark.2.trans hget)⟩

section
variable {β : Type} {p : State → β} (hp : SparedBySlots p) (t : State)
include hp

theorem SparedBySlots.tailPassed (desc : Nat) : p (t.tailPassed desc) = p t :=
  foldl_keeps p _ _ _ fun _ _ => (hp.complete ..).trans (hp.delWait ..)

/-- A finished put writes TAIL (R269). -/
theorem SparedBySlots.finishPut {desc : Nat} (htail : Spares p (desc + 12) 4) (n : Nat) : p (t.finishPut desc n) = p t :=
  (hp.tailPassed ..).trans ((htail _ _ (Nat.le_of_eq (wordBytes_length _))).trans (hp.setBufs ..))

theorem SparedBySlots.quitPut (g : OpenBuf) (htail : Spares p (g.desc + 12) 4) : p (t.quitPut g) = p t :=
  keeps_ite (hp.finishPut _ htail _) (hp.delWait ..)

/-! #### Held puts that HEAD releases (R122, R123) -/

theorem SparedBySlots.cbFault (w : Nat) (x : Wait) (el : Nat) (code : BitVec 16) : p (t.cbFault w x el code) = p t :=
  (hp.setElem ..).trans ((hp.flight _ _ _ _ _ _).trans (hp.inside t t.fab _ t.regions t.bufs t.ms))

theorem SparedBySlots.placePut (hmem : ∀ a n, Spares p a n) (w : Nat) (x : Wait) (desc len : Nat) (tag : W32) (el : Nat) :
    p (t.placePut w x desc len tag el) = p t := by
  have hwrite (u : State) (a : Nat) (bs : List Byte) : p (u.writeBytes a bs) = p u := hmem a bs.length u bs (Nat.le_refl _)
  refine keeps_ite (hp.cbFault ..) (keeps_ite (hp.cbFault ..) (keeps_ite ?_ (keeps_ite ?_ (hp.setWait ..))))
  · rw [hp.delWait, hp.setElem, hp.setBufs, hwrite]
  · rw [hp.delWait, hp.setElem, hp.setBufs, hwrite, hwrite]

theorem SparedBySlots.retryPuts (hmem : ∀ a n, Spares p a n) (desc n : Nat) : p (t.retryPuts desc n) = p t := by
  induction n generalizing t with
  | zero => rfl
  | succ n ih =>
    unfold State.retryPuts
    split
    · rfl
    · exact keeps_ite (hp.placePut _ hmem ..) ((ih _).trans (hp.placePut _ hmem ..))
end

/-- Where no put is held, HEAD releases none. -/
theorem State.retryPuts_of_none_held {s : State} (h : ∀ w ∈ s.fl.waits, w.2.held = false) (desc n : Nat) : s.retryPuts desc n = s := by
  cases n with
  | zero => rfl
  | succ n =>
    have hnone : s.firstHeld desc = none := by
      refine List.findSome?_eq_none_iff.2 fun w hw => ?_
      split
      · rw [if_neg (by simp [h w hw])]
      · rfl
    rw [State.retryPuts, hnone]

/-- HEAD advances (R123, R270). -/
theorem SparedBySlots.finishGet {β : Type} {p : State → β} (hp : SparedBySlots p) (t : State) {desc : Nat} (hhead : Spares p (desc + 8) 4)
    (hheld : (∀ w ∈ t.fl.waits, w.2.held = false) ∨ ∀ a n, Spares p a n) (n : Nat) : p (t.finishGet desc n) = p t := by
  have hwrite (gets : List (Nat × Nat × Bool)) (b : FMap CBuf) :
      p (({ t with bufs := b }).writeBytes (desc + 8) (wordBytes (t.read32 (desc + 8) + BitVec.ofNat 32 (drainDone gets).1))) = p t :=
    (hhead _ _ (Nat.le_of_eq (wordBytes_length _))).trans (hp.setBufs ..)
  refine keeps_ite (hwrite _ _) ?_
  obtain hnone | hmem := hheld
  · rw [State.retryPuts_of_none_held (by simpa using hnone)]
    exact hwrite _ _
  · exact (hp.retryPuts _ hmem ..).trans (hwrite _ _)

/-- A put's bytes that `p` must not read: the next word, the padding behind the message, and TAIL (R121, R269). -/
def SparedByPut {β : Type} (p : State → β) (g : OpenBuf) : Prop :=
  Spares p (g.addr + 4 * g.done) 4 ∧ Spares p (g.addr + g.len) (g.need - 16 - g.len) ∧ Spares p (g.desc + 12) 4

theorem execCbputWord_keeps {β : Type} {p : State → β} (hp : SparedBySlots p) {s t : State} {f : Slot}
    (hput : ∀ g, (s.elem s.act.el).put = some g → SparedByPut p g) (h : exec (.cbputWord f) s = .next t) : p t = p s := by
  refine slotExec_keeps hp.toSparedBySending (fun _ _ => hp.setElem ..) (fun o ps => ?_) h
  obtain ⟨hopen, -⟩ := popped_put_get s .cbputWord f o ps
  rw [← hopen] at hput
  have hact := popped_act s .cbputWord f o ps
  generalize s.popped .cbputWord f o ps = u at hput hact ⊢
  rw [← hact] at hput
  dsimp only
  split
  · exact fired_keeps_ite (hp.setElem ..) (hp.setElem ..)
  · exact fired_keeps_ite rfl rfl
  next np g hg =>
    obtain ⟨hword, hpad, htail⟩ := hput g hg
    have hbytes : p (if slotQuiet .cbputWord o u = true then u else u.writeBytes (g.addr + 4 * g.done) ((wordBytes o.a).take (g.len - 4 * g.done)))
        = p u := keeps_ite rfl (hword _ _ (List.length_take_le' ..))
    refine fired_keeps_ite (fired_keeps_ite (hp.setElem ..) (hp.setElem ..)) (fired_keeps_ite (fired_keeps_ite ?_ ?_) ?_)
    · exact (hp.quitPut _ g htail).trans ((hp.setElem ..).trans hbytes)
    · exact (hp.finishPut _ htail _).trans ((hp.addWait ..).trans ((hpad _ _ (Nat.le_of_eq List.length_replicate)).trans ((hp.setElem ..).trans hbytes)))
    · exact (hp.setElem ..).trans hbytes

theorem execCbgetWord_keeps {β : Type} {p : State → β} (hp : SparedBySlots p) {s t : State} {f : Slot} (herrs : s.ms.errs = [])
    (hget : ∀ g, (s.elem s.act.el).get = some g → Spares p (g.desc + 8) 4)
    (hheld : (∀ w ∈ s.fl.waits, w.2.held = false) ∨ ∀ a n, Spares p a n) (h : exec (.cbgetWord f) s = .next t) : p t = p s := by
  refine slotExec_keeps hp.toSparedBySending (fun _ _ => hp.setElem ..) (fun o ps => fired_keeps_ite rfl ?_) h
  obtain ⟨-, hopen⟩ := popped_put_get s .cbgetWord f o ps
  rw [← hopen] at hget
  rw [← popped_waits s .cbgetWord f o ps] at hheld
  rw [← popped_ms s .cbgetWord f o ps] at herrs
  have hact := popped_act s .cbgetWord f o ps
  generalize s.popped .cbgetWord f o ps = u at hget hheld herrs hact ⊢
  rw [← hact] at hget
  dsimp only
  split
  · rfl
  next g hg =>
    rw [State.readBytes_of_errs_nil herrs]
    exact fired_keeps_ite ((hp.setElem ..).trans (hp.finishGet u (hget g hg) hheld _)) (hp.setElem ..)

/-! ### The parts that slots leave -/

theorem sparedBySlots_peek (x : Nat) : SparedBySlots (·.peek x) := ⟨⟨fun _ _ _ _ _ _ => rfl, fun _ _ _ => rfl⟩, fun _ _ _ _ _ _ => rfl⟩
theorem sparedBySlots_secs : SparedBySlots State.secs := ⟨⟨fun _ _ _ _ _ _ => rfl, fun _ _ _ => rfl⟩, fun _ _ _ _ _ _ => rfl⟩
theorem sparedBySlots_iv : SparedBySlots State.iv := ⟨⟨fun _ _ _ _ _ _ => rfl, fun _ _ _ => rfl⟩, fun _ _ _ _ _ _ => rfl⟩
theorem sparedBySlots_members : SparedBySlots State.members := ⟨⟨fun _ _ _ _ _ _ => rfl, fun _ _ _ => rfl⟩, fun _ _ _ _ _ _ => rfl⟩
theorem sparedBySlots_cyc : SparedBySlots State.cyc := ⟨⟨fun _ _ _ _ _ _ => rfl, fun _ _ _ => rfl⟩, fun _ _ _ _ _ _ => rfl⟩
theorem sparedBySlots_reg {pk off : Nat} (hoff : off < 2 ^ 20) (hout : off < 0x16040 ∨ 0x160C0 ≤ off) : SparedBySlots (·.reg pk off) :=
  ⟨⟨fun _ _ _ _ _ _ => rfl, fun u q k => u.reg_count_one q k pk off hoff hout⟩, fun _ _ _ _ _ _ => rfl⟩

theorem spares_peek {x a n : Nat} (h : x < a ∨ a + n ≤ x) : Spares (·.peek x) a n := fun u bs hlen => by
  dsimp only
  rw [State.peek_writeBytes, if_neg (by omega)]

/-- A part beside memory and the memory side's records is spared by every write. -/
theorem spares_of_beside_mem {β : Type} {p : State → β} (h : ∀ (u : State) mem ms, p { u with mem := mem, ms := ms } = p u) (a n : Nat) :
    Spares p a n := fun u bs _ => by
  rw [State.writeBytes_eq]
  exact h ..

/-- No slot changes a part beside memory and sector counters that its bookkeeping spares. -/
theorem exec_keeps_beside_mem {β : Type} {p : State → β} (hp : SparedBySlots p) {s t : State} {op : SlotOp} {f : Slot}
    (h : exec (op.mk f) s = .next t) (herrs : op = .cbgetWord → s.ms.errs = [])
    (hmem : ∀ (u : State) mem ms, p { u with mem := mem, ms := ms } = p u)
    (hsecs : op = .secwSet → ∀ (u : State) x, p { u with secs := x } = p u) : p t = p s := by
  have hspares := spares_of_beside_mem hmem
  by_cases hput : op = .cbputWord
  · subst hput
    exact execCbputWord_keeps hp (fun _ _ => ⟨hspares _ _, hspares _ _, hspares _ _⟩) h
  · by_cases hget : op = .cbgetWord
    · subst hget
      exact execCbgetWord_keeps hp (herrs rfl) (fun _ _ => hspares _ _) (.inr hspares) h
    · obtain ⟨body, hexec, hbody⟩ := exec_body_keeps hp op f s hput hget hsecs
      exact slotExec_keeps hp.toSparedBySending (fun _ _ => hp.setElem ..) (fun _ _ => hbody ..) (hexec ▸ h)

/-! ### The obligation -/

/-- Settles O60: memory, `cbput.word` and `cbget.word`, registers, sector counters, the rest, and the instructions that compute. -/
theorem slotsLeaveTheRest : Obligations.SlotsLeaveTheRest := by
  unfold Obligations.SlotsLeaveTheRest
  intro s t op f h herrs e outside
  refine ⟨?memory, ?put, ?get, ?registers, ?counters, exec_keeps_beside_mem sparedBySlots_iv h herrs (fun _ _ _ => rfl) fun _ _ _ => rfl,
    exec_keeps_beside_mem sparedBySlots_members h herrs (fun _ _ _ => rfl) fun _ _ _ => rfl,
    exec_keeps_beside_mem sparedBySlots_cyc h herrs (fun _ _ _ => rfl) fun _ _ _ => rfl, ?computing⟩
  case memory =>
    intro hput hget x
    obtain ⟨body, hexec, hbody⟩ := exec_body_keeps (sparedBySlots_peek x) op f s hput hget fun _ _ _ => rfl
    exact slotExec_keeps (sparedBySlots_peek x).toSparedBySending (fun _ _ => rfl) (fun _ _ => hbody ..) (hexec ▸ h)
  case put =>
    rintro x rfl hout
    refine execCbputWord_keeps (sparedBySlots_peek x) (fun g hg => ?_) h
    obtain ⟨hword, hpad, htail⟩ := hout g hg
    exact ⟨spares_peek hword, spares_peek hpad, spares_peek htail⟩
  case get =>
    rintro x rfl hheld hout
    exact execCbgetWord_keeps (sparedBySlots_peek x) (herrs rfl) (fun g hg => spares_peek (hout g hg)) (.inl hheld) h
  case registers =>
    intro pk off hoff hout
    exact exec_keeps_beside_mem (sparedBySlots_reg hoff hout) h herrs (fun _ _ _ => rfl) fun _ _ _ => rfl
  case counters => exact fun hset => exec_keeps_beside_mem sparedBySlots_secs h herrs (fun _ _ _ => rfl) fun hop => absurd hop hset
  case computing =>
    intro o hc
    refine ⟨fun x hx => exec_keeps_of_slotComputes (p := (·.elem x)) ⟨fun _ _ _ _ _ _ => rfl, fun _ _ _ => rfl⟩ hc
      (fun v y => (State.elem_setElem ..).trans (if_neg (Ne.symm hx))) h, ?_⟩
    have hbeside : ∀ {β : Type} (p : State → β), SparedBySending p → (∀ v el y, p (State.setElem v el y) = p v) → p t = p s :=
      fun p hp hown => exec_keeps_of_slotComputes hp hc (fun v y => hown v _ y) h
    have hfab := hbeside (fun u => (u.fab.mxs, u.fab.stripes, u.fab.ports, u.fab.strms, u.fab.rings))
      ⟨fun _ _ _ _ _ _ => rfl, fun _ _ _ => rfl⟩ fun _ _ _ => rfl
    have hrest := hbeside (fun u => (u.bufs, u.ms, u.eng, u.work)) ⟨fun _ _ _ _ _ _ => rfl, fun _ _ _ => rfl⟩ fun _ _ _ => rfl
    simp only [Prod.mk.injEq] at hfab hrest
    obtain ⟨hmxs, hstripes, hports, hstrms, hrings⟩ := hfab
    exact ⟨hmxs, hstripes, hports, hstrms, hrings, hrest⟩

end Sys2Proof.Machine
end

section
/-! CERTIFICATE. The word results of carry, permute, divide, shift, field and truth-table instructions (R208 to R210, R213 to R215). -/
namespace Sys2Proof.Machine
open Sys2Proof

/-! ### Lanes -/

theorem packLanes_lt (n : Nat) (l : List Nat) : packLanes n l < 2 ^ (n * l.length) := by
  induction l with
  | nil => exact Nat.one_pos
  | cons v l ih =>
    rw [packLanes, List.length_cons, Nat.mul_succ, Nat.add_comm (n * _), Nat.pow_add]
    have hv : v % 2 ^ n < 2 ^ n := Nat.mod_lt _ (Nat.two_pow_pos n)
    calc v % 2 ^ n + 2 ^ n * packLanes n l
      _ < 2 ^ n * (packLanes n l + 1) := by rw [Nat.mul_succ]; omega
      _ ≤ 2 ^ n * 2 ^ (n * l.length) := Nat.mul_le_mul_left _ ih

/-- A lane of packed lanes. -/
theorem packLanes_lane (n : Nat) (l : List Nat) (i : Nat) (hi : i < l.length) : packLanes n l / 2 ^ (n * i) % 2 ^ n = l[i] % 2 ^ n := by
  induction l generalizing i with
  | nil => exact absurd hi (Nat.not_lt_zero i)
  | cons v l ih =>
    cases i with
    | zero => simp [packLanes]
    | succ i =>
      have hv : v % 2 ^ n / 2 ^ n = 0 := Nat.div_eq_of_lt (Nat.mod_lt _ (Nat.two_pow_pos n))
      rw [packLanes, Nat.mul_succ, Nat.add_comm (n * i), Nat.pow_add, ← Nat.div_div_eq_div_mul, Nat.add_mul_div_left _ _ (Nat.two_pow_pos n), hv,
        Nat.zero_add, ih i (Nat.lt_of_succ_lt_succ hi), List.getElem_cons_succ]

/-- A lane of a word computed lane by lane, where the lanes fill the word. -/
theorem laneN_mapLanes {n : Nat} (g : Nat → Nat) {i : Nat} (hfill : n * (32 / n) = 32) (hi : i < 32 / n) :
    laneN (mapLanes n g) n i = g i % 2 ^ n := by
  have hlen : ((lanes n).map g).length = 32 / n := by simp [lanes]
  have hlt : packLanes n ((lanes n).map g) < 2 ^ 32 := by simpa [hlen, hfill] using packLanes_lt n ((lanes n).map g)
  rw [laneN, mapLanes, BitVec.toNat_ofNat, Nat.mod_eq_of_lt hlt, packLanes_lane n _ i (hlen ▸ hi)]
  simp [lanes]

theorem laneN_lt (v : W32) (n i : Nat) : laneN v n i < 2 ^ n := Nat.mod_lt _ (Nat.two_pow_pos n)

/-- A word is its one lane of 32 bits. -/
theorem laneN_zero (v : W32) : laneN v 32 0 = v.toNat := by
  rw [laneN, Nat.mul_zero, Nat.pow_zero, Nat.div_one, Nat.mod_eq_of_lt v.isLt]
/-- A bit of a word is its lane of 1 bit. -/
theorem laneN_one (v : W32) (j : Nat) : laneN v 1 j = v.toNat / 2 ^ j % 2 := by rw [laneN, Nat.one_mul, Nat.pow_one]
theorem laneN_one_eq_toNat_getLsbD (v : W32) (j : Nat) : laneN v 1 j = (v.getLsbD j).toNat := by
  rw [laneN_one, BitVec.getLsbD, Nat.toNat_testBit]
theorem getLsbD_eq_lane (v : W32) (j : Nat) : v.getLsbD j = decide (laneN v 1 j = 1) := by
  rw [laneN_one, BitVec.getLsbD, Nat.testBit_eq_decide_div_mod_eq]
/-- A lane as bits. -/
theorem toNat_extractLsb'_lane (v : W32) (n i : Nat) : (v.extractLsb' (n * i) n).toNat = laneN v n i := by
  rw [BitVec.extractLsb'_toNat, Nat.shiftRight_eq_div_pow, laneN]

theorem laneW_pos (m : BitVec 4) : 0 < laneW m := by
  unfold laneW
  split
  · decide
  · split <;> decide
theorem laneW_fills (m : BitVec 4) : laneW m * (32 / laneW m) = 32 := by
  unfold laneW
  split
  · rfl
  · split <;> rfl

/-- A lane of the bit class. -/
theorem laneN_bitLanes (m : BitVec 4) (g : Nat → Nat → Nat → Nat) (a b : W32) {i : Nat} (hi : i < 32 / laneW m) :
    laneN (bitLanes m g a b) (laneW m) i = g (laneW m) (laneN a (laneW m) i) (laneN b (laneW m) i) % 2 ^ laneW m :=
  laneN_mapLanes _ (laneW_fills m) hi

/-! ### Signed numbers -/

/-- Two's complement as the library reads it. -/
theorem signed_toNat {n : Nat} (hn : 0 < n) (x : BitVec n) : signed n x.toNat = x.toInt := by
  have hpow := Nat.two_pow_pred_add_two_pow_pred hn
  rw [signed, BitVec.toInt_eq_toNat_cond]
  by_cases h : x.toNat < 2 ^ (n - 1)
  · rw [if_pos h, if_pos (by omega)]
  · rw [if_neg h, if_neg (by omega)]

theorem signed_bounds {n v : Nat} (hn : 0 < n) (hv : v < 2 ^ n) : -((2 ^ (n - 1) : Nat) : Int) ≤ signed n v ∧ signed n v < (2 ^ (n - 1) : Nat) := by
  have hpow := Nat.two_pow_pred_add_two_pow_pred hn
  unfold signed
  split <;> omega

/-- A number in range that is wrapped reads as itself. -/
theorem signed_wrapN {n : Nat} (hn : 0 < n) {x : Int} (hlo : -((2 ^ (n - 1) : Nat) : Int) ≤ x) (hhi : x < (2 ^ (n - 1) : Nat)) :
    signed n (wrapN x n) = x := by
  have hpow := Nat.two_pow_pred_add_two_pow_pred hn
  generalize hM : 2 ^ (n - 1) = M at *
  rw [signed, wrapN, hM, ← hpow]
  by_cases h : 0 ≤ x
  · rw [Int.emod_eq_of_lt h (by omega), if_pos (by omega)]
    omega
  · rw [← Int.add_emod_right, Int.emod_eq_of_lt (by omega) (by omega), if_neg (by omega)]
    omega

theorem wrapN_lt (x : Int) (n : Nat) : wrapN x n < 2 ^ n := by
  have hpos : (0 : Int) < ((2 ^ n : Nat) : Int) := by exact_mod_cast Nat.two_pow_pos n
  have hlt := Int.emod_lt_of_pos x hpos
  rw [wrapN]
  omega

/-! ### Carry, permutation and division (R208 to R210) -/

theorem addcW_sum (a b x : W32) : (addcW a b x).1.toNat = (a.toNat + b.toNat + x.toNat % 2) % 2 ^ 32 := BitVec.toNat_ofNat ..
theorem subbW_difference (a b x : W32) :
    ((subbW a b x).1.toNat : Int) = ((a.toNat : Int) - b.toNat - (x.toNat % 2 : Nat)) % 2 ^ 32 := by
  rw [subbW, w32, BitVec.toNat_ofInt]
  exact Int.toNat_of_nonneg (Int.emod_nonneg _ (by decide))
theorem subbW_borrow (a b x : W32) : (subbW a b x).2 = if a.toNat < b.toNat + x.toNat % 2 then 1 else 0 := by
  have hneg : (a.toNat : Int) - b.toNat - (x.toNat % 2 : Nat) < 0 ↔ a.toNat < b.toNat + x.toNat % 2 := by omega
  simp only [subbW, hneg]

/-- The byte that `bperm` puts at place `i` (R209). -/
theorem bpermW_byte (a b : W32) {i : Nat} (hi : i < 4) :
    let sel := b.toNat / 16 ^ i % 16
    let v := a.extractLsb' (8 * (sel % 4)) 8
    (bpermW a b).extractLsb' (8 * i) 8 = if 8 ≤ sel then 0 else if 4 ≤ sel % 8 then (if v.getLsbD 7 then 0xFF else 0) else v := by
  intro sel v
  have hpow : 2 ^ (4 * i) = 16 ^ i := Nat.pow_mul 2 4 i
  have hsel : laneN b 4 i = sel := congrArg (b.toNat / · % 16) hpow
  have hv : v.toNat = laneN a 8 (sel % 4) := toNat_extractLsb'_lane ..
  have hsign : v.getLsbD 7 = decide (128 ≤ v.toNat) := (BitVec.msb_eq_getLsbD_last v).symm.trans (BitVec.msb_eq_decide v)
  refine BitVec.eq_of_toNat_eq ?_
  rw [toNat_extractLsb'_lane, bpermW, laneN_mapLanes _ rfl hi, hsel, hsign]
  dsimp only
  rw [← hv]
  by_cases h8 : 8 ≤ sel
  · simp [h8]
  · by_cases h4 : 4 ≤ sel % 8
    · by_cases h128 : 128 ≤ v.toNat <;> simp [h8, h4, h128]
    · simpa [h8, h4] using v.isLt

theorem laneV_word (uns : Bool) (v : W32) : laneV uns 32 v 0 = if uns then (v.toNat : Int) else v.toInt := by
  rw [laneV, laneN_zero, signed_toNat (by decide)]

/-- Saturation as the statement writes it (R85). -/
theorem clampI_eq (x : Int) {lo hi : Int} (h : lo ≤ hi) : clampI x lo hi = max lo (min hi x) := by
  unfold clampI
  omega

/-- Quotient and remainder (R210). -/
theorem divW_quotient (m : BitVec 4) (a b : W32) :
    let A : Int := if m.getLsbD 2 then a.toNat else a.toInt
    let B : Int := if m.getLsbD 2 then b.toNat else b.toInt
    let hi : Int := if m.getLsbD 2 then 2 ^ 32 - 1 else 2 ^ 31 - 1
    let lo : Int := if m.getLsbD 2 then 0 else -2 ^ 31
    (divW m a b).1 = BitVec.ofInt 32 (if B = 0 then (if m.getLsbD 3 then (if 0 ≤ A then hi else lo) else -1)
      else if m.getLsbD 3 then max lo (min hi (A.tdiv B)) else A.tdiv B) := by
  intro A B hi lo
  have hhi : hiLim (m.getLsbD 2) 32 = hi := by simp only [hiLim, hi]; rfl
  have hlo : loLim (m.getLsbD 2) 32 = lo := by simp only [loLim, lo]; rfl
  have hle : lo ≤ hi := by
    simp only [lo, hi]
    split <;> decide
  rw [divW, laneV_word, laneV_word]
  simp only [hhi, hlo, clampI_eq _ hle]
  rfl
theorem divW_remainder (m : BitVec 4) (a b : W32) :
    let A : Int := if m.getLsbD 2 then a.toNat else a.toInt
    let B : Int := if m.getLsbD 2 then b.toNat else b.toInt
    (divW m a b).2 = BitVec.ofInt 32 (if B = 0 then A else A - A.tdiv B * B) := by
  intro A B
  have hmod : A.tmod B = A - A.tdiv B * B := by rw [Int.tmod_def, Int.mul_comm]
  rw [divW, laneV_word, laneV_word, ← hmod]
  rfl

/-! ### Shifts and rotations (R213) -/

/-- A number divided by a power of two stays in its range. -/
theorem ediv_two_pow_bounds {x M : Int} (k : Nat) (hlo : -M ≤ x) (hhi : x < M) : -M ≤ x / ((2 ^ k : Nat) : Int) ∧ x / ((2 ^ k : Nat) : Int) < M := by
  have hpos : (1 : Int) ≤ ((2 ^ k : Nat) : Int) := by exact_mod_cast Nat.one_le_two_pow
  generalize ((2 ^ k : Nat) : Int) = c at hpos ⊢
  have hM : M * 1 ≤ M * c := Int.mul_le_mul_of_nonneg_left hpos (by omega)
  rw [Int.le_ediv_iff_mul_le (by omega), Int.ediv_lt_iff_lt_mul (by omega), Int.neg_mul]
  omega

section
variable (m : BitVec 4) (a b : W32) {i : Nat} (hi : i < 32 / laneW m)
include hi

/-- Logical shifts lane by lane: an amount of the lane's width or more leaves 0. -/
theorem shl_lane : laneN (bitLanes m shlN a b) (laneW m) i
    = if laneN b (laneW m) i < laneW m then laneN a (laneW m) i * 2 ^ laneN b (laneW m) i % 2 ^ laneW m else 0 := by
  rw [laneN_bitLanes m shlN a b hi, shlN]
  split
  · exact Nat.mod_mod _ _
  · exact Nat.zero_mod _

theorem shr_lane : laneN (bitLanes m shrN a b) (laneW m) i
    = if laneN b (laneW m) i < laneW m then laneN a (laneW m) i / 2 ^ laneN b (laneW m) i else 0 := by
  rw [laneN_bitLanes m shrN a b hi, shrN]
  split
  · exact Nat.mod_eq_of_lt (Nat.lt_of_le_of_lt (Nat.div_le_self _ _) (laneN_lt ..))
  · exact Nat.zero_mod _

/-- An arithmetic shift divides, rounding down; amounts beyond the lane count as its width less one. -/
theorem sar_lane : signed (laneW m) (laneN (bitLanes m sarN a b) (laneW m) i)
    = signed (laneW m) (laneN a (laneW m) i) / ((2 ^ min (laneN b (laneW m) i) (laneW m - 1) : Nat) : Int) := by
  have hn := laneW_pos m
  obtain ⟨hlo, hhi⟩ := signed_bounds hn (laneN_lt a (laneW m) i)
  obtain ⟨hlo, hhi⟩ := ediv_two_pow_bounds (min (laneN b (laneW m) i) (laneW m - 1)) hlo hhi
  rw [laneN_bitLanes m sarN a b hi, sarN, Nat.mod_eq_of_lt (wrapN_lt ..), signed_wrapN hn hlo hhi]
end

/-- A rotation to the left by `s` takes bit `j` to bit `(j + s) mod n`. -/
theorem testBit_rotN {n v : Nat} (s : Nat) {j : Nat} (hv : v < 2 ^ n) (hj : j < n) : (rotN n v s).testBit ((j + s) % n) = v.testBit j := by
  have hk : s % n < n := Nat.mod_lt _ (by omega)
  have hto : (j + s) % n = if j + s % n < n then j + s % n else j + s % n - n := by
    rw [← Nat.add_mod_mod]
    split
    · exact Nat.mod_eq_of_lt (by assumption)
    · rw [Nat.mod_eq_sub_mod (by omega), Nat.mod_eq_of_lt (by omega)]
  have hlow : v / 2 ^ (n - s % n) < 2 ^ (s % n) := by
    rw [Nat.div_lt_iff_lt_mul (Nat.two_pow_pos _), ← Nat.pow_add, Nat.add_sub_cancel' (Nat.le_of_lt hk)]
    exact hv
  rw [rotN, Nat.testBit_mod_two_pow, Nat.mul_comm v, Nat.testBit_two_pow_mul_add _ hlow, hto]
  by_cases hstay : j + s % n < n
  · rw [if_pos hstay, if_neg (by omega), Nat.add_sub_cancel, decide_eq_true hstay, Bool.true_and]
  · rw [if_neg hstay, if_pos (by omega), Nat.testBit_div_two_pow, show j + s % n - n + (n - s % n) = j by omega,
      decide_eq_true (by omega), Bool.true_and]

theorem rot_lane (m : BitVec 4) (a b : W32) {i j : Nat} (hi : i < 32 / laneW m) (hj : j < laneW m) :
    (laneN (bitLanes m rotN a b) (laneW m) i).testBit ((j + laneN b (laneW m) i) % laneW m) = (laneN a (laneW m) i).testBit j := by
  rw [laneN_bitLanes m rotN a b hi, Nat.mod_eq_of_lt (show rotN _ _ _ < _ from Nat.mod_lt _ (Nat.two_pow_pos _)), testBit_rotN _ (laneN_lt ..) hj]

/-- A funnel shift takes its word from the two operands end to end. -/
theorem fshW_toNat (m : BitVec 4) (a b x : W32) : (fshW m a b x).toNat =
    if m.getLsbD 2 then (a.toNat * 2 ^ 32 + b.toNat) / 2 ^ (x.toNat % 32) % 2 ^ 32
    else (a.toNat * 2 ^ 32 + b.toNat) * 2 ^ (x.toNat % 32) / 2 ^ 32 % 2 ^ 32 := by
  have hw : (a ++ b).toNat = a.toNat * 2 ^ 32 + b.toNat := by
    rw [BitVec.toNat_append, ← Nat.shiftLeft_add_eq_or_of_lt b.isLt, Nat.shiftLeft_eq]
  rw [fshW]
  split
  · rw [BitVec.extractLsb'_toNat, BitVec.toNat_ushiftRight, hw, Nat.shiftRight_eq_div_pow, Nat.shiftRight_eq_div_pow, Nat.pow_zero, Nat.div_one]
  · rw [BitVec.extractLsb'_toNat, BitVec.toNat_shiftLeft, hw, Nat.shiftRight_eq_div_pow, Nat.shiftLeft_eq]
    omega

/-! ### Bit fields and the truth table (R214, R215) -/

/-- A field is the bits at its place, with its sign or zeros above them. -/
theorem bfxW_eq (m : BitVec 4) (a b : W32) :
    let p := b.toNat % 32
    let len := min (b.toNat / 256 % 64) 32
    bfxW m a b = if m.getLsbD 2 ∧ 0 < len then (a.extractLsb' p len).signExtend 32 else (a.extractLsb' p len).setWidth 32 := by
  intro p len
  have hf : a.toNat / 2 ^ p % 2 ^ len = (a.extractLsb' p len).toNat := by rw [BitVec.extractLsb'_toNat, Nat.shiftRight_eq_div_pow]
  rw [bfxW]
  split
  next h => rw [hf, signed_toNat h.2]; rfl
  next h => rw [hf]; exact BitVec.ofNat_toNat ..

theorem bfxW_bit (m : BitVec 4) (a b : W32) {j : Nat} (hj : j < 32) :
    let p := b.toNat % 32
    let len := min (b.toNat / 256 % 64) 32
    let field (j : Nat) : Bool := decide (j < len) && decide (p + j ≤ 31) && a.getLsbD (p + j)
    (bfxW m a b).getLsbD j = if m.getLsbD 2 ∧ 0 < len ∧ len ≤ j then field (len - 1) else field j := by
  intro p len field
  have hfield (j : Nat) : (a.extractLsb' p len).getLsbD j = field j := by
    rw [BitVec.getLsbD_extractLsb']
    by_cases hp : p + j ≤ 31
    · simp [field, hp]
    · simp only [field, hp, decide_false, Bool.and_false, BitVec.getLsbD_of_ge a (p + j) (by omega)]
  have hmsb : (a.extractLsb' p len).msb = field (len - 1) := (BitVec.msb_eq_getLsbD_last _).trans (hfield _)
  rw [bfxW_eq]
  by_cases hs : m.getLsbD 2 = true ∧ 0 < len
  · rw [if_pos hs, BitVec.getLsbD_signExtend, hmsb, hfield, decide_eq_true hj, Bool.true_and]
    by_cases hl : j < len
    · rw [if_pos hl, if_neg fun h => Nat.not_le.2 hl h.2.2]
    · rw [if_neg hl, if_pos ⟨hs.1, hs.2, Nat.not_lt.1 hl⟩]
  · rw [if_neg hs, BitVec.getLsbD_setWidth, hfield]
    simp only [hj, decide_true, Bool.true_and, ← and_assoc, hs, false_and, if_false]

/-- An inserted field replaces the bits at its place; the mask tells them. -/
theorem bfiW_bit (a b x : W32) {j : Nat} (hj : j < 32) :
    let p := b.toNat % 32
    let len := min (b.toNat / 256 % 64) 32
    (bfiW a b x).getLsbD j = if p ≤ j ∧ j < p + len then x.getLsbD (j - p) else a.getLsbD j := by
  intro p len
  have hmask : (BitVec.ofNat 32 ((2 ^ len - 1) * 2 ^ p)).getLsbD j = decide (p ≤ j ∧ j < p + len) := by
    rw [BitVec.getLsbD_ofNat, Nat.testBit_mul_two_pow, Nat.testBit_two_pow_sub_one, decide_eq_true hj, Bool.true_and,
      ← Bool.decide_and]
    exact decide_eq_decide.2 (by omega)
  have hshift : (x <<< p).getLsbD j = (!decide (j < p) && x.getLsbD (j - p)) := by rw [BitVec.getLsbD_shiftLeft, decide_eq_true hj, Bool.true_and]
  change ((a &&& ~~~BitVec.ofNat 32 ((2 ^ len - 1) * 2 ^ p)) ||| ((x <<< p) &&& BitVec.ofNat 32 ((2 ^ len - 1) * 2 ^ p))).getLsbD j = _
  rw [BitVec.getLsbD_or, BitVec.getLsbD_and, BitVec.getLsbD_not, BitVec.getLsbD_and, hshift, hmask]
  by_cases h : p ≤ j ∧ j < p + len
  · simp [h, Nat.not_lt.2 h.1]
  · simp [h, hj]

/-- Each bit is the truth table's at the place that the three operands' bits name. -/
theorem lop3W_bit (t a b x : W32) {j : Nat} (hj : j < 32) :
    (lop3W t a b x).getLsbD j = t.getLsbD ((a.getLsbD j).toNat + 2 * (b.getLsbD j).toNat + 4 * (x.getLsbD j).toNat) := by
  have hlane : laneN (lop3W t a b x) 1 j = laneN t 1 (laneN a 1 j + 2 * laneN b 1 j + 4 * laneN x 1 j) % 2 ^ 1 :=
    (laneN_mapLanes (n := 1) _ rfl hj).trans (by rw [laneN_one t])
  rw [getLsbD_eq_lane, hlane, getLsbD_eq_lane t, Nat.mod_eq_of_lt (laneN_lt ..), laneN_one_eq_toNat_getLsbD a,
    laneN_one_eq_toNat_getLsbD b, laneN_one_eq_toNat_getLsbD x]

/-! ### The obligation -/

section
variable {s : State} {op : SlotOp} {f : Slot} {o : Opn} {ps : List (BitVec 2)} {lat : Nat} {p : W32 → Prop}

/-- An instruction with one result yields what holds of that result. -/
theorem State.yields_of_intResult {y : W32} (hf : s.Fires op f o ps) (h : intResult f o op = some (lat, y)) (hy : p y) : s.Yields op f o ps lat p :=
  ⟨y, (computes_of_intResult h).exec_eq hf (result_popped y), hy⟩
theorem State.yields_of_bitResult {y : W32} (hf : s.Fires op f o ps) (h : bitResult f (s.creg f.cidx) o op = some (lat, y)) (hy : p y) :
    s.Yields op f o ps lat p :=
  ⟨y, (computes_of_bitResult h).exec_eq hf (result_popped y), hy⟩

theorem exec_of_pairResult {v : W32 × W32} (hf : s.Fires op f o ps) (h : pairResult f o op = some (lat, v)) :
    exec (op.mk f) s = .next (s.gives f o (s.popped op f o ps) lat (s.results v)) :=
  (computes_of_pairResult h).exec_eq hf (results_popped v)
end

/-- Settles O2, result by result. -/
theorem wordResultsAreExact : Obligations.WordResultsAreExact := by
  unfold Obligations.WordResultsAreExact
  intro s op f o ps hf n A B hi lo q lane slane p len field
  have hslane (v : W32) (i : Nat) : slane v i = signed n (laneN v n i) := by
    have hpow : ((2 ^ n : Nat) : Int) = 2 ^ n := Int.natCast_pow 2 n
    rw [signed, hpow]
    rfl
  refine ⟨?carry, ?bperm, ?div, ?rem, ?shl, ?shr, ?rot, ?fsh, ?bfx, ?bfi, ?lop3⟩
  case carry =>
    rintro (rfl | rfl)
    · exact ⟨_, _, exec_of_pairResult hf rfl, fun _ => ⟨addcW_sum .., rfl⟩, nofun⟩
    · exact ⟨_, _, exec_of_pairResult hf rfl, nofun, fun _ => ⟨subbW_difference .., subbW_borrow ..⟩⟩
  case bperm =>
    rintro rfl
    exact State.yields_of_intResult hf rfl fun i hi => bpermW_byte o.a o.b hi
  case div =>
    rintro rfl
    exact State.yields_of_intResult hf rfl (divW_quotient f.mod o.a o.b)
  case rem =>
    rintro rfl
    exact State.yields_of_intResult hf rfl (divW_remainder f.mod o.a o.b)
  case shl =>
    rintro rfl
    exact State.yields_of_bitResult hf rfl fun i hi => shl_lane f.mod o.a o.b hi
  case shr =>
    rintro rfl
    refine State.yields_of_bitResult hf rfl fun i hi => ⟨fun hlogical => ?_, fun harith => ?_⟩
    · rw [if_neg (Bool.eq_false_iff.1 hlogical)]
      exact shr_lane f.mod o.a o.b hi
    · rw [if_pos harith, hslane, hslane]
      exact (sar_lane f.mod o.a o.b hi).trans (congrArg (signed n (laneN o.a n i) / ·) (Int.natCast_pow 2 _))
  case rot =>
    rintro rfl
    exact State.yields_of_bitResult hf rfl fun i hi j hj => rot_lane f.mod o.a o.b hi hj
  case fsh =>
    rintro rfl
    exact State.yields_of_bitResult hf rfl (fshW_toNat f.mod o.a o.b o.x)
  case bfx =>
    rintro rfl
    exact State.yields_of_bitResult hf rfl fun j hj => bfxW_bit f.mod o.a o.b hj
  case bfi =>
    rintro rfl
    exact State.yields_of_bitResult hf rfl fun j hj => bfiW_bit o.a o.b o.x hj
  case lop3 =>
    rintro rfl
    exact State.yields_of_bitResult hf rfl fun j hj => lop3W_bit (s.creg f.cidx) o.a o.b o.x hj

end Sys2Proof.Machine
end

section
/-! CERTIFICATE. Bank accesses, lanes and stream ports (R264 to R268). -/
namespace Sys2Proof.Machine
open Sys2Proof

section
variable {s : State} {op : SlotOp} {f : Slot} {o : Opn} {ps : List (BitVec 2)}

/-! ### A firing within the window -/

/-- A slot that reaches nothing beyond the window takes the effect that its body gives for the state of the pops, tainted or not. -/
theorem slotExec_within {body : Opn → State → Fired} {u : State} {lat : Nat} {outs : List Out} (hf : s.Fires op f o ps)
    (hin : slotExternal op = false) (hbody : body o (s.popped op f o ps) = { st := u, outs := outs, lat := lat }) :
    slotExec op f s body = .next (s.gives f o u lat outs) :=
  slotExec_fires hf body _ hbody rfl (by simp [hin])

@[simp] theorem elRank_popped (el : Nat) : (s.popped op f o ps).elRank el = s.elRank el :=
  congrArg (16 + ·) (elOrd_popped s op f o ps el)

/-! ### Bank accesses (R264) -/

/-- An aligned word of the region's allotment is accessed under the next number, and meets no fault condition. -/
theorem bankFired_popped (kind : AKind) (data : List Byte) (hlt : o.a.toNat + o.b.toNat < 2 ^ 26) (halign : (o.a.toNat + o.b.toNat) % 4 = 0)
    (hallot : (s.region s.act.rg).allots (ringOf (stOf s.act.el)) (o.a.toNat + o.b.toNat) 4 = true) :
    let t := s.popped op f o ps
    let addr := o.a.toNat + o.b.toNat
    bankFired op f o t kind data = { st := ((t.setAcc s.fl.next
      { rg := s.act.rg, kind := kind, pa := ringPA (ringOf (stOf s.act.el)) addr, data := data, ret := t.retQ op f o, fired := s.cyc,
        minAt := bankMin s.act.el addr s.cyc }).reserve s.fl.next (t.tgts f)).bump } := by
  have hgood : ¬(o.a.toNat + o.b.toNat ≥ 2 ^ 26 ∨ (o.a.toNat + o.b.toNat) % 4 ≠ 0) := by omega
  simp only [bankFired, popped_act, popped_cyc, popped_next, region_popped, if_neg hgood, hallot]
  rfl

/-! ### Lanes (R265, R266) -/

theorem exec_lnsend (hf : s.Fires .lnsend f o ps) :
    let tok : Token := { dataTok o.a s.seqOf with et := o.taint }
    exec (.lnsend f) s = .next (s.gives f o ((s.popped .lnsend f o ps).addEmit
      { due := s.cyc, ord := s.elRank s.act.el, src := s.act.el, dst := .lane (stOf s.act.el) (laneOf f), f := s.cyc, tok := tok }) 1
      [{ tok := tok }]) :=
  slotExec_within hf rfl (by simp)

/-- With `.take` the lane's token counts as taken; else it stands as it did. -/
theorem exec_lntap {tok : Token} {taken : Bool} (hf : s.Fires .lntap f o ps) (hlive : s.act.squash = false)
    (hlane : (s.stripe (stOf s.act.el)).lanes.get none (laneOf f).toNat = some (tok, taken)) :
    let p := s.stripe (stOf s.act.el)
    exec (.lntap f) s = .next (s.gives f o ((s.popped .lntap f o ps).setStripe (stOf s.act.el)
      { p with lanes := p.lanes.put none (laneOf f).toNat (some (tok, f.mod.getLsbD 1 || taken)) }) 1 [{ tok := tok }]) := by
  refine slotExec_within hf rfl ?_
  simp only [popped_act, stripe_popped, hlive, hlane]
  cases f.mod.getLsbD 1 <;> rfl

/-! ### Stream ports (R267, R268) -/

theorem exec_spop {tok : Token} (hf : s.Fires .spop f o ps) (hhead : o.lt = some tok) :
    let p := s.port (s.portOf f.mod)
    exec (.spop f) s = .next (s.gives f o ((s.popped .spop f o ps).setPort (s.portOf f.mod) { p with fifo := p.fifo.tail }) 1 [{ tok := tok }]) :=
  slotExec_within hf rfl (by simp [hhead])

theorem exec_spush (hf : s.Fires .spush f o ps) (hlive : s.act.squash = false) :
    let tok := match o.lt with | some x => x | none => dataTok o.a s.seqOf
    exec (.spush f) s = .next (s.gives f o ((s.popped .spush f o ps).addEmit
      { due := s.cyc, ord := s.elRank s.act.el, src := s.act.el, dst := .port (s.portOf f.mod), f := s.cyc,
        tok := { tok with et := tok.et || o.taint } }) 1 []) :=
  slotExec_within hf rfl (by simp only [popped_act, hlive, popped_cyc, elRank_popped, portOf_popped, seqOf_popped]; rfl)
end

/-! ### The obligation -/

/-- Settles O6: the two bank accesses by `bankFired_popped`, then lanes and ports instruction by instruction. -/
theorem bankLaneAndPortSlots : Obligations.BankLaneAndPortSlots := by
  unfold Obligations.BankLaneAndPortSlots
  intro s f o ps t el addr n
  refine ⟨fun hf hplain hring hlt halign hallot => slotExec_plain hf hplain ?ldb, fun hf hplain hlt halign hallot => slotExec_plain hf hplain ?stb,
    exec_lnsend, fun _ _ hf hlive hlane => exec_lntap hf hlive hlane, fun _ hf hhead => exec_spop hf hhead, exec_spush⟩
  case ldb =>
    have hnotBase : ¬baseRing ≤ ringOf (stOf s.act.el) := Nat.not_le.2 hring
    simp only [slotQuiet_plain hplain, popped_act, hnotBase, if_false]
    exact bankFired_popped (.load false) [] hlt halign hallot
  case stb =>
    simp only [slotQuiet_plain hplain]
    exact bankFired_popped (.store true) (wordBytes o.x) hlt halign hallot

end Sys2Proof.Machine
end

section
/-! CERTIFICATE. Counters, caches, message words and control registers: slots whose effect takes no waiting (R282, R283, R285, R287 to R289). -/
namespace Sys2Proof.Machine
open Sys2Proof

section
variable {s : State} {op : SlotOp} {f : Slot} {o : Opn} {ps : List (BitVec 2)}

theorem seqOf_flushLayout (t : State) (pk : Nat) (asid : BitVec 12) (va : Nat) : (t.flushLayout pk asid va).seqOf = t.seqOf := rfl

theorem seqOf_addEmit (t : State) (e : Emit) : (t.addEmit e).seqOf = t.seqOf := by
  rw [State.addEmit]
  split <;> rfl

/-! ### Reads (R287, R288) -/

theorem exec_rdin (hf : s.Fires .rdin f o ps) :
    exec (.rdin f) s = .next (s.gives f o (s.popped .rdin f o ps) 2
      (s.result (field (s.instatAt (elPk s.act.el)) (if f.mod = 0 then 0 else 32) 32))) :=
  slotExec_within hf rfl (by simp only [seqOf_popped]; rfl)

/-- A register other than CYCLO is only read. -/
theorem exec_rdcr {v : W32} (hf : s.Fires .rdcr f o ps) (hread : (s.popped .rdcr f o ps).crRead o.a.toNat = some v) (hother : o.a ≠ 0) :
    exec (.rdcr f) s = .next (s.gives f o (s.popped .rdcr f o ps) 2 (s.result v)) :=
  slotExec_within hf rfl (by simp only [hread, if_neg hother, seqOf_popped]; rfl)

/-- A read of CYCLO latches the high half of the clock in CYCHI. -/
theorem exec_rdcr_cyclo (hf : s.Fires .rdcr f o ps) (hzero : o.a = 0) :
    let t := s.popped .rdcr f o ps
    let pk := elPk s.act.el
    exec (.rdcr f) s = .next (s.gives f o (t.setElem s.act.el { t.elem s.act.el with cychi := BitVec.ofNat 32 (s.clock pk / 2 ^ 32) }) 2
      (s.result (BitVec.ofNat 32 (s.clock pk)))) := by
  have hread : (s.popped .rdcr f o ps).crRead o.a.toNat = some (BitVec.ofNat 32 (s.clock (elPk s.act.el))) := by
    simp [State.crRead, hzero]
  refine slotExec_within hf rfl ?_
  simp only [hread, if_pos hzero, popped_act, clock_popped]
  rw [State.result, ← seqOf_popped s .rdcr f o ps]
  rfl

variable (hplain : s.Plain o)
include hplain

/-! ### Layout records, sector counters and message words (R282, R283, R285) -/

theorem exec_lrflush (hf : s.Fires .lrflush f o ps) (halign : o.a.toNat % 64 = 0) (hsingle : s.redundant = false) :
    exec (.lrflush f) s = .next (s.gives f o ((s.popped .lrflush f o ps).flushLayout (elPk s.act.el) (s.fig (figOf s.act.rg)).asid
      ((o.b ++ o.a : W64).toNat % 2 ^ 57)) 2 [{ tok := doneTok s.seqOf }]) :=
  slotExec_plain hf hplain (by simp [slotQuiet_plain hplain, halign, hsingle, doneAfter, seqOf_flushLayout])

theorem exec_secwSet (hf : s.Fires .secwSet f o ps) (hlt : o.a.toNat < 4096) (hsingle : s.redundant = false) :
    exec (.secwSet f) s = .next (s.gives f o { s.popped .secwSet f o ps with secs := s.secs.put 0 (elPk s.act.el * 4096 + o.a.toNat) o.b } 2
      [{ tok := doneTok s.seqOf }]) :=
  slotExec_plain hf hplain (by simp [slotQuiet_plain hplain, hlt, hsingle, doneAfter, State.seqOf])

theorem exec_mword (hf : s.Fires .mword f o ps) :
    let t := s.popped .mword f o ps
    exec (.mword f) s = .next (s.gives f o (t.setElem s.act.el
      { t.elem s.act.el with msg := (t.elem s.act.el).msg.put 0 f.mod.toNat o.a }) 1 []) :=
  slotExec_plain hf hplain (by simp [hplain.2])

/-! ### Control registers and event masks (R288, R289) -/

/-- A write reaches its register two cycles after the firing. -/
theorem exec_wrcr (hf : s.Fires .wrcr f o ps) (hreg : ((s.popped .wrcr f o ps).crRead o.a.toNat).isSome) (hwritable : 4 < o.a.toNat)
    (hbrken : o.a = 8 → o.b.toNat < 2) :
    exec (.wrcr f) s = .next (s.gives f o ((s.popped .wrcr f o ps).addEmit
      { due := s.cyc + 1, ord := s.elRank s.act.el, src := s.act.el, dst := .cr s.act.rg (field o.a 0 12), f := s.cyc, tok := dataTok o.b 0 }) 2
      [{ tok := doneTok s.seqOf }]) := by
  have hnamed : ¬(((s.popped .wrcr f o ps).crRead o.a.toNat).isNone ∨ o.a.toNat ≤ 4) :=
    not_or.2 ⟨by simpa [Option.isSome_iff_ne_none] using hreg, Nat.not_le.2 hwritable⟩
  have hvalue : ¬(o.a = 8 ∧ o.b.toNat ≥ 2) := fun ⟨hbrk, hbad⟩ => Nat.not_le.2 (hbrken hbrk) hbad
  refine slotExec_plain hf hplain ?_
  simp only [slotQuiet_plain hplain, if_neg hnamed, if_neg hvalue, doneAfter, popped_act, popped_cyc, elRank_popped, seqOf_addEmit, seqOf_popped]
  rfl

/-- The new mask holds from the next cycle; the old one leaves at once. -/
theorem exec_evc (hf : s.Fires .evc f o ps) :
    let t := s.popped .evc f o ps
    let old := (t.elem s.act.el).evmask
    let v : BitVec 16 := field o.a 0 16
    exec (.evc f) s = .next (s.gives f o (t.addEmit
      { due := s.cyc, ord := s.elRank s.act.el, src := s.act.el, dst := .evmask s.act.el, f := s.cyc,
        tok := dataTok ((if f.mod = 0 then old ||| v else if f.mod = 1 then old &&& ~~~v else v).zeroExtend 32) 0 }) 1
      (s.result (old.zeroExtend 32))) := by
  refine slotExec_plain hf hplain ?_
  simp only [slotQuiet_plain hplain, popped_act, popped_cyc, elRank_popped, seqOf_popped]
  rfl
end

/-! ### The obligation -/

/-- Settles O10, instruction by instruction. -/
theorem registerSlotsReadAndWrite : Obligations.RegisterSlotsReadAndWrite := by
  unfold Obligations.RegisterSlotsReadAndWrite
  intro s f o ps t el done hplain
  exact ⟨exec_lrflush hplain, exec_secwSet hplain, exec_mword hplain, exec_rdin, fun _ => exec_rdcr, exec_rdcr_cyclo,
    exec_wrcr hplain, exec_evc hplain⟩

end Sys2Proof.Machine
end

section
/-! CERTIFICATE. `trap`, `brk` and `halt` stop their region (R290, R291, R457). -/
namespace Sys2Proof.Machine
open Sys2Proof

/-! ### A fault condition at a slot (R395, R404) -/

/-- The region fires nothing after the first cycle that stopped it. -/
theorem stop_slotFault (s : State) (code : BitVec 16) (tier : BitVec 4) (d : W32) :
    ((s.slotFault code tier d).region s.act.rg).stop = some ((s.region s.act.rg).stop.getD s.cyc) := by
  simp [State.slotFault]

/-- One record more waits for the fault handler: it names the Figure and the condition, and has the detail where the code has one. -/
theorem det_slotFault (s : State) (code : BitVec 16) (tier : BitVec 4) (d : W32) :
    ∃ x : Detected, (s.slotFault code tier d).det = s.det ++ [x] ∧ x.own = .figure (figOf s.act.rg) ∧ x.info.fcode = code
      ∧ (namesDetail code → x.info.detail = d) :=
  ⟨_, rfl, rfl, rfl, fun h => if_pos h⟩

/-! ### A region that retires (R291) -/

/-- The region stops at once. Its exit word is the halt's, unless a halt of a higher element gave one. -/
theorem region_retireNow (s : State) (rg key : Nat) (w : W32) :
    let r := s.region rg
    let newer := r.exitWord.isNone || decide (r.exitOrd ≤ key)
    (s.retireNow rg key w).region rg = { r with
      stop := some (r.stop.getD s.cyc), exitWord := if newer then some w else r.exitWord, exitOrd := if newer then key else r.exitOrd } := by
  unfold State.retireNow
  dsimp only
  rw [apply_ite (State.region · rg), State.region_setFig, ite_self, State.region_setRegion, if_pos rfl]

section
variable {s : State} {f : Slot} {o : Opn} {ps : List (BitVec 2)} (hplain : s.Plain o)
include hplain

/-! ### The instructions -/

theorem exec_trap (hf : s.Fires .trap f o ps) :
    exec (.trap f) s = .next (s.gives f o ((s.popped .trap f o ps).slotFault 0xD001 4 (o.a &&& 0xFFFF)) 1 []) :=
  slotExec_plain hf hplain (by simp [slotQuiet_plain hplain])

theorem exec_brk (hf : s.Fires .brk f o ps) (hon : (s.region s.act.rg).brken = true) :
    exec (.brk f) s = .next (s.gives f o ((s.popped .brk f o ps).slotFault 0xD002 4 0) 1 []) :=
  slotExec_plain hf hplain (by simp [slotQuiet_plain hplain, hon])

theorem exec_brk_off (hf : s.Fires .brk f o ps) (hoff : (s.region s.act.rg).brken = false) :
    exec (.brk f) s = .next (s.gives f o (s.popped .brk f o ps) 1 []) :=
  slotExec_plain hf hplain (by simp [hoff])

/-- In a Figure that does not run redundantly the region retires in the cycle of the halt. -/
theorem exec_halt (hf : s.Fires .halt f o ps) (hinsts : (s.fig (figOf s.act.rg)).insts ≤ 1) :
    exec (.halt f) s = .next (s.gives f o ((s.popped .halt f o ps).retireNow s.act.rg (1 + s.elOrd s.act.el) o.a) 1 []) :=
  slotExec_plain hf hplain (by simp [slotQuiet_plain hplain, State.retire, Nat.not_lt.2 hinsts])
end

/-! ### The obligation -/

/-- Settles O11: the debug conditions of `trap` and `brk`, what a fault condition at a slot leaves, and the exit word of `halt`. -/
theorem trapsAndHaltsStopTheirRegion : Obligations.TrapsAndHaltsStopTheirRegion := by
  unfold Obligations.TrapsAndHaltsStopTheirRegion
  intro s f o ps t r hplain
  refine ⟨exec_trap hplain, exec_brk hplain, exec_brk_off hplain, fun op code tier d => ?fault,
    fun hf hinsts => ⟨_, exec_halt hplain hf hinsts, ?halt⟩⟩
  case fault =>
    have hstop := stop_slotFault (t op) code tier d
    obtain ⟨x, hdet, hx⟩ := det_slotFault (t op) code tier d
    simp only [t, popped_act, region_popped, popped_cyc, popped_det] at hstop hdet hx
    exact ⟨hstop, by simp [t, hdet], x, by simp [t, hdet], hx⟩
  case halt => simp [region_retireNow, r]

end Sys2Proof.Machine
end

section
/-! CERTIFICATE. Matrix words: what each does at the element that runs it, and how its sequence advances (R299 to R306). -/
namespace Sys2Proof.Machine
open Sys2Proof

/-! ### Sequences (R299) -/

section
variable (r : MxPlane) (x : MxElem)

theorem mxNext_within (hpos : x.wpos ≠ 7) (hword : r.words.get 0 (x.wpos.toNat + 1) ≠ 0) :
    mxNext r x = { x with vec := 0, drained := 0, saV := false, wpos := x.wpos + 1 } :=
  if_neg (not_or.2 ⟨hpos, hword⟩)

theorem mxNext_last (h : x.wpos = 7 ∨ r.words.get 0 (x.wpos.toNat + 1) = 0) :
    mxNext r x = { x with vec := 0, drained := 0, saV := false, wpos := 0, tcnt := x.tcnt - 1 } :=
  if_pos h

/-- Going on changes the element's place in its sequence and nothing that it computes with. -/
theorem mxNext_eq : ∃ wpos tcnt, mxNext r x = { x with vec := 0, drained := 0, saV := false, wpos := wpos, tcnt := tcnt } := by
  by_cases hlast : x.wpos = 7 ∨ r.words.get 0 (x.wpos.toNat + 1) = 0
  · exact ⟨_, _, mxNext_last r x hlast⟩
  · exact ⟨_, _, mxNext_within r x (fun h => hlast (.inl h)) fun h => hlast (.inr h)⟩

@[simp] theorem mxNext_vec : (mxNext r x).vec = 0 := by obtain ⟨_, _, h⟩ := mxNext_eq r x; rw [h]
@[simp] theorem mxNext_acc : (mxNext r x).acc = x.acc := by obtain ⟨_, _, h⟩ := mxNext_eq r x; rw [h]
@[simp] theorem mxNext_wb : (mxNext r x).wb = x.wb := by obtain ⟨_, _, h⟩ := mxNext_eq r x; rw [h]
@[simp] theorem mxNext_opq : (mxNext r x).opq = x.opq := by obtain ⟨_, _, h⟩ := mxNext_eq r x; rw [h]
end

theorem mx_mxDone (s : State) (el : Nat) (x : MxElem) : (mxDone s el x).mx el = mxNext (s.mxRec el) x := by
  rw [mxDone, State.mx_setMx, if_pos rfl]

/-! ### The head of the operand input (R298, R302) -/

/-- Nothing stands at the head that a word which takes no data would have to consume or report: data, a clean wavefront, or no token. -/
def OpqClear (q : List Token) : Prop := ∀ t ts, q = t :: ts → t.k = false ∨ (t.wave = true ∧ t.et = false)

theorem opqHead_data {t : Token} (hk : t.k = false) (ts : List Token) : opqHead (t :: ts) = .data t ts := if_pos hk

theorem opqHead_of_clear {q : List Token} (hclear : OpqClear q) : opqHead q = .empty ∨ opqHead q = .wave ∨ ∃ t ts, opqHead q = .data t ts := by
  match q with
  | [] => exact .inl rfl
  | t :: ts =>
    cases hk : t.k with
    | false => exact .inr (.inr ⟨t, ts, opqHead_data hk ts⟩)
    | true =>
      obtain ⟨hwave, het⟩ := (hclear t ts rfl).resolve_left (by simp [hk])
      exact .inr (.inl (by simp [opqHead, hk, het, hwave]))

theorem opqHead_scale {t : Token} (hk : t.k = true) (het : t.et = false) (hsub : t.sub = 3) (ts : List Token) :
    opqHead (t :: ts) = .scale t ts := by
  simp [opqHead, hk, het, hsub, Token.wave]

section
variable {s : State} {el : Nat}

theorem mxHead_of_clear (hclear : OpqClear (s.mx el).opq) (go : State) : mxHead s el go = go := by
  obtain h | h | ⟨_, _, h⟩ := opqHead_of_clear hclear <;> simp only [mxHead, h]

theorem mxHead_of_scale {t : Token} {ts : List Token} (hq : (s.mx el).opq = t :: ts) (hk : t.k = true) (het : t.et = false) (hsub : t.sub = 3)
    (go : State) : mxHead s el go = s.setMx el { s.mx el with opq := ts, lsa := t.payload } := by
  simp only [mxHead, hq, opqHead_scale hk het hsub]
end

/-! ### The elements that words leave behind -/

/-- The element has taken weight token `t` of its block (R302). -/
def MxElem.loaded (x : MxElem) (w : MWord) (tr : Bool) (t : Token) (ts : List Token) : MxElem :=
  { x with opq := ts, wb := wbPut w.fmt.toNat x.vec tr t.payload x.wb, vec := x.vec + 1, wTaint := if x.vec = 0 then t.et else x.wTaint || t.et }

/-- The 64th token ends the block. -/
theorem MxElem.loaded_last {x : MxElem} (hvec : x.vec = 63) (w : MWord) (tr : Bool) (t : Token) (ts : List Token) :
    x.loaded w tr t ts = { x with opq := ts, wb := wbPut w.fmt.toNat 63 tr t.payload x.wb, vec := 64, wTaint := x.wTaint || t.et } := by
  simp [MxElem.loaded, hvec]

/-- The element has stepped its accumulators by the vector `v` in cycle `cyc` (R303, R304, R311). -/
def MxElem.stepped (x : MxElem) (w : MWord) (cyc : Nat) (v rest : List Token) : MxElem :=
  { x.setPair (x.pair.vector w (v.map fun t => t.payload) x.wb x.lsa x.lsw) with
    opq := rest, afmt := field w.fmt 0 3, vec := x.vec + 1,
    ready := cyc + 1 + promos w.pi.toNat (if w.fmt = 5 then 2 else 1) x.step.toNat,
    aTaint := x.aTaint || x.wTaint || v.any fun t => t.et }

/-- The token of the next accumulator that a drain emits (R306). -/
def State.drainToken (s : State) (el : Nat) : Token :=
  let x := s.mx el
  { dataTok (x.acc.get 0 x.drained) (Config.freeSeq s.free) with rid := mxRid (s.mxRec el) x.wpos.toNat, et := x.aTaint }

/-- The next accumulator of a drain has left (R306). -/
def State.drained (s : State) (el : Nat) (w : MWord) : State :=
  { mxEmit s el (s.mxDest el w) (s.drainToken el) with free := s.free + 1 }

/-! ### The words -/

section
variable {s : State} {w : MWord} (hruns : s.mxRuns s.act.el = true)
include hruns

/-! #### Loads (R302) -/

theorem mxLoad_weight {t : Token} {ts : List Token} (tr : Bool) (hq : (s.mx s.act.el).opq = t :: ts) (hk : t.k = false)
    (hvec : (s.mx s.act.el).vec < 64) :
    mxLoad tr w s = (let y := (s.mx s.act.el).loaded w tr t ts
      if y.vec = 64 ∧ w.scsw ≠ 1 then mxDone s s.act.el y else s.setMx s.act.el y) := by
  simp only [mxLoad, if_pos hruns, hq, opqHead_data hk, if_pos hvec]
  rfl

theorem mxLoad_weight_more {t : Token} {ts : List Token} (tr : Bool) (hq : (s.mx s.act.el).opq = t :: ts) (hk : t.k = false)
    (hvec : (s.mx s.act.el).vec < 63) : mxLoad tr w s = s.setMx s.act.el ((s.mx s.act.el).loaded w tr t ts) := by
  rw [mxLoad_weight hruns tr hq hk (by omega)]
  exact if_neg fun h => absurd h.1 (by simp only [MxElem.loaded]; omega)

theorem mxLoad_weight_last {t : Token} {ts : List Token} (tr : Bool) (hq : (s.mx s.act.el).opq = t :: ts) (hk : t.k = false)
    (hvec : (s.mx s.act.el).vec = 63) (hscale : w.scsw ≠ 1) :
    mxLoad tr w s = mxDone s s.act.el ((s.mx s.act.el).loaded w tr t ts) := by
  rw [mxLoad_weight hruns tr hq hk (by omega)]
  exact if_pos ⟨by simp only [MxElem.loaded, hvec], hscale⟩

/-! #### `mzero`, chained words in a run, and `mpass` (R302, R306) -/

theorem exec_mzero : exec (.mzero w) s = .next (mxHead s s.act.el
    (mxDone s s.act.el { s.mx s.act.el with acc := [], p := [], step := 0, aTaint := false })) :=
  if_pos hruns

/-- A chained word in a run takes the scale headers; its vectors step with the run's beats. -/
theorem mxMul_run (hsys : (s.mxPlane s.act.el).sys = true) : mxMul w s = mxHead s s.act.el s := by
  simp [mxMul, hruns, hsys]

theorem exec_mpass_run (hsys : (s.mxPlane s.act.el).sys = true) : exec (.mpass w) s = .next (mxHead s s.act.el s) := by
  show execMpass w s = _
  simp [execMpass, hruns, hsys]

/-- `mpass` of a standalone element hands one data token on. -/
theorem exec_mpass_data {t : Token} {ts : List Token} (hsys : (s.mxPlane s.act.el).sys = false) (hq : (s.mx s.act.el).opq = t :: ts)
    (hk : t.k = false) (hroom : mxRoom s s.act.el (s.mxDest s.act.el w) = true) :
    let x := s.mx s.act.el
    let y : MxElem := { x with opq := ts, vec := x.vec + 1 }
    exec (.mpass w) s = .next (mxEmit
      (s.setMx s.act.el (if w.cnt ≠ 0 ∧ y.vec = 4 * w.cnt.toNat then mxNext (s.mxRec s.act.el) y else y)) s.act.el (s.mxDest s.act.el w)
      { t with rid := mxRid (s.mxRec s.act.el) x.wpos.toNat }) := by
  show execMpass w s = _
  simp [execMpass, hruns, hsys, hq, opqHead_data hk, hroom]

/-! #### Promotions and drains (R305, R306, R311) -/

section
variable (hready : (s.mx s.act.el).ready ≤ s.cyc)
include hready

theorem exec_mpromo : exec (.mpromo w) s = .next (mxHead s s.act.el (mxDone s s.act.el (mxPromote (s.mx s.act.el)))) :=
  if_pos (by simp [hruns, hready])

/-- The first step of a drain promotes. -/
theorem exec_mdrain_first (hvec : (s.mx s.act.el).vec = 0) : exec (.mdrain w) s = .next (mxHead s s.act.el
    (s.setMx s.act.el { mxPromote (s.mx s.act.el) with vec := 1, ready := s.cyc + 2 })) := by
  show execMdrain w s = _
  simp [execMdrain, hruns, hready, hvec]

/-- Every later step of a drain emits one accumulator; the sixteenth ends the word. -/
theorem exec_mdrain_next (hvec : (s.mx s.act.el).vec ≠ 0) (hroom : mxRoom s s.act.el (s.mxDest s.act.el w) = true) :
    exec (.mdrain w) s = .next (mxHead s s.act.el (if (s.mx s.act.el).drained = 15
      then mxDone (s.drained s.act.el w) s.act.el { s.mx s.act.el with acc := [], aTaint := false }
      else (s.drained s.act.el w).setMx s.act.el { s.mx s.act.el with drained := (s.mx s.act.el).drained + 1 })) := by
  show execMdrain w s = _
  simp [execMdrain, hruns, hready, hvec, hroom, State.drained, State.drainToken]

/-! #### Vectors (R302 to R304) -/

section
variable (hsys : (s.mxPlane s.act.el).sys = false)
include hsys

theorem mxMul_scale {t : Token} {ts : List Token} (hq : (s.mx s.act.el).opq = t :: ts) (hk : t.k = true) (het : t.et = false) (hsub : t.sub = 3) :
    mxMul w s = s.setMx s.act.el { s.mx s.act.el with opq := ts, lsa := t.payload } := by
  simp [mxMul, hruns, hsys, hready, hq, opqHead_scale hk het hsub]

/-- The FP32 scale token of a promotion group is taken before its first vector (R303). -/
theorem mxMul_scaleToken {t : Token} {ts : List Token} (hq : (s.mx s.act.el).opq = t :: ts) (hk : t.k = false)
    (hscale : w.scsa = 1) (hstep : (s.mx s.act.el).step = 0) (hsaV : (s.mx s.act.el).saV = false) :
    mxMul w s = s.setMx s.act.el { s.mx s.act.el with opq := ts, lsa := t.payload, saV := true, aTaint := (s.mx s.act.el).aTaint || t.et } := by
  simp [mxMul, hruns, hsys, hready, hq, opqHead_data hk, hscale, hstep, hsaV]

/-- Four data tokens at the head are one vector. -/
theorem mxMul_vector {a b c d : Token} {rest : List Token} (hq : (s.mx s.act.el).opq = a :: b :: c :: d :: rest)
    (hdata : ∀ t ∈ [a, b, c, d], t.k = false) (hscale : w.scsa ≠ 1 ∨ (s.mx s.act.el).step ≠ 0 ∨ (s.mx s.act.el).saV = true) :
    let y := (s.mx s.act.el).stepped w s.cyc [a, b, c, d] rest
    mxMul w s = s.setMx s.act.el (if w.cnt ≠ 0 ∧ y.vec = w.cnt.toNat then mxNext (s.mxRec s.act.el) y else y) := by
  have hnone : ¬(w.scsa = 1 ∧ (s.mx s.act.el).step = 0 ∧ (s.mx s.act.el).saV = false) := by
    rintro ⟨h1, h2, h3⟩
    simp [h1, h2, h3] at hscale
  obtain ⟨ha, hb, hc, hd⟩ : a.k = false ∧ b.k = false ∧ c.k = false ∧ d.k = false := by simpa using hdata
  have hheader : ¬([a, b, c, d].any fun t => t.k && decide (t.sub = 3)) = true := by simp [ha, hb, hc, hd]
  have hvector : ¬([a, b, c, d].length < 4 ∨ ([a, b, c, d].any fun t => t.k) = true) := by simp [ha, hb, hc, hd]
  have htake : (a :: b :: c :: d :: rest).take 4 = [a, b, c, d] := rfl
  dsimp only
  rw [apply_ite (s.setMx s.act.el)]
  simp only [mxMul, hruns, hsys, hready, hq, opqHead_data ha, htake, if_neg hnone, if_neg hheader, if_neg hvector, Bool.and_false,
    Bool.false_eq_true, if_false, decide_true, Bool.and_self, if_true]
  rfl
end
end
end

/-! ### The obligation -/

/-- Settles O30, word by word, and then the two ways in which a sequence goes on. -/
theorem matrixWordsRun : Obligations.MatrixWordsRun := by
  unfold Obligations.MatrixWordsRun
  refine ⟨?words, fun r x => ⟨fun hpos hword => ?within, fun hlast => ?last, mxNext_vec r x, mxNext_acc r x, mxNext_wb r x, mxNext_opq r x⟩⟩
  case within => simp [mxNext_within r x hpos hword]
  case last => simp [mxNext_last r x hlast]
  case words =>
    intro s w el x r clear hruns
    refine ⟨?load, ?loadLast, ?mzero, ?mpromo, ?header, ?vector, ?drainFirst, ?drainNext, ?mpass⟩
    case load =>
      intro t ts hq hk hvec y
      have hload (tr : Bool) := mxLoad_weight_more hruns (w := w) tr hq hk hvec
      exact ⟨congrArg _ (hload false), congrArg _ (hload true)⟩
    case loadLast =>
      intro t ts hq hk hvec hscale y
      have hload (tr : Bool) : mxLoad tr w s = s.setMx el (mxNext r (y tr)) := by
        rw [mxLoad_weight_last hruns tr hq hk hvec hscale, MxElem.loaded_last hvec]
        rfl
      exact ⟨congrArg _ (hload false), congrArg _ (hload true)⟩
    case mzero =>
      intro hclear
      rw [exec_mzero hruns, mxHead_of_clear hclear]
      rfl
    case mpromo =>
      intro hclear hready
      rw [exec_mpromo hruns hready, mxHead_of_clear hclear]
      rfl
    case header =>
      intro t ts hq hk het hsub hready u
      have hhead := mxHead_of_scale hq hk het hsub
      refine ⟨?zero, ?promo, fun hvec => ?drain, fun hsys => ?run, fun hsys => ?standalone⟩
      case zero => rw [exec_mzero hruns, hhead]
      case promo => rw [exec_mpromo hruns hready, hhead]
      case drain => rw [exec_mdrain_first hruns hready hvec, hhead]
      case run =>
        have hmul (v : MWord) : mxMul v s = u := (mxMul_run hruns hsys).trans (hhead s)
        exact ⟨congrArg _ (hmul _), congrArg _ (hmul w), by rw [exec_mpass_run hruns hsys, hhead]⟩
      case standalone =>
        have hmul (v : MWord) : mxMul v s = u := mxMul_scale hruns hready hsys hq hk het hsub
        exact ⟨congrArg _ (hmul _), congrArg _ (hmul w)⟩
    case vector =>
      intro hsys hready a b c d rest hq hdata pair step fin
      have hvec (v : MWord) := mxMul_vector (w := v) hruns hready hsys hq hdata
      exact ⟨congrArg _ (hvec _ (.inl (by simp))), fun hscale => congrArg _ (hvec w hscale), fun hscale hstep hsaV =>
        congrArg _ (mxMul_scaleToken hruns hready hsys hq (hdata a List.mem_cons_self) hscale hstep hsaV)⟩
    case drainFirst =>
      intro hclear hvec hready
      rw [exec_mdrain_first hruns hready hvec, mxHead_of_clear hclear]
    case drainNext =>
      intro hclear hvec hready hroom t u
      have hnext := exec_mdrain_next hruns hready hvec hroom
      rw [mxHead_of_clear hclear] at hnext
      refine ⟨fun hmore => ?_, fun hlast => ?_⟩
      · rw [hnext, if_neg hmore]
        rfl
      · rw [hnext, if_pos hlast]
        exact ⟨_, rfl, (congrArg MxElem.acc (mx_mxDone ..)).trans (mxNext_acc ..), rfl⟩
    case mpass => exact fun hsys t ts hq hk hroom => exec_mpass_data hruns hsys hq hk hroom

end Sys2Proof.Machine
end

section
/-! CERTIFICATE. One beat of a systolic run (R307, R308). -/
namespace Sys2Proof.Machine
open Sys2Proof

/-! ### What `mx0` of each stripe offers -/

/-- The offer of a vector that stands whole at an operand input. -/
def VecRes.offer : VecRes → Option Offer
  | .ok lsa sa tn vec _ => some { lsa := lsa, sa := sa, taint := tn, vec := vec }
  | _ => none

theorem VecRes.offer_isSome {v : VecRes} (h : ∃ lsa sa tn vec rest, v = .ok lsa sa tn vec rest) : v.offer.isSome = true := by
  obtain ⟨_, _, _, _, _, rfl⟩ := h
  rfl

/-- Where every vector stands whole, the offer of stripe `i` is the first one listed for it. -/
theorem findSome?_offer {l : List (Nat × VecRes)} (hok : ∀ o ∈ l, o.2.offer.isSome = true) (i : Nat) :
    l.findSome? (fun o => if o.1 = i then o.2.offer else none) = (l.find? fun o => decide (o.1 = i)).bind fun o => o.2.offer := by
  induction l with
  | nil => rfl
  | cons o l ih =>
    obtain ⟨ho, hl⟩ := List.forall_mem_cons.1 hok
    obtain ⟨x, hx⟩ := Option.isSome_iff_exists.1 ho
    by_cases hi : o.1 = i
    · simp [hi, hx]
    · simp [hi, ih hl]

/-- An element that has the run's word, where it stands at it, does not hold the run. -/
theorem stands_of_inRun {s : State} {el w : Nat} {p : BitVec 3} (h : s.inRun el w = true → (s.runWord el).isSome = true ∧ (s.mx el).wpos = p) :
    (s.inRun el w && !((s.runWord el).isSome && decide ((s.mx el).wpos = p))) = false := by
  cases hin : s.inRun el w with
  | false => rfl
  | true =>
    obtain ⟨hword, hpos⟩ := h hin
    simp [hword, hpos]

/-! ### Folds over the elements of a run -/

/-- A step taken once at each of several places leaves each of them as its own step does. -/
theorem foldl_sets {σ α ι β : Type} (p : σ → ι → β) (f : σ → α → σ) (g : α → ι) (v : α → β) (hset : ∀ u a, p (f u a) (g a) = v a)
    (hkeep : ∀ u a i, i ≠ g a → p (f u a) i = p u i) {l : List α} (hinj : ∀ a ∈ l, ∀ b ∈ l, g a = g b → a = b) {a : α} (ha : a ∈ l) (s : σ) :
    p (l.foldl f s) (g a) = v a := by
  induction l generalizing s with
  | nil => exact absurd ha List.not_mem_nil
  | cons b l ih =>
    rw [List.foldl_cons]
    by_cases hl : a ∈ l
    · exact ih (fun x hx y hy => hinj x (.tail _ hx) y (.tail _ hy)) hl _
    · obtain rfl := (List.mem_cons.1 ha).resolve_right hl
      rw [foldl_keeps_of_mem (fun u => p u (g a)) f l _ fun u c hc => hkeep u c _ fun h => ?other, hset]
      case other => exact hl (hinj a ha c (.tail _ hc) h ▸ hc)

theorem State.pipe_setMx (s : State) (el : Nat) (x : MxElem) (n : Nat) :
    ((s.setMx el x).mx n).pipe = if el = n then x.pipe else (s.mx n).pipe := by
  rw [State.mx_setMx, apply_ite MxElem.pipe]

/-- A change of an element that keeps its stage of the run keeps every stage. -/
theorem State.pipe_setMx_of_eq {s : State} {el : Nat} {x : MxElem} (h : x.pipe = (s.mx el).pipe) (n : Nat) :
    ((s.setMx el x).mx n).pipe = (s.mx n).pipe := by
  rw [State.pipe_setMx]
  split
  next heq => rw [h, heq]
  next => rfl

/-! ### The obligation -/

/-- Settles O31: nothing holds the beat (no late element, missing vector, drain or last beat), so every element takes its stage. -/
theorem systolicRunsBeat : Obligations.SystolicRunsBeat := by
  unfold Obligations.SystolicRunsBeat
  intro s rg ws op w r first rows e00 b n all hword hcnt hrows hfires hready hrun hstand hoffers houts hend
  show ∃ t, execSystolicBeat rg ws s = _ ∧ _
  unfold execSystolicBeat
  extract_lets rs _ _ x00 _ late _ last drains _ wants
  have hstands : ∀ ij ∈ all, late (runEl r first ij.1 ij.2) = false := fun ij hij => stands_of_inRun (hstand ij hij)
  have hguard : ¬((!r.fires s.cyc || decide (rows = 0) || decide (s.cyc < x00.ready) ||
      !rs.all fun i => s.inRun (runEl r first i 0) x00.wpos.toNat) || all.any fun ij => late (runEl r first ij.1 ij.2)) = true := by
    simpa [hfires, hrows, hready, rs, x00] using And.intro hrun fun i j => hstands (i, j)
  have hdrains : drains = [] := List.filterMap_eq_nil_iff.2 fun j hj => by
    simp only [last, houts j (List.mem_range.1 hj)]
  have hwants : wants = [] := by simp [wants, hdrains]
  simp -zeta only [hword]
  rw [if_neg hguard]
  -- a counted word gives the vectors' number, and the list of offers is the statement's
  extract_lets n0 offers _ ends _ copies filled offer pipes s1 s2 s3
  have hn0 : n0 = some n := if_pos hcnt
  have hlist : offers = runOffers s r first rows b n := by
    simp only [offers, hn0]
    rfl
  clear_value offers n0
  subst hlist hn0
  have hends : ends = false := decide_eq_false fun h => hend h.2
  have hcopies : copies = [] := if_neg (by rw [hends]; exact Bool.false_ne_true)
  have hfilled : filled = true := by simp only [filled, hends, Bool.not_false, Bool.true_or]
  have hfits : s.fits (wants ++ copies) [] = true := by rw [hwants, hcopies]; rfl
  have hs3 : s3 = s2 := by simp only [s3, hdrains, List.foldl_nil]
  rw [List.find?_eq_none.2 fun o ho => by obtain ⟨_, _, _, _, _, h⟩ := hoffers o ho; simp [h]]
  dsimp -zeta only
  rw [if_neg ?whole, if_neg (by simp [hfits, hfilled]), if_neg (by rw [hends]; exact Bool.false_ne_true)]
  case whole =>
    rw [List.any_eq_true]
    rintro ⟨o, ho, hwait⟩
    obtain ⟨_, _, _, _, _, h⟩ := hoffers o ho
    simp [h] at hwait
  refine ⟨_, rfl, ?beat, ?ready, fun hinj ij hij => ?pipe⟩
  case beat => rw [State.mx_setMx, if_pos rfl]
  case ready => rw [State.mx_setMx, if_pos rfl]
  case pipe =>
    have hoffer : offer ij.1 = ((runOffers s r first rows b n).find? fun o => decide (o.1 = ij.1)).bind fun o => o.2.offer := by
      simp only [offer]
      cases (runOffers s r first rows b n).find? fun o => decide (o.1 = ij.1) with
      | none => rfl
      | some o =>
        obtain ⟨i, v⟩ := o
        cases v <;> rfl
    have hkept : (s2.mx (runEl r first ij.1 ij.2)).pipe = (s1.mx (runEl r first ij.1 ij.2)).pipe :=
      foldl_keeps (fun u : State => (u.mx (runEl r first ij.1 ij.2)).pipe) _ _ s1 fun u o => by
        split
        · exact State.pipe_setMx_of_eq (by rfl) _
        · rfl
    have hstep : (s1.mx (runEl r first ij.1 ij.2)).pipe = runStep s r first ij.1 ij.2 b n (offer ij.1) := by
      simp -zeta only [s1, pipes, List.foldl_map]
      refine foldl_sets (fun u el => (State.mx u el).pipe) _ (fun x : Nat × Nat => runEl r first x.1 x.2)
        (fun x => runStep s r first x.1 x.2 b n (offer x.1)) (fun u x => ?_) (fun u x el hne => ?_) hinj hij s
      · exact (State.pipe_setMx ..).trans (if_pos rfl)
      · exact (State.pipe_setMx ..).trans (if_neg hne.symm)
    -- what the statement looks for in the list is the model's offer
    rw [State.pipe_setMx_of_eq (by rfl), hs3, hkept, hstep, hoffer, ← findSome?_offer fun o ho => VecRes.offer_isSome (hoffers o ho)]
    congr 2
    funext o
    obtain ⟨i, v⟩ := o
    cases v <;> simp [VecRes.offer]

end Sys2Proof.Machine
end

section
/-! CERTIFICATE. Reel words that steer a section, its loops and its registers (R321, R322, R330). -/
namespace Sys2Proof.Machine
open Sys2Proof

/-! ### A fault condition of a word (R395) -/

/-- The record of a word's breach names the word, and its section stops. -/
theorem State.wordBreach_stops (s : State) (code : BitVec 16) (hnames : namesDetail code = true) :
    ((s.wordBreach code).region s.act.rg).reel.live = false ∧ ∃ d, (s.wordBreach code).det = s.det ++ [d] ∧ d.own = .figure (figOf s.act.rg)
      ∧ d.info.fcode = code ∧ d.info.point = 4 ∧ d.info.detail = (s.region s.act.rg).reel.rpc.zeroExtend 32 := by
  refine ⟨?_, _, rfl, rfl, rfl, rfl, if_pos hnames⟩
  rw [State.wordBreach, State.reelFault, State.region_detect, State.region_setRegion, if_pos rfl]

/-- A section that stands past its last word meets the breach of R330 when it moves. -/
theorem step_of_reel_past {s : State} {rg : Nat} (hwho : s.choose.1.who = .agent (.reel rg))
    (hpast : (s.atMove.region rg).reel.count ≤ (s.atMove.region rg).reel.rpc.toNat) (hruns : (s.atMove.atReel rg).reelRuns = true) :
    step s = .next ((s.atMove.atReel rg).wordBreach 0x7007) := by
  rw [step_of_agent hwho]
  simp only [State.fetch, if_pos hpast, Fetched.run, reelPast, if_pos hruns]

/-- A word that changes the section but not its place goes on at the word behind it. -/
theorem State.reelNext_setReel {s : State} {x : Reel} (h : x.rpc = s.reelRg.reel.rpc) :
    (s.setReel x).reelNext = (s.setReel x).reelTo (s.reelRg.reel.rpc + 1) 1 := by
  rw [State.reelNext, State.reelAt, State.setReel, State.setRegion_act, State.region_setRegion, if_pos rfl, h]

section
variable {s : State} (hruns : s.reelRuns = true)
include hruns

/-! ### Jumps and calls (R322, R330) -/

theorem exec_jmp (target : BitVec 16) : exec (.jmp target) s = .next (s.reelJump target) := reelWhen_of_runs hruns _

theorem exec_brp (line : BitVec 4) (sense : Bool) (target : BitVec 16) :
    exec (.brp line sense target) s = .next (if s.reelRg.pn.getLsbD line.toNat = sense then s.reelJump target else s.reelNext) :=
  reelWhen_of_runs hruns _

theorem exec_cmpj (c : BitVec 3) (u : Bool) (a b : BitVec 4) (target : BitVec 16) :
    exec (.cmpj c u a b target) s
      = .next (if cmp64 c u (s.reelRg.reel.sreg a) (s.reelRg.reel.sreg b) then s.reelJump target else s.reelNext) :=
  reelWhen_of_runs hruns _

theorem exec_call (target : BitVec 16) :
    let x := s.reelRg.reel
    exec (.call target) s = .next (if x.cstk.length < 8 ∧ target.toNat < x.count
      then (s.setReel { x with cstk := (x.rpc + 1) :: x.cstk }).reelTo target 2 else s.wordBreach 0x7007) := by
  intro x
  show execCall target s = _
  rw [execCall, reelWhen_of_runs hruns, ← ite_not]
  simp only [not_or, Nat.not_le, ge_iff_le, x]

theorem exec_ret {pc : BitVec 16} {cs : List (BitVec 16)} (hstack : s.reelRg.reel.cstk = pc :: cs) :
    exec .ret s = .next ((s.setReel { s.reelRg.reel with cstk := cs }).reelTo pc 2) := by
  show execRet s = _
  unfold execRet
  simp only [reelWhen_of_runs hruns, hstack]

theorem exec_ret_empty (hstack : s.reelRg.reel.cstk = []) : exec .ret s = .next (s.wordBreach 0x7007) := by
  show execRet s = _
  unfold execRet
  simp only [reelWhen_of_runs hruns, hstack]

/-! ### Loops (R330) -/

theorem exec_loop_skips {n : RegOr 32} (dist : BitVec 12) (hcount : field (s.reelRg.reel.val n) 0 32 = (0 : W32)) :
    exec (.loop n dist) s = .next (s.reelTo (s.reelRg.reel.rpc + dist.zeroExtend 16 + 1) 2) := by
  show execLoop n dist s = _
  rw [execLoop, reelWhen_of_runs hruns, if_pos hcount]

theorem exec_loop_enters {n : RegOr 32} (dist : BitVec 12) (hcount : field (s.reelRg.reel.val n) 0 32 ≠ (0 : W32)) :
    let x := s.reelRg.reel
    exec (.loop n dist) s = .next (if x.lstk.length < 4 then (s.setReel { x with lstk := (x.rpc + 1, field (x.val n) 0 32) :: x.lstk }).reelTo (x.rpc + 1) 1
      else s.wordBreach 0x7007) := by
  intro x
  show execLoop n dist s = _
  rw [execLoop, reelWhen_of_runs hruns, if_neg hcount, ← ite_not]
  simp only [Nat.not_le, ge_iff_le, x]
  rw [State.reelNext_setReel (by rfl)]

theorem exec_endl {start : BitVec 16} {c : W32} {fs : List (BitVec 16 × W32)} (hstack : s.reelRg.reel.lstk = (start, c) :: fs) :
    let x := s.reelRg.reel
    exec .endl s = .next (if c = 1 then (s.setReel { x with lstk := fs }).reelTo (x.rpc + 1) 1
      else (s.setReel { x with lstk := (start, c - 1) :: fs }).reelTo start 2) := by
  intro x
  show execEndl s = _
  unfold execEndl
  simp only [reelWhen_of_runs hruns, hstack, x]
  rw [State.reelNext_setReel (by rfl)]

theorem exec_endl_empty (hstack : s.reelRg.reel.lstk = []) : exec .endl s = .next (s.wordBreach 0x7007) := by
  show execEndl s = _
  unfold execEndl
  simp only [reelWhen_of_runs hruns, hstack]

/-! ### Reel registers (R322) -/

theorem exec_addi (a b : BitVec 4) (imm : BitVec 44) :
    exec (.addi a b imm) s = .next ((s.setReel (s.reelRg.reel.setS a (s.reelRg.reel.sreg b + imm.signExtend 64))).reelNext) :=
  reelWhen_of_runs hruns _

/-- The value that `movs` takes. -/
def Region.movValue (r : Region) : MovSrc → W64
  | .imm v => v.signExtend 64
  | .reg b => r.reel.sreg b
  | .n lc => (r.lcs.get {} lc.toNat).n
  | .usr i => (r.usr.get 0 i.toNat).zeroExtend 64

theorem exec_movs (a : BitVec 4) (src : MovSrc) :
    exec (.movs a src) s = .next ((s.setReel (s.reelRg.reel.setS a (s.reelRg.movValue src))).reelNext) := by
  show execMovs a src s = _
  unfold execMovs
  rw [reelWhen_of_runs hruns]
  cases src <;> rfl
end

/-! ### The obligation -/

/-- Settles O33: word by word, then what a breach leaves, and the section that stands past its last word. -/
theorem reelSequencing : Obligations.ReelSequencing := by
  unfold Obligations.ReelSequencing
  intro s r x put go breach jump
  refine ⟨fun hruns => ⟨exec_jmp hruns, exec_brp hruns, exec_cmpj hruns, exec_call hruns, fun pc cs => exec_ret hruns, exec_ret_empty hruns,
    fun n => exec_loop_skips hruns, fun n => exec_loop_enters hruns, fun start c fs => exec_endl hruns, exec_endl_empty hruns, exec_addi hruns,
    fun a v => exec_movs hruns a (.imm v), fun a b => exec_movs hruns a (.reg b), fun a lc => exec_movs hruns a (.n lc),
    fun a i => exec_movs hruns a (.usr i)⟩, s.wordBreach_stops 0x7007 rfl, ?past⟩
  case past =>
    rintro c rg t rfl rfl hwho hpast hruns
    exact step_of_reel_past hwho hpast hruns

end Sys2Proof.Machine
end

section
/-! CERTIFICATE. Reel words for planes, fills and swaps (R322 to R325). -/
namespace Sys2Proof.Machine
open Sys2Proof

theorem notScrolling_of_scroll {s : State} (h : s.reelRg.scroll ≠ none) (t : State) : notScrolling s t = s.wordBreach 0x7004 :=
  if_pos (Option.isSome_iff_ne_none.2 h)

theorem notScrolling_of_none {s : State} (h : s.reelRg.scroll = none) (t : State) : notScrolling s t = t :=
  if_neg fun hsome => Option.isSome_iff_ne_none.1 hsome h

section
variable {s : State} (hruns : s.reelRuns = true)
include hruns

/-! ### Planes and fills (R322, R323) -/

theorem exec_plane (sel : PlaneSel) :
    exec (.plane sel) s = .next ((s.setReel { s.reelRg.reel with
      pnx := match sel with | .direct p => p | .pred l p q => if s.reelRg.pn.getLsbD l.toNat then p else q }).reelNext) := by
  cases sel <;> exact reelWhen_of_runs hruns _

section
variable {p : BitVec 2} {img : RegOr 16} {ws : RegOr 7} {i w : Nat} (hi : (s.reelRg.reel.val img).toNat % 2 ^ 16 = i)
  (hw : (s.reelRg.reel.val ws).toNat % 128 = w) (hscroll : s.reelRg.scroll = none)
include hi hw hscroll

/-- A window stripe or an image that the region lacks is a breach. -/
theorem exec_stripe_breach (hout : s.reelRg.count ≤ w ∨ (s.fig (figOf s.act.rg)).nimg ≤ i) :
    exec (.stripe p img ws) s = .next (s.wordBreach 0x7001) := by
  subst hi hw
  show execStripe p img ws s = _
  rw [execStripe, if_neg (by simp [hscroll]), if_pos (by simpa [hruns] using hout)]

/-- The fill of a stripe and an image of the region waits for a place in the fill queue. -/
theorem exec_stripe (hws : w < s.reelRg.count) (himg : i < (s.fig (figOf s.act.rg)).nimg) :
    exec (.stripe p img ws) s = .next (if ((s.fillsOf s.act.rg).filter fun f => f.fq).length < 8
      then (s.queueFill s.act.rg (s.reelRg.stripeAt w) p i true false).reelNext else s) := by
  subst hi hw
  show execStripe p img ws s = _
  rw [execStripe, if_neg (by simp [hscroll]), if_neg (by simpa [hruns, hws] using himg), reelWhen, hruns]
  simp only [Bool.true_and, decide_eq_true_eq, apply_ite Host.Outcome.next]
end

/-! ### Swaps (R324, R325) -/

theorem exec_swapAll : exec .swapAll s = directSwap s (List.range s.reelRg.count) := if_pos hruns

theorem exec_swap {ws : BitVec 7} (h : ws.toNat < s.reelRg.count ∨ s.reelRg.scroll.isSome = true) :
    exec (.swap ws) s = directSwap s [ws.toNat] := by
  show execSwap ws s = _
  rw [execSwap, if_pos hruns, if_pos h]

omit hruns in
theorem directSwap_scrolling (h : s.reelRg.scroll ≠ none) (wss : List Nat) : directSwap s wss = .next (s.wordBreach 0x7004) :=
  if_pos (Option.isSome_iff_ne_none.2 h)

section
omit hruns
variable {wss : List Nat} (hscroll : s.reelRg.scroll = none) (hplaced : s.reelRg.placing = none)
  (hfilled : ∀ w ∈ wss, s.filling s.act.rg (s.reelRg.stripeAt w) s.reelRg.reel.pnx = false)
include hscroll hplaced hfilled

/-- A direct swap that waits for no placement and no fill: its stripes must be free of work, and filled. -/
theorem directSwap_filled :
    directSwap s wss = .next
      (if ∃ w ∈ wss, s.stripeBusy s.reelRg (s.reelRg.stripeAt w) = true ∨ s.holdsToken (s.reelRg.stripeAt w) = true then s.wordBreach 0x7002
      else if ∃ w ∈ wss, ((s.stripe (s.reelRg.stripeAt w)).planes.get {} s.reelRg.reel.pnx.toNat).valid = false then s.wordBreach 0x7003
      else (wss.foldl (fun t w => t.swapStripe (s.reelRg.stripeAt w) s.reelRg.reel.pnx (s.reelRg.upOf w)) s).reelNext) := by
  unfold directSwap
  rw [if_neg (by simp [hscroll]), if_neg (by simpa [hplaced] using hfilled)]
  simp only [List.any_eq_true, Bool.or_eq_true, Bool.not_eq_true', apply_ite Host.Outcome.next]
end

theorem exec_swapWave (hscroll : s.reelRg.scroll = none) (hplaced : s.reelRg.placing = none) :
    exec .swapWave s = .next ((s.inject s.act.rg (waveTok 1 (4 + s.reelRg.reel.pnx.toNat))).reelNext) := by
  show execSwapWave s = _
  rw [execSwapWave, hplaced]
  exact (reelWhen_of_runs hruns _).trans (congrArg _ (notScrolling_of_none hscroll _))

theorem exec_swapWave_scrolling (hscroll : s.reelRg.scroll ≠ none) : exec .swapWave s = .next (s.wordBreach 0x7004) := by
  show execSwapWave s = _
  rw [execSwapWave, Option.isSome_iff_ne_none.2 hscroll, Bool.or_true, reelWhen_of_runs hruns, notScrolling_of_scroll hscroll]

theorem exec_dwell (d v : BitVec 12) (img : BitVec 16) :
    exec (.dwell d v img) s = .next (notScrolling s ((s.setReel { s.reelRg.reel with
      scd := d.setWidth 13 + 1, scv := v.setWidth 13 + 1, sci := img, plc := true }).reelNext)) :=
  reelWhen_of_runs hruns _
end

/-! ### The obligation -/

/-- Settles O34: word by word, then the words that scrolling forbids. -/
theorem reelPlanes : Obligations.ReelPlanes := by
  unfold Obligations.ReelPlanes
  intro s rg r x hruns
  refine ⟨fun p => exec_plane hruns (.direct p), fun l p q => exec_plane hruns (.pred l p q),
    fun hscroll => ⟨fun p img ws => ⟨?room, ?full, exec_stripe_breach hruns rfl rfl hscroll⟩, ?swap, exec_swapWave hruns hscroll,
      fun d v img => (exec_dwell hruns d v img).trans (congrArg _ (notScrolling_of_none hscroll _))⟩, ?scrolling⟩
  case room => exact fun hws himg hroom => (exec_stripe hruns rfl rfl hscroll hws himg).trans (congrArg _ (if_pos hroom))
  case full => exact fun hws himg hfull => (exec_stripe hruns rfl rfl hscroll hws himg).trans (congrArg _ (if_neg (Nat.not_lt.2 hfull)))
  case swap =>
    intro wss i hi hplaced hfilled
    have hexec : exec i s = directSwap s wss := by
      obtain ⟨rfl, rfl⟩ | ⟨ws, rfl, rfl, hws⟩ := hi
      · exact exec_swapAll hruns
      · exact exec_swap hruns (.inl hws)
    replace hexec := hexec.trans (directSwap_filled hscroll hplaced hfilled)
    refine ⟨fun hidle => ?_, fun hbusy => hexec.trans (congrArg _ (if_pos hbusy))⟩
    have hfree : ¬∃ w ∈ wss, s.stripeBusy r (r.stripeAt w) = true ∨ s.holdsToken (r.stripeAt w) = true := by
      rintro ⟨w, hw, hwork⟩
      simp [hidle w hw] at hwork
    replace hexec := hexec.trans (congrArg _ (if_neg hfree))
    refine ⟨fun hvalid => hexec.trans (congrArg _ (if_neg ?_)), fun hbad => hexec.trans (congrArg _ (if_pos hbad))⟩
    rintro ⟨w, hw, hbad⟩
    exact Bool.false_ne_true (hbad.symm.trans (hvalid w hw))
  case scrolling =>
    intro hscroll i hi
    obtain rfl | rfl | ⟨ws, rfl⟩ | ⟨p, img, ws, rfl⟩ | ⟨d, v, img, rfl⟩ := hi
    · exact (exec_swapAll hruns).trans (directSwap_scrolling hscroll _)
    · exact exec_swapWave_scrolling hruns hscroll
    · exact (exec_swap hruns (.inr (Option.isSome_iff_ne_none.2 hscroll))).trans (directSwap_scrolling hscroll _)
    · exact if_pos (by rw [hruns]; exact Option.isSome_iff_ne_none.2 hscroll)
    · exact (exec_dwell hruns d v img).trans (congrArg _ (notScrolling_of_scroll hscroll _))

end Sys2Proof.Machine
end

section
/-! CERTIFICATE. Reel words that arm and wait (R327, R328). -/
namespace Sys2Proof.Machine
open Sys2Proof

/-! ### Steps that leave the region and the planes of arming -/

theorem State.region_queueFill (s : State) (rg st : Nat) (p : BitVec 2) (img : Nat) (fq place : Bool) (n : Nat) :
    (s.queueFill rg st p img fq place).region n = s.region n := rfl

theorem State.region_noteArm (s : State) (r : Region) (n : Nat) : (s.noteArm r).region n = s.region n :=
  foldl_keeps (State.region · n) _ _ s fun _ _ => rfl

theorem State.act_stripe_noteArm (s : State) (r : Region) (n : Nat) : ((s.noteArm r).stripe n).act = (s.stripe n).act :=
  foldl_keeps (fun u : State => (u.stripe n).act) _ _ s fun u st => by
    rw [State.stripe_setStripe]
    split
    next h => rw [h]
    next => rfl

/-- At an arming each stripe of the window notes its active plane (R74). -/
theorem State.armAct_noteArm (s : State) (r : Region) {st : Nat} (hst : st ∈ r.stripes) : ((s.noteArm r).stripe st).armAct = (s.stripe st).act := by
  refine .trans ?_ (s.act_stripe_noteArm r st)
  refine foldl_reaches (fun u : State => (u.stripe st).armAct = (u.stripe st).act) _ hst (fun u => ?_) (fun u x hu => ?_) s
  · rw [State.stripe_setStripe, if_pos rfl]
  · rw [State.stripe_setStripe]
    split
    next => rfl
    next => exact hu

theorem State.region_reelNext (s : State) : let r := s.reelRg
    s.reelNext.region s.act.rg = { r with reel := { r.reel with rpc := r.reel.rpc + 1, phase := 0, thr := none, barred := false, ready := s.cyc + 1 } } := by
  intro r
  exact (State.region_setRegion ..).trans (if_pos rfl)

/-- A region that changes, and whose section goes on, is as it was changed but for the section's place. -/
theorem State.region_setRegion_reelNext {u : State} {rg : Nat} (hrg : u.act.rg = rg) (y : Region) :
    ((u.setRegion rg y).reelNext).region rg
      = { y with reel := { y.reel with rpc := y.reel.rpc + 1, phase := 0, thr := none, barred := false, ready := u.cyc + 1 } } := by
  subst hrg
  refine (State.region_reelNext _).trans ?_
  rw [State.reelRg, State.setRegion_act, State.region_setRegion, if_pos rfl, State.setRegion_cyc]

theorem State.act_noteArm (s : State) (r : Region) : (s.noteArm r).act = s.act := foldl_keeps State.act _ _ s fun _ _ => rfl

section
variable {s : State} (hruns : s.reelRuns = true)
include hruns

theorem exec_armWord_scrolling (hscroll : s.reelRg.scroll ≠ none) (lc : BitVec 2) (n : RegOr 32) (m : RegOr 16) :
    exec (.arm lc n) s = .next (s.wordBreach 0x7004) ∧ exec (.armMx m) s = .next (s.wordBreach 0x7004) := by
  have hsome := Option.isSome_iff_ne_none.2 hscroll
  refine ⟨?arm, ?armMx⟩
  case arm =>
    show execArm lc n s = _
    rw [execArm, if_pos hruns, if_pos hsome]
  case armMx =>
    show execArmMx m s = _
    rw [execArmMx, if_pos hruns, if_pos hsome]

section
variable (hplaced : s.reelRg.placing = none)
include hplaced

section
variable (hscroll : s.reelRg.scroll = none)
include hscroll

/-! ### Arming (R325, R327) -/

section
variable {lc : BitVec 2} {n : RegOr 32}

/-- An `arm` that is not the distributed loop's, or whose stamping is armed or has one copy, takes effect at once. -/
theorem exec_armWord_alone (halone : lc ≠ s.reelRg.dlc ∨ s.reelRg.armAt ≠ none ∨ s.reelRg.copies ≤ 1) :
    exec (.arm lc n) s = .next (armNow s lc.toNat (s.reelRg.reel.val n)) := by
  have hmeets : ¬(lc = s.reelRg.dlc ∧ s.reelRg.armAt.isNone = true ∧ 1 < s.reelRg.copies) := by
    rintro ⟨hlc, harm, hcopies⟩
    obtain h | h | h := halone
    · exact h hlc
    · exact h (Option.isNone_iff_eq_none.1 harm)
    · exact Nat.not_le.2 hcopies h
  show execArm lc n s = _
  rw [execArm, if_pos hruns, if_neg (by simp [hscroll]), if_neg (by simp [hplaced]), if_neg hmeets]

/-- Otherwise the section waits for the other copies of its stamping. -/
theorem exec_armWord_meets (hmeets : ¬(lc ≠ s.reelRg.dlc ∨ s.reelRg.armAt ≠ none ∨ s.reelRg.copies ≤ 1)) :
    exec (.arm lc n) s = .next (if s.reelRg.armed then s else s.meetArm s.act.rg) := by
  have hall : lc = s.reelRg.dlc ∧ s.reelRg.armAt.isNone = true ∧ 1 < s.reelRg.copies := by
    simpa only [not_or, not_not, Nat.not_le, Option.isNone_iff_eq_none] using hmeets
  show execArm lc n s = _
  rw [execArm, if_pos hruns, if_neg (by simp [hscroll]), if_neg (by simp [hplaced]), if_pos hall]
end

omit hruns hscroll hplaced in
/-- The arming of a valid loop context without an iteration. -/
theorem armNow_valid {lc : Nat} {e : Nat × Nat} (n : W64) (hplain : ¬(s.reelRg.reel.plc = true ∧ lc = s.reelRg.dlc.toNat))
    (hvalid : s.lcValid s.reelRg lc = some e) (hempty : (s.reelRg.lcs.get {} lc).sv = 0) :
    let r := s.reelRg
    armNow s lc n = ((s.noteArm r).setRegion s.act.rg { r with
      lcs := r.lcs.put {} lc (armedCtx e n (if lc = r.dlc.toNat then s.armStart r else s.cyc + 1)), armed := false, armAt := none }).reelNext := by
  intro r
  unfold armNow
  simp only [if_neg hplain, hvalid, if_neg (not_not.2 hempty), r]

omit hruns hscroll hplaced in
/-- A loop context that is not valid in the window, or that holds an iteration, cannot be armed. -/
theorem armNow_breach {lc : Nat} (n : W64) (hplain : ¬(s.reelRg.reel.plc = true ∧ lc = s.reelRg.dlc.toNat))
    (hbad : s.lcValid s.reelRg lc = none ∨ (s.reelRg.lcs.get {} lc).sv ≠ 0) : armNow s lc n = s.wordBreach 0x7005 := by
  unfold armNow
  simp only [if_neg hplain]
  cases hvalid : s.lcValid s.reelRg lc with
  | none => rfl
  | some e => exact if_pos (hbad.resolve_left (by simp [hvalid]))

omit hruns hscroll hplaced in
/-- The arming of a pending placement queues its first fills and notes what follows them. -/
theorem armNow_places (n : W64) (hplc : s.reelRg.reel.plc = true) : ∃ u : State, u.act = s.act ∧ (∀ k, u.region k = s.region k)
    ∧ armNow s s.reelRg.dlc.toNat n = (u.setRegion s.act.rg { s.reelRg with
      placing := some (s.reelRg.dlc.toNat, n, s.reelRg.reel.scd.toNat, s.reelRg.reel.scv.toNat, s.reelRg.reel.sci.toNat),
      reel := { s.reelRg.reel with plc := false } }).reelNext := by
  set m := min s.reelRg.reel.scv.toNat s.reelRg.count
  set u := (List.range m).foldl (fun t ws => t.queueFill s.act.rg (s.reelRg.stripeAt ws) 0 (s.reelRg.reel.sci.toNat + ws) false true) s with hu
  have hregion : ∀ k, u.region k = s.region k := fun k => foldl_keeps (State.region · k) _ _ s fun _ _ => rfl
  refine ⟨u, foldl_keeps State.act _ _ s fun _ _ => rfl, hregion, ?_⟩
  unfold armNow
  simp only [hplc, and_self, if_true]
  rw [← hu, hregion]
  rfl

/-! ### Matrix elements (R327, R476) -/

theorem exec_armMx_breach (hbad : s.runsOk s.reelRg = false) (n : RegOr 16) : exec (.armMx n) s = .next (s.wordBreach 0x7009) := by
  show execArmMx n s = _
  rw [execArmMx, if_pos hruns, if_neg (by simp [hscroll]), if_neg (by simp [hplaced]), if_neg (by simp [hbad])]

omit hruns hscroll hplaced in
/-- Every matrix element of a window takes a tile count. -/
def State.setTiles (s : State) (stripes : List Nat) (v : BitVec 16) : State :=
  stripes.foldl (fun t st => (List.range 16).foldl (fun u j =>
    let el := st * 128 + 64 + j
    u.setMx el { u.mx el with tcnt := v }) t) s

theorem exec_armMx (hok : s.runsOk s.reelRg = true) (n : RegOr 16) :
    exec (.armMx n) s = .next (s.setTiles s.reelRg.stripes (field (s.reelRg.reel.val n) 0 16)).reelNext := by
  show execArmMx n s = _
  rw [execArmMx, if_pos hruns, if_neg (by simp [hscroll]), if_neg (by simp [hplaced]), if_pos hok]
  rfl

end

/-! ### Waiting (R328) -/

section
variable {tag : BitVec 12}

theorem exec_waitbBar_first (hfirst : s.reelRg.reel.barred = false) :
    exec (.waitbBar tag) s
      = .next ((s.setReel { s.reelRg.reel with barred := true, phase := 0 }).inject s.act.rg (waveTok 0 (tag.toNat * 65536))) := by
  show execWaitbBar tag s = _
  rw [execWaitbBar, if_pos ⟨hruns, by simp [hplaced]⟩]
  exact if_pos hfirst

theorem exec_waitbBar_draining (hbarred : s.reelRg.reel.barred = true) (hphase : s.reelRg.reel.phase = 0) :
    exec (.waitbBar tag) s = .next (if s.drainedFor s.act.rg (waveTok 0 (tag.toNat * 65536))
      then s.setReel { s.reelRg.reel with phase := s.fl.next + 1 } else s) := by
  show execWaitbBar tag s = _
  rw [execWaitbBar, if_pos ⟨hruns, by simp [hplaced]⟩, apply_ite Host.Outcome.next]
  exact (if_neg (by simp [hbarred])).trans (if_pos hphase)

theorem exec_waitbBar_over (hbarred : s.reelRg.reel.barred = true) (hphase : s.reelRg.reel.phase ≠ 0)
    (hbank : s.bankOpen s.act.rg (s.reelRg.reel.phase - 1) = false)
    (hemits : ∀ e ∈ s.fl.emits, (s.stripe (srcStripe e.src)).rg = some s.act.rg → s.cyc < e.due) : exec (.waitbBar tag) s = .next s.reelNext := by
  have hquiet : ¬(s.bankOpen s.act.rg (s.reelRg.reel.phase - 1) = true
      ∨ (s.fl.emits.any fun e => decide ((s.stripe (srcStripe e.src)).rg = some s.act.rg ∧ e.due ≤ s.cyc)) = true) := by
    simpa [hbank] using hemits
  show execWaitbBar tag s = _
  rw [execWaitbBar, if_pos ⟨hruns, by simp [hplaced]⟩]
  exact (if_neg (by simp [hbarred])).trans ((if_neg hphase).trans (if_neg hquiet))
end

/-- A wait goes on where its condition holds, and stays where it stands else. -/
theorem reelWhen_placed (ok : Bool) (t : State) : reelWhen s (s.reelRg.placing.isNone && ok) t = .next (if ok then t else s) := by
  rw [reelWhen, hruns, hplaced, apply_ite Host.Outcome.next]
  rfl

theorem exec_waitbLc (lc : BitVec 2) : let c := s.reelRg.lcs.get {} lc.toNat
    exec (.waitbLc lc) s = .next (if decide (c.sv = 0 ∧ 0 < c.starts ∧ (c.issued = 0 ∨ c.issued < s.cyc)) then s.reelNext else s) :=
  reelWhen_placed hruns hplaced _ _

theorem exec_waitbMx : exec .waitbMx s = .next (if s.mxIdle s.reelRg then s.reelNext else s) := reelWhen_placed hruns hplaced _ _

/-! ### The end (R327) -/

omit hruns hplaced in
theorem exec_hlt_waits {word : RegOr 32} (h : s.reelRg.busy = true ∨ s.mxIdle s.reelRg = false) : exec (.hlt word) s = .next s := by
  show execHlt word s = _
  rw [execHlt]
  exact if_neg (by obtain h | h := h <;> simp [h])

theorem exec_hlt_ends {word : RegOr 32} (hbusy : s.reelRg.busy = false) (hidle : s.mxIdle s.reelRg = true) :
    ∃ t, exec (.hlt word) s = .next t ∧ (t.region s.act.rg).reel.live = false := by
  show ∃ t, execHlt word s = .next t ∧ _
  rw [execHlt]
  refine ⟨_, if_pos (by simp [hruns, hplaced, hbusy, hidle]), ?_⟩
  rw [State.region_setRegion, if_pos rfl]
end
end

theorem State.region_setTiles (s : State) (stripes : List Nat) (v : BitVec 16) (n : Nat) : (s.setTiles stripes v).region n = s.region n :=
  foldl_keeps (State.region · n) _ _ s fun u _ => foldl_keeps (State.region · n) _ _ u fun _ _ => rfl
theorem State.act_setTiles (s : State) (stripes : List Nat) (v : BitVec 16) : (s.setTiles stripes v).act = s.act :=
  foldl_keeps State.act _ _ s fun u _ => foldl_keeps State.act _ _ u fun _ _ => rfl

theorem State.tcnt_setMx_of_tcnt {s : State} {el n : Nat} {v : BitVec 16} (h : (s.mx n).tcnt = v) :
    ((s.setMx el { s.mx el with tcnt := v }).mx n).tcnt = v := by
  rw [State.mx_setMx]
  split
  next => rfl
  next => exact h

/-- Each matrix element of a window's stripes has the tile count. -/
theorem State.tcnt_setTiles (s : State) {stripes : List Nat} (v : BitVec 16) {st j : Nat} (hst : st ∈ stripes) (hj : j < 16) :
    ((s.setTiles stripes v).mx (st * 128 + 64 + j)).tcnt = v := by
  let P (u : State) : Prop := (u.mx (st * 128 + 64 + j)).tcnt = v
  refine foldl_reaches P _ hst (fun u => ?set) (fun u x hu => ?keep) s
  case set =>
    refine foldl_reaches P _ (List.mem_range.2 hj) (fun w => ?_) (fun w k hw => State.tcnt_setMx_of_tcnt hw) u
    simp only [P, State.mx_setMx, if_true]
  case keep => exact List.foldlRecOn (motive := P) _ _ hu fun w hw k _ => State.tcnt_setMx_of_tcnt hw

/-! ### The obligation -/

/-- Settles O35, word by word. -/
theorem reelArmsAndWaits : Obligations.ReelArmsAndWaits := by
  unfold Obligations.ReelArmsAndWaits
  intro s rg r x alone hruns
  refine ⟨fun hscroll => exec_armWord_scrolling hruns hscroll, fun hscroll hplaced => ⟨?arms, ?breach, ?places, fun lc n => exec_armWord_meets hruns hplaced hscroll,
    ?tiles, fun n hbad => exec_armMx_breach hruns hplaced hscroll hbad n,
    fun tag => ⟨exec_waitbBar_first hruns hplaced, exec_waitbBar_draining hruns hplaced, exec_waitbBar_over hruns hplaced⟩,
    ?context, exec_waitbMx hruns hplaced, fun word => ⟨exec_hlt_ends hruns hplaced, exec_hlt_waits⟩⟩⟩
  case arms =>
    intro lc n e halone hplain hvalid hempty
    have hnot : ¬(x.plc = true ∧ lc.toNat = r.dlc.toNat) := fun ⟨hplc, hlc⟩ =>
      hplain.elim (fun h => Bool.false_ne_true (h.symm.trans hplc)) fun h => h (BitVec.eq_of_toNat_eq hlc)
    refine ⟨_, (exec_armWord_alone hruns hplaced hscroll halone).trans (congrArg _ (armNow_valid _ hnot hvalid hempty)), ?lcs, ?rpc, ?planes⟩
    case lcs =>
      refine (congrArg Region.lcs (State.region_setRegion_reelNext (congrArg Act.rg (s.act_noteArm r)) _)).trans ?_
      simp only [BitVec.toNat_inj]
      rfl
    case rpc => exact congrArg (fun y : Region => y.reel.rpc) (State.region_setRegion_reelNext (congrArg Act.rg (s.act_noteArm r)) _)
    case planes => exact fun st hst => s.armAct_noteArm r hst
  case breach =>
    intro lc n halone hplain hbad
    have hnot : ¬(x.plc = true ∧ lc.toNat = r.dlc.toNat) := fun ⟨hplc, hlc⟩ =>
      hplain.elim (fun h => Bool.false_ne_true (h.symm.trans hplc)) fun h => h (BitVec.eq_of_toNat_eq hlc)
    exact (exec_armWord_alone hruns hplaced hscroll halone).trans (congrArg _ (armNow_breach _ hnot hbad))
  case places =>
    intro n halone hplc
    obtain ⟨u, hact, hregion, hnow⟩ := armNow_places (x.val n) hplc
    refine ⟨_, (exec_armWord_alone hruns hplaced hscroll halone).trans (congrArg _ hnow), ?_⟩
    rw [State.region_setRegion_reelNext (by rw [hact])]
    exact ⟨rfl, rfl, rfl⟩
  case tiles =>
    intro n hok v
    refine ⟨_, exec_armMx hruns hplaced hscroll hok n, ?next, fun st hst j hj => s.tcnt_setTiles v hst hj⟩
    case next =>
      have hregion : (s.setTiles r.stripes v).reelRg = r := by rw [State.reelRg, State.act_setTiles, State.region_setTiles]
      have hnext := (s.setTiles r.stripes v).region_reelNext
      rw [hregion, State.act_setTiles] at hnext
      exact congrArg (fun y : Region => y.reel.rpc) hnext
  case context =>
    intro lc c
    have hwait := exec_waitbLc hruns hplaced lc
    refine ⟨fun hsv hstarts hissued => ?_, fun h => ?_⟩
    · exact hwait.trans (congrArg _ (if_pos (decide_eq_true ⟨hsv, hstarts, .inr hissued⟩)))
    · refine hwait.trans (congrArg _ (if_neg fun hboth => ?_))
      obtain ⟨hsv, hstarts, -⟩ := of_decide_eq_true hboth
      exact h.elim (fun hne => hne hsv) fun hzero => Nat.ne_of_gt hstarts hzero

end Sys2Proof.Machine
end

section
/-! CERTIFICATE. Transfer requests perform their parts and end; one-position tensors and one-element reductions (R332, R334 to R337, R397). -/
namespace Sys2Proof.Machine
open Sys2Proof

/-! ### A request's step (R332, R397) -/

/-- A request of one of these kinds performs its parts and then its flag; the other kinds have no entry. -/
theorem exec_of_requestParts {s : State} {i : Instr} {n : Nat} {f : Nat → State → Req → Part × Req} (h : requestParts s i = some (n, f)) :
    exec i s = .next (s.runReq n f fun t r => requestEnd s t r i) := by
  cases i <;> cases h <;> rfl

/-- The request as its step takes it up: a held part that its close window has ended over is dispatched anew (log 90). -/
def State.takenUp (s : State) (r : Req) : Req :=
  { r with held := r.held.filter fun h => (s.pav (tpPk r.tp)).window || decide (h.tag = s.open_ (tpPk r.tp)) }
/-- What the remaining parts of a request come to. -/
def State.movesOf (s : State) (r : Req) (n : Nat) (f : Nat → State → Req → Part × Req) : Part × Req :=
  runMoves s.act.el f (n - r.done) r.done (s, s.takenUp r) s (s.takenUp r)

/-- What a request's step leaves once its parts, and what follows them, came to this (R332, R397, R466). -/
def State.reqOutcome (s : State) (fin : State → Req → Part × Req) : Part × Req → State
  | (.ok t, r1) =>
    match fin t r1 with
    | (.ok u, r2) => u.setReq s.act.el { r2 with isOver := true, old := [], held := none, overAt := u.cyc }
    | (.hold u, r2) => u.setReq s.act.el { r2 with since := if (u.reqCut r2).isSome then some (r2.since.getD s.cyc) else none }
    | (.bar u, r2) => u.setReq s.act.el { r2 with barred := true }
    | (.fault u c a, r2) => u.endReq s.act.el r2 c a
  | (.hold t, r1) => t.setReq s.act.el { r1 with since := if (t.reqCut r1).isSome then some (r1.since.getD s.cyc) else none }
  | (.bar t, r1) => t.setReq s.act.el { r1 with barred := true }
  | (.fault t c a, r1) => t.endReq s.act.el r1 c a

theorem State.reqOutcome_ends (s : State) {t u : State} {r1 r2 : Req} {fin : State → Req → Part × Req} (hfin : fin t r1 = (.ok u, r2)) :
    s.reqOutcome fin (.ok t, r1) = u.setReq s.act.el { r2 with isOver := true, old := [], held := none, overAt := u.cyc } := by
  simp only [State.reqOutcome, hfin]

theorem State.reqOutcome_faults (s : State) {t u : State} {r1 r2 : Req} {fin : State → Req → Part × Req} {c : BitVec 16} {a : W64}
    (hfin : fin t r1 = (.fault u c a, r2)) : s.reqOutcome fin (.ok t, r1) = u.endReq s.act.el r2 c a := by
  simp only [State.reqOutcome, hfin]

section
variable {s : State} {r : Req} (hreq : s.req s.act.el = some r) (hover : r.isOver = false) (hbarred : r.barred = false)
  (hwindow : (s.pav (tpPk r.tp)).window = true → r.held.isSome = true)

include hover hbarred hwindow in
/-- Nothing keeps back a request that is not over, not barred, and in a close window was dispatched before it. -/
theorem State.takenUp_runs :
    ¬((s.takenUp r).isOver = true ∨ (s.takenUp r).barred = true ∨ (s.pav (tpPk r.tp)).window = true ∧ (s.takenUp r).held.isNone = true) := by
  rintro (h | h | ⟨hw, hnone⟩)
  · exact Bool.false_ne_true (hover.symm.trans h)
  · exact Bool.false_ne_true (hbarred.symm.trans h)
  · obtain ⟨x, hx⟩ := Option.isSome_iff_exists.1 (hwindow hw)
    simp [State.takenUp, hw, hx] at hnone

include hreq hover hbarred hwindow in
/-- Such a request performs its remaining parts and what follows them. -/
theorem State.runReq_of_runs (n : Nat) (f : Nat → State → Req → Part × Req) (fin : State → Req → Part × Req) :
    s.runReq n f fin = s.reqOutcome fin (s.movesOf r n f) := by
  simp only [State.runReq, hreq]
  exact if_neg (State.takenUp_runs hover hbarred hwindow)
end

/-! ### Tensors (R335) -/

section
variable {s t : State} {r q : Req} (hreq : s.req s.act.el = some r) (hover : r.isOver = false) (hbarred : r.barred = false)
  (hheld : r.held = none) (hwindow : (s.pav (tpPk r.tp)).window = false) (hdone : r.done = 0)

/-- What a request of one part leaves. -/
def State.isDone (t : State) (rq : Nat) (q : Req) : State := t.setReq rq { q with done := 1, isOver := true, old := [], held := none, overAt := t.cyc }

include hreq hover hbarred hheld hwindow hdone

section
variable (h : XHead) (a : TensorArgs) (hone : lrTotal r.lr = 1)
include hone

theorem exec_tensorLoad {l : Nat} {at_ : Option W64} (hat : lrAt r.lr a.o 0 = (at_, l))
    (hpart : (let dst : End := .pa (localPA (tpPk r.tp) a.lsp (a.loc.toNat + l))
      match at_ with
      | some va => s.doMove s.act.el r { src := .va va, dst := dst, n := lrEsz r.lr }
      | none =>
        let r1 := { r with clipped := true }
        if lrClip r.lr = 1 then s.doMove s.act.el r1 { src := .const (leBytes (lrEsz r.lr) (lrNum r.lr 0xA0 4)), dst := dst, n := lrEsz r.lr }
        else (.ok s, r1)) = (.ok t, q)) : exec (.tensorLoad h a) s = .next (t.isDone s.act.el q) := by
  show execTensorLoad h a s = _
  simp only [execTensorLoad, hreq, Option.map_some, Option.getD_some, hone]
  refine congrArg _ (State.runReq_one hreq hover hbarred hheld hwindow hdone ?_)
  simp only [hat]
  cases at_ <;> exact hpart

theorem exec_tensorStore {l : Nat} {at_ : Option W64} (hat : lrAt r.lr a.o 0 = (at_, l))
    (hpart : (match at_ with
      | some va => s.doMove s.act.el r { src := .pa (localPA (tpPk r.tp) a.lsp (a.loc.toNat + l)), dst := .va va, n := lrEsz r.lr }
      | none => (.ok s, { r with clipped := true })) = (.ok t, q)) : exec (.tensorStore h a) s = .next (t.isDone s.act.el q) := by
  show execTensorStore h a s = _
  simp only [execTensorStore, hreq, Option.map_some, Option.getD_some, hone]
  refine congrArg _ (State.runReq_one hreq hover hbarred hheld hwindow hdone ?_)
  simp only [hat]
  cases at_ <;> exact hpart
end

/-! ### Reductions (R337) -/

/-- What a reduction leaves of the destination's word `a` and the source's `b`. -/
def ropResult (rop : BitVec 4) (a b : W32) : W32 :=
  if rop = 0 then combine 0 0 a b else if rop = 1 then a + b else if rop = 2 then combine 1 0 a b
  else if rop = 3 then combine 2 0 a b else fLanesR 4 (fun a b _ => fsum 0 [a, b]) a b 0

omit hreq hover hbarred hdone hheld in
/-- The one element of a reduction: both words are read, and the destination takes their result. -/
theorem State.reduceMove_zero {src dst : W64} {rop : BitVec 4} {v w : List Byte} {u1 u2 : State} {pa : Nat} {x : Option Xlat}
    (hsrc : s.readEnd (tpPk r.tp) r.pkt.asid s.act.el (.va src) 4 = .ok (some (u1, v)))
    (hdst : s.readEnd (tpPk r.tp) r.pkt.asid s.act.el (.va dst) 4 = .ok (some (u2, w)))
    (hpa : s.endPA (tpPk r.tp) r.pkt.asid (.va dst) true = .ok (pa, x)) (hspace : paSpace pa ≠ 1) :
    State.reduceMove s.act.el src dst rop 0 s r = s.writeEnd s.act.el { r with at_ := pa } (.va dst)
      (wordBytes (ropResult rop (BitVec.ofNat 32 (leNat w)) (BitVec.ofNat 32 (leNat v)))) false true := by
  have helse : s.elsewhere { r with at_ := pa } pa = false := by simp [State.elsewhere, hwindow]
  have hres (a b : W32) : ropResult rop a b = (match rop.toNat with
      | 0 => combine 0 0 a b
      | 1 => a + b
      | 2 => combine 1 0 a b
      | 3 => combine 2 0 a b
      | _ => fLanesR 4 (fun a b _ => fsum 0 [a, b]) a b 0) := by
    simp only [ropResult, ← BitVec.toNat_inj]
    match rop.toNat with
    | 0 => rfl
    | 1 => rfl
    | 2 => rfl
    | 3 => rfl
    | n + 4 => rfl
  have hzero (y : W64) : y + BitVec.ofNat 64 (4 * 0) = y := BitVec.add_zero y
  simp only [State.reduceMove, hzero, hpa, if_neg hspace, helse, hsrc, hdst, Bool.false_eq_true, if_false]
  exact congrArg (fun y => s.writeEnd s.act.el { r with at_ := pa } (.va dst) (wordBytes y) false true) (hres _ _).symm

theorem exec_reduceCopy (h : XHead) {src dst : W64} {rop : BitVec 4} (hpart : State.reduceMove s.act.el src dst rop 0 s r = (.ok t, q)) :
    exec (.reduceCopy h src dst 1 rop) s = .next (t.isDone s.act.el q) :=
  congrArg _ (State.runReq_one hreq hover hbarred hheld hwindow hdone hpart)
end

/-! ### The obligations -/

/-- Settles O37: the parts, then the flag, as the request's step takes them. -/
theorem requestsPerformTheirParts : Obligations.RequestsPerformTheirParts := by
  unfold Obligations.RequestsPerformTheirParts
  intro s i n f r r1 r2 t u c a rq window q hparts hreq hover hbarred hwindow parts
  have hexec : exec i s = .next (s.reqOutcome (fun t r => requestEnd s t r i) parts) :=
    (exec_of_requestParts hparts).trans (congrArg _ (State.runReq_of_runs hreq hover hbarred hwindow _ _ _))
  refine ⟨fun hmoves hfin => ?ends, fun hmoves hfin => ?flag, fun hmoves => ?part⟩
  case ends => rw [hexec, hmoves, State.reqOutcome_ends s hfin]
  case flag => rw [hexec, hmoves, State.reqOutcome_faults s hfin]
  case part => rw [hexec, hmoves, State.reqOutcome]

/-- Settles O38: the one position of a tensor, inside it and outside, and the one element of a reduction. -/
theorem tensorsAndReductions : Obligations.TensorsAndReductions := by
  unfold Obligations.TensorsAndReductions
  intro s h r rq pk isOver hreq hover hbarred hheld hwindow hdone
  refine ⟨fun a t q hone => ?tensor, fun src dst rop v w u1 u2 pa x t q hsrc hdst hpa hspace hwrite =>
    exec_reduceCopy hreq hover hbarred hheld hwindow hdone h ((State.reduceMove_zero hwindow hsrc hdst hpa hspace).trans hwrite)⟩
  case tensor =>
    intro e loc
    have hload {at_} (hat : e.1 = at_) {t q} := exec_tensorLoad (t := t) (q := q) hreq hover hbarred hheld hwindow hdone h a hone (at_ := at_) (l := e.2) (by rw [← hat])
    have hstore {at_} (hat : e.1 = at_) {t q} := exec_tensorStore (t := t) (q := q) hreq hover hbarred hheld hwindow hdone h a hone (at_ := at_) (l := e.2) (by rw [← hat])
    exact ⟨fun va hin hpart => hload hin hpart, fun hout hclip => hload hout (if_neg hclip), fun hout hclip hpart => hload hout ((if_pos hclip).trans hpart),
      fun va hin hpart => hstore hin hpart, fun hout => hstore hout rfl⟩

end Sys2Proof.Machine
end

section
/-! CERTIFICATE. Transfer requests start after their checks and complete with a record (R332, R339, R340, R397). -/
namespace Sys2Proof.Machine
open Sys2Proof

/-! ### The start of a request (R332, R397) -/

section
variable {s : State} {tp : Nat} {p : Packet} {ps : List Packet} (hqueue : s.eng.queues.get [] tp = p :: ps) (hplace : s.portLoad tp < 64)
include hqueue hplace

/-- The port without its oldest packet, a number taken for the request that the packet becomes. -/
def State.takePacket (s : State) (tp : Nat) (ps : List Packet) : State :=
  ({ s with eng := { s.eng with queues := s.eng.queues.put [] tp ps } } : State).bump

/-- A packet that encodes no request ends as it begins. -/
theorem exec_transferRequestStart_undecoded {e : Reject} (hdec : decodeRequest p.bits = .error e) :
    exec (.transferRequestStart tp) s = .next ((s.takePacket tp ps).endReq s.fl.next { tp := tp, pkt := p } 0x8001 0) := by
  show execTransferRequestStart tp s = _
  simp only [execTransferRequestStart, hqueue, hdec]
  exact if_neg (Nat.not_le.2 hplace)

section
variable {i : Instr} (hdec : decodeRequest p.bits = .ok i)
include hdec

/-- A request that names a completion ring it cannot use ends as it begins. -/
theorem exec_transferRequestStart_no_ring (hring : p.bits.getLsbD 27 = true ∧ s.ringOk (tpPk tp) (field p.bits 224 12 : BitVec 12).toNat = false) :
    exec (.transferRequestStart tp) s = .next ((s.takePacket tp ps).endReq s.fl.next { tp := tp, pkt := p } 0x8007 0) := by
  show execTransferRequestStart tp s = _
  simp only [execTransferRequestStart, hqueue, hdec]
  exact (if_neg (Nat.not_le.2 hplace)).trans (if_pos hring)

section
variable (hring : ¬(p.bits.getLsbD 27 = true ∧ s.ringOk (tpPk tp) (field p.bits 224 12 : BitVec 12).toNat = false))
include hring

/-- A request that passes the checks made before any access is in execution. -/
theorem exec_transferRequestStart_checked {t : State} {b : List Byte} (hcheck : (s.takePacket tp ps).reqCheck tp p i = .ok (t, b)) :
    exec (.transferRequestStart tp) s = .next (t.setReq s.fl.next { tp := tp, pkt := p, lr := b }) := by
  unfold State.takePacket at hcheck
  show execTransferRequestStart tp s = _
  simp only [execTransferRequestStart, hqueue, hdec, hcheck]
  exact (if_neg (Nat.not_le.2 hplace)).trans (if_neg hring)

/-- The first breach that they find ends the request. -/
theorem exec_transferRequestStart_breach {t : State} {c : BitVec 16} {a : W64} (hcheck : (s.takePacket tp ps).reqCheck tp p i = .error (.breach t c a)) :
    exec (.transferRequestStart tp) s = .next (t.endReq s.fl.next { tp := tp, pkt := p } c a) := by
  unfold State.takePacket at hcheck
  show execTransferRequestStart tp s = _
  simp only [execTransferRequestStart, hqueue, hdec, hcheck]
  exact (if_neg (Nat.not_le.2 hplace)).trans (if_neg hring)
end
end
end

/-! ### Completion (R339, R340) -/

/-- A request that has reported. -/
def State.toldReq (s : State) (rq : Nat) (r : Req) : State := (s.setReq rq { r with told := true }).retireReq rq

section
variable {s : State} {rq : Nat} {r : Req} (hreq : s.req rq = some r) (hover : r.isOver = true)
include hreq hover

section
variable (htold : r.told = false) (hbarred : r.barred = false) (hlate : r.overAt < s.cyc) (hheld : s.windowHolds (tpPk r.tp) r.tag = false)
  (hlanded : s.landed (tpPk r.tp) rq = true)
include htold hbarred hlate hheld hlanded

theorem exec_transferCompletion_no_ring (hring : r.pkt.bits.getLsbD 27 = false) :
    exec (.transferCompletion rq) s = .next (s.toldReq rq r) := by
  show execTransferCompletion rq s = _
  simp only [execTransferCompletion, hreq]
  refine (if_neg ?_).trans (if_pos (.inl hring))
  simp only [hover, htold, hbarred, hheld, hlanded, hring, Nat.not_le.2 hlate, Bool.false_eq_true, Bool.true_eq_false, false_and, or_self, not_false_eq_true]

/-- A request of a usable ring leaves its record there; no request of a lower port is ahead of it. -/
theorem exec_transferCompletion_record {v : State} (hnewer : r.held = none ∨ s.newerIn (s.ringEntry (tpPk r.tp) (field r.pkt.bits 224 12 : BitVec 12).toNat) 16 = false)
    (hok : s.ringOk (tpPk r.tp) (field r.pkt.bits 224 12 : BitVec 12).toNat = true) (hring : r.pkt.bits.getLsbD 27 = true)
    (hfirst : ∀ q ∈ s.eng.reqs, tpPk q.2.tp = tpPk r.tp → q.2.tp < r.tp → q.2.isOver = false)
    (hwrite : (let e := s.ringEntry (tpPk r.tp) (field r.pkt.bits 224 12 : BitVec 12).toNat
      s.writeRecord rq r e (s.look64 e) (s.look32 (e + 8)).toNat) = .ok v) :
    exec (.transferCompletion rq) s = .next (v.toldReq rq r) := by
  show execTransferCompletion rq s = _
  simp only [execTransferCompletion, hreq]
  refine (if_neg ?runs).trans ((if_neg ?ring).trans ((if_neg ?newer).trans ?record))
  case runs =>
    simp only [hover, htold, hbarred, hheld, hlanded, hring, Nat.not_le.2 hlate, List.any_eq_true, Bool.false_eq_true, Bool.true_eq_false, false_or,
      true_and, not_exists, not_and]
    intro q hq hahead
    simp only [Bool.and_eq_true, decide_eq_true_eq] at hahead
    obtain ⟨⟨⟨⟨⟨hq1, -⟩, -⟩, hport, -, hlower, -⟩, -⟩, -⟩ := hahead
    exact Bool.false_ne_true ((hfirst q hq hport hlower).symm.trans hq1)
  case ring => simp [hring, hok]
  case newer =>
    rintro ⟨hsome, hnew⟩
    obtain h | h := hnewer
    · simp [h] at hsome
    · simp [h] at hnew
  case record =>
    simp only [hwrite]
    rfl
end

theorem exec_sectorCounterIncrement (hbit : r.pkt.bits.getLsbD 26 = true) (hleft : r.counted < r.sects.length)
    (hheld : s.windowHolds (tpPk r.tp) r.tag = false) (hlanded : s.landed (tpPk r.tp) rq = true) :
    let k := tpPk r.tp * 4096 + (field r.pkt.bits 236 12 : BitVec 12).toNat
    exec (.sectorCounterIncrement rq) s = .next ((({ s with secs := s.secs.put 0 k (s.secs.get 0 k + 1) } : State).setReq rq
      { r with counted := r.counted + 1 }).retireReq rq) := by
  intro k
  show execSectorCounterIncrement rq s = _
  simp only [execSectorCounterIncrement, hreq]
  exact if_pos ⟨hbit, hover, hleft, hheld, hlanded⟩
end

/-! ### The obligation -/

/-- Settles O40: the start by what its checks find, the completion with and without a ring, and one counted sector. -/
theorem requestsStartAndComplete : Obligations.RequestsStartAndComplete := by
  unfold Obligations.RequestsStartAndComplete
  intro s
  refine ⟨?start, fun rq r hreq hover htold hbarred hlate hheld hlanded => exec_transferCompletion_no_ring hreq hover htold hbarred hlate hheld hlanded,
    ?record, fun rq r hreq hbit hover => exec_sectorCounterIncrement hreq hover hbit⟩
  case start =>
    intro tp p ps cring s1 hqueue hplace
    refine ⟨fun e => exec_transferRequestStart_undecoded hqueue hplace, fun i hdec =>
      ⟨fun hbit hbad => exec_transferRequestStart_no_ring hqueue hplace hdec ⟨hbit, hbad⟩, fun hring => ?_⟩⟩
    have hok : ¬(p.bits.getLsbD 27 = true ∧ s.ringOk (tpPk tp) cring.toNat = false) := fun ⟨hbit, hbad⟩ =>
      Bool.false_ne_true (hbad.symm.trans (hring hbit))
    exact ⟨fun t b => exec_transferRequestStart_checked hqueue hplace hdec hok, fun t c a => exec_transferRequestStart_breach hqueue hplace hdec hok⟩
  case record =>
    intro rq r t u v pk n e c slots pa status first put hreq hover htold hbarred hlate hheld hlanded hnewer hring hok hfirst hput1 hput2 hput3
    refine exec_transferCompletion_record hreq hover htold hbarred hlate hheld hlanded hnewer hok hring hfirst ?_
    simp only [put, first, status, pa, slots, c, e, n, pk] at hput1 hput2 hput3
    simp only [State.writeRecord, hput1, hput2, hput3]

end Sys2Proof.Machine
end

section
/-! CERTIFICATE. LM64s join their channel and become walks, and the ten node kinds advance their walk (R342 to R351, R399). -/
namespace Sys2Proof.Machine
open Sys2Proof

/-! ### Walks -/

theorem State.walk_setWalk_same (s : State) (wk : Nat) (w : Walk) : (s.setWalk wk w).walk wk = some w := by simp [State.walk, State.setWalk]
theorem State.walk_delWalk_same (s : State) (wk : Nat) : (s.delWalk wk).walk wk = none := by
  simp [State.walk, State.delWalk, FMap.del]

/-! ### Launches (R349 to R351) -/

section
variable {s : State} {pk : Nat}

/-- An LM64 for an open channel with room, of the channel's address space, joins it. -/
theorem exec_lm64Write {n : Nat} (data : List Byte) (hon : s.barsOn pk = true) (hwindow : 64 * n < 16384) (hstep : (s.members.get {} pk).step = 0)
    (hlaunch : (s.reg pk 0x13000).getLsbD 0 = true) (hchan : n ≤ (s.reg pk 0x13000).toNat / 2 % 256)
    (hopen : (s.reg pk (0x14000 + 8 * n)).getLsbD 0 = true) (hasid : bnum data 8 2 % 4096 = (s.reg pk (0x14000 + 8 * n)).toNat / 2 % 4096)
    (hroom : (s.chan pk n).length < 16) :
    exec (.lm64Write pk (64 * n) 64 data) s
      = .next (s.setChan pk n (s.chan pk n ++ [{ cyc := s.cyc, bits := BitVec.ofNat 512 (leNat (data.take 64)) }])) := by
  have hn : 64 * n / 64 = n := Nat.mul_div_cancel_left n (by decide)
  show execLm64Write pk (64 * n) 64 data s = _
  rw [execLm64Write]
  simp only [hn]
  rw [if_neg (by simp [hon]; omega), if_neg (not_not.2 hstep), if_neg ?accepted, if_neg (Nat.not_le.2 hroom)]
  case accepted => simp [hlaunch, hchan, hopen, hasid]

/-- The receiver takes the oldest LM64 that it has not taken, where it meets Table 8.11. -/
theorem exec_lm64Take {cyc n i : Nat} (hfirst : firstLm (s.lms pk fun m => !m.taken) = some (cyc, n, i))
    (hok : lmOk (((s.chan pk n).getD i {}).bits) = true) :
    exec (.lm64Take pk) s = .next (s.setChan pk n (mapAt (fun m => { m with taken := true }) i (s.chan pk n))) := by
  show execLm64Take pk s = _
  simp only [execLm64Take, hfirst, hok, if_true]

/-- The walk that an LM64 of channel `n` starts, its ceiling bounded by the channel. -/
def State.walkOf (s : State) (pk n : Nat) (b : BitVec 512) : Walk :=
  let prio : BitVec 3 := field b 76 3
  let pmax : BitVec 3 := field (s.reg pk (0x14000 + 8 * n)) 13 3
  { pk := pk, asid := field b 64 12, graph := field b 0 64, ceil := if prio ≤ pmax then prio else pmax, tag := field b 96 32, args := field b 128 256 }

theorem exec_walkStart {cyc n i : Nat} (hfirst : firstLm (s.lms pk fun m => m.taken) = some (cyc, n, i))
    (hroom : (s.work.walks.filter fun w => decide (w.2.pk = pk)).length < 1024) :
    exec (.walkStart pk) s = .next (((s.setChan pk n (dropAt i (s.chan pk n))).setWalk s.fl.next
      (s.walkOf pk n ((s.chan pk n).getD i {}).bits)).bump) := by
  show execWalkStart pk s = _
  simp only [execWalkStart, hfirst]
  exact if_neg (Nat.not_le.2 hroom)
end

/-! ### Nodes (R342 to R348) -/

section
variable {s : State} {w : Walk} (hwalk : s.walk s.act.el = some w) (hover : w.isOver = false)
include hwalk hover

/-- A walk that has not ended is the one whose node is processed. -/
theorem State.walkNow_of_running : s.walkNow = some w := by simp [State.walkNow, hwalk, hover]

/-! #### Tasks (R343, R345) -/

section
variable (g : GHead) (async : Bool) (mk : Walk → Task)

/-- A node that has created no task yet creates it, and waits for it unless ASYNC. -/
theorem taskNode_creates (htask : w.task = none) :
    let t := { mk w with pk := w.pk, walk := s.act.el, node := w.idx, prio := if g.prio ≤ w.ceil then g.prio else w.ceil, ready := s.cyc, since := s.cyc }
    taskNode g async s mk = .next ((s.setTask s.fl.next t).bump.afterTask w s.fl.next async g.next.toNat) := by
  intro t
  simp only [taskNode, State.walkNow_of_running hwalk hover, htask, t]

/-- Once its task has completed the walk goes on. -/
theorem taskNode_goes_on {k : Nat} (htask : w.task = some k) (hdone : s.task k = none) : taskNode g async s mk = .next (s.walkTo w g.next.toNat) := by
  simp only [taskNode, State.walkNow_of_running hwalk hover, htask, hdone, Option.isNone_none, if_true]
end

section
variable (g : GHead)

/-! #### Branches and frames (R346, R348) -/

theorem exec_nodeCond {pred : BitVec 64} (alt : BitVec 32) {t : State} {v : List Byte}
    (hread : s.graphRead w.pk w.asid s.act.el pred 4 = .done t v) :
    exec (.nodeCond g pred alt) s = .next (t.walkTo w (if leNat v ≠ 0 then g.next.toNat else alt.toNat)) := by
  show execNodeCond g pred alt s = _
  simp only [execNodeCond, State.walkNow_of_running hwalk hover, hread]

theorem exec_nodeLoop_empty (body : BitVec 32) : exec (.nodeLoop g body 0 0) s = .next (s.walkFault s.act.el w 0x9005 4 6 w.idx 0) := by
  show execNodeLoop g body 0 0 s = _
  simp only [execNodeLoop, State.walkNow_of_running hwalk hover, and_self, if_true]

theorem exec_nodeLoop (body : BitVec 32) {count : BitVec 32} {pred : BitVec 64} (hends : count ≠ 0 ∨ pred ≠ 0) :
    exec (.nodeLoop g body count pred) s = .next (s.pushFrame w
      { graph := w.graph, node := w.idx, next := g.next.toNat, loop := some (body.toNat, count.toNat, pred), mark := s.fl.next } w.graph body.toNat) := by
  show execNodeLoop g body count pred s = _
  simp only [execNodeLoop, State.walkNow_of_running hwalk hover]
  exact if_neg fun ⟨hc, hp⟩ => hends.elim (fun h => h hc) fun h => h hp

theorem exec_nodeSub (graph : BitVec 64) (entry : BitVec 32) :
    exec (.nodeSub g graph entry) s = .next (s.pushFrame w { graph := w.graph, node := w.idx, next := g.next.toNat, mark := s.fl.next }
      (if graph = 0 then w.graph else graph) entry.toNat) := by
  show execNodeSub g graph entry s = _
  simp only [execNodeSub, State.walkNow_of_running hwalk hover]

omit hwalk hover in
theorem State.pushFrame_full (hfull : 8 ≤ w.frames.length) (f : Frame) (graph : W64) (entry : Nat) :
    s.pushFrame w f graph entry = s.walkFault s.act.el w 0x9004 4 6 w.idx 0 := if_pos hfull
omit hwalk hover in
theorem State.pushFrame_room (hroom : w.frames.length < 8) (f : Frame) (graph : W64) (entry : Nat) :
    s.pushFrame w f graph entry = s.walkTo { w with frames := f :: w.frames, graph := graph } entry := if_neg (Nat.not_le.2 hroom)

theorem exec_nodeEnd_ends (hframes : w.frames = []) (htasks : s.walkTasks s.act.el 0 = []) :
    exec (.nodeEnd g) s = .next (s.delWalk s.act.el) := by
  show execNodeEnd g s = _
  simp only [execNodeEnd, State.walkNow_of_running hwalk hover, hframes, htasks, List.isEmpty_nil, if_true]

section
variable {f : Frame} {fs : List Frame} (hframes : w.frames = f :: fs) (htasks : s.walkTasks s.act.el f.mark = [])
include hframes htasks

theorem exec_nodeEnd_returns (hloop : f.loop = none) : exec (.nodeEnd g) s = .next (s.popFrame w f fs) := by
  show execNodeEnd g s = _
  simp only [execNodeEnd, State.walkNow_of_running hwalk hover, hframes, htasks, hloop, List.isEmpty_nil, Bool.true_eq_false, if_false]

theorem exec_nodeEnd_loops {body count : Nat} {pred : W64} (hloop : f.loop = some (body, count, pred)) :
    exec (.nodeEnd g) s = .next (s.loopTest w f fs body count pred) := by
  show execNodeEnd g s = _
  simp only [execNodeEnd, State.walkNow_of_running hwalk hover, hframes, htasks, hloop, List.isEmpty_nil, Bool.true_eq_false, if_false]
end

omit hwalk hover in
/-- A loop that only counts goes on until its count is reached. -/
theorem State.loopTest_counted (f : Frame) (fs : List Frame) (body : Nat) {count : Nat} (hcount : 0 < count) :
    s.loopTest w f fs body count 0 = if count ≤ f.k + 1 then s.popFrame w f fs else s.walkTo { w with frames := { f with k := f.k + 1 } :: fs } body := by
  simp only [State.loopTest, Nat.ne_of_gt hcount, ne_eq, not_false_eq_true, true_and, if_true]

/-! #### Counters (R347) -/

theorem exec_nodeWait_passes {ctr thr : BitVec 64} {t : State} {v : List Byte} (hshort : w.short = false)
    (hread : s.graphRead w.pk w.asid s.act.el ctr 8 = .done t v) (hreached : (BitVec.ofNat 64 (leNat v) - thr).toNat < 2 ^ 63) :
    exec (.nodeWait g ctr thr) s = .next (t.walkTo w g.next.toNat) := by
  show execNodeWait g ctr thr s = _
  simp only [execNodeWait, State.walkNow_of_running hwalk hover, hshort, hread, Bool.false_eq_true, if_false]
  exact if_pos hreached

omit hwalk hover g in
theorem exec_waitCounterReread {k : Nat} {x : Walk} (hx : s.walk k = some x) (hshort : x.short = true) :
    exec (.waitCounterReread k) s = .next (s.setWalk k { x with short := false }) := by
  show execWaitCounterReread k s = _
  simp only [execWaitCounterReread, hx, hshort, if_true]

theorem exec_nodeSignal {ctr add : BitVec 64} {t : State} {bs : List Byte} (hadd : s.graphAdd w.pk w.asid s.act.el ctr add = .done t bs) :
    exec (.nodeSignal g ctr add) s = .next (t.bump.walkTo w g.next.toNat) := by
  show execNodeSignal g ctr add s = _
  simp only [execNodeSignal, State.walkNow_of_running hwalk hover, hadd]

/-! #### Seals and messages (R160, R348) -/

theorem exec_nodeSeal_off (req : Bool) (hoff : s.enBit w.pk = false) : exec (.nodeSeal g req) s = .next (s.walkTo w g.next.toNat) := by
  show execNodeSeal g req s = _
  simp only [execNodeSeal, State.walkNow_of_running hwalk hover, hoff, if_true]

section
variable (req : Bool) (hon : s.enBit w.pk = true)
include hon

theorem exec_nodeSeal_again {thr : W32} (hthr : w.thr = some thr) :
    exec (.nodeSeal g req) s = .next (if ivLe thr (s.sealed w.pk) then s.walkTo w g.next.toNat else s) := by
  show execNodeSeal g req s = _
  simp only [execNodeSeal, State.walkNow_of_running hwalk hover, hon, hthr, Bool.true_eq_false, if_false, apply_ite Host.Outcome.next]

theorem exec_nodeSeal_first (hthr : w.thr = none) :
    let t := s.setWalk s.act.el { w with thr := some (s.open_ w.pk) }
    exec (.nodeSeal g req) s = .next (if req then t.noteReq w.pk else t) := by
  intro t
  show execNodeSeal g req s = _
  simp only [execNodeSeal, State.walkNow_of_running hwalk hover, hon, hthr, Bool.true_eq_false, if_false, t]
end

theorem exec_nodeMsg_first (m : BitVec 448) (hmsg : w.msg = none) :
    let ws := (List.range 14).map (fun i => (field m (32 * i) 32 : W32)) ++ [w.tag, BitVec.ofNat 32 w.idx]
    exec (.nodeMsg g m) s = .next (((s.setWait s.fl.next { kind := .msend w.pk ws false none, ord := s.fl.next, f := s.cyc }).setWalk s.act.el
      { w with msg := some s.fl.next }).bump) := by
  intro ws
  show execNodeMsg g m s = _
  simp only [execNodeMsg, State.walkNow_of_running hwalk hover, hmsg, ws]

theorem exec_nodeMsg_over (m : BitVec 448) {k : Nat} (hmsg : w.msg = some k) (hgone : s.wait k = none) :
    exec (.nodeMsg g m) s = .next (s.walkTo w g.next.toNat) := by
  show execNodeMsg g m s = _
  simp only [execNodeMsg, State.walkNow_of_running hwalk hover, hmsg, hgone, Option.isNone_none, if_true]
end
end

/-- A request noted leaves the walks. -/
theorem State.walk_noteReq (s : State) (pk wk : Nat) : (s.noteReq pk).walk wk = s.walk wk := by
  unfold State.noteReq State.raiseSeal
  split <;> rfl

/-! ### The obligations -/

/-- Settles O41: the write of an LM64, its taking, and the walk that starts from it. -/
theorem launchesBecomeWalks : Obligations.LaunchesBecomeWalks := by
  unfold Obligations.LaunchesBecomeWalks
  intro s pk
  refine ⟨fun n data => exec_lm64Write data, fun cyc n i => exec_lm64Take, fun cyc n i hfirst hroom => ?starts⟩
  case starts => exact ⟨_, _, exec_walkStart hfirst hroom, State.walk_setWalk_same .., rfl, rfl, rfl, rfl, rfl, rfl, rfl⟩

/-- Settles O42, node by node. -/
theorem nodesAdvanceTheirWalk : Obligations.NodesAdvanceTheirWalk := by
  unfold Obligations.NodesAdvanceTheirWalk
  intro s g w wk n prio hwalk hover
  refine ⟨?kernel, ?copy, ?completed, fun pred alt t v => exec_nodeCond hwalk hover g alt, exec_nodeLoop_empty hwalk hover g, ?full, ?loop, ?sub,
    fun hframes htasks => ⟨_, exec_nodeEnd_ends hwalk hover g hframes htasks, s.walk_delWalk_same wk⟩,
    fun f fs hframes hloop htasks => exec_nodeEnd_returns hwalk hover g hframes htasks hloop, ?counted,
    fun ctr thr t v => exec_nodeWait_passes hwalk hover g, fun k x => exec_waitCounterReread, fun ctr add t bs => exec_nodeSignal hwalk hover g,
    fun req => exec_nodeSeal_off hwalk hover g req, fun req thr hon => exec_nodeSeal_again hwalk hover g req hon, ?opens, ?message,
    fun m k => exec_nodeMsg_over hwalk hover g m⟩
  case kernel => exact fun fig done ua htask => ⟨taskNode_creates hwalk hover g true _ htask, taskNode_creates hwalk hover g false _ htask⟩
  case copy => exact fun die port done req htask => ⟨taskNode_creates hwalk hover g true _ htask, taskNode_creates hwalk hover g false _ htask⟩
  case completed =>
    exact fun k fig done ua die port req async htask hdone =>
      ⟨taskNode_goes_on hwalk hover g async _ htask hdone, taskNode_goes_on hwalk hover g async _ htask hdone⟩
  case full =>
    intro body count pred graph entry hfull hends
    exact ⟨(exec_nodeLoop hwalk hover g body hends).trans (congrArg _ (State.pushFrame_full hfull ..)),
      (exec_nodeSub hwalk hover g graph entry).trans (congrArg _ (State.pushFrame_full hfull ..))⟩
  case loop =>
    exact fun body count pred hroom hends => (exec_nodeLoop hwalk hover g body hends).trans (congrArg _ (State.pushFrame_room hroom ..))
  case sub => exact fun graph entry hroom => (exec_nodeSub hwalk hover g graph entry).trans (congrArg _ (State.pushFrame_room hroom ..))
  case counted =>
    intro f fs body count hframes hloop hcount htasks
    exact (exec_nodeEnd_loops hwalk hover g hframes htasks hloop).trans (congrArg _ (State.loopTest_counted f fs body hcount))
  case opens =>
    intro req hon hthr
    refine ⟨_, exec_nodeSeal_first hwalk hover g req hon hthr, ?_⟩
    cases req with
    | false => exact congrArg (Option.bind · Walk.thr) (State.walk_setWalk_same ..)
    | true => exact congrArg (Option.bind · Walk.thr) ((State.walk_noteReq ..).trans (State.walk_setWalk_same ..))
  case message =>
    intro m hmsg
    refine ⟨_, exec_nodeMsg_first hwalk hover g m hmsg, congrArg (Option.bind · Walk.msg) (State.walk_setWalk_same ..), ?_⟩
    exact congrArg (Option.map Wait.kind) ((State.wait_setWait ..).trans (if_pos rfl))

end Sys2Proof.Machine
end

section
/-! CERTIFICATE. Register writes are checked and taken (R367, R378, R408). -/
namespace Sys2Proof.Machine
open Sys2Proof

/-- A register's slot begins at a multiple of 8 (Table 15.5). -/
theorem off_mod_eight_of_regAt {off : Nat} {x : RKind × Nat} (h : regAt off = some x) : off % 8 = 0 := by
  by_contra hoff
  rw [regAt] at h
  simp [hoff] at h

section
variable {s : State} {pk off : Nat} {v : W64}

/-- A write of 8 bytes reaches the register whose slot it names. -/
theorem exec_registerWrite (hon : s.windowOn pk = true) (hoff : off % 8 = 0) : exec (.registerWrite pk off 8 v) s = .next (s.regWrite pk off v) := by
  show execRegisterWrite pk off 8 v s = _
  rw [execRegisterWrite, if_neg (by simp [hon]), if_neg (by simp [hoff]), if_pos rfl]

section
variable {k : RKind} {i : Nat} (hat : regAt off = some (k, i))
include hat

/-- A register whose write only changes its value takes the write through the checks alone. -/
theorem State.regWrite_simple (hsimple : k.simple = true) : s.regWrite pk off v = s.windowWrite pk off v (plainWrite pk off) := by
  simp only [State.regWrite, hat]
  cases k <;> cases hsimple <;> rfl

/-- A write that a check refuses is discarded whole. -/
theorem State.windowWrite_refused {act : W64 → State → State} (hon : s.windowOn pk = true)
    (hbad : v &&& k.rsv ≠ 0 ∨ k.bad (s.reg pk off) v = true ∨ s.writeAllowed pk k i off v = false) :
    s.windowWrite pk off v act = s.discard pk off := by
  rw [State.windowWrite, if_neg (by simp [hon])]
  simp only [hat]
  exact if_pos hbad
end
end

/-! ### The obligation -/

/-- Settles O45: accepted, refused, where no register lies, and while the window does not answer. -/
theorem windowWritesAreCheckedAndTaken : Obligations.WindowWritesAreCheckedAndTaken := by
  unfold Obligations.WindowWritesAreCheckedAndTaken
  intro s pk off v
  refine ⟨fun k i ⟨hon, hat, hrsv, hgood, hfree⟩ hsimple => ?accepted, fun k i hon hat hsimple hbad => ?refused, fun hon hat hoff => ?unmapped,
    fun hoff => if_pos hoff⟩
  case accepted =>
    rw [exec_registerWrite hon (off_mod_eight_of_regAt hat), State.regWrite_simple hat hsimple,
      State.windowWrite_accepted s pk off v _ k i hon hat hrsv hgood hfree]
    rfl
  case refused =>
    rw [exec_registerWrite hon (off_mod_eight_of_regAt hat), State.regWrite_simple hat hsimple, State.windowWrite_refused hat hon hbad]
    rfl
  case unmapped =>
    rw [exec_registerWrite hon hoff]
    simp only [State.regWrite, hat, hon, if_true]

end Sys2Proof.Machine
end

section
/-! CERTIFICATE. The host reads and writes memory through BAR4 (R368, R409, R467). -/
namespace Sys2Proof.Machine
open Sys2Proof

section
variable {s : State} {pk off len : Nat}

theorem exec_bar4Load_off (hoff : s.barsOn pk = false) : exec (.bar4Load pk off len) s = .next (s.hostReads pk (List.replicate len 0xFF)) :=
  if_pos hoff

section
variable (hon : s.barsOn pk = true)
include hon

/-- A load that the aperture refuses receives ones, and leaves its record. -/
theorem exec_bar4Load_refused {c : BitVec 16} (hfault : s.apertureFault pk (s.aperture pk off) len = some c) :
    exec (.bar4Load pk off len) s = .next ((s.windowRecord pk c 0 (s.aperture pk off)).hostReads pk (List.replicate len 0xFF)) := by
  show execBar4Load pk off len s = _
  simp only [execBar4Load, hon, hfault, Bool.true_eq_false, if_false]

variable {pa : Nat} (hpa : s.aperture pk off = pa) (hfine : s.apertureFault pk pa len = none) (hstill : s.migState (s.backing pa false) = 0)
include hpa hfine hstill

/-- A load of undamaged bytes receives them. -/
theorem exec_bar4Load (hgood : s.ms.errs = []) : exec (.bar4Load pk off len) s = .next (s.hostReads pk (s.peeks (s.backing pa false) len)) := by
  show execBar4Load pk off len s = _
  rw [execBar4Load, if_neg (by simp [hon]), hpa]
  simp only [hfine]
  rw [if_neg (not_not.2 hstill), State.readBytes_of_errs_nil hgood, if_neg (by simp)]

/-- A store of a package that no rollback holds is written. -/
theorem exec_bar4Store {data : List Byte} (hstep : (s.members.get {} pk).step = 0) (hlen : data.length = len) :
    exec (.bar4Store pk off len data) s = .next (s.writeBytes (s.backing pa false) data) := by
  show execBar4Store pk off len data s = _
  rw [execBar4Store, if_neg (by simp [hon]), if_neg (not_not.2 hstep), hpa]
  simp only [hfine]
  rw [if_neg (not_not.2 hstill), ← hlen, List.take_length]
end
end

/-! ### The obligation -/

/-- Settles O47: loads and stores of good storage, loads with the BARs off or refused, and a poisoned write. -/
theorem theHostReachesMemory : Obligations.TheHostReachesMemory := by
  unfold Obligations.TheHostReachesMemory
  intro s pk off len pa
  refine ⟨fun hon hfine hgood hstill => ?load, fun data hon hstep hfine _ hstill hlen => ?store, exec_bar4Load_off, fun c hon => exec_bar4Load_refused hon,
    fun bar hbar => if_pos hbar⟩
  case load =>
    exact ⟨_, exec_bar4Load hon rfl hfine hstill hgood, (FMap.get_put ..).trans (if_pos rfl), sameMem_of_mem_eq rfl⟩
  case store =>
    exact ⟨_, exec_bar4Store hon rfl hfine hstill hstep hlen, s.peeks_writeBytes _ len data hlen, s.writeBytes_sameMemExcept _ len data hlen⟩

end Sys2Proof.Machine
end

section
/-! CERTIFICATE. A write of FLTCTL where the Figures are not listed in canonical form (R396). -/
namespace Sys2Proof.Machine
open Sys2Proof

/-- The window answers and FLTCTL.KEEP is 1. Figure 5 is listed twice, around Figure 3 with its kept record. -/
def unsortedFigs : State :=
  { (State.reset.setReg 0 0x18 2).setReg 0 0x16008 0x1008 with
    figs := [(5, { ended := true }), (3, { ended := true, kept := true }), (5, { ended := true, kept := true })] }

theorem unsortedFigs_accepts : unsortedFigs.Accepts 0 0x16008 8 .fltctl 0 where
  on := by decide
  reg := by decide
  rsv := by decide
  good := by decide
  free := by decide

/-- The record of Figure 3 is still kept once KEEP has gone to 0: its entry cannot be read, and so is not changed, while an entry of
Figure 5 stands before it, and those are gone at the end. -/
theorem fltctlKeepClear_keeps_unsorted {t : State} (h : exec (.fltctlKeepClear 0 8) unsortedFigs = .next t) : (t.fig 3).kept = true := by
  obtain rfl := Host.Outcome.next.inj h
  decide

/-! ### The obligation -/

/-- Refutes O46: the statement takes every state, also one whose map of Figures is not in canonical form. There the read of a Figure stops
at an entry of a higher number, and the kept record behind it is not freed. -/
theorem not_windowRegistersDoTheirWork : ¬ Obligations.WindowRegistersDoTheirWork := by
  unfold Obligations.WindowRegistersDoTheirWork
  intro h
  obtain ⟨-, -, -, -, -, -, -, hfltctl, -⟩ := h unsortedFigs 0 8 unsortedFigs_accepts.on
  obtain ⟨-, -, t, hexec, -, -, hfreed⟩ := hfltctl unsortedFigs_accepts
  have hkept := hfreed (by decide) (by decide) (3, { ended := true, kept := true }) (.tail _ (.head _)) rfl rfl rfl
  exact Bool.false_ne_true (hkept.symm.trans (fltctlKeepClear_keeps_unsorted hexec))

end Sys2Proof.Machine
end

section
/-! CERTIFICATE. Ports and the host link fail and recover (R371, R464 to R467). -/
namespace Sys2Proof.Machine
open Sys2Proof

/-! ### LNKSTn and SUSTAT -/

theorem lnkst_lt {port : Nat} (hport : port < 32) : lnkst port < 2 ^ 20 := by
  rw [lnkst]
  omega
theorem lnkst_no_draw {port : Nat} : ¬(lnkst port = 0x68 ∨ lnkst port = 0x70) := by
  rw [lnkst]
  omega

section
variable {s : State} {pk port : Nat}

theorem State.lnk_setLnk (v : W64) : (s.setLnk pk port v).lnk pk port = v := State.reg_setReg_same _ _ _ _ lnkst_no_draw

section
variable (hport : port < 32)
include hport

/-- A count in ECNTn leaves the ports. -/
theorem State.lnk_count {n : Nat} (hn : n < 16) (k : Nat) : (s.count pk n k).lnk pk port = s.lnk pk port :=
  State.reg_setReg_other _ _ _ _ _ _ (by omega) (lnkst_lt hport) (by rw [lnkst]; omega) lnkst_no_draw

/-- A port that leaves service reads so in LNKSTn and in SUSTAT. -/
theorem State.portUp_setPortUp_false : (s.setPortUp pk port false).portUp pk port = false := by
  have hlnk : (s.setPortUp pk port false).lnk pk port = s.lnk pk port &&& ~~~(1 : W64) :=
    (State.reg_setReg_other _ _ _ _ _ _ (by decide) (lnkst_lt hport) (by rw [lnkst]; omega) lnkst_no_draw).trans (State.lnk_setLnk _)
  rw [State.portUp, hlnk]
  simp
theorem State.sustat_setPortUp_false : ((s.setPortUp pk port false).reg pk 0x58).getLsbD port = false := by
  have hstat : (s.setPortUp pk port false).reg pk 0x58 = s.reg pk 0x58 &&& ~~~((1 : W64) <<< (port % 32)) :=
    State.reg_setReg_same _ _ _ _ (by decide)
  rw [hstat, Nat.mod_eq_of_lt hport]
  simp
end

theorem State.det_setPortUp_false : (s.setPortUp pk port false).det = s.det := rfl

/-! ### Flits and lanes (R464, R465) -/

/-- A flit error counts for a lane of the port, and asks for a replay (log 46). -/
theorem exec_linkFlitError (hup : s.portUp pk port = true) :
    let n := 32 * pk + port
    let l := 16 * n + (Config.freeLane s.free).toNat
    exec (.linkFlitError pk port) s = .next { s with free := s.free + 1, out := { s.out with
      laneErrs := s.out.laneErrs.put 0 l (s.out.laneErrs.get 0 l + 1), replays := s.out.replays.put 0 n (s.out.replays.get 0 n + 1) } } :=
  if_pos hup

/-- The requests for a replay at a port are answered. -/
def State.replayed (s : State) (pk port : Nat) : State := { s with out := { s.out with replays := s.out.replays.put 0 (32 * pk + port) 0 } }
theorem State.lnk_replayed : (s.replayed pk port).lnk pk port = s.lnk pk port := rfl
theorem State.portUp_replayed : (s.replayed pk port).portUp pk port = s.portUp pk port := rfl
theorem State.reg_replayed (off : Nat) : (s.replayed pk port).reg pk off = s.reg pk off := rfl
theorem State.replays_replayed : (s.replayed pk port).out.replays.get 0 (32 * pk + port) = 0 := (FMap.get_put ..).trans (if_pos rfl)
theorem State.count_out (n k : Nat) : (s.count pk n k).out = s.out := rfl

/-- A replay answers every request of the port, and counts in RETRY until that is full. -/
theorem exec_linkReplay (hup : s.portUp pk port = true) (hasked : s.out.replays.get 0 (32 * pk + port) ≠ 0)
    (hroom : (s.lnk pk port).toNat / 2 ^ 32 ≠ 0xFFFFFFFF) :
    exec (.linkReplay pk port) s = .next (((s.setLnk pk port (s.lnk pk port + 0x100000000)).replayed pk port).count pk 4 1) := by
  rw [show exec (.linkReplay pk port) s = execLinkReplay pk port s from rfl, execLinkReplay, if_pos ⟨hup, hasked⟩]
  exact congrArg (fun s1 : State => Host.Outcome.next ((s1.replayed pk port).count pk 4 1)) (if_neg hroom)

/-- A lane that lost lock gives way to the port's spare. -/
theorem exec_laneFailing_spare {lane : Nat} (hlane : lane < 8) (hup : (s.lnk pk port).getLsbD 0 = true) (hspare : (s.lnk pk port).getLsbD 2 = true)
    (hunused : (s.lnk pk port).getLsbD 3 = false) (hnone : (s.lnk pk port).getLsbD 7 = false) :
    exec (.laneFailing pk port lane true) s
      = .next ((s.setLnk pk port ((s.lnk pk port &&& ~~~(0x70 : W64)) ||| 8 ||| BitVec.ofNat 64 (lane * 16))).count pk 7 1) := by
  show execLaneFailing pk port lane true s = _
  have hserves : ¬((s.lnk pk port).getLsbD 0 = false ∨ 8 ≤ lane) := by simp [hup, hlane]
  rw [execLaneFailing, if_neg hserves, if_pos rfl, if_pos (by rw [hspare, hunused]; rfl)]
  simp only [hnone, Bool.false_and, Bool.false_eq_true, if_false]

/-! ### Ports (R466) -/

/-- A port that nothing crosses goes down without a record. -/
theorem exec_portDown (hup : s.portUp pk port = true) (hacc : s.crossing pk port = []) (hdeltas : s.crossingDeltas pk port = false) :
    exec (.portDown pk port) s = .next ((s.setPortUp pk port false).replayed pk port) := by
  show execPortDown pk port s = _
  rw [execPortDown, if_pos hup, State.downPort]
  exact congrArg _ (if_pos ⟨by rw [hacc]; rfl, hdeltas⟩)

/-- The port that a write of LNKCFG names, in the value that it leaves. -/
theorem accept_lnkcfg_port (old w : W64) : (RKind.lnkcfg.accept old w).toNat / 2 ^ 17 % 32 = w.toNat / 2 ^ 17 % 32 := by
  have hkept : ∀ i < 5, (RKind.ro .lnkcfg).getLsbD (17 + i) = false := by decide
  have hfield : (field (RKind.lnkcfg.accept old w) 17 5 : BitVec 5) = field w 17 5 := BitVec.eq_of_getLsbD_eq fun i hi => by
    rw [getLsbD_field, getLsbD_field, RKind.accept, BitVec.getLsbD_or, BitVec.getLsbD_and, BitVec.getLsbD_and, BitVec.getLsbD_not, hkept i hi]
    simp [show 17 + i < 64 by omega]
  simpa only [toNat_field, Nat.reducePow] using congrArg BitVec.toNat hfield

/-- A write of RETRAIN for a port that is down retrains it. -/
theorem exec_lnkcfgRetrain {w : W64} (h : s.Accepts pk 0x16638 w .lnkcfg 0) (hretrain : w.getLsbD 16 = true)
    (hdown : s.portUp pk (w.toNat / 2 ^ 17 % 32) = false) (hlinks : (s.reg pk 0x48).getLsbD 0 = true) :
    exec (.lnkcfgRetrain pk w) s
      = .next ((s.setReg pk 0x16638 (RKind.lnkcfg.accept (s.reg pk 0x16638) w)).trainPort pk (w.toNat / 2 ^ 17 % 32)) := by
  have hport : w.toNat / 2 ^ 17 % 32 < 32 := Nat.mod_lt _ (by decide)
  show Host.Outcome.next (s.lnkcfgWrite pk w) = _
  rw [State.lnkcfgWrite, State.windowWrite_accepted s pk _ w _ _ _ h.on h.reg h.rsv h.good h.free]
  simp only [accept_lnkcfg_port]
  refine congrArg _ (if_pos ⟨hretrain, ?down, ?links⟩)
  case down =>
    rw [State.portUp, State.lnk, State.reg_setReg_other _ _ _ _ _ _ (by decide) (lnkst_lt hport) (by rw [lnkst]; omega) lnkst_no_draw]
    exact hdown
  case links => rw [State.reg_setReg_other _ _ _ _ _ _ (by decide) (by decide) (by decide) (by decide), hlinks]

/-! ### Destinations that no port reaches (R466), and failed reads of the host (R467) -/

theorem exec_unreachableTimeout_access {ac : Nat} {a : Access} {rs since : Nat} (hacc : s.acc ac = some a) (hsent : a.phase = .sent)
    (hsince : a.since = some since) (hlate : since + 1800000 ≤ s.cyc) (hrs : a.rs = some rs) (hcut : s.linked (s.region a.rg).pk (paPkg a.pa) = false)
    (hout : s.sameDomain (s.region a.rg).pk (paPkg a.pa) = false) :
    exec (.unreachableTimeout ac) s = .next ((s.streamFault rs a.ret a.rg a.va 0x400A false).withdraw rs) := by
  show execUnreachableTimeout ac s = _
  simp only [execUnreachableTimeout, hacc, hsince, hrs]
  exact if_pos ⟨hsent, decide_eq_true hlate, hcut, hout⟩

theorem exec_unreachableTimeout_request {ac : Nat} {r : Req} {q since : Nat} (hacc : s.acc ac = none) (hreq : s.req ac = some r)
    (hcut : s.reqCut r = some q) (hover : r.isOver = false) (hsince : r.since = some since) (hlate : since + 1800000 ≤ s.cyc)
    (hout : s.sameDomain (tpPk r.tp) q = false) : exec (.unreachableTimeout ac) s = .next (s.endReq ac r 0x800A (s.reqVA r q)) := by
  show execUnreachableTimeout ac s = _
  simp only [execUnreachableTimeout, hacc, hreq, hcut, hsince]
  exact if_pos ⟨hover, decide_eq_true hlate, hout⟩

theorem exec_hostCompletionError {ac : Nat} {a : Access} (hacc : s.acc ac = some a) (hhome : a.phase = .home) (hscr : a.scr = none)
    (hspace : paSpace a.pa = 1) (hreads : a.kind.reads = true) :
    exec (.hostCompletionError ac) s = .next ((s.hosterr (paPkg a.pa) 2).homeFault ac a 0x4008) := by
  show execHostCompletionError ac s = _
  simp only [execHostCompletionError, hacc]
  exact if_pos ⟨hhome, hscr, hspace, hreads⟩
end

/-! ### The obligation -/

/-- Settles O48, event by event. -/
theorem linksFailAndRecover : Obligations.LinksFailAndRecover := by
  unfold Obligations.LinksFailAndRecover
  intro s pk port n v
  refine ⟨fun hup => if_neg (by rw [hup]; exact Bool.false_ne_true), rfl, rfl, exec_linkFlitError, fun hup hasked hport hroom => ?replay,
    fun lane hlane => exec_laneFailing_spare hlane, fun hup hacc hdeltas hport => ?down, fun w => exec_lnkcfgRetrain,
    fun ac a rs since => exec_unreachableTimeout_access, fun ac r q since => exec_unreachableTimeout_request,
    fun ac a => exec_hostCompletionError⟩
  case replay =>
    refine ⟨_, exec_linkReplay hup hasked hroom, ?retry, ?answered⟩
    case retry => rw [State.lnk_count hport (by decide), State.lnk_replayed, State.lnk_setLnk]
    case answered => rw [State.count_out, State.replays_replayed]
  case down =>
    refine ⟨_, exec_portDown hup hacc hdeltas, ?lnkst, ?sustat, ?det⟩
    case lnkst => rw [State.portUp_replayed, State.portUp_setPortUp_false hport]
    case sustat => rw [State.reg_replayed, State.sustat_setPortUp_false hport]
    case det => exact State.det_setPortUp_false (s := s) (pk := pk) (port := port)

end Sys2Proof.Machine
end

section
/-! CERTIFICATE. Pre-emption commits, halts, saves and resumes Figures (R331, R358 to R365). -/
namespace Sys2Proof.Machine
open Sys2Proof

section
variable {s : State}

/-! ### The commit of victims (R358) and `yld` (R331) -/

/-- The fewest first candidates that make room are committed. -/
theorem exec_preemptCommit {pk tk k : Nat} {t : Task} {u v : State} {as : List (List (Option Ask))} (hhead : s.headKernel pk = some (tk, t))
    (hok : s.preemptOk pk = true) (hwants : s.wants t = some (u, as))
    (hfirst : (List.range ((u.candidates pk t.prio).length + 1)).find? (fun k => (u.placeWithout pk tk as ((u.candidates pk t.prio).take k)).isSome) = some (k + 1))
    (hcommit : u.commit pk tk as ((u.candidates pk t.prio).take (k + 1)) = some v) : exec (.preemptCommit pk) s = .next v := by
  show execPreemptCommit pk s = _
  simp only [execPreemptCommit, hhead, hok, hwants, hfirst, hcommit, Bool.true_eq_false, if_false, if_neg (Nat.succ_ne_zero k), Option.getD_some]

/-- `yld` goes on where no KERNEL task heads the order. -/
theorem exec_yld_alone (hruns : s.reelRuns = true)
    (hhead : s.reelNext.headKernel (s.reelNext.fig (s.reelNext.fig (figOf s.act.rg)).lead).pk = none) : exec .yld s = .next s.reelNext := by
  show execYld s = _
  rw [execYld, if_pos hruns]
  simp only [hhead]

/-! ### The halt of a region (R359, R360) -/

/-- A quiet region halts: its fills are recorded as abandoned and its waiting operations as pending. -/
def State.haltRegion (s : State) (rg : Nat) : State :=
  let s1 := s.setRegion rg { s.region rg with halted := true, redo := s.fillsOf rg }
  { s1 with
    fab := { s1.fab with rings := s1.fab.rings.map fun (g : Nat × Ring) => (g.1, { g.2 with fills := g.2.fills.filter fun f => decide (f.rg ≠ rg) }) }
    fl := { s1.fl with waits := s1.fl.waits.filter fun w => decide (w.2.rg ≠ rg) }
    work := { s1.work with saved := (rg, { waits := s.fl.waits.filter fun w => decide (w.2.rg = rg) }) :: s1.work.saved.del rg } }

theorem State.region_haltRegion (rg : Nat) : (s.haltRegion rg).region rg = { s.region rg with halted := true, redo := s.fillsOf rg } :=
  (FMap.get_put ..).trans (if_pos rfl)
theorem State.waits_haltRegion (rg : Nat) : (s.haltRegion rg).fl.waits = s.fl.waits.filter fun w => decide (w.2.rg ≠ rg) := rfl

theorem exec_regionHalted {rg : Nat} (hphase : (s.fig (figOf rg)).phase = .halting) (hlive : (s.region rg).live = true)
    (hnew : (s.region rg).halted = false) (hexit : (s.region rg).exitWord = none) (hquiet : s.regionQuiet rg (s.region rg) = true) :
    exec (.regionHalted rg) s = .next ((s.haltRegion rg).groupHalted (figOf rg)) := by
  have hopen : ¬((s.fig (figOf rg)).phase ≠ .halting ∨ (s.region rg).live = false ∨ (s.region rg).halted = true) := by simp [hphase, hlive, hnew]
  have hrunning : ¬(s.region rg).exitWord.isSome = true := by simp [hexit]
  show execRegionHalted rg s = _
  rw [execRegionHalted, if_neg hopen, if_neg hrunning, if_neg (ne_true_of_eq_false · hquiet)]
  exact congrArg _ rfl

/-! ### The save of a region (R363) -/

/-- What a halted region holds moves into its record. -/
def State.regionSaved (s t : State) (rg off : Nat) : State :=
  ({ t with free := t.free + 1, work := { t.work with saved := (rg, s.takeRegion rg (s.region rg) off) :: t.work.saved.del rg } } : State).setRegion rg
    { s.region rg with saved := true }

theorem State.region_regionSaved (t : State) (rg off : Nat) : (s.regionSaved t rg off).region rg = { s.region rg with saved := true } :=
  (FMap.get_put ..).trans (if_pos rfl)
theorem State.savedRegion_regionSaved (t : State) (rg off : Nat) :
    (s.regionSaved t rg off).savedRegion rg = some (s.takeRegion rg (s.region rg) off) := by
  have hfirst : ((rg, s.takeRegion rg (s.region rg) off) :: t.work.saved.del rg).find? (fun p => decide (p.1 = rg)) =
      some (rg, s.takeRegion rg (s.region rg) off) := List.find?_cons_of_pos (decide_eq_true rfl)
  exact congrArg (Option.map Prod.snd) hfirst

theorem exec_figureSave {fg base size i off : Nat} {t u : State} (hphase : (s.fig fg).phase = .halted) (hsave : (s.fig fg).save = some (base, size))
    (hnext : (s.recOffsets fg).find? (fun p => !(s.region (fg * 64 + p.1)).saved) = some (i, off))
    (hclosed : s.regionOpen (fg * 64 + i) (s.region (fg * 64 + i)) = false) (hclean : ∀ st ∈ (s.region (fg * 64 + i)).stripes, s.taintedAt st = none)
    (hwrite : s.recWrite (s.fig fg).pk fg (base + off) (regionHeader s.free (s.region (fg * 64 + i))
      ++ (((s.region (fg * 64 + i)).stripes.zip (List.range (s.region (fg * 64 + i)).count)).map fun p =>
        stripeRecord s.free s p.1 p.2 ((s.region (fg * 64 + i)).lcs.get {} (s.region (fg * 64 + i)).dlc.toNat).n.toNat).flatten) = (some t, u)) :
    exec (.figureSave fg) s = .next (s.regionSaved t (fg * 64 + i) off) := by
  have htaint : (s.region (fg * 64 + i)).stripes.findSome? s.taintedAt = none := List.findSome?_eq_none_iff.2 hclean
  show execFigureSave fg s = _
  simp only [execFigureSave, hphase, hsave, hnext, hclosed, htaint, hwrite, State.regionSaved, Bool.false_eq_true, if_false]

/-! ### The release of a stripe (R364) -/

/-- A stripe that nothing holds. -/
def Stripe.released (x : Stripe) : Prop := x.rg = none ∧ x.av = false ∧ ∀ p, (x.planes.get {} p).valid = false

theorem State.bareStripe_released (st : Nat) : ((s.bareStripe st).stripe st).released := by
  rw [State.bareStripe, State.stripe_setStripe, if_pos rfl]
  exact ⟨rfl, rfl, fun _ => rfl⟩
theorem State.stripe_reapFig (fg st : Nat) : (s.reapFig fg).stripe st = s.stripe st := by
  rw [State.reapFig]
  split <;> rfl

theorem State.stripe_count (pk n k st : Nat) : (s.count pk n k).stripe st = s.stripe st := rfl

/-- A released stripe is bare, the tainted tokens that it lost are counted, and its ring was busy. -/
def State.freeStripe (s : State) (st lost : Nat) : State :=
  let s0 := (s.bareStripe st).count (pkOf (ringOf st)) 1 lost
  s0.setRing (ringOf st) { s0.ring (ringOf st) with busyAt := s.cyc }
/-- A region without stripes is gone, with its buffers in ring banks. -/
def State.leaveRegion (s : State) (rg : Nat) (r : Region) : State :=
  let t := s.dropRegion rg
  { t with bufs := t.bufs.filter fun b => !(decide (paSpace b.1 = 3) && r.allots (paPkg b.1 * 64 + b.1 / 2 ^ 26 % 64) (b.1 % 2 ^ 26) 32) }
theorem State.stripe_freeStripe (st lost : Nat) : (s.freeStripe st lost).stripe st = (s.bareStripe st).stripe st := by
  rw [State.freeStripe, State.stripe_setRing, State.stripe_count]
theorem State.stripe_leaveRegion (rg : Nat) (r : Region) (st : Nat) : (s.leaveRegion rg r).stripe st = s.stripe st := rfl

/-- The last stripe of a region takes the region with it. -/
theorem exec_stripeRelease_eq {st rg lost : Nat} (hrg : (s.stripe st).rg = some rg)
    (hfree : ¬((s.fig (figOf rg)).phase ≠ .saved ∨ s.fl.accs.any (fun a => decide (a.2.rg = rg)) = true))
    (hlost : (if (s.region rg).exitWord.isSome = true then s.taintedTokens st else 0) = lost) :
    exec (.stripeRelease st) s = if (s.freeStripe st lost).fab.stripes.any fun t => decide (t.2.rg = some rg) then .next (s.freeStripe st lost)
      else .next (((s.freeStripe st lost).leaveRegion rg ((s.freeStripe st lost).region rg)).reapFig (figOf rg)) := by
  rw [show exec (.stripeRelease st) s = execStripeRelease st s from rfl, execStripeRelease]
  simp only [hrg, if_neg hfree, hlost]
  exact rfl

/-- A stripe of a saved Figure that no access reads or writes is released. -/
theorem exec_stripeRelease {st rg : Nat} (hrg : (s.stripe st).rg = some rg) (hphase : (s.fig (figOf rg)).phase = .saved)
    (hacc : ∀ a ∈ s.fl.accs, a.2.rg ≠ rg) : ∃ t, exec (.stripeRelease st) s = .next t ∧ (t.stripe st).released := by
  have hfree : ¬((s.fig (figOf rg)).phase ≠ .saved ∨ s.fl.accs.any (fun a => decide (a.2.rg = rg)) = true) := by
    simpa [hphase] using fun n a ha => hacc (n, a) ha
  obtain ⟨lost, hlost⟩ : ∃ lost, (if (s.region rg).exitWord.isSome = true then s.taintedTokens st else 0) = lost := ⟨_, rfl⟩
  rw [exec_stripeRelease_eq hrg hfree hlost]
  split
  · refine ⟨_, rfl, ?_⟩
    rw [State.stripe_freeStripe]
    exact State.bareStripe_released st
  · refine ⟨_, rfl, ?_⟩
    rw [State.stripe_reapFig, State.stripe_leaveRegion, State.stripe_freeStripe]
    exact State.bareStripe_released st

/-! ### Resumption (R365) -/

theorem exec_resumption {fg : Nat} {t : Task} {spots : List (List (Option Spot))} (hphase : (s.fig fg).phase = .saved) (hended : (s.fig fg).ended = false)
    (hnext : (s.nextKernel (s.fig fg).pk).map Prod.fst = some (s.fig fg).task) (hrank : (s.fig fg).rank ≠ 1)
    (hstep : (s.members.get {} (s.fig fg).pk).step = 0) (hgone : ∀ g ∈ s.group fg, s.regionsOf g = []) (hdet : ∀ d ∈ s.det, d.own ≠ .figure fg)
    (htask : s.task (s.fig fg).task = some t) (hgood : ∀ g ∈ s.group fg, s.badLine g = none ∧ s.recordOk g = true)
    (hplace : s.tryPlace (s.fig fg).pk (s.fig fg).task (fun _ => false) ((s.group fg).map fun g => s.savedAsks g) = some spots) :
    exec (.resumption fg) s = .next (((((s.group fg).zip spots).foldl (fun v p => v.layFigure p.1 p.2) s).setTask (s.fig fg).task
      { t with phase := .running }).placedTask (s.fig fg).pk (s.fig fg).task) := by
  have hempty : ((s.group fg).any fun g => !((s.regionsOf g).isEmpty)) = false := by
    simpa using hgone
  have hnone : (s.det.any fun d => decide (d.own = .figure fg)) = false := by simpa using hdet
  have hready : ¬((s.fig fg).phase ≠ .saved ∨ (s.fig fg).ended = true ∨ (s.nextKernel (s.fig fg).pk).map Prod.fst ≠ some (s.fig fg).task
      ∨ (s.fig fg).rank = 1 ∨ (s.members.get {} (s.fig fg).pk).step ≠ 0 ∨ ((s.group fg).any fun g => !((s.regionsOf g).isEmpty)) = true
      ∨ (s.det.any fun d => decide (d.own = .figure fg)) = true) := by
    simp only [hphase, hended, hnext, hrank, hstep, hempty, hnone, ne_eq, not_true_eq_false, Bool.false_eq_true, or_self, not_false_eq_true]
  have hlines : (s.group fg).findSome? s.badLine = none := List.findSome?_eq_none_iff.2 fun g hg => (hgood g hg).1
  have hrecords : ((s.group fg).any fun g => !(s.recordOk g)) = false := by
    simpa using fun g hg => (hgood g hg).2
  show execResumption fg s = _
  rw [execResumption, if_neg hready]
  simp only [htask, hlines, hrecords, hplace, Bool.false_eq_true, if_false]
end

/-! ### The obligation -/

/-- Settles O44, event by event. -/
theorem figuresAreSavedAndResumed : Obligations.FiguresAreSavedAndResumed := by
  unfold Obligations.FiguresAreSavedAndResumed
  intro s
  refine ⟨fun pk tk t u as k v => exec_preemptCommit, exec_yld_alone, fun rg hphase hlive hnew hexit hquiet => ?halted,
    fun fg base size i off t u hphase hsave hnext hclosed hclean hwrite => ?saved, fun st rg => exec_stripeRelease,
    fun fg t spots => exec_resumption⟩
  case halted =>
    refine ⟨_, exec_regionHalted hphase hlive hnew hexit hquiet, State.region_haltRegion _, fun w hw => ?_⟩
    rw [State.waits_haltRegion] at hw
    exact of_decide_eq_true (List.mem_filter.1 hw).2
  case saved =>
    exact ⟨_, exec_figureSave hphase hsave hnext hclosed hclean hwrite, State.region_regionSaved t _ off, State.savedRegion_regionSaved t _ off⟩

end Sys2Proof.Machine
end

section
/-! CERTIFICATE. The fault handler disposes of detected conditions (R396, R404, R405, R443, R460, R461). -/
namespace Sys2Proof.Machine
open Sys2Proof

section
variable {s : State} {pk : Nat}

/-! ### The queue of the log (R405) -/

theorem State.sched_setSched (x : Sched) : (s.setSched pk x).sched pk = x := (FMap.get_put ..).trans (if_pos rfl)
theorem State.sched_setLog (l : List FaultRec) : (s.setLog pk l).sched pk = { s.sched pk with log := l } := State.sched_setSched _

/-- A record that the queue has room for takes its number and joins it. -/
theorem State.queueRec_of_room (r : FaultRec) (hroom : (s.sched pk).log.length < 256) :
    (s.queueRec pk r).1 = (s.setSched pk { s.sched pk with num := (s.sched pk).num + 1 }).setLog pk
      ((s.sched pk).log ++ [{ r with num := BitVec.ofNat 32 (s.sched pk).num }]) :=
  congrArg Prod.fst (if_neg (Nat.not_le.2 hroom))
theorem State.log_queueRec (r : FaultRec) (hroom : (s.sched pk).log.length < 256) :
    ((s.queueRec pk r).1.sched pk).log = (s.sched pk).log ++ [{ r with num := BitVec.ofNat 32 (s.sched pk).num }] := by
  rw [State.queueRec_of_room r hroom, State.sched_setLog]
theorem State.det_queueRec (r : FaultRec) : (s.queueRec pk r).1.det = s.det := by
  unfold State.queueRec
  dsimp only
  split <;> rfl

/-! ### The handler takes the only condition that stands (R397 to R400) -/

section
variable {d : Detected} (hdet : s.det = [d]) (hpkg : d.info.pkg.toNat = pk) (hcyc : d.info.cyc.toNat < s.cyc)
include hdet hpkg hcyc

theorem find_det : s.det.find? (fun d => decide (d.info.pkg.toNat = pk ∧ d.info.cyc.toNat < s.cyc)) = some d := by
  rw [hdet]
  exact List.find?_cons_of_pos (decide_eq_true ⟨hpkg, hcyc⟩)
omit hpkg hcyc in
theorem dropDet_det : dropDet d s.det = [] := by
  rw [hdet]
  exact if_pos rfl
omit hpkg hcyc in
theorem bestDet_det :
    bestDet (s.det.filter fun e => decide (e.own = d.own ∧ e.info.cyc = d.info.cyc ∧ e.info.pkg = d.info.pkg)) = some d := by
  have hsame : [d].filter (fun e => decide (e.own = d.own ∧ e.info.cyc = d.info.cyc ∧ e.info.pkg = d.info.pkg)) = [d] :=
    List.filter_cons_of_pos (decide_eq_true ⟨rfl, rfl, rfl⟩)
  rw [hdet, hsame]
  exact Option.some_inj.2 rfl

/-- A condition of the window without an owner joins the log. -/
theorem exec_dispatch_none (hown : d.own = .none) (htier : d.info.tier = 4) (hpoint : d.info.point = 7) :
    exec (.faultRecordDispatch pk) s = .next ((({ s with det := [] } : State).queueRec pk d.info).1) := by
  have hfree : d.info.counted = false := decide_eq_false fun h => h.2.1 hpoint
  have hrank : d.info.rank ≠ 1 := by
    rw [FaultRec.rank, if_neg (by rw [htier]; decide)]
    split
    · decide
    · split <;> decide
  show execFaultRecordDispatch pk s = _
  simp only [execFaultRecordDispatch, find_det hdet hpkg hcyc, hown, if_true, dropDet_det hdet, hfree, Bool.false_eq_true, if_false, if_neg hrank]

/-- A condition of a Figure meets the dispositions that stand for it. -/
theorem exec_dispatch_figure {fg : Nat} (hown : d.own = .figure fg) (hfig : (s.figs.any fun f => decide (f.1 = fg)) = true) :
    exec (.faultRecordDispatch pk) s = .next (({ s with det := [] } : State).figDisp (s.fig fg).lead d.info) := by
  have hchosen : (if d.own = .none then d else
      (bestDet (s.det.filter fun e => decide (e.own = d.own ∧ e.info.cyc = d.info.cyc ∧ e.info.pkg = d.info.pkg))).getD d) = d := by
    rw [bestDet_det hdet, Option.getD_some, ite_self]
  show execFaultRecordDispatch pk s = _
  simp only [execFaultRecordDispatch, find_det hdet hpkg hcyc, hchosen, dropDet_det hdet]
  simp only [hown]
  exact if_pos hfig
end

/-! ### Dispositions of a placed Figure (R461) -/

/-- Only a schedule fault takes a mark of R423. -/
theorem State.fillRec_of_ne {r : FaultRec} (x : Fig) (hcode : r.fcode ≠ 0xE103) : s.fillRec r x = { r with asid := x.asid, tag := x.tag } := by
  simp only [State.fillRec, hcode, decide_false, Bool.false_and, Bool.false_eq_true, if_false]

section
variable {fg : Nat} {r q : FaultRec} (hfill : s.fillRec r (s.fig fg) = q) (hcode : q.fcode ≠ 0xE103) (hphase : (s.fig fg).phase = .placed)
  (hended : (s.fig fg).ended = false) (hrank : (s.fig fg).rank = 0)
include hfill hcode hphase hended hrank

/-- A condition that ends a Figure without a disposition ends it. -/
theorem State.figDisp_end (hcounted : q.counted = true) (htwo : q.rank = 2) : s.figDisp fg r = (s.count (s.fig fg).pk 10 1).endDisp fg 2 q := by
  have hplain : ¬(q.fcode = 0xE103 ∧ s.inDomain (s.fig fg).pk = true) := fun h => hcode h.1
  simp only [State.figDisp, hfill, hcounted, htwo, hphase, hended, hrank, if_neg hplain, Nat.reduceEqDiff, ne_eq, not_true_eq_false, false_and,
    if_false, if_true, reduceCtorEq, Bool.false_eq_true]

/-- A condition that holds a Figure without a disposition holds it. -/
theorem State.figDisp_hold (hfree : q.counted = false) (hthree : q.rank = 3) : s.figDisp fg r = s.holdDisp fg q := by
  have hplain : ¬(q.fcode = 0xE103 ∧ s.inDomain (s.fig fg).pk = true) := fun h => hcode h.1
  simp only [State.figDisp, hfill, hfree, hthree, hphase, hended, hrank, if_neg hplain, Nat.reduceEqDiff, ne_eq, not_true_eq_false, false_and,
    if_false, reduceCtorEq, Bool.false_eq_true]
end

/-- An address condition of an access ends its Figure. -/
theorem FaultRec.rank_access {r : FaultRec} (htier : r.tier = 4) (hcode : r.fcode.toNat / 4096 = 4) : r.rank = 2 := by
  have hne : ∀ c : BitVec 16, c.toNat / 4096 ≠ 4 → r.fcode ≠ c := fun c hc h => hc (h ▸ hcode)
  have hlow : ¬(0xC001 ≤ r.fcode) := fun h => by
    have := BitVec.le_def.1 h
    simp at this
    omega
  rw [FaultRec.rank, if_neg (by rw [htier]; decide), if_neg (by simp [hne]), if_neg (fun h => hlow h.2.1)]
/-- A trap holds its Figure. -/
theorem FaultRec.rank_trap {r : FaultRec} (htier : r.tier = 4) (hcode : r.fcode = 0xD001) : r.rank = 3 := by
  rw [FaultRec.rank, if_neg (by rw [htier]; decide), if_pos (.inl hcode)]

/-! ### The log in the host's memory (R404, R405) -/

theorem length_recBytes (r : FaultRec) : (recBytes r).length = 64 := by
  simp [recBytes, leBytes_length]

/-- Addresses of the host's memory below 2^40 do not wrap. -/
theorem hostPA_of_lt {a : Nat} (ha : a < 2 ^ 40) : hostPA pk a = 2 ^ 53 + pk * 2 ^ 40 + a := by
  rw [hostPA, Nat.mod_eq_of_lt ha]

/-- Bytes written beside a range leave what it reads as. -/
theorem State.peeks_poke_other {a b n : Nat} {bs : List Byte} (hapart : a + n ≤ b) : (s.poke b bs).peeks a n = s.peeks a n :=
  List.map_congr_left fun i hi => by
    rw [State.peek_poke, if_neg (by have := List.mem_range.1 hi; omega)]

/-- A record stands in its ring, and the producer index and the word behind the ring have moved on. -/
def State.posted (s : State) (pk b n p : Nat) (bytes : List Byte) : State :=
  ((s.poke (hostPA pk (b + 64 * (p % n))) bytes).setReg pk 0x16010 (BitVec.ofNat 64 ((p + 1) % 2 ^ 32))).poke
    (hostPA pk (b + 64 * n)) (leBytes 8 ((p + 1) % 2 ^ 32))

section
variable {n p b : Nat} {bytes : List Byte}

theorem State.work_posted : (s.posted pk b n p bytes).work = s.work := by
  rw [State.posted, State.poke_work, State.setReg_work, State.poke_work]
theorem State.reg_posted : (s.posted pk b n p bytes).reg pk 0x16010 = BitVec.ofNat 64 ((p + 1) % 2 ^ 32) := by
  rw [State.posted, State.poke_eq]
  exact State.reg_setReg_same (off := 0x16010) _ _ _ (by decide)
theorem State.peeks_posted (hpos : 0 < n) (hin : b + 64 * n + 8 ≤ 2 ^ 40) (hlen : bytes.length = 64) :
    (s.posted pk b n p bytes).peeks (hostPA pk (b + 64 * (p % n))) 64 = bytes := by
  have hmod : p % n < n := Nat.mod_lt _ hpos
  have hapart : hostPA pk (b + 64 * (p % n)) + 64 ≤ hostPA pk (b + 64 * n) := by
    rw [hostPA_of_lt (by omega), hostPA_of_lt (by omega)]
    omega
  rw [State.posted, State.peeks_poke_other hapart]
  exact State.peeks_poke _ _ _ _ hlen

/-- A record goes to its place in the ring unless the host is away or the ring is full; an interrupt may follow. -/
theorem State.hostRing_of_room (hn : 2 ^ ((s.reg pk 0x16008).toNat / 2 % 16) = n) (hp : (s.reg pk 0x16010).toNat = p)
    (hb : (s.reg pk 0x16000).toNat % 2 ^ 40 / 4096 * 4096 = b) (hup : s.out.hostDown.get false pk = false)
    (hroom : (p + 2 ^ 32 - (s.reg pk 0x16018).toNat) % 2 ^ 32 ≠ n) :
    ∃ out, s.hostRing pk 0x16000 0x16008 0x16010 0x16018 bytes = some { s.posted pk b n p bytes with out := out } := by
  subst hn hp hb
  have hgoes : ¬(s.out.hostDown.get false pk = true
      ∨ ((s.reg pk 0x16010).toNat + 2 ^ 32 - (s.reg pk 0x16018).toNat) % 2 ^ 32 = 2 ^ ((s.reg pk 0x16008).toNat / 2 % 16)) :=
    not_or.2 ⟨ne_true_of_eq_false hup, hroom⟩
  rw [State.hostRing, if_neg hgoes]
  dsimp only
  split
  · exact ⟨_, rfl⟩
  · exact ⟨_, rfl⟩
end

/-- The oldest queued record goes to the log. -/
theorem exec_faultRecordPost {r : FaultRec} {rs : List FaultRec} {t : State} (hlog : (s.sched pk).log = r :: rs) (hen : (s.reg pk 0x16008).getLsbD 0 = true)
    (hring : s.hostRing pk 0x16000 0x16008 0x16010 0x16018 (recBytes { r with cyc := BitVec.ofNat 64 (r.cyc.toNat - s.out.clock0.get 0 pk) }) = some t) :
    exec (.faultRecordPost pk) s = .next (t.setLog pk rs) := by
  show execFaultRecordPost pk s = _
  simp only [execFaultRecordPost, hlog, hen, hring, Bool.true_eq_false, if_false]

theorem State.reg_setLog {off : Nat} (l : List FaultRec) (hoff : off < 2 ^ 20) (hne : 0x16020 ≠ off) (hp : ¬(off = 0x68 ∨ off = 0x70)) :
    (s.setLog pk l).reg pk off = s.reg pk off :=
  State.reg_setReg_other _ _ _ _ _ _ (by decide) hoff hne hp
theorem State.reg_setOut (out : Outside) {off : Nat} (hp : ¬(off = 0x68 ∨ off = 0x70)) : ({ s with out := out } : State).reg pk off = s.reg pk off := by
  rw [State.reg, State.reg, if_neg hp, if_neg hp]
theorem State.peeks_setOut (out : Outside) (a n : Nat) : ({ s with out := out } : State).peeks a n = s.peeks a n := rfl
theorem State.peeks_setLog (l : List FaultRec) (a n : Nat) : (s.setLog pk l).peeks a n = s.peeks a n := rfl

/-! ### The disposal registers (R443, R460) -/

section
variable {off num act : Nat} {trap : Bool} {k : RKind}

/-- The word that the host writes to dispose of the Figure that a record names. -/
def disposal (num act : Nat) : W64 := BitVec.ofNat 64 (num + act * 2 ^ 32)

section
variable (hnum : num < 2 ^ 32) (hact : act < 4)
include hnum hact

theorem toNat_disposal : (disposal num act).toNat = num + act * 2 ^ 32 := by
  rw [disposal, BitVec.toNat_ofNat, Nat.mod_eq_of_lt (by omega)]
theorem field_disposal : (field (disposal num act) 0 32 : W32) = BitVec.ofNat 32 num := by
  refine BitVec.eq_of_toNat_eq ?_
  rw [toNat_field, toNat_disposal hnum hact, BitVec.toNat_ofNat]
  omega
theorem disposal_and_rsv : disposal num act &&& bitsTo 34 63 = 0 := by
  have hlow : ∀ i < 34, (bitsTo 34 63).getLsbD i = false := by decide
  have hhigh : ∀ i, 34 ≤ i → (disposal num act).getLsbD i = false := fun i hi => by
    rw [BitVec.getLsbD, toNat_disposal hnum hact]
    exact Nat.testBit_lt_two_pow (Nat.lt_of_lt_of_le (by omega) (Nat.pow_le_pow_right (by decide : 0 < 2) hi))
  refine BitVec.eq_of_getLsbD_eq fun i _ => ?_
  rw [BitVec.getLsbD_and]
  rcases Nat.lt_or_ge i 34 with hi | hi
  · simp [hlow i hi]
  · simp [hhigh i hi]

theorem disposal_action : (disposal num act).toNat / 2 ^ 32 % 4 = act := by
  rw [toNat_disposal hnum hact]
  omega

section
variable (hk : k = .pgfres ∧ act ≠ 3 ∨ k = .dbgres) (hat : regAt off = some (k, 0)) (hon : s.windowOn pk = true)
include hk hat hon

/-- A disposal register takes every action that it names. -/
theorem State.accepts_disposal : s.Accepts pk off (disposal num act) k 0 := by
  have hbits := disposal_and_rsv hnum hact
  have haction : ((field (disposal num act) 32 2 : BitVec 2)).toNat = act := by
    rw [toNat_field]
    exact disposal_action hnum hact
  rcases hk with ⟨rfl, hresume⟩ | rfl
  · exact ⟨hon, hat, hbits, by simp [RKind.bad, haction, hresume], rfl⟩
  · exact ⟨hon, hat, hbits, rfl, rfl⟩
omit hnum hact hat hon in
theorem accept_disposal (old : W64) : k.accept old (disposal num act) = disposal num act := by
  have hro : k.ro = 0#64 := by
    rcases hk with ⟨rfl, -⟩ | rfl
    · rfl
    · rfl
  have hall : ~~~(0#64 : W64) = BitVec.allOnes 64 := rfl
  rw [RKind.accept, hro, hall, BitVec.and_zero, BitVec.and_allOnes, BitVec.zero_or]

/-- A write that names no held Figure is discarded. -/
theorem State.resWrite_unheld (hheld : s.heldBy pk trap (BitVec.ofNat 32 num) = none) :
    s.resWrite pk off trap (disposal num act) = s.discard pk off := by
  have h := State.accepts_disposal (s := s) (pk := pk) hnum hact hk hat hon
  rw [State.resWrite, State.windowWrite_accepted s pk off _ _ k 0 h.on h.reg h.rsv h.good h.free, accept_disposal hk]
  simp only [field_disposal hnum hact, hheld]

/-- A write that names a held Figure resumes, ends or steps it. -/
theorem State.resWrite_held {fg : Nat} (hheld : s.heldBy pk trap (BitVec.ofNat 32 num) = some fg) :
    let t := s.setReg pk off (disposal num act)
    s.resWrite pk off trap (disposal num act) =
      if act = 0 then t else if act = 2 then t.endHeld fg else t.releaseHold fg trap (decide (act = 3)) := by
  have h := State.accepts_disposal (s := s) (pk := pk) hnum hact hk hat hon
  rw [State.resWrite, State.windowWrite_accepted s pk off _ _ k 0 h.on h.reg h.rsv h.good h.free, accept_disposal hk]
  simp only [field_disposal hnum hact, disposal_action hnum hact, hheld]
end
end

section
variable (hnum : num < 2 ^ 32)
include hnum

theorem exec_pgfresResume : exec (.pgfresResume pk num) s = .next (s.resWrite pk 0x16610 false (disposal num 1)) := by
  rw [disposal, Nat.one_mul]
  exact congrArg (fun m => Host.Outcome.next (s.resWrite pk 0x16610 false (BitVec.ofNat 64 (m + 2 ^ 32)))) (Nat.mod_eq_of_lt hnum)
theorem exec_pgfresEnd : exec (.pgfresEnd pk num) s = .next (s.resWrite pk 0x16610 false (disposal num 2)) :=
  congrArg (fun m => Host.Outcome.next (s.resWrite pk 0x16610 false (BitVec.ofNat 64 (m + 2 * 2 ^ 32)))) (Nat.mod_eq_of_lt hnum)
theorem exec_dbgresResume : exec (.dbgresResume pk num) s = .next (s.resWrite pk 0x16628 true (disposal num 1)) := by
  rw [disposal, Nat.one_mul]
  exact congrArg (fun m => Host.Outcome.next (s.resWrite pk 0x16628 true (BitVec.ofNat 64 (m + 2 ^ 32)))) (Nat.mod_eq_of_lt hnum)
theorem exec_dbgresEnd : exec (.dbgresEnd pk num) s = .next (s.resWrite pk 0x16628 true (disposal num 2)) :=
  congrArg (fun m => Host.Outcome.next (s.resWrite pk 0x16628 true (BitVec.ofNat 64 (m + 2 * 2 ^ 32)))) (Nat.mod_eq_of_lt hnum)
theorem exec_dbgresStep : exec (.dbgresStep pk num) s = .next (s.resWrite pk 0x16628 true (disposal num 3)) :=
  congrArg (fun m => Host.Outcome.next (s.resWrite pk 0x16628 true (BitVec.ofNat 64 (m + 3 * 2 ^ 32)))) (Nat.mod_eq_of_lt hnum)
end
end

end

/-! ### The obligation -/

/-- Settles O53: the conditions with and without an owner, the post of a record, and the two disposal registers. -/
theorem faultsAreDisposedOf : Obligations.FaultsAreDisposedOf := by
  unfold Obligations.FaultsAreDisposedOf
  intro s pk
  refine ⟨fun d hdet hpkg hcyc hown htier hpoint hroom => ?unowned, fun d fg hdet hpkg hcyc hown hfig hlead hended hphase hrank htier hcode hpoint => ?ends,
    fun d fg hdet hpkg hcyc hown hfig hlead hended hphase hrank htier hcode => ?holds, fun r rs hlog hen hup hroom hin => ?posts,
    fun num fg hnum hon => ⟨fun hheld => ?pgfresNone, fun hheld => ?dbgresNone, fun hheld => ?pgfres, fun hheld => ?dbgres⟩⟩
  case unowned =>
    exact ⟨_, exec_dispatch_none hdet hpkg hcyc hown htier hpoint, State.det_queueRec _, sameMem_of_mem_eq (State.queueRec_mem ..),
      State.log_queueRec d.info hroom⟩
  case ends =>
    have hcode3 : d.info.fcode ≠ 0xE103 := fun h => by simp [h] at hcode
    have hcounted : ({ d.info with asid := (s.fig fg).asid, tag := (s.fig fg).tag } : FaultRec).counted = true :=
      decide_eq_true ⟨htier, by simp [hpoint], by simp [hcode]⟩
    rw [exec_dispatch_figure hdet hpkg hcyc hown hfig, hlead]
    exact congrArg _ (State.figDisp_end (State.fillRec_of_ne _ hcode3) hcode3 hphase hended hrank hcounted (FaultRec.rank_access htier hcode))
  case holds =>
    have hcode3 : d.info.fcode ≠ 0xE103 := fun h => by simp [h] at hcode
    have hfree : ({ d.info with asid := (s.fig fg).asid, tag := (s.fig fg).tag } : FaultRec).counted = false :=
      decide_eq_false fun h => h.2.2 (by simp [hcode])
    rw [exec_dispatch_figure hdet hpkg hcyc hown hfig, hlead]
    exact congrArg _ (State.figDisp_hold (State.fillRec_of_ne _ hcode3) hcode3 hphase hended hrank hfree (FaultRec.rank_trap htier hcode))
  case posts =>
    obtain ⟨out, hring⟩ := State.hostRing_of_room (bytes := recBytes { r with cyc := BitVec.ofNat 64 (r.cyc.toNat - s.out.clock0.get 0 pk) })
      rfl rfl rfl hup hroom
    refine ⟨_, exec_faultRecordPost hlog hen hring, ?log, ?index, ?bytes⟩
    case log => rw [State.sched_setLog]
    case index =>
      rw [State.reg_setLog (off := 0x16010) _ (by decide) (by decide) (by decide), State.reg_setOut (off := 0x16010) _ (by decide), State.reg_posted]
    case bytes =>
      rw [State.peeks_setLog, State.peeks_setOut, State.peeks_posted (Nat.two_pow_pos _) hin (length_recBytes _)]
  case pgfresNone =>
    rw [exec_pgfresResume hnum, exec_pgfresEnd hnum, State.resWrite_unheld hnum (by decide) (.inl ⟨rfl, by decide⟩) rfl hon hheld,
      State.resWrite_unheld hnum (by decide) (.inl ⟨rfl, by decide⟩) rfl hon hheld]
    exact ⟨rfl, rfl⟩
  case dbgresNone =>
    rw [exec_dbgresResume hnum, exec_dbgresEnd hnum, exec_dbgresStep hnum, State.resWrite_unheld hnum (by decide) (.inr rfl) rfl hon hheld,
      State.resWrite_unheld hnum (by decide) (.inr rfl) rfl hon hheld, State.resWrite_unheld hnum (by decide) (.inr rfl) rfl hon hheld]
    exact ⟨rfl, rfl, rfl⟩
  case pgfres =>
    rw [exec_pgfresResume hnum, exec_pgfresEnd hnum, State.resWrite_held hnum (by decide) (.inl ⟨rfl, by decide⟩) rfl hon hheld,
      State.resWrite_held hnum (by decide) (.inl ⟨rfl, by decide⟩) rfl hon hheld]
    exact ⟨rfl, rfl⟩
  case dbgres =>
    rw [exec_dbgresResume hnum, exec_dbgresEnd hnum, exec_dbgresStep hnum, State.resWrite_held hnum (by decide) (.inr rfl) rfl hon hheld,
      State.resWrite_held hnum (by decide) (.inr rfl) rfl hon hheld, State.resWrite_held hnum (by decide) (.inr rfl) rfl hon hheld]
    exact ⟨rfl, rfl, rfl⟩

end Sys2Proof.Machine
end

section
/-! CERTIFICATE. Redundant instances are compared and spares take over (R426, R428 to R430, R432, R468). -/
namespace Sys2Proof.Machine
open Sys2Proof

section
variable {s : State} {fg key : Nat}

/-! ### Votes (R429) -/

section
variable {a b c : Nat × Point}

theorem vote_one : vote [a] = none := rfl
theorem vote_two (hab : a.2.what = b.2.what) : vote [a, b] = some ([a, b], []) := by simp [vote, hab]
theorem vote_three_all (hab : a.2.what = b.2.what) (hbc : b.2.what = c.2.what) : vote [a, b, c] = some ([a, b, c], []) := by simp [vote, hab, hbc]
theorem vote_three_two (hab : a.2.what = b.2.what) (hbc : b.2.what ≠ c.2.what) : vote [a, b, c] = some ([a, b], [c]) := by
  simp [vote, hab, hbc.symm]
theorem vote_three_none (hab : a.2.what ≠ b.2.what) (hbc : b.2.what ≠ c.2.what) (hac : a.2.what ≠ c.2.what) : vote [a, b, c] = none := by
  simp [vote, hab.symm, hbc.symm, hac.symm]
end

/-! ### The instances that have reached a point -/

/-- The instances that stand at a point which none performed without them. -/
def State.reached (s : State) (fg key : Nat) : List (Nat × Point) :=
  (s.group fg).filterMap fun g => if (s.fig g).owed.get [] key = [] then (s.pointAt g key).map fun p => (g, p) else none

section
variable (hcompares : s.compares fg = true) (howed : ∀ g ∈ s.group fg, (s.fig g).owed.get [] key = [])
include howed

/-- Where none of the instances owes the point, each that has reached it stands in the comparison. -/
theorem State.reached_eq : s.reached fg key = (s.group fg).filterMap fun g => (s.pointAt g key).map fun p => (g, p) :=
  List.filterMap_congr fun g hg => if_pos (howed g hg)

/-- What a compare point does with the instances that have reached it, where none of them is late. -/
def State.compareReached (s : State) (fg key : Nat) (here : List (Nat × Point)) : Host.Outcome State Fault Refusal :=
  let k := lateKey key (vote here).isSome
  if here.length < (s.group fg).length then
    if here ≠ [] ∧ (s.fig fg).late.get none k = none then .next (s.setLate fg k (some s.cyc)) else .next s
  else if (s.group fg).length = 2 then
    match here with
    | [a, b] => if a.2.what = b.2.what then .next (s.agree fg key a.1 a.2 [b]) else .next (s.disagree fg key 0xE106)
    | _ => .next s
  else match vote here with
    | some (a :: as, out) => .next (out.foldl (fun u o => u.outvote o.1 key) (s.agree fg key a.1 a.2 (as ++ out)))
    | _ => .next (s.disagree fg key 0xE108)

include hcompares in
theorem exec_comparePoint : exec (.comparePoint fg key) s = s.compareReached fg key (s.reached fg key) := by
  show execComparePoint fg key s = _
  rw [execComparePoint, if_neg (by rw [hcompares]; decide)]
  dsimp only
  rw [List.findSome?_eq_none_iff.2 (fun g hg => by simp only [howed g hg])]
  exact rfl

section
variable {here : List (Nat × Point)} (hhere : s.reached fg key = here)
include hcompares hhere

/-- The first instances at a point begin to wait for the others. -/
theorem exec_comparePoint_wait (hfew : here.length < (s.group fg).length) (hsome : here ≠ [])
    (hnew : (s.fig fg).late.get none (lateKey key (vote here).isSome) = none) :
    exec (.comparePoint fg key) s = .next (s.setLate fg (lateKey key (vote here).isSome) (some s.cyc)) := by
  rw [exec_comparePoint hcompares howed, hhere]
  exact (if_pos hfew).trans (if_pos ⟨hsome, hnew⟩)

/-- Two instances that have reached a point agree or differ. -/
theorem exec_comparePoint_two {a b : Nat × Point} (hgroup : (s.group fg).length = 2) (htwo : here = [a, b]) :
    exec (.comparePoint fg key) s = .next (if a.2.what = b.2.what then s.agree fg key a.1 a.2 [b] else s.disagree fg key 0xE106) := by
  subst htwo
  rw [exec_comparePoint hcompares howed, hhere, State.compareReached, if_neg (by rw [hgroup]; exact Nat.lt_irrefl 2), if_pos hgroup]
  split <;> rfl

/-- Three instances go on with the point of those that agree, and the others are outvoted. -/
theorem exec_comparePoint_vote {a : Nat × Point} {as out : List (Nat × Point)} (hall : here.length = (s.group fg).length) (hgroup : (s.group fg).length = 3)
    (hvote : vote here = some (a :: as, out)) :
    exec (.comparePoint fg key) s = .next (out.foldl (fun u o => u.outvote o.1 key) (s.agree fg key a.1 a.2 (as ++ out))) := by
  simp only [exec_comparePoint hcompares howed, hhere, State.compareReached, hall, hgroup, hvote, Nat.lt_irrefl, if_false, Nat.reduceEqDiff]

/-- Three instances without a majority stop. -/
theorem exec_comparePoint_split (hall : here.length = (s.group fg).length) (hgroup : (s.group fg).length = 3) (hvote : vote here = none) :
    exec (.comparePoint fg key) s = .next (s.disagree fg key 0xE108) := by
  simp only [exec_comparePoint hcompares howed, hhere, State.compareReached, hall, hgroup, hvote, Nat.lt_irrefl, if_false, Nat.reduceEqDiff]

section
variable {c : Nat} (hsome : here ≠ []) (hfew : here.length < (s.group fg).length)
  (hlate : (s.fig fg).late.get none (lateKey key (vote here).isSome) = some c) (hover : c + 2 ^ 22 ≤ s.runClock (s.fig fg))
include hsome hfew hlate hover

omit howed in
/-- One of two that waits too long stops the Figure. -/
theorem exec_redundantTimeout_two {a : Nat × Point} (hgroup : (s.group fg).length = 2) (hone : here = [a]) : exec (.redundantTimeout fg key) s = .next (s.disagree fg key 0xE107) := by
  have hdue : ¬(s.runClock (s.fig fg) < c + 2 ^ 22 ∨ here = [] ∨ (s.group fg).length ≤ here.length) :=
    not_or.2 ⟨Nat.not_lt.2 hover, not_or.2 ⟨hsome, Nat.not_le.2 hfew⟩⟩
  rw [State.reached] at hhere
  show execRedundantTimeout fg key s = _
  rw [execRedundantTimeout, if_neg (by rw [hcompares]; decide)]
  simp only [hhere, hlate, if_neg hdue]
  simp only [hgroup, hone, vote_one]

omit howed in
/-- Of three, the one that two agreeing ones wait for too long is outvoted, and owes the point. -/
theorem exec_redundantTimeout_vote {a : Nat × Point} {as : List (Nat × Point)} (hgroup : (s.group fg).length = 3) (hvote : vote here = some (a :: as, [])) :
    exec (.redundantTimeout fg key) s = .next ((((s.group fg).filter fun g => here.all fun h => decide (h.1 ≠ g)).foldl
      (fun u g => (u.setFig g { u.fig g with owed := (u.fig g).owed.put [] key ((u.fig g).owed.get [] key ++ [a.2.op]) }).outvote g key) s).agree
        fg key a.1 a.2 as) := by
  have hdue : ¬(s.runClock (s.fig fg) < c + 2 ^ 22 ∨ here = [] ∨ (s.group fg).length ≤ here.length) :=
    not_or.2 ⟨Nat.not_lt.2 hover, not_or.2 ⟨hsome, Nat.not_le.2 hfew⟩⟩
  rw [State.reached] at hhere
  show execRedundantTimeout fg key s = _
  rw [execRedundantTimeout, if_neg (by rw [hcompares]; decide)]
  simp only [hhere, hlate, if_neg hdue]
  simp only [hvote, hgroup]
end
end
end

/-- A disagreement is a condition of the Figure. -/
theorem State.det_disagree (code : BitVec 16) : ∃ d, (s.disagree fg key code).det = s.det ++ [d] ∧ d.own = .figure fg ∧ d.info.fcode = code ∧ d.info.tier = 2 := by
  rw [State.disagree]
  dsimp only
  split
  · exact ⟨_, rfl, rfl, rfl, rfl⟩
  · exact ⟨_, rfl, rfl, rfl, rfl⟩

/-! ### Spares (R432, R468) -/

/-- A replacement leaves memory, and of the marked parts only the one that it replaced goes. -/
def State.SpareKeeps (s t : State) : Prop := t.mem = s.mem ∧ t.ms.pend = s.ms.pend

theorem State.SpareKeeps.trans {t u : State} (h : s.SpareKeeps t) (k : t.SpareKeeps u) : s.SpareKeeps u := ⟨k.1.trans h.1, k.2.trans h.2⟩
theorem State.spareKeeps_setReg (pk off : Nat) (v : W64) : s.SpareKeeps (s.setReg pk off v) := ⟨rfl, rfl⟩
theorem State.spareKeeps_count (pk n k : Nat) : s.SpareKeeps (s.count pk n k) := ⟨rfl, rfl⟩
theorem State.spareKeeps_copyClean (pa n : Nat) : s.SpareKeeps (s.copyClean pa n) := ⟨rfl, rfl⟩
theorem State.spareKeeps_syncRing (g : Nat) : s.SpareKeeps (s.syncRing g) := ⟨rfl, rfl⟩
theorem State.spareKeeps_syncScratch (mp : Nat) : s.SpareKeeps (s.syncScratch mp) := ⟨rfl, rfl⟩
theorem State.spareKeeps_syncRows (sk : Nat) : s.SpareKeeps (s.syncRows sk) := ⟨rfl, rfl⟩
theorem State.spareKeeps_withdrawBank (n : Nat) : s.SpareKeeps (s.withdrawBank n) := ⟨rfl, rfl⟩
theorem State.spareKeeps_rowUsed (v : FMap Nat) : s.SpareKeeps { s with ms := { s.ms with rowUsed := v } } := ⟨rfl, rfl⟩
theorem State.spareKeeps_copyLines (ls : List Nat) : s.SpareKeeps (ls.foldl (fun u l => u.copyClean l 64) s) := by
  induction ls generalizing s with
  | nil => exact ⟨rfl, rfl⟩
  | cons l ls ih => exact (s.spareKeeps_copyClean l 64).trans ih

theorem State.mem_unpend (pk : Nat) (x : Nat × Nat) : (s.unpend pk x).mem = s.mem := by
  rw [State.unpend]
  dsimp only
  split <;> rfl
theorem State.pend_unpend (pk : Nat) (x : Nat × Nat) : (s.unpend pk x).ms.pend = s.ms.pend.filter fun y => decide (y ≠ x) := by
  rw [State.unpend]
  dsimp only
  split <;> rfl

/-- The replacement of a ring bank, a scratchpad bank or a row keeps memory and the parts that stay marked. -/
theorem State.spareKeeps_replacePart (pk : Nat) {x : Nat × Nat} (hkind : x.1 = 2 ∨ x.1 = 3 ∨ x.1 = 4) : (s.unpend pk x).SpareKeeps (s.replacePart pk x) := by
  obtain ⟨kind, n⟩ := x
  generalize hs0 : s.unpend pk (kind, n) = s0
  rcases hkind with h | h | h
  · obtain rfl : kind = 2 := h
    simp only [State.replacePart, hs0]
    split
    · exact (State.spareKeeps_setReg ..).trans (State.spareKeeps_syncRing _)
    · exact (((State.spareKeeps_copyClean ..).trans (State.spareKeeps_setReg ..)).trans (State.spareKeeps_count ..)).trans (State.spareKeeps_syncRing _)
  · obtain rfl : kind = 3 := h
    simp only [State.replacePart, hs0]
    split
    · exact (State.spareKeeps_withdrawBank _).trans (State.spareKeeps_syncScratch _)
    · exact (((State.spareKeeps_copyClean ..).trans (State.spareKeeps_setReg ..)).trans (State.spareKeeps_count ..)).trans (State.spareKeeps_syncScratch _)
  · obtain rfl : kind = 4 := h
    simp only [State.replacePart, hs0]
    exact ((((State.spareKeeps_copyLines _).trans (State.spareKeeps_rowUsed _)).trans (State.spareKeeps_setReg ..)).trans (State.spareKeeps_count ..)).trans
      (State.spareKeeps_syncRows _)

theorem exec_spareReplacement {pk : Nat} {x : Nat × Nat} (hstep : (s.members.get {} pk).step = 0) (hfree : (s.ms.due.get [] pk).find? s.partFree = some x) :
    exec (.spareReplacement pk) s = .next (s.replacePart pk x) := by
  show execSpareReplacement pk s = _
  rw [execSpareReplacement, if_neg (not_not.2 hstep)]
  simp only [hfree]
end

/-! ### The obligation -/

/-- Settles O52: the compare point and the time limits of two and of three instances, the condition of a disagreement, and spares. -/
theorem redundancyAndSparesWork : Obligations.RedundancyAndSparesWork := by
  unfold Obligations.RedundancyAndSparesWork
  intro s
  refine ⟨fun fg key hcompares howed => ?redundant, fun fg key code => State.det_disagree code, fun pk x => exec_spareReplacement, fun pk x hkind => ?spare⟩
  case spare =>
    obtain ⟨hmem, hpend⟩ := State.spareKeeps_replacePart (s := s) pk hkind
    refine ⟨sameMem_of_mem_eq (hmem.trans (State.mem_unpend pk x)), ?_⟩
    rw [hpend, State.pend_unpend]
    simp
  case redundant =>
    refine ⟨fun a b p q hgroup ha hb => ?two, fun a b c p q r hgroup ha hb hc => ?three, fun a b p hgroup ha hb hnew => ?wait,
      fun a b p c hgroup ha hb hlate hover => ?late, fun a b c p q n hgroup hac hbc ha hb hpq hc hlate hover => ?outvoted⟩
    all_goals have hhere := State.reached_eq howed
    all_goals rw [hgroup] at hhere
    case two =>
      have htwo : s.reached fg key = [(a, p), (b, q)] := by simp [hhere, ha, hb]
      exact exec_comparePoint_two hcompares howed rfl (by rw [hgroup]; rfl) htwo
    case three =>
      have hthree : s.reached fg key = [(a, p), (b, q), (c, r)] := by simp [hhere, ha, hb, hc]
      have hall : [(a, p), (b, q), (c, r)].length = (s.group fg).length := by rw [hgroup]; rfl
      exact ⟨fun hpq hqr => exec_comparePoint_vote hcompares howed hthree hall hall.symm (vote_three_all hpq hqr),
        fun hpq hqr => exec_comparePoint_vote hcompares howed hthree hall hall.symm (vote_three_two hpq hqr),
        fun hpq hqr hpr => exec_comparePoint_split hcompares howed hthree hall hall.symm (vote_three_none hpq hqr hpr)⟩
    case wait =>
      have hone : s.reached fg key = [(a, p)] := by simp [hhere, ha, hb]
      exact exec_comparePoint_wait hcompares howed hone (by simp [hgroup]) (List.cons_ne_nil _ _) hnew
    case late =>
      have hone : s.reached fg key = [(a, p)] := by simp [hhere, ha, hb]
      exact exec_redundantTimeout_two hcompares hone (List.cons_ne_nil _ _) (by simp [hgroup]) hlate hover (by rw [hgroup]; rfl) rfl
    case outvoted =>
      have htwo : s.reached fg key = [(a, p), (b, q)] := by simp [hhere, ha, hb, hc]
      have hvote := vote_two (a := (a, p)) (b := (b, q)) hpq
      have hbehind : ((s.group fg).filter fun g => [(a, p), (b, q)].all fun h => decide (h.1 ≠ g)) = [c] := by
        rw [hgroup]
        simp [hac, hbc]
      have howes : (s.fig c).owed.get [] key = [] := howed c (by rw [hgroup]; simp)
      rw [exec_redundantTimeout_vote hcompares htwo (List.cons_ne_nil _ _) (by simp [hgroup]) (by rw [hvote]; exact hlate) hover
        (by rw [hgroup]; rfl) hvote, hbehind, List.foldl_cons, List.foldl_nil, howes, List.nil_append]

end Sys2Proof.Machine
end

section
/-! CERTIFICATE. An undo entry that is corrected as it is applied, in a row whose bank has no spare row left (R431, R438, R448). -/
namespace Sys2Proof.Machine
open Sys2Proof

/-- The first entry of the undo log of stack 0 of package 0 carries one correctable error, its row has had 64 corrections in this scrub
period, its bank has used its 64 spare rows, and the package keeps poison bits from address 0 on. The entry names a line of the host's memory. -/
def wornUndoRow : State :=
  { mem := [(stackPA 0 (2 ^ 36 - 2 ^ 31) + 70, 0x20)]
    regs := [(0x16600, some 1)]
    ms := {
      errs := [(stackPA 0 (2 ^ 36 - 2 ^ 31) / 8, some .single)]
      rowCnt := [(rowOf (stackPA 0 (2 ^ 36 - 2 ^ 31)), (0, 64))]
      rowUsed := [(rowOf (stackPA 0 (2 ^ 36 - 2 ^ 31)) / 65536, 64)] } }

theorem undoLine_wornUndoRow : wornUndoRow.undoLine 0 0 = 2 ^ 53 := by decide
theorem damagedIn_wornUndoRow : wornUndoRow.damagedIn (wornUndoRow.undoAt 0 0) 128 = false := by decide
theorem poisonBit_wornUndoRow : wornUndoRow.poisonBit (wornUndoRow.undoLine 0 0) = none := by decide

/-- The correction poisons the frames of the row: the poison bit of its first frame is set. -/
theorem peek_applyUndo_wornUndoRow : (wornUndoRow.applyUndo 0 0 0).peek 2031616 = 1 := by decide +kernel

/-! ### The obligation -/

/-- Refutes O50: where the read of an undo entry corrects an error in it, the row that wears out by that correction has its frames poisoned,
so memory outside the restored line changes. -/
theorem not_rollbacksRestoreTheSealedInterval : ¬ Obligations.RollbacksRestoreTheSealedInterval := by
  unfold Obligations.RollbacksRestoreTheSealedInterval
  intro h
  obtain ⟨-, -, -, -, -, hundo, -⟩ := h wornUndoRow 0
  obtain ⟨-, hkept⟩ := hundo 0 0 damagedIn_wornUndoRow poisonBit_wornUndoRow
  have hbefore := hkept 2031616 (.inl (by rw [undoLine_wornUndoRow]; decide))
  rw [peek_applyUndo_wornUndoRow] at hbefore
  exact absurd hbefore (by decide)

end Sys2Proof.Machine
end

section
/-! SUPPORT. Memory in its canonical form, in a state and in the answers that hold one (log 10). -/
namespace Sys2Proof.Machine
open Sys2Proof

/-- Memory lists its bytes in canonical form. -/
def State.Canonical (s : State) : Prop := Memory.wf s.mem = true

variable {s : State}

theorem State.Canonical.ite {c : Prop} [Decidable c] {t : State} (h : s.Canonical) (ht : t.Canonical) : (if c then s else t).Canonical := by
  split <;> assumption
theorem State.Canonical.foldl {α : Type} {f : State → α → State} {l : List α} (h : s.Canonical)
    (hf : ∀ {u : State} {a : α}, u.Canonical → (f u a).Canonical) : (l.foldl f s).Canonical :=
  foldl_wf f l s (fun _ _ => hf) h
/-- An update of the other fields. -/
theorem State.Canonical.update {fab fl figs regions bufs secs iv ms eng work out members regs det cyc agenda free act} (h : s.Canonical) :
    State.Canonical ⟨fab, fl, figs, regions, bufs, secs, iv, s.mem, ms, eng, work, out, members, regs, det, cyc, agenda, free, act⟩ := h
/-- A state that is there, or else another. -/
theorem State.Canonical.getD {o : Option State} (ho : ∀ {t : State}, o = some t → t.Canonical) (h : s.Canonical) : (o.getD s).Canonical := by
  cases o with
  | none => exact h
  | some t => exact ho rfl

/-- A meaning that answers a state answers a canonical one. -/
def AnswersCanonical : Host.Outcome State Fault Refusal → Prop
  | .next t => t.Canonical
  | _ => True
theorem AnswersCanonical.next (h : s.Canonical) : AnswersCanonical (.next s) := h
theorem AnswersCanonical.ite {c : Prop} [Decidable c] {r r' : Host.Outcome State Fault Refusal} (hr : AnswersCanonical r) (hr' : AnswersCanonical r') :
    AnswersCanonical (if c then r else r') := by
  split <;> assumption
theorem AnswersCanonical.outState {r : Host.Outcome State Fault Refusal} (hr : AnswersCanonical r) (h : s.Canonical) : (outState s r).Canonical := by
  cases r with
  | next t => exact hr
  | fault | refused => exact h
theorem State.Canonical.fst_at {β : Type} {p : State × β} {t : State} {b : β} (hp : p.1.Canonical) (heq : p = (t, b)) : t.Canonical := by
  rwa [heq] at hp
theorem State.Canonical.snd_at {β : Type} {p : β × State} {t : State} {b : β} (hp : p.2.Canonical) (heq : p = (b, t)) : t.Canonical := by
  rwa [heq] at hp
theorem State.Canonical.foldl_fst {α β : Type} {f : State × β → α → State × β} {l : List α} {b : β} (h : s.Canonical)
    (hf : ∀ {u : State} {b : β} {a : α}, u.Canonical → (f (u, b) a).1.Canonical) : (l.foldl f (s, b)).1.Canonical :=
  List.foldlRecOn (motive := fun p : State × β => p.1.Canonical) l f h fun _ hp _ _ => hf hp

/-! An answer that holds a state is canonical if that state is. -/

def Capture.Canonical : Capture → Prop
  | .ok s | .hold s | .full s | .bad s => s.Canonical
theorem Capture.Canonical.ok (h : s.Canonical) : (Capture.ok s).Canonical := h
theorem Capture.Canonical.hold (h : s.Canonical) : (Capture.hold s).Canonical := h
theorem Capture.Canonical.full (h : s.Canonical) : (Capture.full s).Canonical := h
theorem Capture.Canonical.bad (h : s.Canonical) : (Capture.bad s).Canonical := h
theorem Capture.Canonical.ite {p : Prop} [Decidable p] {c c' : Capture} (hc : c.Canonical) (hc' : c'.Canonical) : (if p then c else c').Canonical := by
  split <;> assumption
theorem Capture.Canonical.at {c c' : Capture} (hc : c.Canonical) (heq : c = c') : c'.Canonical := heq ▸ hc

def Part.Canonical : Part → Prop
  | .ok s | .hold s | .bar s | .fault s _ _ => s.Canonical
theorem Part.Canonical.ok (h : s.Canonical) : (Part.ok s).Canonical := h
theorem Part.Canonical.hold (h : s.Canonical) : (Part.hold s).Canonical := h
theorem Part.Canonical.bar (h : s.Canonical) : (Part.bar s).Canonical := h
theorem Part.Canonical.fault {c : BitVec 16} {a : W64} (h : s.Canonical) : (Part.fault s c a).Canonical := h
theorem Part.Canonical.ite {p : Prop} [Decidable p] {c c' : Part} (hc : c.Canonical) (hc' : c'.Canonical) : (if p then c else c').Canonical := by
  split <;> assumption
theorem Part.Canonical.at {c c' : Part} (hc : c.Canonical) (heq : c = c') : c'.Canonical := heq ▸ hc
theorem Part.Canonical.fst_ite {p : Prop} [Decidable p] {c c' : Part × Req} (hc : c.1.Canonical) (hc' : c'.1.Canonical) :
    (if p then c else c').1.Canonical := by
  split <;> assumption
theorem Part.Canonical.fst_at {c c' : Part × Req} (hc : c.1.Canonical) (heq : c = c') : c'.1.Canonical := heq ▸ hc

def Reach.Canonical : Reach → Prop
  | .done s _ | .wait s | .stop s _ => s.Canonical
theorem Reach.Canonical.done {v : List Byte} (h : s.Canonical) : (Reach.done s v).Canonical := h
theorem Reach.Canonical.wait (h : s.Canonical) : (Reach.wait s).Canonical := h
theorem Reach.Canonical.stop {c : BitVec 16} (h : s.Canonical) : (Reach.stop s c).Canonical := h
theorem Reach.Canonical.ite {p : Prop} [Decidable p] {r r' : Reach} (hr : r.Canonical) (hr' : r'.Canonical) : (if p then r else r').Canonical := by
  split <;> assumption
theorem Reach.Canonical.at {r r' : Reach} (hr : r.Canonical) (heq : r = r') : r'.Canonical := heq ▸ hr

def Loaded.Canonical : Loaded → Prop
  | .obj s _ | .stop s _ | .reject s _ _ => s.Canonical
  | .wait => True
theorem Loaded.Canonical.at {r r' : Loaded} (hr : r.Canonical) (heq : r = r') : r'.Canonical := heq ▸ hr

def Issued.Canonical : Issued → Prop
  | .gone s | .reject s => s.Canonical
  | _ => True
theorem Issued.Canonical.ite {p : Prop} [Decidable p] {i i' : Issued} (hi : i.Canonical) (hi' : i'.Canonical) : (if p then i else i').Canonical := by
  split <;> assumption
theorem Issued.Canonical.at {i i' : W64 × Issued} (hi : i.2.Canonical) (heq : i = i') : i'.2.Canonical := heq ▸ hi

/-- Both answers of a read, of its bytes or of a fault condition, hold a canonical state. -/
def ReadCanonical {ε α : Type} : Except (State × ε) (Option (State × α)) → Prop
  | .ok (some (s, _)) | .error (s, _) => s.Canonical
  | .ok none => True
theorem ReadCanonical.at {ε α : Type} {r r' : Except (State × ε) (Option (State × α))} (hr : ReadCanonical r) (heq : r = r') : ReadCanonical r' := heq ▸ hr

/-- A start of a request that is refused, or has its record, holds a canonical state. -/
def StartCanonical {α : Type} : Except NoStart (State × α) → Prop
  | .ok (s, _) | .error (.breach s _ _) => s.Canonical
  | .error .wait => True
theorem StartCanonical.at {α : Type} {r r' : Except NoStart (State × α)} (hr : StartCanonical r) (heq : r = r') : StartCanonical r' := heq ▸ hr

def NodeAt.Canonical : NodeAt → Prop
  | .stop s | .word s _ => s.Canonical
theorem NodeAt.Canonical.at {n n' : NodeAt} (hn : n.Canonical) (heq : n = n') : n'.Canonical := heq ▸ hn
def Fetched.Canonical : Fetched → Prop
  | .idle s | .word s _ => s.Canonical
theorem Fetched.Canonical.ite {p : Prop} [Decidable p] {f f' : Fetched} (hf : f.Canonical) (hf' : f'.Canonical) : (if p then f else f').Canonical := by
  split <;> assumption
theorem Fetched.Canonical.at {f f' : Fetched} (hf : f.Canonical) (heq : f = f') : f'.Canonical := heq ▸ hf

end Sys2Proof.Machine
end

section
/-! SUPPORT. The fabric keeps memory canonical. -/
namespace Sys2Proof.Machine
open Sys2Proof

variable {s : State}

/-! ### Updates, deliveries and emits -/

theorem State.Canonical.setElem {el : Nat} {e : Elem} (h : s.Canonical) : (s.setElem el e).Canonical := h
theorem State.Canonical.setMx {el : Nat} {e : MxElem} (h : s.Canonical) : (s.setMx el e).Canonical := h
theorem State.Canonical.setStripe {st : Nat} {t : Stripe} (h : s.Canonical) : (s.setStripe st t).Canonical := h
theorem State.Canonical.setPort {p : Nat} {t : Port} (h : s.Canonical) : (s.setPort p t).Canonical := h
theorem State.Canonical.setStrm {rs : Nat} {t : Strm} (h : s.Canonical) : (s.setStrm rs t).Canonical := h
theorem State.Canonical.setRing {r : Nat} {t : Ring} (h : s.Canonical) : (s.setRing r t).Canonical := h
theorem State.Canonical.setRegion {rg : Nat} {r : Region} (h : s.Canonical) : (s.setRegion rg r).Canonical := h
theorem State.Canonical.setFig {fg : Nat} {x : Fig} (h : s.Canonical) : (s.setFig fg x).Canonical := h
theorem State.Canonical.setAcc {a : Nat} {x : Access} (h : s.Canonical) : (s.setAcc a x).Canonical := h
theorem State.Canonical.delAcc {a : Nat} (h : s.Canonical) : (s.delAcc a).Canonical := h
theorem State.Canonical.setWait {w : Nat} {x : Wait} (h : s.Canonical) : (s.setWait w x).Canonical := h
theorem State.Canonical.delWait {w : Nat} (h : s.Canonical) : (s.delWait w).Canonical := h
theorem State.Canonical.bump (h : s.Canonical) : s.bump.Canonical := h
theorem State.Canonical.poke {pa : Nat} {bs : List Byte} (h : s.Canonical) : (s.poke pa bs).Canonical := poke_wf s pa bs h
theorem State.Canonical.setMark {u : Nat} {m : Option Mark} (h : s.Canonical) : (s.setMark u m).Canonical := h

theorem State.Canonical.overwrite {pa n u : Nat} (h : s.Canonical) : (s.overwrite pa n u).Canonical := by
  unfold State.overwrite
  split
  · exact h
  · split
    · exact h
    · split
      · exact .ite h h
      · exact h
      · exact h

theorem State.Canonical.writeBytes {pa : Nat} {bs : List Byte} (h : s.Canonical) : (s.writeBytes pa bs).Canonical :=
  .poke (.foldl h fun hu => .overwrite hu)
theorem State.Canonical.setReg {pk off : Nat} {v : W64} (h : s.Canonical) : (s.setReg pk off v).Canonical := h
theorem State.Canonical.setPav {pk : Nat} {p : Pav} (h : s.Canonical) : (s.setPav pk p).Canonical := h
theorem State.Canonical.count {pk n k : Nat} (h : s.Canonical) : (s.count pk n k).Canonical := h
theorem State.Canonical.raiseSeal {pk : Nat} (h : s.Canonical) : (s.raiseSeal pk).Canonical := .ite h h
theorem State.Canonical.addEmit {e : Emit} (h : s.Canonical) : (s.addEmit e).Canonical := .ite h h
theorem State.Canonical.detectAt {cyc pk : Nat} {own : Owner} {ord : Nat} {r : FaultRec} (h : s.Canonical) :
    (s.detectAt cyc pk own ord r).Canonical := h
theorem State.Canonical.detect {pk : Nat} {own : Owner} {ord : Nat} {r : FaultRec} (h : s.Canonical) : (s.detect pk own ord r).Canonical := h

theorem State.Canonical.elFaultAt {el : Nat} {code : BitVec 16} {tier : BitVec 4} {point : BitVec 3} {detail : W32} {pos : Nat}
    {iter : W64} (h : s.Canonical) :
    (s.elFaultAt el code tier point detail pos iter).Canonical := h

theorem State.Canonical.elFault {el : Nat} {code : BitVec 16} {tier : BitVec 4} {point : BitVec 3} {detail : W32} (h : s.Canonical) :
    (s.elFault el code tier point detail).Canonical := h

theorem State.Canonical.acceptHop {e : Emit} (h : s.Canonical) : (s.acceptHop e).Canonical := by
  unfold State.acceptHop
  split <;> exact h

theorem State.Canonical.parkToken {rg : Nat} {sc : Scroll} {g i at_ : Nat} {t : Token} (h : s.Canonical) : (s.parkToken rg sc g i at_ t).Canonical :=
  .setRegion (.writeBytes h)
theorem State.Canonical.reachSink {rg : Nat} {d : Dest} {t : Token} (h : s.Canonical) : (s.reachSink rg d t).Canonical := h

theorem State.Canonical.deliver {e : Emit} (h : s.Canonical) : (s.deliver e).Canonical := by
  unfold State.deliver
  dsimp only
  split
  · exact h
  · exact h
  · exact h
  · split
    · exact .ite h h
    · exact .ite h (.ite (.parkToken h) h)
  · exact .ite (.ite h h) (.ite h h)
  · split
    · exact .ite h h
    · exact h
  · exact h
  · exact .ite h (.ite h h)
  · exact h

theorem State.Canonical.deliverDue {now : Nat} {es : List Emit} (h : s.Canonical) : (deliverDue now es s).Canonical := by
  induction es generalizing s with
  | nil => exact h
  | cons e es ih =>
    unfold Machine.deliverDue
    exact .ite (ih (.acceptHop (.deliver h))) h

theorem State.Canonical.headFaults (h : s.Canonical) : s.headFaults.Canonical := .foldl h fun hu => hu
theorem State.Canonical.tick {dt : Nat} (h : s.Canonical) : (s.tick dt).Canonical := .ite (.deliverDue h) (.headFaults (.deliverDue h))

theorem State.Canonical.emitTo {el f due : Nat} {second : Bool} {t : Target} {rid : BitVec 6} {squash taint : Bool} {tok : Token} (h : s.Canonical) :
    (s.emitTo el f due second t rid squash taint tok).Canonical := by
  unfold State.emitTo
  split
  · exact .ite h h
  · split
    · exact h
    · exact .addEmit h

theorem State.Canonical.emitRet {r : Ret} {due : Nat} {o : Out} (h : s.Canonical) : (s.emitRet r due o).Canonical :=
  .ite (.ite h (.emitTo h)) (.emitTo (.ite h (.emitTo h)))

theorem State.Canonical.emitAll {r : Ret} {due : Nat} {outs : List Out} (h : s.Canonical) : (s.emitAll r due outs).Canonical := by
  induction s, outs using State.emitAll.induct (r := r) (due := due) with
  | case1 => exact h
  | case2 => exact .emitRet h
  | case3 s o o' os hone =>
    rw [State.emitAll, if_pos hone]
    exact .emitRet (.update h)
  | case4 s o o' os hone ih =>
    rw [State.emitAll, if_neg hone]
    exact ih (.emitRet (.emitRet h))

theorem State.Canonical.reserve {op : Nat} {ds : List Dest} (h : s.Canonical) : (s.reserve op ds).Canonical := h
theorem State.Canonical.unreserve {op : Nat} (h : s.Canonical) : (s.unreserve op).Canonical := h
theorem State.Canonical.complete {op : Nat} {r : Ret} {outs : List Out} (h : s.Canonical) : (s.complete op r outs).Canonical := .emitAll h

/-! ### Slots -/

theorem sparedBySlots_mem : SparedBySlots State.mem := ⟨⟨fun _ _ _ _ _ _ => rfl, fun _ _ _ => rfl⟩, fun _ _ _ _ _ _ => rfl⟩
theorem State.Canonical.of_mem_eq {t : State} (h : s.Canonical) (heq : t.mem = s.mem) : t.Canonical :=
  (congrArg (fun m => Memory.wf m = true) heq).mpr h
theorem State.Canonical.addWait {op : SlotOp} {f : Slot} {o : Opn} {k : WKind} (h : s.Canonical) : (s.addWait op f o k).Canonical := h
theorem State.Canonical.slotFault {code : BitVec 16} {tier : BitVec 4} {detail : W32} (h : s.Canonical) :
    (s.slotFault code tier detail).Canonical := h
theorem State.Canonical.stepBreak (h : s.Canonical) : s.stepBreak.Canonical := .of_mem_eq h (sparedBySlots_mem.stepBreak s)
theorem State.Canonical.fired_ite {c : Prop} [Decidable c] {r r' : Fired} (hr : r.st.Canonical) (hr' : r'.st.Canonical) :
    (if c then r else r').st.Canonical := by
  split <;> assumption
/-- A slot whose body leaves memory canonical leaves it so. -/
theorem slotExec_canonical {op : SlotOp} {f : Slot} {body : Opn → State → Fired} (h : s.Canonical)
    (hbody : ∀ {o : Opn} {u : State}, u.Canonical → (body o u).st.Canonical) : AnswersCanonical (slotExec op f s body) := by
  obtain ⟨-, hidle⟩ | ⟨o, ps, -, hfire⟩ := slotExec_answers op f s body
  · rw [hidle]
    exact .next h
  · rw [hfire]
    have hpop : (s.popped op f o ps).Canonical := .of_mem_eq h (sparedBySlots_mem.popped s (fun _ _ => rfl) op f o ps)
    refine .next ?_
    obtain ⟨_, _, _, heq⟩ | heq | heq | heq := slotFire_cases op f s o ps body <;> rw [heq]
    · exact .slotFault h
    · exact .stepBreak hpop
    · exact .stepBreak (.emitAll (hbody hpop))
    · exact .stepBreak (.slotFault (.emitAll (hbody hpop)))

/-! ### Storage and its wear -/

theorem State.Canonical.setPoison {pa : Nat} {v : Bool} (h : s.Canonical) : (s.setPoison pa v).Canonical := by
  unfold State.setPoison
  split
  · exact h
  · exact .poke h

theorem State.Canonical.keepXlat {rs : Nat} {x : Xlat} (h : s.Canonical) : (s.keepXlat rs x).Canonical := h
theorem State.Canonical.setStack {sk : Nat} {x : Stack} (h : s.Canonical) : (s.setStack sk x).Canonical := h
theorem State.Canonical.syncRing {g : Nat} (h : s.Canonical) : (s.syncRing g).Canonical := h
theorem State.Canonical.syncScratch {mp : Nat} (h : s.Canonical) : (s.syncScratch mp).Canonical := h
theorem State.Canonical.syncRows {sk : Nat} (h : s.Canonical) : (s.syncRows sk).Canonical := h
theorem State.Canonical.mark {kind n : Nat} (h : s.Canonical) : (s.mark kind n).Canonical := .ite h h
theorem State.Canonical.withdrawStripe {st : Nat} (h : s.Canonical) : (s.withdrawStripe st).Canonical := h
theorem State.Canonical.markStripe {st : Nat} (h : s.Canonical) : (s.markStripe st).Canonical := .ite h (.ite (.mark h) (.syncRing (.mark h)))
theorem State.Canonical.markMx {el : Nat} (h : s.Canonical) : (s.markMx el).Canonical := .ite h (.ite (.markStripe h) (.mark h))
theorem State.Canonical.markBank {n : Nat} (h : s.Canonical) : (s.markBank n).Canonical := .ite h (.ite h (.syncRing (.mark h)))
theorem State.Canonical.withdrawBank {n : Nat} (h : s.Canonical) : (s.withdrawBank n).Canonical := h
theorem State.Canonical.markScratch {n : Nat} (h : s.Canonical) : (s.markScratch n).Canonical := .ite h (.ite h (.syncScratch (.mark h)))
theorem State.Canonical.markRow {n : Nat} (h : s.Canonical) : (s.markRow n).Canonical :=
  .ite h (.ite (.foldl h fun hu => .setPoison hu) (.syncRows (.mark h)))

theorem State.Canonical.wearBank {pa : Nat} {bad : Bool} (h : s.Canonical) : (s.wearBank pa bad).Canonical := by
  unfold State.wearBank
  split
  · exact h
  · exact .ite (.ite (.markBank h) (.markScratch h)) h

theorem State.Canonical.wearRow {pa : Nat} (h : s.Canonical) : (s.wearRow pa).Canonical := .ite (.markRow h) h
theorem State.Canonical.correct {pa n : Nat} (h : s.Canonical) : (s.correct pa n).Canonical :=
  .foldl h fun hu => .ite (.ite (.wearRow hu) (.wearBank hu)) hu
theorem State.Canonical.damageLine {line : Nat} (h : s.Canonical) : (s.damageLine line).Canonical := .markRow (.setPoison (.ite h h))
theorem State.Canonical.uncorrectable {line : Nat} (h : s.Canonical) : (s.uncorrectable line).Canonical := .detect (.damageLine h)

theorem State.Canonical.walkDamage {pk : Nat} {asid : BitVec 12} {va : Nat} {code : BitVec 16} (h : s.Canonical) :
    (s.walkDamage pk asid va code).Canonical := by
  unfold State.walkDamage
  split
  · exact .ite (.damageLine h) h
  · exact h

theorem State.Canonical.blame {n rg : Nat} (h : s.Canonical) : (s.blame n rg).Canonical := h

theorem State.Canonical.readBytes {pa n : Nat} (h : s.Canonical) : (s.readBytes pa n).1.Canonical := by
  unfold State.readBytes
  dsimp only
  split
  · exact .update (.ite (.foldl (.correct h) .uncorrectable) (.wearBank (.correct h)))
  · exact .correct h

theorem State.Canonical.readToken {pa : Nat} (h : s.Canonical) : (s.readToken pa).1.Canonical := .readBytes h

/-! ### Buffers and region ends -/

theorem State.Canonical.placePut {w : Nat} {x : Wait} {desc len : Nat} {tag : W32} {el : Nat} (h : s.Canonical) :
    (s.placePut w x desc len tag el).Canonical :=
  .ite h (.ite h (.ite (.delWait (.setElem (.update (.writeBytes h)))) (.ite (.delWait (.setElem (.update (.writeBytes (.writeBytes h))))) h)))

theorem State.Canonical.retryPuts {desc n : Nat} (h : s.Canonical) : (s.retryPuts desc n).Canonical := by
  induction n generalizing s with
  | zero => exact h
  | succ n ih =>
    unfold State.retryPuts
    split
    · exact h
    · exact .ite (.placePut h) (ih (.placePut h))

theorem State.Canonical.tailPassed {desc : Nat} (h : s.Canonical) : (s.tailPassed desc).Canonical := .foldl h fun hu => .complete hu
theorem State.Canonical.finishPut {desc n : Nat} (h : s.Canonical) : (s.finishPut desc n).Canonical := .tailPassed (.writeBytes h)
theorem State.Canonical.advanceHead {desc : Nat} {gets : List (Nat × Nat × Bool)} (h : s.Canonical) : (s.advanceHead desc gets).Canonical :=
  .ite (.writeBytes h) (.retryPuts (.writeBytes h))
theorem State.Canonical.finishGet {desc n : Nat} (h : s.Canonical) : (s.finishGet desc n).Canonical := .advanceHead h
theorem State.Canonical.quitPut {p : OpenBuf} (h : s.Canonical) : (s.quitPut p).Canonical := .ite (.finishPut h) h

theorem execCbputWord_canonical {f : Slot} (h : s.Canonical) : AnswersCanonical (execCbputWord f s) := by
  refine slotExec_canonical h fun {o u} hu => ?_
  have hbytes {n a : Nat} : State.Canonical (if slotQuiet .cbputWord o u = true then u else u.writeBytes a ((wordBytes o.a).take n)) := .ite hu (.writeBytes hu)
  dsimp only
  split
  · exact .fired_ite (.setElem hu) (.setElem hu)
  · exact .fired_ite hu hu
  · refine .fired_ite (.fired_ite (.setElem hu) (.setElem hu)) (.fired_ite (.fired_ite ?_ ?_) ?_)
    · exact .quitPut (.setElem hbytes)
    · exact .finishPut (.addWait (.writeBytes (.setElem hbytes)))
    · exact .setElem hbytes

theorem execCbgetWord_canonical {f : Slot} (h : s.Canonical) : AnswersCanonical (execCbgetWord f s) := by
  refine slotExec_canonical h fun {o u} hu => .fired_ite hu ?_
  dsimp only
  split
  · exact hu
  · exact .fired_ite (.setElem (.finishGet (.readBytes hu))) (.setElem (.readBytes hu))

theorem State.Canonical.retireNow {rg key : Nat} {w : W32} (h : s.Canonical) : (s.retireNow rg key w).Canonical := .ite h h
theorem State.Canonical.retire {rg key : Nat} {reel : Bool} {w : W32} (h : s.Canonical) : (s.retire rg key reel w).Canonical := .ite h (.retireNow h)

/-! ### The quantiser -/

theorem execBqBlockEmit_canonical {el : Nat} (h : s.Canonical) : AnswersCanonical (execBqBlockEmit el s) := by
  unfold Machine.execBqBlockEmit
  extract_lets e
  split
  · exact .next h
  · refine .ite (.next h) (.ite ?_ (.next h))
    extract_lets s1 tok go
    have hgo {second : Bool} {tg : Target} {rid : BitVec 6} {u : State} (hu : u.Canonical) : (go second tg rid u).Canonical := by
      unfold go
      split
      · exact hu
      · split
        · exact hu
        · exact .addEmit hu
    exact .next (hgo (hgo (.setElem h)))

/-! ### Slot indices -/

/-- A slot leaves memory canonical: only the two buffer words write it. -/
theorem execSlot_canonical {op : SlotOp} {f : Slot} (h : s.Canonical) : AnswersCanonical (exec (op.mk f) s) := by
  by_cases hput : op = .cbputWord
  · subst hput
    exact execCbputWord_canonical h
  · by_cases hget : op = .cbgetWord
    · subst hget
      exact execCbgetWord_canonical h
    · obtain ⟨body, hexec, hbody⟩ := exec_body_keeps sparedBySlots_mem op f s hput hget fun _ _ _ => rfl
      rw [hexec]
      exact slotExec_canonical h fun hu => .of_mem_eq hu (hbody _ _)
theorem fireOp_eq_exec (op : SlotOp) (f : Slot) (s : State) : fireOp op f s = exec (op.mk f) s := by
  cases op <;> rfl

theorem execIterationLastDelivery_canonical {rg : Nat} (h : s.Canonical) : AnswersCanonical (execIterationLastDelivery rg s) := .next h

theorem State.Canonical.fireAll {as : List Act} (h : s.Canonical) : (fireAll s as).Canonical := by
  induction as generalizing s with
  | nil => exact h
  | cons a as ih =>
    refine ih ?_
    split
    · exact h
    · rw [fireOp_eq_exec]
      exact AnswersCanonical.outState (execSlot_canonical h) h

theorem State.Canonical.hopLanes {r : Region} {lc ws : Nat} (h : s.Canonical) : (hopLanes s r lc ws).Canonical :=
  .foldl h fun hu => .ite hu (.ite hu hu)
theorem State.Canonical.hopAll {r : Region} {lc : Nat} (h : s.Canonical) : (hopAll s r lc).Canonical :=
  .foldl (.foldl h fun hu => .setStripe (.hopLanes hu)) fun hu => .setStripe (.hopLanes hu)
theorem State.Canonical.noteIssue {r : Region} {held : Bool} (h : s.Canonical) : (s.noteIssue r held).Canonical := .ite h h

theorem execSlotIndexIssue_canonical {rg lc ws : Nat} (h : s.Canonical) : AnswersCanonical (execSlotIndexIssue rg lc ws s) := by
  unfold Machine.execSlotIndexIssue
  dsimp only
  split
  · split
    · exact .next (.noteIssue h)
    · split
      · exact .next h
      · split
        · exact .next h
        · exact .ite (.ite (.next h) (.next (.setRegion (.noteIssue (.update (.hopAll (.fireAll h))))))) (.next h)
  · exact .next h

/-! ### Handlers, passages and pass registers -/

theorem State.Canonical.emitCopies {el : Nat} {t : Token} {ds : List (Dest × BitVec 6)} (h : s.Canonical) : (emitCopies s el t ds).Canonical := by
  induction ds generalizing s with
  | nil => exact h
  | cons d ds ih => exact ih (.addEmit h)

theorem State.Canonical.settleAct {st : Nat} {p : BitVec 2} (h : s.Canonical) : (s.settleAct st p).Canonical := .ite h h
theorem State.Canonical.swapElem {el : Nat} {p : BitVec 2} (h : s.Canonical) : (s.swapElem el p).Canonical := .settleAct h

theorem State.Canonical.popInputs {el : Nat} {ins : List Dest} (h : s.Canonical) : (s.popInputs el ins).Canonical := by
  unfold State.popInputs
  exact .foldl h fun hu => by
    split <;> exact hu

theorem State.Canonical.scalarPassage {el : Nat} (h : s.Canonical) : (scalarPassage el s).Canonical := by
  unfold Machine.scalarPassage
  dsimp only
  split
  · split
    · exact h
    · split
      · exact h
      · split
        · exact h
        · exact .ite h (.ite (.ite (.swapElem (.reachSink (.setElem (.emitCopies (.popInputs h))))) (.reachSink (.setElem (.emitCopies (.popInputs h))))) h)
  · exact h

theorem execEventHandlerStart_canonical {el : Nat} (h : s.Canonical) : AnswersCanonical (execEventHandlerStart el s) := by
  unfold Machine.execEventHandlerStart
  dsimp only
  split
  · split <;> exact .next h
  · exact .next h

theorem State.Canonical.passIn {src st i : Nat} {p : BitVec 2} {t : Token} (h : s.Canonical) : (s.passIn src st i p t).Canonical :=
  .ite (.addEmit h) h
theorem State.Canonical.passedWave {st i : Nat} {t : Token} (h : s.Canonical) : (s.passedWave st i t).Canonical := .ite h h

theorem execPassRegisterTransfer_canonical {st i : Nat} (h : s.Canonical) : AnswersCanonical (execPassRegisterTransfer st i s) := by
  unfold Machine.execPassRegisterTransfer
  dsimp only
  split
  · split
    · exact .next h
    · split
      · split
        · exact .next h
        · exact .ite (.next (.setStripe (.parkToken h))) (.next h)
      · exact .ite (.next (.passedWave (.passIn h))) (.next h)
  · exact .next h

theorem execParkRead_canonical {rg pr : Nat} (h : s.Canonical) : AnswersCanonical (execParkRead rg pr s) := by
  obtain ⟨read, hread, heq⟩ : ∃ read, (∀ pa, (read pa).1.Canonical) ∧ s.readToken = read := ⟨_, fun _ => .readToken h, rfl⟩
  unfold Machine.execParkRead
  rw [heq]
  dsimp only
  split
  · exact .next h
  · split
    · exact .next h
    · exact .ite (.next (.passedWave (.passIn (.setRegion (hread _))))) (.next h)

theorem execStreamTokenDelivery_canonical {si : Nat} (h : s.Canonical) : AnswersCanonical (execStreamTokenDelivery si s) := by
  unfold Machine.execStreamTokenDelivery
  dsimp only
  split
  · split
    · exact .next h
    · exact .ite (.next (.addEmit h)) (.next h)
  · exact .next h

/-! ### Matrix elements -/

theorem State.Canonical.mxDone {el : Nat} {x : MxElem} (h : s.Canonical) : (mxDone s el x).Canonical := h

theorem State.Canonical.mxHead {el : Nat} {go : State} (h : s.Canonical) (hgo : go.Canonical) : (mxHead s el go).Canonical := by
  unfold Machine.mxHead
  dsimp only
  split
  · exact .elFault h
  · exact h
  · exact hgo

theorem State.Canonical.mxEmit {el : Nat} {d : Option Dest} {t : Token} (h : s.Canonical) : (mxEmit s el d t).Canonical := by
  unfold Machine.mxEmit
  split
  · exact h
  · split
    · exact .ite h h
    · exact .addEmit h

theorem State.Canonical.mxLoad {tr : Bool} {w : MWord} (h : s.Canonical) : (mxLoad tr w s).Canonical := by
  unfold Machine.mxLoad
  dsimp only
  split
  · split
    · exact h
    · exact h
    · exact h
    · exact .ite h h
    · exact .ite (.ite h h) h
  · exact h

theorem execMwld_canonical {w : MWord} (h : s.Canonical) : AnswersCanonical (execMwld w s) := .next (.mxLoad h)
theorem execMwldt_canonical {w : MWord} (h : s.Canonical) : AnswersCanonical (execMwldt w s) := .next (.mxLoad h)
theorem execMzero_canonical {_w : MWord} (h : s.Canonical) : AnswersCanonical (execMzero _w s) := .ite (.next (.mxHead h h)) (.next h)

theorem State.Canonical.mxMul {w : MWord} (h : s.Canonical) : (mxMul w s).Canonical := by
  unfold Machine.mxMul
  dsimp only
  split
  · exact .mxHead h h
  · split
    · split
      · exact h
      · exact h
      · exact h
      · exact h
      · exact .ite h (.ite h (.ite h (.ite h h)))
    · exact h

theorem execMma_canonical {w : MWord} (h : s.Canonical) : AnswersCanonical (execMma w s) := .next (.mxMul h)
theorem execMmasc_canonical {w : MWord} (h : s.Canonical) : AnswersCanonical (execMmasc w s) := .next (.mxMul h)
theorem execMpromo_canonical {_w : MWord} (h : s.Canonical) : AnswersCanonical (execMpromo _w s) := .ite (.next (.mxHead h h)) (.next h)
theorem execMdrain_canonical {w : MWord} (h : s.Canonical) : AnswersCanonical (execMdrain w s) :=
  .ite (.ite (.next (.mxHead h h)) (.ite (.next (.mxHead h (.ite (.mxDone (.update (.mxEmit h))) (.setMx (.update (.mxEmit h)))))) (.next (.mxHead h h)))) (.next h)

theorem execMpass_canonical {w : MWord} (h : s.Canonical) : AnswersCanonical (execMpass w s) := by
  unfold Machine.execMpass
  dsimp only
  split
  · exact .next (.mxHead h h)
  · split
    · split
      · exact .next h
      · exact .next h
      · exact .next h
      · exact .ite (.next (.mxEmit h)) (.next h)
      · exact .ite (.next (.mxEmit h)) (.next h)
    · exact .next h

theorem State.Canonical.mxEmpty {el : Nat} (h : s.Canonical) : (mxEmpty el s).Canonical := .ite h h

theorem State.Canonical.mxLeave {el : Nat} {t : Token} {outs : List (Dest × BitVec 6)} {next : Bool} (h : s.Canonical) :
    (mxLeave s el t outs next).Canonical :=
  .reachSink (.emitCopies h)

theorem State.Canonical.mxPassage {el : Nat} (h : s.Canonical) : (mxPassage el s).Canonical := by
  unfold Machine.mxPassage
  dsimp only
  split
  · split
    · exact h
    · split
      · exact h
      · split
        · exact h
        · split
          · exact .ite (.mxLeave h) h
          · split
            · exact .ite (.ite (.mxLeave h) h) h
            · exact .ite (.ite (.mxLeave h) h) h
            · exact .ite (.ite (.mxLeave h) h) h
            · exact h
  · exact h

theorem execWavefrontPassage_canonical {el : Nat} (h : s.Canonical) : AnswersCanonical (execWavefrontPassage el s) :=
  .next (.ite (.scalarPassage h) (.mxPassage h))

theorem execSystolicBeat_canonical {rg ws : Nat} (h : s.Canonical) : AnswersCanonical (execSystolicBeat rg ws s) := by
  unfold Machine.execSystolicBeat
  extract_lets +onlyGivenNames r first R e00
  split
  · exact .next h
  · extract_lets +onlyGivenNames rows cols all x00 b late
    refine .ite (.next h) ?_
    extract_lets +onlyGivenNames n0 need offers
    split
    · exact .next h
    · split
      · exact .next h
      · refine .ite (.next h) ?_
        extract_lets +onlyGivenNames n last drains dest wants ends waveAt copies filled
        refine .ite (.next h) ?_
        extract_lets +onlyGivenNames offer pipes s1 s2 s3
        have hs2 : s2.Canonical := .foldl (.foldl h fun hu => .setMx hu) fun hu => by
          split <;> exact hu
        have hs3 : s3.Canonical := .foldl hs2 fun hu => .update (.foldl hu fun hv => .mxEmit hv)
        refine .ite ?_ (.next (.setMx hs3))
        extract_lets ended
        have hended : ended.Canonical := .foldl hs3 fun hu => by
          extract_lets el
          split <;> exact hu
        refine .next (.foldl hended fun {u ij} hu => ?_)
        extract_lets el
        split
        · exact hu
        · refine .ite (.mxDone hu) ?_
          split
          · exact .mxLeave hu
          · exact hu

/-! ### Stripes saved and swapped -/

theorem State.Canonical.loadSlot {st a : Nat} (h : s.Canonical) : (s.loadSlot st a).Canonical :=
  .setStripe (.foldl (.foldl (.readBytes h) fun hu => hu) fun hu => hu)
theorem State.Canonical.emptyStripe {st : Nat} (h : s.Canonical) : (s.emptyStripe st).Canonical := .setStripe (.foldl h fun hu => hu)

theorem State.Canonical.swapStripe {st : Nat} {p : BitVec 2} {up : Option Nat} (h : s.Canonical) : (s.swapStripe st p up).Canonical := by
  unfold State.swapStripe
  split
  · exact .setStripe (.foldl (.foldl h fun hu => hu) fun hu => hu)
  · exact .setStripe (.setStripe (.foldl (.foldl h fun hu => hu) fun hu => hu))

theorem State.Canonical.darkStripe {st : Nat} (h : s.Canonical) : (s.darkStripe st).Canonical :=
  .setStripe (.foldl (.foldl h fun hu => hu) fun hu => hu)

/-! ### Scrolled regions -/

theorem State.Canonical.swapFirst {r : Region} {n : Nat} (h : s.Canonical) : (swapFirst s r n).Canonical := .foldl h fun hu => .swapStripe hu
theorem State.Canonical.noteArm {r : Region} (h : s.Canonical) : (s.noteArm r).Canonical := .foldl h fun hu => hu

theorem State.Canonical.finishPlacement {rg word : Nat} (h : s.Canonical) : (s.finishPlacement rg word).Canonical := by
  unfold State.finishPlacement
  dsimp only
  split
  · exact h
  · split
    · exact h
    · split
      · exact h
      · split
        · exact h
        · split
          · exact h
          · exact .ite (.setRegion (.noteArm (.swapFirst h))) (.setRegion (.noteArm (.swapFirst h)))

theorem execPlaneFill_canonical {ring : Nat} (h : s.Canonical) : AnswersCanonical (execPlaneFill ring s) := by
  unfold Machine.execPlaneFill
  dsimp only
  split
  · exact .next (.ite (.finishPlacement h) h)
  · split
    · exact .next h
    · exact .ite (.next h) (.ite (.next h) (.next h))

theorem State.Canonical.prefetch {rg ws v : Nat} (h : s.Canonical) : (s.prefetch rg ws v).Canonical := by
  unfold State.prefetch
  dsimp only
  split
  · exact h
  · exact .ite h h

theorem execVirtualStripeYield_canonical {rg ws : Nat} (h : s.Canonical) : AnswersCanonical (execVirtualStripeYield rg ws s) := by
  unfold Machine.execVirtualStripeYield
  dsimp only
  split
  · exact .next h
  · split
    · split
      · exact .next h
      · exact .ite (.next h) (.ite (.next (.setRegion (.foldl h fun hu => hu))) (.next (.setRegion (.darkStripe (.foldl h fun hu => hu)))))
    · exact .next h

theorem execStatefulSave_canonical {rg ws : Nat} (h : s.Canonical) : AnswersCanonical (execStatefulSave rg ws s) := by
  unfold Machine.execStatefulSave
  dsimp only
  split
  · exact .next h
  · exact .ite (.ite (.next h) (.next (.setRegion (.darkStripe (.emptyStripe (.writeBytes h)))))) (.next h)

theorem execScrollSwap_canonical {rg ws : Nat} (h : s.Canonical) : AnswersCanonical (execScrollSwap rg ws s) := by
  unfold Machine.execScrollSwap
  dsimp only
  split
  · exact .next h
  · exact .ite (.ite (.next h) (.ite (.ite (.next (.prefetch (.setRegion (.swapStripe h)))) (.next (.setRegion (.swapStripe h)))) (.next (.prefetch h)))) (.next h)

theorem execStatefulRestore_canonical {rg ws : Nat} (h : s.Canonical) : AnswersCanonical (execStatefulRestore rg ws s) := by
  unfold Machine.execStatefulRestore
  dsimp only
  split
  · exact .next h
  · exact .ite (.next (.setRegion (.loadSlot h))) (.next h)

/-! ### Reels -/

theorem State.Canonical.reelTo {pc : BitVec 16} {n : Nat} (h : s.Canonical) : (s.reelTo pc n).Canonical := h
theorem State.Canonical.reelNext (h : s.Canonical) : s.reelNext.Canonical := h
theorem State.Canonical.setReel {x : Reel} (h : s.Canonical) : (s.setReel x).Canonical := h
theorem State.Canonical.wordBreach {code : BitVec 16} (h : s.Canonical) : (s.wordBreach code).Canonical := h
theorem reelWhen_canonical {ok : Bool} {t : State} (h : s.Canonical) (ht : t.Canonical) : AnswersCanonical (reelWhen s ok t) := .ite (.next ht) (.next h)
theorem State.Canonical.reelJump {target : BitVec 16} (h : s.Canonical) : (s.reelJump target).Canonical := .ite h h
theorem State.Canonical.notScrolling {t : State} (h : s.Canonical) (ht : t.Canonical) : (notScrolling s t).Canonical := .ite (.wordBreach h) ht
theorem State.Canonical.reelPast (h : s.Canonical) : (reelPast s).Canonical := .ite h h
theorem execStripe_canonical {p : BitVec 2} {img : RegOr 16} {ws : RegOr 7} (h : s.Canonical) : AnswersCanonical (execStripe p img ws s) :=
  .ite (.next h) (.ite (.next h) (reelWhen_canonical h h))
theorem execPlane_canonical {sel : PlaneSel} (h : s.Canonical) : AnswersCanonical (execPlane sel s) := reelWhen_canonical h h
theorem directSwap_canonical {wss : List Nat} (h : s.Canonical) : AnswersCanonical (directSwap s wss) :=
  .ite (.next h) (.ite (.next h) (.ite (.next h) (.ite (.next h) (.next (.reelNext (.foldl h fun hu => .swapStripe hu))))))
theorem execSwap_canonical {ws : BitVec 7} (h : s.Canonical) : AnswersCanonical (execSwap ws s) :=
  .ite (.ite (directSwap_canonical h) (.next h)) (.next h)
theorem execSwapAll_canonical (h : s.Canonical) : AnswersCanonical (execSwapAll s) := .ite (directSwap_canonical h) (.next h)
theorem State.Canonical.inject {rg : Nat} {t : Token} (h : s.Canonical) : (s.inject rg t).Canonical := .foldl (.foldl h fun hu => hu) fun hu => hu
theorem execSwapWave_canonical (h : s.Canonical) : AnswersCanonical (execSwapWave s) := reelWhen_canonical h (.notScrolling h (.reelNext (.inject h)))
theorem execDwell_canonical {d v : BitVec 12} {img : BitVec 16} (h : s.Canonical) : AnswersCanonical (execDwell d v img s) :=
  reelWhen_canonical h (.notScrolling h h)
theorem execLoop_canonical {n : RegOr 32} {dist : BitVec 12} (h : s.Canonical) : AnswersCanonical (execLoop n dist s) :=
  reelWhen_canonical h (.ite h (.ite h h))

theorem execEndl_canonical (h : s.Canonical) : AnswersCanonical (execEndl s) := by
  unfold Machine.execEndl
  exact reelWhen_canonical h (by
    split
    · exact h
    · exact .ite h h)

theorem execBrp_canonical {line : BitVec 4} {sense : Bool} {target : BitVec 16} (h : s.Canonical) : AnswersCanonical (execBrp line sense target s) :=
  reelWhen_canonical h (.ite (.reelJump h) h)
theorem execJmp_canonical {target : BitVec 16} (h : s.Canonical) : AnswersCanonical (execJmp target s) := reelWhen_canonical h (.reelJump h)
theorem execCall_canonical {target : BitVec 16} (h : s.Canonical) : AnswersCanonical (execCall target s) := reelWhen_canonical h (.ite h h)

theorem execRet_canonical (h : s.Canonical) : AnswersCanonical (execRet s) := by
  unfold Machine.execRet
  exact reelWhen_canonical h (by
    split <;> exact h)

theorem State.Canonical.meetArm {rg : Nat} (h : s.Canonical) : (s.meetArm rg).Canonical := .ite (.foldl h fun hu => hu) h

theorem State.Canonical.armNow {lc : Nat} {n : W64} (h : s.Canonical) : (armNow s lc n).Canonical := by
  unfold Machine.armNow
  dsimp only
  split
  · exact .reelNext (.setRegion (.foldl h fun hu => hu))
  · split
    · exact h
    · exact .ite h (.reelNext (.setRegion (.noteArm h)))

theorem execArm_canonical {lc : BitVec 2} {n : RegOr 32} (h : s.Canonical) : AnswersCanonical (execArm lc n s) :=
  .ite (.ite (.next h) (.ite (.next h) (.ite (.next (.ite h (.meetArm h))) (.next (.armNow h))))) (.next h)
theorem execArmMx_canonical {n : RegOr 16} (h : s.Canonical) : AnswersCanonical (execArmMx n s) :=
  .ite (.ite (.next h) (.ite (.next h) (.ite (.next (.reelNext (.foldl h fun hu => .foldl hu fun hu => hu))) (.next h)))) (.next h)
theorem execWaitbBar_canonical {tag : BitVec 12} (h : s.Canonical) : AnswersCanonical (execWaitbBar tag s) :=
  .ite (.ite (.next (.inject h)) (.ite (.ite (.next h) (.next h)) (.ite (.next h) (.next h)))) (.next h)
theorem execWaitbLc_canonical {lc : BitVec 2} (h : s.Canonical) : AnswersCanonical (execWaitbLc lc s) := reelWhen_canonical h h
theorem execWaitbMx_canonical (h : s.Canonical) : AnswersCanonical (execWaitbMx s) := reelWhen_canonical h h
theorem execSave_canonical {ws : RegOr 7} {addr : RegOr 26} (h : s.Canonical) : AnswersCanonical (execSave ws addr s) :=
  .ite (.ite (.next h) (.ite (.next h) (.ite (.next h) (.ite (.next h) (.ite (.next h) (.next (.reelTo (.emptyStripe (.writeBytes h))))))))) (.next h)
theorem execRest_canonical {ws : RegOr 7} {addr : RegOr 26} (h : s.Canonical) : AnswersCanonical (execRest ws addr s) :=
  .ite (.ite (.next h) (.ite (.next h) (.ite (.next h) (.ite (.next h) (.ite (.next h) (.next (.reelTo (.loadSlot h)))))))) (.next h)

theorem execLds_canonical {a : BitVec 4} {off : BitVec 26} {b : Option (BitVec 4)} (h : s.Canonical) : AnswersCanonical (execLds a off b s) := by
  unfold Machine.execLds
  extract_lets r p
  refine reelWhen_canonical h (.ite (.wordBreach h) ?_)
  split
  next heq => exact .reelTo (.setReel (.fst_at (.readBytes h) heq))

theorem execSts_canonical {a : BitVec 4} {off : BitVec 26} {b : Option (BitVec 4)} (h : s.Canonical) : AnswersCanonical (execSts a off b s) :=
  reelWhen_canonical h (.ite h (.reelTo (.writeBytes h)))
theorem execAddi_canonical {a b : BitVec 4} {imm : BitVec 44} (h : s.Canonical) : AnswersCanonical (execAddi a b imm s) := reelWhen_canonical h h
theorem execMovs_canonical {a : BitVec 4} {src : MovSrc} (h : s.Canonical) : AnswersCanonical (execMovs a src s) := reelWhen_canonical h h

theorem execCmpj_canonical {cond : BitVec 3} {uns : Bool} {a b : BitVec 4} {target : BitVec 16} (h : s.Canonical) :
    AnswersCanonical (execCmpj cond uns a b target s) :=
  reelWhen_canonical h (.ite (.reelJump h) h)

theorem execSeqw_canonical {req : Bool} {abs : Option (BitVec 4)} (h : s.Canonical) : AnswersCanonical (execSeqw req abs s) := by
  unfold Machine.execSeqw
  dsimp only
  split
  · split
    · exact .next h
    · split
      · exact .next (.ite (.raiseSeal h) h)
      · exact .ite (.next h) (.next h)
  · exact .next h

theorem execMsgr_canonical {sl : Bool} {imm : BitVec 32} (h : s.Canonical) : AnswersCanonical (execMsgr sl imm s) :=
  .ite (.ite (.next h) (.ite (.next h) (.next h))) (.next h)
theorem execHlt_canonical {word : RegOr 32} (h : s.Canonical) : AnswersCanonical (execHlt word s) := .ite (.next (.setRegion (.retire h))) (.next h)

end Sys2Proof.Machine
end

section
/-! SUPPORT. Accesses, waits and the stacks keep memory canonical. -/
namespace Sys2Proof.Machine
open Sys2Proof

variable {s : State}

/-! ### Captures and writes at home -/

theorem State.Canonical.syncUsed {sk : Nat} (h : s.Canonical) : (s.syncUsed sk).Canonical := h

theorem State.Canonical.undoPush {sk line : Nat} {tag : W32} {parity : Bool} {image : List Byte} (h : s.Canonical) :
    (s.undoPush sk line tag parity image).Canonical :=
  .syncUsed (.setStack (.writeBytes h))

theorem State.Canonical.setLtag {line : Nat} {v : BitVec 16} (h : s.Canonical) : (s.setLtag line v).Canonical := h
theorem State.Canonical.updImage {a line pa : Nat} {u : Upd} (h : s.Canonical) : (s.updImage a line pa u).Canonical := .writeBytes (.correct h)
theorem State.Canonical.srqTest {sk : Nat} (h : s.Canonical) : (s.srqTest sk).Canonical := .ite (.raiseSeal h) h

theorem Capture.Canonical.capture {line pa : Nat} {m : W32} {parity : Bool} {u : Upd} (h : s.Canonical) :
    (s.capture line m parity pa u).Canonical := by
  unfold State.capture
  extract_lets pk sk s' x lt opened img
  have hs : s'.Canonical := .ite h (.correct h)
  refine .ite (.ok hs) (.ite (.bad (.uncorrectable hs)) (.ite ?late (.ite (.hold (.raiseSeal hs)) (.ite (.hold hs) (.ite (.full hs) ?captured)))))
  case late =>
    split
    · exact .ite (.full hs) (.ok (.srqTest (.undoPush hs)))
    · extract_lets a
      split
      · exact .ok (.updImage hs)
      · exact .ite (.full hs) (.ok (.srqTest (.updImage (.undoPush hs))))
  case captured => exact .ok (.srqTest (.ite (.setStack (.setLtag (.undoPush hs))) (.setLtag (.undoPush hs))))

theorem Capture.Canonical.captureAll {m : W32} {parity : Bool} {pa : Nat} {u : Upd} {ls : List Nat} (h : s.Canonical) :
    (captureAll m parity pa u ls s).Canonical := by
  induction ls generalizing s with
  | nil => exact h
  | cons l ls ih =>
    unfold Machine.captureAll
    split
    next t heq => exact ih (Capture.Canonical.at (.capture h) heq)
    next => exact .capture h

theorem State.Canonical.sendDeltas {line grp : Nat} {d : List Byte} {tag : Option W32} {op fg : Nat} (h : s.Canonical) :
    (s.sendDeltas line grp d tag op fg).Canonical :=
  .foldl h fun hu => .foldl hu fun hu => .ite hu hu

theorem Capture.Canonical.noteBad {u : Upd} {ls : List Nat} (h : s.Canonical) : (s.noteBad u ls).Canonical := by
  have hbad {l : List Nat} : (l.foldl State.uncorrectable s).Canonical := .foldl h .uncorrectable
  unfold State.noteBad
  dsimp only
  split
  · exact .ok hbad
  · exact .ite (.ok hbad) (.bad hbad)

theorem Capture.Canonical.homeWrite {pa : Nat} {u : Upd} {tag : Option W32} {irv : Bool} {prot : Option Nat} {op fg : Nat} (h : s.Canonical) :
    (s.homeWrite pa u tag irv prot op fg).Canonical := by
  unfold State.homeWrite
  extract_lets ls live c
  have hc : c.Canonical := by
    unfold c
    split
    · exact .noteBad h
    · split
      next t heq => exact .noteBad (Capture.Canonical.at (.captureAll h) heq)
      next => exact .captureAll h
  clear_value c
  split
  next t => exact .ok (.writeBytes hc)
  next t g => exact .ok (.foldl (.writeBytes hc) .sendDeltas)
  next => exact hc

/-! ### Base-slice images -/

theorem State.Canonical.loadBase {sk n : Nat} (h : s.Canonical) : (s.loadBase sk n).Canonical :=
  .ite h (.ite (.update (.setStripe (.setMx (.foldl h fun hu => hu)))) h)

/-! ### Streams and accesses -/

theorem State.Canonical.unreserveAt {op : Nat} {ds : List Dest} (h : s.Canonical) : (s.unreserveAt op ds).Canonical := h
theorem State.Canonical.forget {op : Nat} (h : s.Canonical) : (s.forget op).Canonical := h

theorem State.Canonical.tellTwin {taint : Bool} {outs : List Out} {t : Nat × Nat × Ret} (h : s.Canonical) : (s.tellTwin taint outs t).Canonical := by
  unfold State.tellTwin
  dsimp only
  split
  · split
    · exact .foldl h fun hu => .addEmit hu
    · exact h
  · exact .emitAll h

theorem State.Canonical.tellTwins {op : Nat} {taint : Bool} {outs : List Out} (h : s.Canonical) : (s.tellTwins op taint outs).Canonical :=
  .ite (.update (.foldl h fun hu => .tellTwin hu)) (.foldl h fun hu => .tellTwin hu)
theorem State.Canonical.dropOrder {rs : Nat} (h : s.Canonical) : (s.dropOrder rs).Canonical := .setStrm (.foldl h fun hu => hu)
theorem State.Canonical.withdrawFrom {rs n : Nat} (h : s.Canonical) : (s.withdrawFrom rs n).Canonical := .dropOrder (.foldl h fun hu => hu)
theorem State.Canonical.withdraw {rs : Nat} (h : s.Canonical) : (s.withdraw rs).Canonical := .withdrawFrom h

theorem State.Canonical.homeFault {id : Nat} {a : Access} {code : BitVec 16} (h : s.Canonical) : (s.homeFault id a code).Canonical := by
  unfold State.homeFault
  split
  · exact .withdraw h
  · exact h

theorem State.Canonical.streamFault {rs : Nat} {ret : Ret} {rg : Nat} {va : W64} {code : BitVec 16} {keep : Bool} (h : s.Canonical) :
    (s.streamFault rs ret rg va code keep).Canonical :=
  .ite h (.dropOrder h)

theorem State.Canonical.noteTag {rg : Nat} {t : Option W32} (h : s.Canonical) : (s.noteTag rg t).Canonical := by
  unfold State.noteTag
  dsimp only
  split
  · exact h
  · split
    · exact .ite h h
    · exact h

theorem Issued.Canonical.sendAccess {rs : Nat} {t : Strm} {i : Issue} {va : W64} {off : W32} {x : Xlat} (h : s.Canonical) :
    (s.sendAccess rs t i va off x).Canonical := by
  have hbase {sk n : Nat} {first : Bool} : (if first then s.loadBase sk n else s).Canonical := .ite (.loadBase h) h
  unfold State.sendAccess
  extract_lets pk pa asid sk v first s' ok tag a
  have hs : s'.Canonical := hbase
  refine .ite trivial (.ite trivial (.ite trivial (.ite trivial (.ite hs (.ite trivial (.ite trivial ?_))))))
  exact State.Canonical.bump (.noteTag (.setAcc (.keepXlat (.setStrm hs))))

theorem Issued.Canonical.issueHead {rs : Nat} {i : Issue} {idx : Option W32} (h : s.Canonical) : (s.issueHead rs i idx).2.Canonical := by
  unfold State.issueHead
  dsimp only
  split
  · trivial
  · split_ifs
    · trivial
    · exact h
    · split
      · trivial
      · exact .sendAccess h

theorem State.Canonical.againFault {rs : Nat} {a : Access} {code : BitVec 16} (h : s.Canonical) : (s.againFault rs a code).Canonical :=
  .ite (.foldl h fun hu => hu) (.withdrawFrom h)
theorem State.Canonical.pfgDone {rs : Nat} {i : Issue} {dropped : Bool} (h : s.Canonical) : (s.pfgDone rs i dropped).Canonical :=
  .ite (.count (.setStrm (.forget (.tellTwins (.complete h))))) (.setStrm (.forget (.tellTwins (.complete h))))

theorem State.Canonical.of_namedBase {rs : Nat} {t : Strm} {u : State} {ok : Bool} (h : s.Canonical) (heq : s.namedBase rs t = some (u, ok)) : u.Canonical := by
  unfold State.namedBase at heq
  extract_lets +onlyGivenNames asid at heq
  split_ifs at heq
  split at heq
  · cases heq
  · extract_lets +onlyGivenNames pa sk v at heq
    split_ifs at heq
    cases heq
    exact .loadBase h

theorem execStreamAccessIssue_canonical {rs : Nat} (h : s.Canonical) : AnswersCanonical (execStreamAccessIssue rs s) := by
  have hbase {c : Prop} [Decidable c] {t : Strm} {u : State} {ok : Bool} (heq : (if c then s.namedBase rs t else none) = some (u, ok)) : u.Canonical := by
    split_ifs at heq
    exact .of_namedBase h heq
  unfold Machine.execStreamAccessIssue
  extract_lets +onlyGivenNames t
  refine .ite (.next h) ?_
  split
  · exact .next h
  · exact .next h
  · extract_lets +onlyGivenNames n bound t1
    refine .ite (.next h) ?_
    split
    · exact .next (.setStrm h)
    next heq => exact .next (.setStrm (hbase heq))
    next heq => exact .next (.streamFault (hbase heq))
  · refine .ite (.next h) ?_
    split
    · exact .next (.setStrm h)
    · split
      · exact .next (.streamFault h)
      · exact .next (.bump (.noteTag (.setAcc (.setStrm (.keepXlat h)))))
  · extract_lets +onlyGivenNames i
    refine .ite (.next h) ?_
    split
    next heq =>
      have hs1 := Issued.Canonical.at (.issueHead h) heq
      exact .ite (.next (.pfgDone (.setStrm hs1))) (.next (.setStrm (.setStrm hs1)))
    next => exact .next (.setStrm h)
    next => exact .ite (.next (.pfgDone h)) (.next (.streamFault h))
    next => exact .next h
    next heq => exact .next (.streamFault (Issued.Canonical.at (.issueHead h) heq))

theorem execPageWalkComplete_canonical {rs : Nat} (h : s.Canonical) : AnswersCanonical (execPageWalkComplete rs s) := by
  unfold Machine.execPageWalkComplete
  dsimp only
  split
  · exact .next h
  · split
    · exact .next (.foldl (.blame (.uncorrectable (.foldl h fun hu => .correct hu))) fun hu => .withdraw hu)
    · exact .next (.foldl (.foldl h fun hu => .correct hu) fun hu => hu)
    · exact .next (.foldl (.foldl h fun hu => .correct hu) fun hu => by
        split
        · split
          · exact .pfgDone hu
          · exact hu
        · exact .streamFault hu
        · exact hu)

theorem execMovedReplyReissue_canonical {ac : Nat} (h : s.Canonical) : AnswersCanonical (execMovedReplyReissue ac s) := by
  unfold Machine.execMovedReplyReissue
  dsimp only
  split
  · exact .next h
  · split
    · split
      · exact .next (.againFault h)
      · split
        · exact .next (.againFault h)
        · exact .next (.noteTag h)
    · exact .next h
    · exact .next h

theorem State.Canonical.afterWrite {id : Nat} {a : Access} {c : Capture} (hc : c.Canonical) : (State.afterWrite id a c).Canonical := by
  cases c with
  | ok t | hold t | full t => exact hc
  | bad t =>
    dsimp only [State.afterWrite]
    split
    · exact .withdraw hc
    · exact hc

theorem State.Canonical.storeAtHome {id : Nat} {a : Access} (h : s.Canonical) : (s.storeAtHome id a).Canonical := .blame (.afterWrite (.homeWrite h))
theorem State.Canonical.reach {id : Nat} {a : Access} (h : s.Canonical) : (s.reach id a).Canonical := h

theorem State.Canonical.of_atFrame {id : Nat} {a : Access} {t : State} (h : s.Canonical) (heq : s.atFrame id a = some t) : t.Canonical := by
  unfold State.atFrame at heq
  split at heq
  · cases heq
  · split at heq <;> cases heq <;> exact h

theorem State.Canonical.atHbm {id : Nat} {a : Access} (h : s.Canonical) : (s.atHbm id a).Canonical := by
  unfold State.atHbm
  dsimp only
  split
  next t heq => exact .of_atFrame h heq
  next =>
    refine .ite (.homeFault h) (.ite (.homeFault h) ?_)
    split
    · exact .homeFault h
    · split
      · exact .ite (.reach h) (.storeAtHome h)
      · exact .reach h

theorem State.Canonical.atPartition {id : Nat} {a : Access} {mp n addr : Nat} {inPlace : Bool} (h : s.Canonical) :
    (s.atPartition id a mp n addr inPlace).Canonical := by
  unfold State.atPartition
  dsimp only
  split
  · exact h
  · split
    · split <;> exact h
    · exact h

theorem State.Canonical.atBase {id : Nat} {a : Access} {sk n : Nat} (h : s.Canonical) : (s.atBase id a sk n).Canonical := by
  unfold State.atBase
  split
  · exact .ite h (.ite (.setAcc (.ite (.addEmit (.addEmit h)) (.addEmit h))) (.setAcc (.ite (.addEmit (.addEmit h)) (.addEmit h))))
  · exact h

theorem State.Canonical.leave {id : Nat} {a : Access} (h : s.Canonical) : (s.leave id a).Canonical := by
  unfold State.leave
  dsimp only
  split
  · exact h
  · exact .ite h h

theorem execAccessAtHome_canonical {ac : Nat} (h : s.Canonical) : AnswersCanonical (execAccessAtHome ac s) := by
  have hset {id : Nat} {a : Access} {pa : Nat} {bs : List Byte} : ((s.writeBytes pa bs).setAcc id a).Canonical := .setAcc (.writeBytes h)
  unfold Machine.execAccessAtHome
  split
  · exact .next h
  · refine .ite (.next h) ?_
    dsimp only
    split
    · refine .ite (.next (.leave h)) ?_
      split
      · exact .next (.atPartition h)
      · exact .next (.atBase h)
      · refine .ite (.next (.atHbm h)) (.ite (.next (.homeFault h)) ?_)
        split
        · exact .next (.homeFault h)
        · exact .ite (.next (.reach h)) (.ite (.next h) (.ite (.next hset) (.next (.reach h))))
    · exact .ite (.next (.atHbm h)) (.next h)
    · exact .ite (.ite (.next (.getD (.of_atFrame h) (.storeAtHome h))) (.ite (.next h) (.next hset))) (.next h)
    · exact .next h

theorem State.Canonical.emitLoad {id : Nat} {a : Access} (h : s.Canonical) : (s.emitLoad id a).Canonical := by
  unfold State.emitLoad
  extract_lets +onlyGivenNames sx w last out next
  have hnext {u : State} (hu : u.Canonical) : (next u).Canonical :=
    .ite (.forget (.unreserve (.delAcc (.tellTwins hu)))) (.setAcc (.tellTwins hu))
  split
  · exact hnext (.addEmit h)
  · exact .ite (hnext (.emitRet h)) (.ite (hnext (.emitRet h)) h)

theorem State.Canonical.bind {id : Nat} {a : Access} (h : s.Canonical) : (s.bind id a).Canonical :=
  .ite (.emitLoad h) (.emitLoad (.ite (.foldl (.blame (.readBytes h)) fun hu => .noteTag hu) (.blame (.readBytes h))))

theorem execLoadBound_canonical {ac : Nat} (h : s.Canonical) : AnswersCanonical (execLoadBound ac s) := by
  unfold Machine.execLoadBound
  split
  · exact .next h
  · split
    · exact .ite (.next (.getD (.of_atFrame h) (.bind h))) (.next h)
    · exact .ite (.next (.emitLoad h)) (.next h)
    · exact .next h

theorem execHostReadCompletion_canonical {ac : Nat} (h : s.Canonical) : AnswersCanonical (execHostReadCompletion ac s) := by
  unfold Machine.execHostReadCompletion
  split
  · exact .next h
  · split
    · exact .ite (.next (.bind h)) (.next h)
    · exact .next h

theorem State.Canonical.completeStore {id : Nat} {a : Access} (h : s.Canonical) : (s.completeStore id a).Canonical :=
  .forget (.tellTwins (.emitRet h))

theorem execStorePerformed_canonical {ac : Nat} (h : s.Canonical) : AnswersCanonical (execStorePerformed ac s) := by
  unfold Machine.execStorePerformed
  split
  · exact .next h
  · split
    · exact .next h
    · exact .ite (.next (.completeStore h)) (.next h)
    · exact .ite (.next (.completeStore h)) (.next h)
    · exact .next h

theorem execAtomicAtHome_canonical {ac : Nat} (h : s.Canonical) : AnswersCanonical (execAtomicAtHome ac s) := by
  unfold Machine.execAtomicAtHome
  split
  · exact .next h
  · refine .ite ?_ (.next h)
    extract_lets pk pa hbm newer answer
    have hanswer {u : State} {b : Access} {old : W32} (hu : u.Canonical) : (answer u b old).Canonical :=
      .setAcc (.ite (.tellTwins (.emitRet (.unreserveAt hu))) hu)
    refine .ite (.next h) (.ite (.next (hanswer h)) ?_)
    split
    next t heq => exact .next (.of_atFrame h heq)
    next =>
      refine .ite (.next h) (.ite (.next ?_) ?_)
      · split
        · exact .withdraw (.blame (.uncorrectable h))
        · exact .delAcc (.blame (.uncorrectable h))
      · refine .ite ?_ (.next (hanswer (.writeBytes (.readBytes h))))
        split
        next t heq => exact .next (hanswer (Capture.Canonical.at (.homeWrite (.readBytes h)) heq))
        next => exact .next (.blame (.afterWrite (.homeWrite (.readBytes h))))

/-! ### Operations that wait -/

theorem State.Canonical.finishWait {w : Nat} {ret : Ret} {outs : List Out} (h : s.Canonical) : (s.finishWait w ret outs).Canonical :=
  .forget (.tellTwins (.complete h))

theorem State.Canonical.coveredDone {w : Nat} {x : Wait} {scope : BitVec 3} {last : Option W32} {again : Option W32 → WKind} {free : State → State}
    (h : s.Canonical) (hfree : (free s).Canonical) : (s.coveredDone w x scope last again free).Canonical :=
  .ite (.finishWait hfree) h

theorem execFenceConditionMet_canonical {w : Nat} (h : s.Canonical) : AnswersCanonical (execFenceConditionMet w s) := by
  unfold Machine.execFenceConditionMet
  split
  · exact .next h
  · split
    · exact .ite (.next (.coveredDone h h)) (.next h)
    · exact .next h

theorem State.Canonical.dropBars {ring w : Nat} {mask : W32} (h : s.Canonical) : (State.dropBars ring w mask s).Canonical :=
  .foldl h fun hu => .ite hu hu

theorem execSbarRelease_canonical {w : Nat} (h : s.Canonical) : AnswersCanonical (execSbarRelease w s) := by
  unfold Machine.execSbarRelease
  split
  · exact .next h
  · split
    · exact .ite (.next (.coveredDone h (.dropBars h))) (.next h)
    · exact .next h

theorem execPublishPerformed_canonical {w : Nat} (h : s.Canonical) : AnswersCanonical (execPublishPerformed w s) := by
  unfold Machine.execPublishPerformed
  split
  · exact .next h
  · split
    · exact .ite (.next h) (.ite (.next h) (.next (.finishWait h)))
    · exact .next h

theorem execCbputPlacement_canonical {w : Nat} (h : s.Canonical) : AnswersCanonical (execCbputPlacement w s) := by
  unfold Machine.execCbputPlacement
  split
  · exact .next h
  · split
    · exact .ite (.next h) (.next (.placePut h))
    · exact .next h

theorem execCbputRetry_canonical {w : Nat} (h : s.Canonical) : AnswersCanonical (execCbputRetry w s) := by
  unfold Machine.execCbputRetry
  split
  · exact .next h
  · split
    · exact .ite (.next h) (.next (.placePut h))
    · exact .next h

theorem execCbgetDelivery_canonical {w : Nat} (h : s.Canonical) : AnswersCanonical (execCbgetDelivery w s) := by
  unfold Machine.execCbgetDelivery
  split
  · exact .next h
  · split
    · exact .ite (.next h) (.ite (.next h) (.ite (.next h) (.next (.finishWait (.setElem (.advanceHead h))))))
    · exact .next h

theorem execSecwCountReached_canonical {w : Nat} (h : s.Canonical) : AnswersCanonical (execSecwCountReached w s) := by
  unfold Machine.execSecwCountReached
  split
  · exact .next h
  · split
    · exact .ite (.next (.finishWait h)) (.next h)
    · exact .next h

theorem execCrdRecordArrival_canonical {w : Nat} (h : s.Canonical) : AnswersCanonical (execCrdRecordArrival w s) := by
  unfold Machine.execCrdRecordArrival
  split
  · exact .next h
  · split
    · exact .ite (.next (.finishWait h)) (.next h)
    · exact .next h

theorem State.Canonical.noteReq {pk : Nat} (h : s.Canonical) : (s.noteReq pk).Canonical := .setReg (.raiseSeal h)

theorem execSealreqRecorded_canonical {w : Nat} (h : s.Canonical) : AnswersCanonical (execSealreqRecorded w s) := by
  unfold Machine.execSealreqRecorded
  split
  · exact .next h
  · split
    · exact .ite (.next h) (.ite (.next (.finishWait h)) (.next (.finishWait (.noteReq h))))
    · exact .next h

theorem State.Canonical.setStaged {pk : Nat} {l : List Staged} (h : s.Canonical) : (s.setStaged pk l).Canonical := h
theorem State.Canonical.stage {pk : Nat} {e : Staged} (h : s.Canonical) : (s.stage pk e).Canonical := .ite (.raiseSeal h) h

theorem State.Canonical.of_hostRing {pk base ctl prod cons : Nat} {bytes : List Byte} {t : State} (h : s.Canonical)
    (heq : s.hostRing pk base ctl prod cons bytes = some t) : t.Canonical := by
  unfold State.hostRing at heq
  dsimp only at heq
  split at heq <;> cases heq
  exact .ite (.update (.poke (.setReg (.poke h)))) (.poke (.setReg (.poke h)))

theorem State.Canonical.of_deliverMsg {pk : Nat} {m : List W32} {t : State} (h : s.Canonical) (heq : s.deliverMsg pk m = some t) : t.Canonical := by
  unfold State.deliverMsg at heq
  split at heq
  · cases heq
    exact h
  · exact .of_hostRing h heq

theorem execMsendAccepted_canonical {w : Nat} (h : s.Canonical) : AnswersCanonical (execMsendAccepted w s) := by
  unfold Machine.execMsendAccepted
  split
  · exact .next h
  · split
    · dsimp only
      split
      · exact .ite (.next (.finishWait h)) (.next h)
      · refine .ite (.next h) (.ite (.ite (.next h) (.ite (.next (.setWait (.stage h))) (.next (.finishWait (.stage h))))) (.ite ?_ (.next h)))
        split
        next t heq => exact .next (.finishWait (.of_deliverMsg h heq))
        next => exact .next h
    · exact .next h

theorem execIrrevocableWriteAccept_canonical {ac : Nat} (h : s.Canonical) : AnswersCanonical (execIrrevocableWriteAccept ac s) := by
  unfold Machine.execIrrevocableWriteAccept
  split
  · exact .next h
  · exact .ite (.ite (.next (.setAcc (.noteTag (.stage h)))) (.next (.completeStore (.noteTag (.stage h))))) (.next h)

theorem State.Canonical.stagedLost {pk : Nat} {e : Staged} {es : List Staged} (h : s.Canonical) : (s.stagedLost pk e es).Canonical := h

theorem execStagingRelease_canonical {pk : Nat} (h : s.Canonical) : AnswersCanonical (execStagingRelease pk s) := by
  unfold Machine.execStagingRelease
  split
  · exact .next h
  · exact .ite (.next h) (.ite (.next h) (.ite (.ite (.next h) (.next (.setStaged (.poke h)))) (.ite (.next h) (.next (.setStaged (.writeBytes h))))))

theorem execHostMessageDelivery_canonical {pk : Nat} (h : s.Canonical) : AnswersCanonical (execHostMessageDelivery pk s) := by
  unfold Machine.execHostMessageDelivery
  split
  · exact .next h
  · refine .ite (.next h) (.ite (.next (.stagedLost h)) ?_)
    split
    next => exact .next h
    next t heq => exact .next (.setStaged (.of_deliverMsg h heq))

theorem execParityDeltaArrival_canonical {d : Nat} (h : s.Canonical) : AnswersCanonical (execParityDeltaArrival d s) := by
  unfold Machine.execParityDeltaArrival
  split
  · exact .next h
  next x heq =>
    extract_lets pa line newer bs c
    refine .ite (.next h) (.ite (.ite (.next h) (.next (.uncorrectable h))) ?_)
    have hc : c.Canonical := by
      unfold c
      split
      · exact h
      · exact .capture h
    clear_value c
    split
    next t => exact .next (.update (.writeBytes hc))
    next t => exact .next hc
    next t => exact .next (.detect (.update hc))
    next t => exact .next hc

theorem execParityDeltaTimeout_canonical {d : Nat} (h : s.Canonical) : AnswersCanonical (execParityDeltaTimeout d s) := by
  unfold Machine.execParityDeltaTimeout
  split
  · exact .next h
  · exact .ite (.next h) (.next h)

/-! ### Bound streams, base slices and the stacks -/

theorem State.Canonical.passTwins {op id : Nat} (h : s.Canonical) : (s.passTwins op id).Canonical := h

theorem execBoundLoadStreamIssue_canonical {rs : Nat} (h : s.Canonical) : AnswersCanonical (execBoundLoadStreamIssue rs s) := by
  unfold Machine.execBoundLoadStreamIssue
  extract_lets +onlyGivenNames t
  split
  · exact .next h
  · refine .ite (.next h) (.ite (.ite (.next (.addEmit (.setStrm h))) (.next h)) (.ite (.next h) ?_))
    extract_lets +onlyGivenNames id rg i
    split
    next heq => exact .next (.bump (.passTwins (.reserve (.setStrm (Issued.Canonical.at (.issueHead h) heq)))))
    next => exact .next (.setStrm h)
    next => exact .next h
    next => exact .next (.streamFault h)
    next heq => exact .next (.streamFault (Issued.Canonical.at (.issueHead h) heq))

theorem State.Canonical.portSink {p : Nat} {t : Token} (h : s.Canonical) : (s.portSink p t).Canonical := by
  unfold State.portSink
  split <;> exact h

theorem execBoundStoreStreamAccess_canonical {rs : Nat} (h : s.Canonical) : AnswersCanonical (execBoundStoreStreamAccess rs s) := by
  unfold Machine.execBoundStoreStreamAccess
  extract_lets +onlyGivenNames t
  split
  · exact .next h
  · extract_lets +onlyGivenNames words rg
    refine .ite (.next h) (.ite (.next h) (.ite ?_ ?_))
    · extract_lets +onlyGivenNames id i
      refine .ite (.next (.detect (.setRegion (.setStrm h)))) ?_
      split
      next heq => exact .next (.bump (.passTwins (.setStrm (Issued.Canonical.at (.issueHead h) heq))))
      next => exact .next (.setStrm h)
      next => exact .next h
      next => exact .next (.streamFault h)
      next heq => exact .next (.streamFault (Issued.Canonical.at (.issueHead h) heq))
    · extract_lets +onlyGivenNames q
      split
      · exact .next h
      · exact .ite (.next (.setStrm (.setPort h))) (.ite (.next (.elFault h)) (.ite (.next (.ite (.portSink h) h)) (.next (.setPort h))))

theorem execBaseNodeStreamDelivery_canonical {rs : Nat} (h : s.Canonical) : AnswersCanonical (execBaseNodeStreamDelivery rs s) := by
  unfold Machine.execBaseNodeStreamDelivery
  dsimp only
  split
  · exact .next h
  · split
    · exact .next h
    · split
      · exact .next h
      · exact .ite (.next (.emitLoad h)) (.next h)

theorem State.Canonical.setMult {m : Nat} {x : Mult} (h : s.Canonical) : (s.setMult m x).Canonical := h

theorem State.Canonical.multEmit {m : Nat} {w : MWord} {wpos : Nat} {v : W32} {taint : Bool} (h : s.Canonical) :
    (multEmit s m w wpos v taint).Canonical := by
  unfold Machine.multEmit
  dsimp only
  split
  · exact .ite h h
  · exact .update (.addEmit h)

theorem execBgmv_canonical {w : MWord} (h : s.Canonical) : AnswersCanonical (execBgmv w s) := by
  unfold Machine.execBgmv
  dsimp only
  split
  · exact .next h
  · split
    · split <;> exact .next h
    · exact .ite (.next h) (.ite (.next h) (.ite (.next h) (.ite (.next h) (.ite (.next (.setMult (.readBytes h))) (.next (.setMult (.multEmit (.readBytes h))))))))

theorem execBred_canonical {w : MWord} (h : s.Canonical) : AnswersCanonical (execBred w s) := by
  unfold Machine.execBred
  dsimp only
  split
  · exact .next h
  · exact .ite (.next h) (.next (.setMult (.multEmit h)))

theorem execHbmRefresh_canonical {sk bank : Nat} (h : s.Canonical) : AnswersCanonical (execHbmRefresh sk bank s) := .next h
theorem State.Canonical.scrubLine {line : Nat} (h : s.Canonical) : (s.scrubLine line).Canonical := .ite (.uncorrectable (.correct h)) (.correct h)

theorem execRowActivationRefresh_canonical {sk bank row : Nat} (h : s.Canonical) : AnswersCanonical (execRowActivationRefresh sk bank row s) := by
  unfold Machine.execRowActivationRefresh
  extract_lets +onlyGivenNames k mark t
  have ht : t.Canonical := .ite (.count (.setMark h)) h
  clear_value t
  refine .ite (.next (.setReg (.markRow (.setMark (.foldl (.setStack ht) fun hu => ?_))))) (.ite (.next (.setStack ht)) (.next (.setStack ht)))
  exact .ite (.foldl hu fun hv => .scrubLine hv) hu

theorem execPatrolScrub_canonical {sk line : Nat} (h : s.Canonical) : AnswersCanonical (execPatrolScrub sk line s) := .next (.scrubLine h)
theorem execLtagSweep_canonical {sk : Nat} (h : s.Canonical) : AnswersCanonical (execLtagSweep sk s) := .ite (.next h) (.next h)

end Sys2Proof.Machine
end

section
/-! SUPPORT. Transfer requests, the window and graphs keep memory canonical. -/
namespace Sys2Proof.Machine
open Sys2Proof

variable {s : State}

/-! ### Transfer requests -/

theorem State.Canonical.setReq {rq : Nat} {r : Req} (h : s.Canonical) : (s.setReq rq r).Canonical := h
theorem State.Canonical.setTask {tk : Nat} {x : Task} (h : s.Canonical) : (s.setTask tk x).Canonical := h

theorem State.Canonical.taskFault {tk : Nat} (h : s.Canonical) : (s.taskFault tk).Canonical := by
  unfold State.taskFault
  split <;> exact h

theorem execXreqPacketAccepted_canonical {w : Nat} (h : s.Canonical) : AnswersCanonical (execXreqPacketAccepted w s) := by
  unfold Machine.execXreqPacketAccepted
  split
  · exact .next h
  · split
    · exact .ite (.next h) (.next (.finishWait h))
    · exact .next h

theorem State.Canonical.of_xpeek {pa n : Nat} {t : State} {v : List Byte} (h : s.Canonical) (heq : s.xpeek pa n = .ok (some (t, v))) : t.Canonical := by
  obtain ⟨read, hread, hreads⟩ : ∃ read, (∀ pa n, (read pa n).1.Canonical) ∧ s.readBytes = read := ⟨_, fun _ _ => .readBytes h, rfl⟩
  simp only [State.xpeek, hreads] at heq
  split_ifs at heq <;> cases heq
  exact hread _ _

theorem State.Canonical.xdamage {pa n : Nat} {code : BitVec 16} (h : s.Canonical) : (s.xdamage pa n code).Canonical := .ite (.update (.readBytes h)) h

theorem Part.Canonical.xpoke {pk pa rq fg : Nat} {bs : List Byte} {x : Option Xlat} {shadow atomic : Bool} {tag : Option W32} (h : s.Canonical) :
    (s.xpoke pk pa bs x shadow atomic tag rq fg).Canonical := by
  unfold State.xpoke
  extract_lets irv stages
  refine .ite (.fault h) (.ite (.fault h) (.ite (.hold h) ?_))
  split
  · exact .fault h
  · refine .ite (.ite (.hold h) (.ok (.stage h))) (.ite (.hold h) (.ite (.ok (.writeBytes h)) ?_))
    split
    next heq => exact .ok (Capture.Canonical.at (.homeWrite h) heq)
    next heq => exact .hold (Capture.Canonical.at (.homeWrite h) heq)
    next t heq =>
      have ht : t.Canonical := Capture.Canonical.at (.homeWrite h) heq
      exact .bar (.detect ht)
    next t heq =>
      have ht : t.Canonical := Capture.Canonical.at (.homeWrite h) heq
      exact .fault (.update ht)

theorem ReadCanonical.readEnd {pk who n : Nat} {asid : BitVec 12} {e : End} (h : s.Canonical) : ReadCanonical (s.readEnd pk asid who e n) := by
  unfold State.readEnd
  split
  case h_1 => exact h
  case h_2 =>
    split
    case h_1 => exact .xdamage h
    case h_2 r heq =>
      cases r with
      | none => trivial
      | some p => exact .of_xpeek h heq
  case h_3 =>
    refine List.foldlRecOn (motive := ReadCanonical) _ _ h fun acc hacc p _ => ?_
    dsimp only
    split
    case h_1 t v =>
      have ht : t.Canonical := hacc
      split
      case h_1 => exact ht
      case h_2 =>
        split_ifs
        · trivial
        · split
          case h_1 => exact ht
          case h_2 => exact .xdamage ht
          case h_3 => trivial
          case h_4 heq => exact .of_xpeek ht heq
    case h_2 => exact hacc

theorem Part.Canonical.writeEnd {rq : Nat} {r : Req} {e : End} {v : List Byte} {shadow atomic : Bool} (h : s.Canonical) :
    (s.writeEnd rq r e v shadow atomic).1.Canonical := by
  unfold State.writeEnd
  refine List.foldlRecOn (motive := fun p : Part × Req => p.1.Canonical) _ _ (.ok h) fun acc hacc p _ => ?_
  dsimp only
  split
  case h_1 t q =>
    have ht : t.Canonical := hacc
    split
    case h_1 => exact .fault ht
    case h_2 =>
      have hpoke {pk pa fg : Nat} {bs : List Byte} {x : Option Xlat} {tag : Option W32} : (t.xpoke pk pa bs x shadow atomic tag rq fg).Canonical := .xpoke ht
      split
      next heq => exact .ok (hpoke.at heq)
      next heq => exact .hold (hpoke.at heq)
      next heq => exact .fault (hpoke.at heq)
      next => exact hpoke
  case h_2 => exact hacc

theorem Part.Canonical.moveWith {before stay : Bool} {rq : Nat} {r : Req} {m : Move} (h : s.Canonical) :
    (s.moveWith before stay rq r m).1.Canonical := by
  unfold State.moveWith
  extract_lets +onlyGivenNames pk
  split
  · exact .fault h
  · refine .fst_ite (.hold h) ?_
    split
    · exact .writeEnd h
    · split
      next heq => exact .fault (ReadCanonical.at (.readEnd h) heq)
      next => exact .hold h
      next t v heq =>
        have ht : t.Canonical := ReadCanonical.at (.readEnd h) heq
        exact .fst_ite (.ok (.ite ht (.update ht))) (.writeEnd (.ite ht (.update ht)))

theorem Part.Canonical.doMove {rq : Nat} {r : Req} {m : Move} (h : s.Canonical) : (s.doMove rq r m).1.Canonical := .moveWith h

theorem Part.Canonical.runMoves {rq fuel k : Nat} {f : Nat → State → Req → Part × Req} {back : State × Req} {r : Req}
    (hf : ∀ {k : Nat} {t : State} {q : Req}, t.Canonical → (f k t q).1.Canonical) (hback : back.1.Canonical) (h : s.Canonical) :
    (runMoves rq f fuel k back s r).1.Canonical := by
  induction fuel generalizing k back s r with
  | zero => exact h
  | succ fuel ih =>
    unfold Machine.runMoves
    split
    next t r1 heq =>
      have ht : t.Canonical := Part.Canonical.fst_at (hf h) heq
      refine ih ?_ ht
      split_ifs
      · exact ht
      · exact h
      · exact hback
    next heq => exact .fst_ite (.hold (.update h)) (.hold (.update hback))
    next => exact hf h

theorem State.Canonical.endReq {rq : Nat} {r : Req} {code : BitVec 16} {addr : W64} (h : s.Canonical) : (s.endReq rq r code addr).Canonical :=
  .detect (.setReq (.walkDamage h))

theorem State.Canonical.runReq {total : Nat} {f : Nat → State → Req → Part × Req} {fin : State → Req → Part × Req} (h : s.Canonical)
    (hf : ∀ {k : Nat} {t : State} {q : Req}, t.Canonical → (f k t q).1.Canonical)
    (hfin : ∀ {t : State} {q : Req}, t.Canonical → (fin t q).1.Canonical) : (s.runReq total f fin).Canonical := by
  unfold State.runReq
  extract_lets +onlyGivenNames rq
  split
  · exact h
  · extract_lets pk window r waits
    refine .ite h ?_
    split
    next t r1 heq =>
      have ht : t.Canonical := Part.Canonical.fst_at (.runMoves hf h h) heq
      split
      next heq => exact .setReq (Part.Canonical.fst_at (hfin ht) heq)
      next heq => exact .setReq (Part.Canonical.fst_at (hfin ht) heq)
      next heq => exact .setReq (Part.Canonical.fst_at (hfin ht) heq)
      next heq => exact .endReq (Part.Canonical.fst_at (hfin ht) heq)
    next heq => exact .setReq (Part.Canonical.fst_at (.runMoves hf h h) heq)
    next heq => exact .setReq (Part.Canonical.fst_at (.runMoves hf h h) heq)
    next heq => exact .endReq (Part.Canonical.fst_at (.runMoves hf h h) heq)

theorem Part.Canonical.noMore {r : Req} (h : s.Canonical) : (noMore s r).1.Canonical := h
theorem execTransferCopy_canonical {xh : XHead} {a : CopyArgs} (h : s.Canonical) : AnswersCanonical (execTransferCopy xh a s) :=
  .next (.runReq h .doMove .noMore)
theorem execShadowCopy_canonical {xh : XHead} {a : CopyArgs} (h : s.Canonical) : AnswersCanonical (execShadowCopy xh a s) :=
  .next (.runReq h .doMove .noMore)

theorem Part.Canonical.flagOp {rq q flag aop : Nat} {r : Req} {v : W32} (h : s.Canonical) : (s.flagOp rq r q flag aop v).1.Canonical := by
  unfold State.flagOp
  extract_lets +onlyGivenNames pk pa tag
  refine .fst_ite (.hold h) ?_
  split
  · exact .fault (.xdamage h)
  · exact .hold h
  next t bs heq =>
    have hpoke {v : List Byte} {n : Nat} : (t.xpoke pk pa v none false true tag rq n).Canonical := .xpoke (.of_xpeek h heq)
    extract_lets +onlyGivenNames old new
    split
    next heq => exact .ok (hpoke.at heq)
    next heq => exact .hold (hpoke.at heq)
    next => exact hpoke

theorem execRemoteCopy_canonical {xh : XHead} {a : CopyArgs} {flag : BitVec 16} (h : s.Canonical) :
    AnswersCanonical (execRemoteCopy xh a flag s) := by
  refine .next (.runReq h .doMove fun {t q} ht => ?_)
  split
  · exact .fault ht
  · exact .flagOp ht

theorem execSetRemoteFlag_canonical {xh : XHead} {flag : BitVec 16} {pkg : BitVec 13} {val : W32} {aop : BitVec 4} (h : s.Canonical) :
    AnswersCanonical (execSetRemoteFlag xh flag pkg val aop s) :=
  .next (.runReq h .ok .flagOp)

theorem execFill_canonical {xh : XHead} {dst : W64} {len : BitVec 40} {pat : W32} (h : s.Canonical) : AnswersCanonical (execFill xh dst len pat s) :=
  .next (.runReq h .doMove .noMore)

theorem Part.Canonical.reduceMove {rq : Nat} {src dst : W64} {rop : BitVec 4} {k : Nat} {r : Req} (h : s.Canonical) :
    (State.reduceMove rq src dst rop k s r).1.Canonical := by
  unfold State.reduceMove
  extract_lets +onlyGivenNames pk se de
  split
  · exact .fault h
  · refine .fst_ite (.fault h) (.fst_ite (.hold h) ?_)
    split
    next heq => exact .fault (ReadCanonical.at (.readEnd h) heq)
    next heq _ => exact .fault (ReadCanonical.at (.readEnd h) heq)
    next => exact .writeEnd h
    next => exact .hold h

theorem execReduceCopy_canonical {xh : XHead} {src dst : W64} {nel : W32} {rop : BitVec 4} (h : s.Canonical) :
    AnswersCanonical (execReduceCopy xh src dst nel rop s) :=
  .next (.runReq h .reduceMove .noMore)

theorem execTensorLoad_canonical {xh : XHead} {a : TensorArgs} (h : s.Canonical) : AnswersCanonical (execTensorLoad xh a s) := by
  refine .next (.runReq h (fun {k t q} ht => ?_) .noMore)
  dsimp only
  split
  · exact .doMove ht
  · exact .fst_ite (.doMove ht) (.ok ht)

theorem execTensorStore_canonical {xh : XHead} {a : TensorArgs} (h : s.Canonical) : AnswersCanonical (execTensorStore xh a s) := by
  refine .next (.runReq h (fun {k t q} ht => ?_) .noMore)
  dsimp only
  split
  · exact .doMove ht
  · exact .ok ht

theorem ReadCanonical.rowIdx_read {pk rq row : Nat} {idx : BitVec 57} {r : Req} (h : s.Canonical) :
    ReadCanonical (State.rowIdx.read s pk rq idx row r) := by
  unfold State.rowIdx.read
  split
  · trivial
  · split
    next e heq =>
      have he : ReadCanonical (.error e) := ReadCanonical.at (.readEnd h) heq
      exact he
    next => trivial
    next u v heq =>
      have hu : ReadCanonical (.ok (some (u, v))) := ReadCanonical.at (.readEnd h) heq
      exact hu

theorem ReadCanonical.rowIdx {pk rq row : Nat} {idx : BitVec 57} {r : Req} (h : s.Canonical) : ReadCanonical (s.rowIdx pk rq idx row r) := by
  unfold State.rowIdx
  split
  · split
    · exact h
    · exact .rowIdx_read h
  · exact .rowIdx_read h

theorem Part.Canonical.rowMove {a : RowArgs} {gather : Bool} {rq k : Nat} {r : Req} (h : s.Canonical) : (rowMove a gather rq k s r).1.Canonical := by
  unfold Machine.rowMove
  extract_lets +onlyGivenNames pk rsz p row
  split
  next heq => exact .fault (ReadCanonical.at (.rowIdx h) heq)
  next => exact .hold h
  next t x heq =>
    have ht : t.Canonical := ReadCanonical.at (.rowIdx h) heq
    exact .fst_ite (.ok ht) (.fst_ite (.ok ht) (.doMove ht))

theorem execGather_canonical {xh : XHead} {a : RowArgs} (h : s.Canonical) : AnswersCanonical (execGather xh a s) := .next (.runReq h .rowMove .noMore)
theorem execScatter_canonical {xh : XHead} {a : RowArgs} (h : s.Canonical) :
    AnswersCanonical (execScatter xh a s) := .next (.runReq h .rowMove .noMore)

theorem StartCanonical.layout {tp : Nat} {asid : BitVec 12} {va : W64} (h : s.Canonical) : StartCanonical (s.layout tp asid va) := by
  unfold State.layout
  extract_lets +onlyGivenNames mp key
  split
  · exact h
  · split
    next t c a heq =>
      have ht : ReadCanonical (.error (t, c, a)) := ReadCanonical.at (.readEnd h) heq
      exact ht
    next => trivial
    next t b heq =>
      have ht : ReadCanonical (.ok (some (t, b))) := ReadCanonical.at (.readEnd h) heq
      exact ht

theorem StartCanonical.reqCheck {tp : Nat} {p : Packet} {i : Instr} (h : s.Canonical) : StartCanonical (s.reqCheck tp p i) := by
  unfold State.reqCheck
  extract_lets pk bad loc tensor rows
  have hbad {c : BitVec 16} {a : W64} : StartCanonical (bad c a) := h
  have htensor {a : TensorArgs} : StartCanonical (tensor a) := by
    unfold tensor
    split
    next heq => exact StartCanonical.at (.layout h) heq
    next t b heq =>
      have ht : t.Canonical := StartCanonical.at (.layout h) heq
      split_ifs
      · exact hbad
      · exact hbad
      · split
        · exact hbad
        · exact ht
  have hrows {a : RowArgs} : StartCanonical (rows a) := by
    unfold rows
    split_ifs
    · exact hbad
    · exact h
  clear_value bad tensor rows
  split
  · exact htensor
  · exact htensor
  · exact hrows
  · exact hrows
  · split_ifs
    · exact hbad
    · exact hbad
    · exact hbad
    · exact h
  · split_ifs
    · exact h
    · split
      · exact hbad
      · split
        · exact hbad
        · split_ifs
          · exact h
          · exact hbad
  · split
    · exact hbad
    · split
      · exact hbad
      · split_ifs
        · exact hbad
        · exact hbad
        · exact h
  · split_ifs
    · exact hbad
    · exact hbad
    · exact h
  · exact h

theorem execTransferRequestStart_canonical {tp : Nat} (h : s.Canonical) : AnswersCanonical (execTransferRequestStart tp s) := by
  unfold Machine.execTransferRequestStart
  split
  · exact .next h
  · refine .ite (.next h) ?_
    extract_lets rq _ s1 r cring
    have hs1 : s1.Canonical := .bump h
    clear_value s1
    split
    · exact .next (.endReq hs1)
    · refine .ite (.next (.endReq hs1)) ?_
      split
      next heq => exact .next (.endReq (StartCanonical.at (.reqCheck hs1) heq))
      next => exact .next h
      next heq => exact .next (.setReq (StartCanonical.at (.reqCheck hs1) heq))

theorem State.Canonical.retireReq {rq : Nat} (h : s.Canonical) : (s.retireReq rq).Canonical := by
  unfold State.retireReq
  dsimp only
  split
  · exact h
  · split
    · split
      · exact .ite h (.taskFault h)
      · exact h
    · exact h

theorem Part.Canonical.writeRecord {rq e c : Nat} {r : Req} {w : W64} (h : s.Canonical) : (s.writeRecord rq r e w c).Canonical := by
  unfold State.writeRecord
  extract_lets pk slots pa status word0 first ph put
  have hput {t : State} {a : Nat} {bs : List Byte} (ht : t.Canonical) : (put t a bs).Canonical := .xpoke ht
  clear_value put
  split
  next heq =>
    have ht := (hput h).at heq
    split
    next heq => exact hput ((hput ht).at heq)
    next => exact hput ht
  next => exact hput h

theorem execTransferCompletion_canonical {rq : Nat} (h : s.Canonical) : AnswersCanonical (execTransferCompletion rq s) := by
  unfold Machine.execTransferCompletion
  split
  · exact .next h
  · extract_lets +onlyGivenNames pk n e ahead told
    have htold {t : State} (ht : t.Canonical) : (told t).Canonical := .retireReq (.setReq ht)
    clear_value told ahead e
    refine .ite (.next h) (.ite (.next (htold h)) (.ite (.next h) ?_))
    split
    next heq => exact .next (htold (Part.Canonical.at (.writeRecord h) heq))
    next => exact .next h
    next => exact .next h
    next heq =>
      have ht := Part.Canonical.at (.writeRecord h) heq
      exact .next (htold (.ite (.detect ht) ht))

theorem execSectorCounterIncrement_canonical {rq : Nat} (h : s.Canonical) : AnswersCanonical (execSectorCounterIncrement rq s) := by
  unfold Machine.execSectorCounterIncrement
  split
  · exact .next h
  · exact .ite (.next (.retireReq h)) (.next h)

/-! ### The window and translations -/

theorem State.Canonical.windowRecord {pk : Nat} {code : BitVec 16} {detail addr : Nat} (h : s.Canonical) :
    (s.windowRecord pk code detail addr).Canonical := h
theorem State.Canonical.discard {pk off : Nat} (h : s.Canonical) : (s.discard pk off).Canonical := h

theorem State.Canonical.windowWrite {pk off : Nat} {v : W64} {act : W64 → State → State} (h : s.Canonical)
    (hact : ∀ {w : W64}, (act w s).Canonical) : (s.windowWrite pk off v act).Canonical := by
  unfold State.windowWrite
  refine .ite h ?_
  split
  · exact h
  · exact .ite (.discard h) hact

theorem State.Canonical.sppWrite {mp n : Nat} {v : W64} (h : s.Canonical) : (s.sppWrite mp n v).Canonical := .ite h (.windowWrite h (.ite h h))
theorem execSppWrite_canonical {mp n : Nat} {v : W64} (h : s.Canonical) : AnswersCanonical (execSppWrite mp n v s) := .next (.sppWrite h)

theorem execPartitionEntryRelease_canonical {mp n : Nat} (h : s.Canonical) : AnswersCanonical (execPartitionEntryRelease mp n s) := by
  unfold Machine.execPartitionEntryRelease
  split
  · exact .next h
  · exact .ite (.next h) (.next h)

theorem State.Canonical.tlbivWrite {pk : Nat} {v : W64} (h : s.Canonical) : (s.tlbivWrite pk v).Canonical := .ite h (.windowWrite h (.ite h h))
theorem execTlbivGo_canonical {pk : Nat} {v : W64} (h : s.Canonical) : AnswersCanonical (execTlbivGo pk v s) := .next (.tlbivWrite h)

theorem execInvalidationComplete_canonical {pk : Nat} (h : s.Canonical) : AnswersCanonical (execInvalidationComplete pk s) := by
  unfold Machine.execInvalidationComplete
  split
  · exact .next h
  · exact .next (.setReg (.foldl h fun hu => .ite hu hu))

theorem State.Canonical.mvfWrite {pk n : Nat} {v : W64} (h : s.Canonical) : (s.mvfWrite pk n v).Canonical := .windowWrite h (.ite h (.ite h h))
theorem execMvfGo_canonical {pk n : Nat} {v : W64} (h : s.Canonical) : AnswersCanonical (execMvfGo pk n v s) := .next (.mvfWrite h)
theorem State.Canonical.setKept {key : Nat} {k : Option Kept} (h : s.Canonical) : (s.setKept key k).Canonical := h

theorem execMigrationCopyDone_canonical {pk n : Nat} (h : s.Canonical) : AnswersCanonical (execMigrationCopyDone pk n s) := by
  obtain ⟨read, hread, hreads⟩ : ∃ read, (∀ pa n, (read pa n).1.Canonical) ∧ s.readBytes = read := ⟨_, fun _ _ => .readBytes h, rfl⟩
  unfold Machine.execMigrationCopyDone
  rw [hreads]
  extract_lets +onlyGivenNames off v key
  refine .ite ?_ (.next h)
  extract_lets +onlyGivenNames sz src dst tag
  clear_value off v key sz src dst tag
  dsimp only
  refine .ite (.next (hread _ _)) ?_
  split
  next heq => exact .next (.setKept (.setReg (Capture.Canonical.at (.homeWrite (hread _ _)) heq)))
  next => exact .next h
  next => exact .next (.detect h)
  next t heq =>
    have ht : t.Canonical := Capture.Canonical.at (.homeWrite (hread _ _)) heq
    exact .next ht

theorem State.Canonical.clearFrame {pk f : Nat} (h : s.Canonical) : (s.clearFrame pk f).Canonical :=
  .setPoison (.setStack (.foldl (.writeBytes h) fun hu => hu))
theorem State.Canonical.psnclrWrite {pk : Nat} {v : W64} (h : s.Canonical) : (s.psnclrWrite pk v).Canonical := .windowWrite h (.ite (.clearFrame h) h)
theorem execPsnclrGo_canonical {pk : Nat} {v : W64} (h : s.Canonical) : AnswersCanonical (execPsnclrGo pk v s) := .next (.psnclrWrite h)
theorem execEcntWrite_canonical {pk n : Nat} {v : W64} (h : s.Canonical) : AnswersCanonical (execEcntWrite pk n v s) := .next (.windowWrite h h)
theorem State.Canonical.fltstatWrite {pk : Nat} {v : W64} (h : s.Canonical) : (s.fltstatWrite pk v).Canonical := .windowWrite h (.ite h h)
theorem execFltstatWrite_canonical {pk : Nat} {v : W64} (h : s.Canonical) : AnswersCanonical (execFltstatWrite pk v s) := .next (.fltstatWrite h)
theorem execHosterrWrite_canonical {pk : Nat} {v : W64} (h : s.Canonical) : AnswersCanonical (execHosterrWrite pk v s) := .next (.windowWrite h h)
theorem execLnkstWrite_canonical {pk n : Nat} {v : W64} (h : s.Canonical) : AnswersCanonical (execLnkstWrite pk n v s) := .next (.windowWrite h h)
theorem execHmconsWrite_canonical {pk : Nat} {v : W64} (h : s.Canonical) : AnswersCanonical (execHmconsWrite pk v s) := .next (.windowWrite h h)
theorem execFltconsWrite_canonical {pk : Nat} {v : W64} (h : s.Canonical) : AnswersCanonical (execFltconsWrite pk v s) := .next (.windowWrite h h)
theorem execSucfgLinkDisable_canonical {pk : Nat} {v : W64} (h : s.Canonical) : AnswersCanonical (execSucfgLinkDisable pk v s) :=
  .ite (.next (.windowWrite h h)) (.next h)
theorem State.Canonical.hostReads {pk : Nat} {v : List Byte} (h : s.Canonical) : (s.hostReads pk v).Canonical := h

theorem execBar4Load_canonical {pk off len : Nat} (h : s.Canonical) : AnswersCanonical (execBar4Load pk off len s) := by
  obtain ⟨read, hread, heq⟩ : ∃ read, (∀ pa n, (read pa n).1.Canonical) ∧ s.readBytes = read := ⟨_, fun _ _ => .readBytes h, rfl⟩
  unfold Machine.execBar4Load
  rw [heq]
  refine .ite (.next (.hostReads h)) ?_
  extract_lets +onlyGivenNames pa
  split
  · exact .next (.hostReads (.windowRecord h))
  · extract_lets +onlyGivenNames a
    exact .ite (.next h) (.next (.hostReads (hread _ _)))

theorem execBar4Store_canonical {pk off len : Nat} {data : List Byte} (h : s.Canonical) : AnswersCanonical (execBar4Store pk off len data s) := by
  unfold Machine.execBar4Store
  refine .ite (.next h) (.ite (.next h) ?_)
  extract_lets +onlyGivenNames pa
  split
  · exact .next (.windowRecord h)
  · extract_lets a
    exact .ite (.next h) (.next (.writeBytes h))

theorem State.Canonical.hosterr {pk i : Nat} (h : s.Canonical) : (s.hosterr pk i).Canonical := .ite h h
theorem execPoisonedHostWrite_canonical {pk bar off : Nat} (h : s.Canonical) : AnswersCanonical (execPoisonedHostWrite pk bar off s) :=
  .ite (.next (.windowRecord (.hosterr h))) (.next h)

/-! ### Graphs -/

theorem State.Canonical.setWalk {wk : Nat} {w : Walk} (h : s.Canonical) : (s.setWalk wk w).Canonical := h
theorem State.Canonical.delTask {tk : Nat} (h : s.Canonical) : (s.delTask tk).Canonical := h
theorem State.Canonical.setSched {pk : Nat} {x : Sched} (h : s.Canonical) : (s.setSched pk x).Canonical := h

theorem State.Canonical.reapWalk {wk : Nat} (h : s.Canonical) : (s.reapWalk wk).Canonical := by
  unfold State.reapWalk
  split
  · exact .ite h h
  · exact h

theorem State.Canonical.walkFault {wk : Nat} {w : Walk} {code : BitVec 16} {tier : BitVec 4} {point : BitVec 3} {node : Nat}
    {va : W64} (h : s.Canonical) :
    (s.walkFault wk w code tier point node va).Canonical :=
  .ite h (.reapWalk (.detect (.setWalk (.walkDamage h))))

theorem State.Canonical.nodeFault {wk : Nat} {w : Walk} {c : BitVec 16} {node : Nat} {va : W64} (h : s.Canonical) :
    (s.nodeFault wk w c node va).Canonical :=
  .walkFault h

theorem Reach.Canonical.graphRead {pk who n : Nat} {asid : BitVec 12} {va : W64} (h : s.Canonical) : (s.graphRead pk asid who va n).Canonical := by
  unfold State.graphRead
  split
  next heq => exact .stop (ReadCanonical.at (.readEnd h) heq)
  next => exact .wait h
  next heq => exact .done (ReadCanonical.at (.readEnd h) heq)

theorem State.Canonical.nudge {pa : Nat} (h : s.Canonical) : (s.nudge pa).Canonical := h

theorem Reach.Canonical.graphAdd {pk who : Nat} {asid : BitVec 12} {va v : W64} (h : s.Canonical) : (s.graphAdd pk asid who va v).Canonical := by
  unfold State.graphAdd
  extract_lets +onlyGivenNames key
  split
  · exact .stop h
  · exact .stop h
  · refine .ite (.stop h) (.ite (.wait h) ?_)
    split
    · exact .stop (.xdamage h)
    · exact .wait h
    next t bs heq =>
      have ht : t.Canonical := .of_xpeek h heq
      extract_lets +onlyGivenNames tag
      split
      next heq => exact .done (.nudge (.setKept (Part.Canonical.at (.xpoke ht) heq)))
      next => exact .wait h
      next => exact .wait h
      next heq => exact .stop (Part.Canonical.at (.xpoke ht) heq)

theorem State.Canonical.walkTo {w : Walk} {i : Nat} (h : s.Canonical) : (s.walkTo w i).Canonical := h

theorem NodeAt.Canonical.nodeAt {wk : Nat} (h : s.Canonical) : (s.nodeAt wk).Canonical := by
  unfold State.nodeAt
  split
  · exact h
  next w _ =>
    split_ifs
    · exact h
    · split
      · exact h
      · extract_lets +onlyGivenNames va
        split_ifs
        · exact State.Canonical.walkFault h
        · split
          next heq =>
            have ht := Reach.Canonical.at (.graphRead h) heq
            exact ht
          next heq =>
            have ht := Reach.Canonical.at (.graphRead h) heq
            exact ht
          next t c heq =>
            have ht : t.Canonical := Reach.Canonical.at (.graphRead h) heq
            exact State.Canonical.nodeFault ht

theorem State.Canonical.badNode {wk : Nat} (h : s.Canonical) : (s.badNode wk).Canonical := by
  unfold State.badNode
  split
  · exact .ite h (.walkFault h)
  · exact h

theorem State.Canonical.afterTask {w : Walk} {n : Nat} {async : Bool} {next : Nat} (h : s.Canonical) : (s.afterTask w n async next).Canonical :=
  .ite h h

theorem taskNode_canonical {g : GHead} {async : Bool} {mk : Walk → Task} (h : s.Canonical) : AnswersCanonical (taskNode g async s mk) := by
  unfold Machine.taskNode
  split
  · exact .next h
  · split
    · exact .ite (.next h) (.next h)
    · exact .next (.afterTask h)

theorem execNodeKernel_canonical {g : GHead} {fig : BitVec 64} {async : Bool} {done : BitVec 64} {ua : BitVec 128} (h : s.Canonical) :
    AnswersCanonical (execNodeKernel g fig async done ua s) :=
  taskNode_canonical h

theorem execNodeCopy_canonical {g : GHead} {async : Bool} {die : BitVec 4} {port : BitVec 2} {done : BitVec 64} {req : BitVec 256} (h : s.Canonical) :
    AnswersCanonical (execNodeCopy g async die port done req s) :=
  taskNode_canonical h

theorem execNodeCond_canonical {g : GHead} {pred : BitVec 64} {alt : BitVec 32} (h : s.Canonical) : AnswersCanonical (execNodeCond g pred alt s) := by
  unfold Machine.execNodeCond
  split
  · exact .next h
  · split
    next heq => exact .next (Reach.Canonical.at (.graphRead h) heq)
    next heq => exact .next (.nodeFault (Reach.Canonical.at (.graphRead h) heq))
    next heq => exact .next (.walkTo (Reach.Canonical.at (.graphRead h) heq))

theorem State.Canonical.pushFrame {w : Walk} {f : Frame} {graph : W64} {entry : Nat} (h : s.Canonical) : (s.pushFrame w f graph entry).Canonical :=
  .ite (.walkFault h) h

theorem execNodeLoop_canonical {g : GHead} {body count : BitVec 32} {pred : BitVec 64} (h : s.Canonical) :
    AnswersCanonical (execNodeLoop g body count pred s) := by
  unfold Machine.execNodeLoop
  split
  · exact .next h
  · exact .ite (.next (.walkFault h)) (.next (.pushFrame h))

theorem execNodeSub_canonical {g : GHead} {graph : BitVec 64} {entry : BitVec 32} (h : s.Canonical) :
    AnswersCanonical (execNodeSub g graph entry s) := by
  unfold Machine.execNodeSub
  split
  · exact .next h
  · exact .next (.pushFrame h)

theorem State.Canonical.popFrame {w : Walk} {f : Frame} {fs : List Frame} (h : s.Canonical) : (s.popFrame w f fs).Canonical := h

theorem State.Canonical.loopTest {w : Walk} {f : Frame} {fs : List Frame} {body count : Nat} {pred : W64} (h : s.Canonical) :
    (s.loopTest w f fs body count pred).Canonical := by
  unfold State.loopTest
  refine .ite (.popFrame h) (.ite (.walkTo h) ?_)
  split
  next heq => exact Reach.Canonical.at (.graphRead h) heq
  next heq => exact .nodeFault (Reach.Canonical.at (.graphRead h) heq)
  next heq =>
    have ht := Reach.Canonical.at (.graphRead h) heq
    exact .ite (.walkTo ht) (.popFrame ht)

theorem execNodeEnd_canonical {_g : GHead} (h : s.Canonical) : AnswersCanonical (execNodeEnd _g s) := by
  unfold Machine.execNodeEnd
  split
  · exact .next h
  · split
    · exact .ite (.next h) (.next h)
    · split
      · exact .next h
      · split
        · exact .next h
        · exact .next (.loopTest h)

theorem execNodeWait_canonical {g : GHead} {ctr thr : BitVec 64} (h : s.Canonical) : AnswersCanonical (execNodeWait g ctr thr s) := by
  unfold Machine.execNodeWait
  split
  · exact .next h
  · refine .ite (.next h) ?_
    split
    next heq => exact .next (Reach.Canonical.at (.graphRead h) heq)
    next heq => exact .next (.nodeFault (Reach.Canonical.at (.graphRead h) heq))
    next heq =>
      have ht := Reach.Canonical.at (.graphRead h) heq
      exact .ite (.next (.walkTo ht)) (.next (.setWalk ht))

theorem execWaitCounterReread_canonical {wk : Nat} (h : s.Canonical) : AnswersCanonical (execWaitCounterReread wk s) := by
  unfold Machine.execWaitCounterReread
  split
  · exact .next (.ite h h)
  · exact .next h

theorem execNodeSignal_canonical {g : GHead} {ctr add : BitVec 64} (h : s.Canonical) : AnswersCanonical (execNodeSignal g ctr add s) := by
  unfold Machine.execNodeSignal
  split
  · exact .next h
  · split
    next heq => exact .next (Reach.Canonical.at (.graphAdd h) heq)
    next heq => exact .next (.nodeFault (Reach.Canonical.at (.graphAdd h) heq))
    next heq => exact .next (.walkTo (.bump (Reach.Canonical.at (.graphAdd h) heq)))

theorem execNodeSeal_canonical {g : GHead} {req : Bool} (h : s.Canonical) : AnswersCanonical (execNodeSeal g req s) := by
  unfold Machine.execNodeSeal
  split
  · exact .next h
  · split
    · exact .next h
    · split
      · exact .next (.ite (.noteReq h) h)
      · exact .ite (.next h) (.next h)

theorem execNodeMsg_canonical {g : GHead} {w : BitVec 448} (h : s.Canonical) : AnswersCanonical (execNodeMsg g w s) := by
  unfold Machine.execNodeMsg
  split
  · exact .next h
  · split
    · exact .next h
    · exact .ite (.next h) (.next h)

theorem execLm64Write_canonical {pk off len : Nat} {data : List Byte} (h : s.Canonical) : AnswersCanonical (execLm64Write pk off len data s) :=
  .ite (.next h) (.ite (.next h) (.ite (.next h) (.ite (.next h) (.next h))))

theorem execLm64Take_canonical {pk : Nat} (h : s.Canonical) : AnswersCanonical (execLm64Take pk s) := by
  unfold Machine.execLm64Take
  split
  · exact .next h
  · exact .ite (.next h) (.next h)

theorem execWalkStart_canonical {pk : Nat} (h : s.Canonical) : AnswersCanonical (execWalkStart pk s) := by
  unfold Machine.execWalkStart
  split
  · exact .next h
  · exact .ite (.next h) (.next h)

/-! ### Objects -/

theorem Reach.Canonical.objRead {pk off n : Nat} {asid : BitVec 12} {va : W64} (h : s.Canonical) : (s.objRead pk asid va off n).Canonical := by
  unfold State.objRead
  refine List.foldlRecOn (motive := Reach.Canonical) _ _ (.done h) fun acc hacc i _ => ?_
  split
  next t v =>
    have hread : (t.graphRead pk asid loaderWho (va + BitVec.ofNat 64 (off + 64 * i)) (min 64 (n - 64 * i))).Canonical := .graphRead hacc
    split
    next heq => exact .done (hread.at heq)
    next => exact hread
  next => exact hacc

/-- The parts that have been read, or else why they could not be, hold a canonical state. -/
def PartsCanonical {α : Type} : Except Reach (State × α) → Prop
  | .ok (s, _) => s.Canonical
  | .error r => r.Canonical
theorem PartsCanonical.at {α : Type} {r r' : Except Reach (State × α)} (hr : PartsCanonical r) (heq : r = r') : PartsCanonical r' := heq ▸ hr
theorem PartsCanonical.readParts {pk : Nat} {asid : BitVec 12} {va : W64} {ps : List (Nat × Nat)} (h : s.Canonical) :
    PartsCanonical (s.readParts pk asid va ps) := by
  unfold State.readParts
  refine List.foldlRecOn (motive := PartsCanonical) _ _ h fun acc hacc p _ => ?_
  split
  next t l =>
    have hread : (t.objRead pk asid va p.1 p.2).Canonical := .objRead hacc
    split
    next u b heq =>
      have hu : u.Canonical := hread.at heq
      exact hu
    next => exact hread
  next => exact hacc

theorem Loaded.Canonical.loadObj {pk : Nat} {asid : BitVec 12} {va : W64} (h : s.Canonical) : (s.loadObj pk asid va).Canonical := by
  unfold State.loadObj
  extract_lets back
  have hback {r : Reach} (hr : r.Canonical) : (back r).Canonical := by
    cases r with
    | wait => trivial
    | done | stop => exact hr
  clear_value back
  split
  next t h0 heq =>
    have ht : t.Canonical := Reach.Canonical.at (.objRead h) heq
    split
    · exact ht
    · split
      next u hd heq =>
        have hu : u.Canonical := Reach.Canonical.at (.objRead ht) heq
        split
        · exact hu
        · extract_lets +onlyGivenNames is
          split
          next heq => exact hback (PartsCanonical.at (.readParts hu) heq)
          next w gaps heq =>
            have hw : w.Canonical := PartsCanonical.at (.readParts hu) heq
            split
            · exact hw
            · split
              next heq => exact hback (PartsCanonical.at (.readParts hw) heq)
              next v imgs heq =>
                have hv : v.Canonical := PartsCanonical.at (.readParts hw) heq
                extract_lets +onlyGivenNames o
                split
                · exact hv
                · exact hv
      next => exact hback (.objRead ht)
  next => exact hback (.objRead h)

/-! ### Placement -/

theorem State.Canonical.takeStripe {st rg ws : Nat} (h : s.Canonical) : (s.takeStripe st rg ws).Canonical := .setStripe (.foldl h fun hu => hu)
theorem State.Canonical.takeWindow {rg : Nat} {sts : List Nat} (h : s.Canonical) : (s.takeWindow rg sts).Canonical :=
  .foldl (.foldl h fun hu => .takeStripe hu) fun hu => hu
theorem State.Canonical.takeStreams {rg ring : Nat} {mask : W32} (h : s.Canonical) : (s.takeStreams rg ring mask).Canonical :=
  .foldl h fun hu => .ite hu hu

theorem State.Canonical.takePorts {rg : Nat} {p : Spot} {es : List OStream} (h : s.Canonical) : (s.takePorts rg p es).Canonical := by
  unfold State.takePorts
  exact .foldl h fun hu => by
    split <;> exact hu

theorem State.Canonical.bindRegion {pk rg : Nat} {o : Obj} {a : Ask} {p : Spot} {usr : FMap W32} (h : s.Canonical) :
    (s.bindRegion pk rg o a p usr).Canonical :=
  .setRegion (.takePorts (.takeStreams (.takeWindow h)))

theorem State.Canonical.bindFigure {fg : Nat} {x : Fig} {o : Obj} {spots : List (Option Spot)} {usr : FMap W32} (h : s.Canonical) :
    (s.bindFigure fg x o spots usr).Canonical := by
  unfold State.bindFigure
  exact .foldl h fun hu => by
    split
    · exact .bindRegion hu
    · exact hu

/-! ### Tasks -/

theorem State.Canonical.ageTasks {pk : Nat} (h : s.Canonical) : (s.ageTasks pk).Canonical := h
theorem execTaskAging_canonical {pk : Nat} (h : s.Canonical) : AnswersCanonical (execTaskAging pk s) := .next h
theorem State.Canonical.placedTask {pk tk : Nat} (h : s.Canonical) : (s.placedTask pk tk).Canonical := .ite h h

theorem State.Canonical.endTask {tk : Nat} {faulted : Bool} (h : s.Canonical) : (s.endTask tk faulted).Canonical := by
  unfold State.endTask
  split
  · exact h
  · exact .reapWalk (by
      split
      · split
        · exact .setWalk (.delTask (.placedTask h))
        · exact .delTask (.placedTask h)
      · exact .delTask (.placedTask h))

theorem State.Canonical.rejectTask {tk : Nat} {t : Task} {w : Walk} {code : BitVec 16} {point : BitVec 3} {detail : Nat} (h : s.Canonical) :
    (s.rejectTask tk t w code point detail).Canonical :=
  .endTask h

theorem State.Canonical.launch {tk : Nat} {t : Task} {w : Walk} {o : Obj} {spots : List (List (Option Spot))} (h : s.Canonical) :
    (s.launch tk t w o spots).Canonical :=
  .placedTask (.setTask (.setSched (.foldl h fun hu => .bump (.bindFigure hu))))

theorem State.Canonical.of_dispatchKernel {tk : Nat} {t : Task} {u : State} (h : s.Canonical) (heq : s.dispatchKernel tk t = some u) : u.Canonical := by
  unfold State.dispatchKernel at heq
  split at heq
  · cases heq
  · cases heq
    exact .delTask h
  · split at heq
    · cases heq
    next hload =>
      cases heq
      exact .rejectTask (Loaded.Canonical.at (.loadObj h) hload)
    next hload =>
      cases heq
      exact .rejectTask (Loaded.Canonical.at (.loadObj h) hload)
    next v o hload =>
      have hv : v.Canonical := Loaded.Canonical.at (.loadObj h) hload
      extract_lets +onlyGivenNames as at heq
      split at heq
      · cases heq
        exact .launch hv
      · split_ifs at heq
        cases heq
        exact .rejectTask hv

theorem State.Canonical.of_dispatchCopy {tk : Nat} {t : Task} {u : State} (h : s.Canonical) (heq : s.dispatchCopy tk t = some u) : u.Canonical := by
  unfold State.dispatchCopy at heq
  dsimp only at heq
  split at heq
  · cases heq
    exact h
  · split at heq <;> cases heq
    exact h

theorem State.Canonical.of_dispatchList {blocked : Bool} {ts : List (Nat × Task)} {u : State} (h : s.Canonical) (heq : s.dispatchList blocked ts = some u) :
    u.Canonical := by
  induction ts generalizing blocked with
  | nil => cases heq
  | cons x ts ih =>
    unfold State.dispatchList at heq
    split_ifs at heq
    · exact ih heq
    · split at heq
      next hkernel =>
        cases heq
        exact .of_dispatchKernel h hkernel
      next => exact ih heq
    · exact .of_dispatchCopy h heq

theorem execTaskDispatch_canonical {pk : Nat} (h : s.Canonical) : AnswersCanonical (execTaskDispatch pk s) := by
  unfold Machine.execTaskDispatch
  extract_lets s1
  have hs1 : s1.Canonical := .ageTasks h
  clear_value s1
  refine .ite (.next h) ?_
  split
  next heq =>
    obtain ⟨p, -, hp⟩ := Option.bind_eq_some_iff.1 heq
    exact .next (.of_dispatchKernel hs1 hp)
  next => exact .next (.getD (.of_dispatchList hs1) hs1)

theorem State.Canonical.dropFigure {fg : Nat} (h : s.Canonical) : (s.dropFigure fg).Canonical := .update (.foldl h fun hu => hu)
theorem State.Canonical.countLost {fg : Nat} (h : s.Canonical) : (s.countLost fg).Canonical := h

theorem State.Canonical.of_countDone_ok {tk : Nat} {t : Task} {u : State} (h : s.Canonical) (heq : s.countDone tk t = .ok u) : u.Canonical := by
  unfold State.countDone at heq
  split at heq
  · cases heq
    exact h
  · split_ifs at heq
    · cases heq
      exact h
    · split at heq
      next => cases heq
      next hadd =>
        cases heq
        exact .nodeFault (Reach.Canonical.at (.graphAdd h) hadd)
      next hadd =>
        cases heq
        exact .bump (Reach.Canonical.at (.graphAdd h) hadd)
theorem State.Canonical.of_countDone_error {tk : Nat} {t : Task} {u : State} (h : s.Canonical) (heq : s.countDone tk t = .error u) : u.Canonical := by
  unfold State.countDone at heq
  split at heq
  · cases heq
  · split_ifs at heq
    split at heq
    next hadd =>
      cases heq
      exact Reach.Canonical.at (.graphAdd h) hadd
    next => cases heq
    next => cases heq

theorem execKernelTaskComplete_canonical {tk : Nat} (h : s.Canonical) : AnswersCanonical (execKernelTaskComplete tk s) := by
  unfold Machine.execKernelTaskComplete
  split
  · exact .next h
  · refine .ite (.next h) (.ite ?_ (.ite (.next h) (.ite (.next (.endTask h)) ?_)))
    · split
      · exact .next h
      · refine .ite (.next h) ?_
        split
        next heq => exact .next (.of_countDone_error h heq)
        next heq =>
          exact .next (.endTask (.foldl (.foldl (.of_countDone_ok h heq) fun hu => .countLost hu) fun hu => .setFig (.dropFigure hu)))
    · split
      next heq => exact .next (.of_countDone_error h heq)
      next heq => exact .next (.endTask (.of_countDone_ok h heq))

end Sys2Proof.Machine
end

section
/-! SUPPORT. Preemption, faults, intervals, spares, links, boot and management keep memory canonical. -/
namespace Sys2Proof.Machine
open Sys2Proof

variable {s : State}

/-! ### Preemption -/

theorem State.Canonical.setLog {pk : Nat} {l : List FaultRec} (h : s.Canonical) : (s.setLog pk l).Canonical := h

theorem State.Canonical.queueRec {pk : Nat} {r : FaultRec} (h : s.Canonical) : (s.queueRec pk r).1.Canonical := by
  unfold State.queueRec
  dsimp only
  split <;> exact h

theorem State.Canonical.haltFig {fg : Nat} (h : s.Canonical) : (s.haltFig fg).Canonical := .ite (.foldl h fun hu => hu) h
theorem State.Canonical.haltGroup {fg rank : Nat} (h : s.Canonical) : (s.haltGroup fg rank).Canonical := .foldl h fun hu => .haltFig hu

theorem State.Canonical.of_giveRecords {pk : Nat} {fs : List Nat} {t : State} (h : s.Canonical) (heq : s.giveRecords pk fs = some t) : t.Canonical := by
  obtain ⟨l, -, rfl⟩ := Option.map_eq_some_iff.1 heq
  exact .foldl h fun hu => hu

theorem State.Canonical.of_wants {t : Task} {u : State} {as : List (List (Option Ask))} (h : s.Canonical) (heq : s.wants t = some (u, as)) : u.Canonical := by
  unfold State.wants at heq
  split at heq
  · split_ifs at heq
    cases heq
    exact h
  · split at heq
    · cases heq
    · split at heq
      next hload =>
        cases heq
        exact Loaded.Canonical.at (.loadObj h) hload
      next => cases heq

theorem State.Canonical.of_commit {pk tk : Nat} {as : List (List (Option Ask))} {pre : List Nat} {t : State} (h : s.Canonical)
    (heq : s.commit pk tk as pre = some t) : t.Canonical := by
  unfold State.commit at heq
  split at heq
  · cases heq
  · obtain ⟨u, hu, rfl⟩ := Option.map_eq_some_iff.1 heq
    exact .setSched (.foldl (.of_giveRecords h hu) fun hv => .haltGroup (.foldl hv fun hw => .setFig hw))

theorem execPreemptCommit_canonical {pk : Nat} (h : s.Canonical) : AnswersCanonical (execPreemptCommit pk s) := by
  unfold Machine.execPreemptCommit
  split
  · exact .next h
  · refine .ite (.next h) ?_
    split
    · exact .next h
    next heq =>
      have hu := State.Canonical.of_wants h heq
      extract_lets +onlyGivenNames c
      split
      · exact .next hu
      · exact .ite (.next hu) (.next (.getD (.of_commit hu) hu))

theorem execYld_canonical (h : s.Canonical) : AnswersCanonical (execYld s) := by
  unfold Machine.execYld
  refine .ite ?_ (.next h)
  extract_lets s1 fg pk
  have hs1 : s1.Canonical := .reelNext h
  clear_value s1
  split
  · exact .next hs1
  · refine .ite (.next hs1) ?_
    split
    · exact .next hs1
    next heq =>
      have hu := State.Canonical.of_wants hs1 heq
      exact .ite (.next hu) (.next (.getD (.of_commit hu) hu))

theorem State.Canonical.endFig {fg : Nat} (h : s.Canonical) : (s.endFig fg).Canonical := .update (.setFig (.dropFigure h))
theorem State.Canonical.reapFig {fg : Nat} (h : s.Canonical) : (s.reapFig fg).Canonical := .ite h h
theorem State.Canonical.endGroup {fg : Nat} (h : s.Canonical) : (s.endGroup fg).Canonical :=
  .endTask (.foldl (.foldl h fun hu => .queueRec hu) fun hu => .reapFig (.endFig hu))
theorem State.Canonical.groupHalted {fg : Nat} (h : s.Canonical) : (s.groupHalted fg).Canonical :=
  .ite (.ite (.foldl h fun hu => hu) (.ite (.endGroup h) (.foldl h fun hu => hu))) h
theorem execRegionHalted_canonical {rg : Nat} (h : s.Canonical) : AnswersCanonical (execRegionHalted rg s) :=
  .ite (.next h) (.ite (.next (.groupHalted h)) (.ite (.next h) (.next (.groupHalted h))))

theorem State.Canonical.recWrite {pk fg pa : Nat} {bs : List Byte} (h : s.Canonical) : (s.recWrite pk fg pa bs).2.Canonical := by
  unfold State.recWrite
  extract_lets tag
  split
  · exact h
  · split
    next heq => exact Capture.Canonical.at (.homeWrite h) heq
    next heq => exact Capture.Canonical.at (.homeWrite h) heq
    next heq =>
      have ht := Capture.Canonical.at (.homeWrite h) heq
      exact .ite ht (.detect ht)
    next heq => exact Capture.Canonical.at (.homeWrite h) heq
/-- A record that is written leaves the memory of its write. -/
theorem State.Canonical.of_recWrite {pk fg pa : Nat} {bs : List Byte} {t u : State} (h : s.Canonical) (heq : s.recWrite pk fg pa bs = (some t, u)) :
    t.Canonical := by
  unfold State.recWrite at heq
  extract_lets tag at heq
  split at heq
  · cases heq
  · split at heq
    next hw =>
      cases heq
      exact .bump (Capture.Canonical.at (.homeWrite h) hw)
    next => cases heq
    next => cases heq
    next => cases heq

theorem State.Canonical.landRetired {fg : Nat} (h : s.Canonical) : (s.landRetired fg).Canonical := by
  unfold State.landRetired
  exact .foldl h fun hu => by
    split
    · split
      · exact .ite hu hu
      · exact hu
    · exact hu

theorem State.Canonical.groupSaved {fg : Nat} (h : s.Canonical) : (s.groupSaved fg).Canonical := by
  unfold State.groupSaved
  dsimp only
  split
  · exact .endGroup (.foldl h fun hu => .setFig (.dropFigure (.landRetired hu)))
  · split
    · split
      · exact .setTask (.foldl (.foldl h fun hu => .setFig (.dropFigure (.landRetired hu))) fun hu => .foldl (.queueRec hu) fun hu => hu)
      · exact .foldl (.foldl h fun hu => .setFig (.dropFigure (.landRetired hu))) fun hu => .foldl (.queueRec hu) fun hu => hu
    · split
      · exact .setTask (.foldl h fun hu => .setFig (.dropFigure (.landRetired hu)))
      · exact .foldl h fun hu => .setFig (.dropFigure (.landRetired hu))

theorem State.Canonical.unsave {fg : Nat} (h : s.Canonical) : (s.unsave fg).Canonical := .foldl h fun hu => hu

theorem execFigureSave_canonical {fg : Nat} (h : s.Canonical) : AnswersCanonical (execFigureSave fg s) := by
  unfold Machine.execFigureSave
  extract_lets +onlyGivenNames x
  split
  · split
    · extract_lets +onlyGivenNames rg r
      refine .ite (.next h) ?_
      split
      · exact .ite (.next h) (.ite (.next (.endGroup (.unsave h))) (.next (.detectAt h)))
      · extract_lets +onlyGivenNames n bytes
        split
        next heq => exact .next (.snd_at (.recWrite h) heq)
        next heq =>
          have ht := State.Canonical.of_recWrite h heq
          exact .next (.setRegion (.update ht))
    · split
      · exact .next h
      · split
        next heq => exact .next (.snd_at (.recWrite h) heq)
        next heq =>
          have ht := State.Canonical.of_recWrite h heq
          exact .ite (.next (.groupSaved (.setFig ht))) (.next (.setFig ht))
  · exact .next h

theorem State.Canonical.bareStripe {st : Nat} (h : s.Canonical) : (s.bareStripe st).Canonical :=
  .setStripe (.foldl (.foldl h fun hu => hu) fun hu => hu)
theorem State.Canonical.dropRegion {rg : Nat} (h : s.Canonical) : (s.dropRegion rg).Canonical := h

theorem execStripeRelease_canonical {st : Nat} (h : s.Canonical) : AnswersCanonical (execStripeRelease st s) := by
  unfold Machine.execStripeRelease
  split
  · exact .next h
  · exact .ite (.next h) (.ite (.next (.setRing (.count (.bareStripe h)))) (.next (.reapFig (.update (.dropRegion (.setRing (.count (.bareStripe h))))))))

/-! ### Resumption -/

theorem State.Canonical.layBytes {l : List (Nat × Allot)} {bytes : FMap Byte} {marks : FMap (Option Mark)} (h : s.Canonical) :
    (s.layBytes l bytes marks).Canonical := layBytes_wf s l bytes marks h

theorem State.Canonical.layStripe {rg : Nat} {m : Reloc} {st ws addr : Nat} {x : SavedStripe} (h : s.Canonical) :
    (s.layStripe rg m st ws addr x).Canonical :=
  .loadSlot (.setStripe (.foldl (.foldl h fun hu => hu) fun hu => hu))

theorem State.Canonical.layRegion {pk rg base : Nat} {x : SavedRegion} {p : Spot} (h : s.Canonical) : (s.layRegion pk rg base x p).Canonical := by
  unfold State.layRegion
  exact .foldl (.foldl (.setRegion (.update (.foldl (.foldl (.foldl (.layBytes (.foldl (.foldl h fun hu => hu) fun hu => by
    split
    · exact .layStripe hu
    · exact hu)) fun hu => hu) fun hu => hu) fun hu => hu))) fun hu => by
    split
    · exact .tailPassed hu
    · exact hu) fun hu => hu

theorem State.Canonical.layFigure {fg : Nat} {spots : List (Option Spot)} (h : s.Canonical) : (s.layFigure fg spots).Canonical :=
  .setFig (.foldl h fun hu => .layRegion hu)

theorem execResumption_canonical {fg : Nat} (h : s.Canonical) : AnswersCanonical (execResumption fg s) := by
  unfold Machine.execResumption
  dsimp only
  split
  · exact .next h
  · split
    · exact .next h
    · split
      · exact .next (.setTask (.detect (.damageLine h)))
      · split
        · exact .next h
        · split
          · exact .next h
          · exact .next (.placedTask (.setTask (.foldl h fun hu => .layFigure hu)))

/-! ### Fault records -/

theorem State.Canonical.askRollback {pk : Nat} (h : s.Canonical) : (s.askRollback pk).Canonical := .ite h (.ite h h)

theorem State.Canonical.endDisp {lead rank : Nat} {r : FaultRec} (h : s.Canonical) : (s.endDisp lead rank r).Canonical := by
  unfold State.endDisp
  extract_lets x gs keep given s1 a s2
  have hgiven {u : State} (heq : given = some u) : u.Canonical := by
    unfold given at heq
    split_ifs at heq
    · cases heq
      exact h
    · exact .of_giveRecords h heq
  clear_value given
  have hs1 : s1.Canonical := by
    unfold s1
    split
    next => exact .foldl (hgiven rfl) fun hu => .setFig hu
    next => exact .unsave h
  have hs2 : s2.Canonical := .haltGroup (.queueRec hs1)
  exact .ite (.groupHalted hs2) hs2

theorem State.Canonical.holdDisp {lead : Nat} {r : FaultRec} (h : s.Canonical) : (s.holdDisp lead r).Canonical := by
  unfold State.holdDisp
  extract_lets x gs note
  have hnote {u : State} (hu : u.Canonical) : (note u).Canonical := .setFig hu
  clear_value note
  split
  next heq =>
    split_ifs at heq
    · cases heq
      exact .haltGroup (hnote h)
    · exact .haltGroup (hnote (.of_giveRecords h heq))
  next => exact .haltGroup (.unsave (hnote h))

theorem State.Canonical.figDisp {lead : Nat} {r0 : FaultRec} (h : s.Canonical) : (s.figDisp lead r0).Canonical := by
  unfold State.figDisp
  extract_lets +onlyGivenNames x r n s0 _ s1
  have hs0 : s0.Canonical := .ite (.count h) h
  have hs1 : s1.Canonical := .ite (.setSched hs0) hs0
  clear_value s1
  refine .ite (.askRollback (.queueRec hs1)) (.ite hs1 (.ite ?saved (.ite ?ranked (.ite ?first (.ite (.endDisp hs1) (.holdDisp hs1))))))
  case saved => exact .ite (.ite (.askRollback (.queueRec hs1)) (.endGroup (.unsave (.queueRec hs1)))) hs1
  case ranked =>
    have hcounted : (if r.counted then s1 else s1.count x.pk 10 1).Canonical := .ite hs1 (.count hs1)
    exact .ite (.ite (.setFig hcounted) hcounted) (.ite (.count hs1) hs1)
  case first => exact .ite (.haltGroup (.askRollback (.queueRec hs1))) (.endDisp hs1)

theorem execFaultRecordDispatch_canonical {pk : Nat} (h : s.Canonical) : AnswersCanonical (execFaultRecordDispatch pk s) := by
  unfold Machine.execFaultRecordDispatch
  dsimp only
  split
  · exact .next h
  · split
    · exact .ite (.next (.figDisp h)) (.ite (.next (.ite (.askRollback (.queueRec (.ite h h))) (.queueRec (.ite h h)))) (.next (.ite h h)))
    · exact .next (.count (.ite (.askRollback (.queueRec (.ite h h))) (.queueRec (.ite h h))))
    · exact .next (.ite (.askRollback (.queueRec (.ite h h))) (.queueRec (.ite h h)))

theorem execFaultRecordPost_canonical {pk : Nat} (h : s.Canonical) : AnswersCanonical (execFaultRecordPost pk s) := by
  unfold Machine.execFaultRecordPost
  split
  · exact .next h
  · refine .ite (.next h) ?_
    split
    next => exact .next h
    next heq => exact .next (.setLog (.of_hostRing h heq))

theorem State.Canonical.fltctlWrite {pk : Nat} {v : W64} (h : s.Canonical) : (s.fltctlWrite pk v).Canonical :=
  .windowWrite h (.ite (.foldl h fun hu => .reapFig hu) h)
theorem execFltctlKeepClear_canonical {pk : Nat} {v : W64} (h : s.Canonical) : AnswersCanonical (execFltctlKeepClear pk v s) := .next (.fltctlWrite h)

theorem State.Canonical.releaseHold {lead : Nat} {trap step : Bool} (h : s.Canonical) : (s.releaseHold lead trap step).Canonical := by
  unfold State.releaseHold
  extract_lets s1 x s2
  have hs1 : s1.Canonical := .foldl h fun hu => .setFig hu
  have hs2 : s2.Canonical := .foldl hs1 fun hu => .setFig hu
  refine .ite ?_ hs1
  split
  · exact .setTask hs2
  · exact hs2

theorem State.Canonical.endHeld {lead : Nat} (h : s.Canonical) : (s.endHeld lead).Canonical := .endGroup (.foldl h fun hu => hu)

theorem State.Canonical.resWrite {pk off : Nat} {trap : Bool} {v : W64} (h : s.Canonical) : (s.resWrite pk off trap v).Canonical := by
  refine .windowWrite h fun {w} => ?_
  extract_lets act
  split
  · exact .discard h
  · exact .ite (.setReg h) (.ite (.endHeld (.setReg h)) (.releaseHold (.setReg h)))

theorem execPgfresResume_canonical {pk num : Nat} (h : s.Canonical) : AnswersCanonical (execPgfresResume pk num s) := .next (.resWrite h)
theorem execPgfresEnd_canonical {pk num : Nat} (h : s.Canonical) : AnswersCanonical (execPgfresEnd pk num s) := .next (.resWrite h)
theorem execDbgresResume_canonical {pk num : Nat} (h : s.Canonical) : AnswersCanonical (execDbgresResume pk num s) := .next (.resWrite h)
theorem execDbgresEnd_canonical {pk num : Nat} (h : s.Canonical) : AnswersCanonical (execDbgresEnd pk num s) := .next (.resWrite h)
theorem execDbgresStep_canonical {pk num : Nat} (h : s.Canonical) : AnswersCanonical (execDbgresStep pk num s) := .next (.resWrite h)

/-! ### Intervals -/

theorem State.Canonical.setPhase {pk n : Nat} (h : s.Canonical) : (s.setPhase pk n).Canonical := h
theorem State.Canonical.setInstat {pk : Nat} {open_ sealed_ : W32} (h : s.Canonical) : (s.setInstat pk open_ sealed_).Canonical := .setReg (.ite h h)
theorem State.Canonical.setReqBit {pk : Nat} {b : Bool} (h : s.Canonical) : (s.setReqBit pk b).Canonical := h
theorem execIntervalEnable_canonical {pk : Nat} (h : s.Canonical) : AnswersCanonical (execIntervalEnable pk s) :=
  .ite (.next (.foldl h fun hu => .setPav (.setInstat hu))) (.next h)
theorem execSealRequest_canonical {pk : Nat} (h : s.Canonical) : AnswersCanonical (execSealRequest pk s) := .ite (.next h) (.next h)
theorem State.Canonical.closeAll {pk : Nat} (h : s.Canonical) : (s.closeAll pk).Canonical :=
  .update (.foldl h fun hu => .setReqBit (.setPhase (.setPav (.setInstat (.foldl hu fun hu => hu)))))
theorem execSealPeriodExpiry_canonical {pk : Nat} (h : s.Canonical) : AnswersCanonical (execSealPeriodExpiry pk s) :=
  .ite (.next (.closeAll h)) (.next h)
theorem execPavaneClose_canonical {pk : Nat} (h : s.Canonical) : AnswersCanonical (execPavaneClose pk s) := .ite (.next (.closeAll h)) (.next h)
theorem State.Canonical.noCwt {q : Nat} (h : s.Canonical) : (s.noCwt q).Canonical := .foldl h fun hu => hu

theorem execPavaneDrain_canonical {pk : Nat} (h : s.Canonical) : AnswersCanonical (execPavaneDrain pk s) := by
  unfold Machine.execPavaneDrain
  extract_lets ms s1
  clear_value ms
  exact .ite (.next h) (.ite (.ite (.next (.foldl h fun hu => .setPhase (.noCwt (.setPav hu)))) (.next h))
    (.ite (.ite (.next (.foldl (.setPav h) fun hu => .setPhase hu)) (.next (.setPav h))) (.next h)))

theorem execPavaneVote_canonical {pk : Nat} (h : s.Canonical) : AnswersCanonical (execPavaneVote pk s) :=
  .ite (.next (.foldl h fun hu => hu)) (.next h)
theorem State.Canonical.point {pk : Nat} (h : s.Canonical) : (s.point pk).Canonical := h
theorem State.Canonical.sealAt {q : Nat} (h : s.Canonical) : (s.sealAt q).Canonical :=
  .point (.setReg (.setPav (.setPhase (.foldl (.setInstat h) fun hu => hu))))
theorem State.Canonical.quitAt {q : Nat} (h : s.Canonical) : (s.quitAt q).Canonical :=
  .setPav (.setReqBit (.setInstat (.setReg (.setStaged (.foldl h fun hu => hu)))))

theorem execPavaneSeal_canonical {pk : Nat} (h : s.Canonical) : AnswersCanonical (execPavaneSeal pk s) := by
  unfold Machine.execPavaneSeal
  extract_lets ms s1
  clear_value ms
  have hseal : s1.Canonical := .foldl h fun hu => .sealAt hu
  exact .ite (.ite (.ite (.next (.foldl hseal fun hu => .quitAt hu)) (.next (.setPav hseal))) (.next hseal)) (.next h)

theorem State.Canonical.pvcfgWrite {pk : Nat} {v : W64} (h : s.Canonical) : (s.pvcfgWrite pk v).Canonical := .ite h (.windowWrite h h)
theorem execDisableRequest_canonical {pk : Nat} (h : s.Canonical) : AnswersCanonical (execDisableRequest pk s) :=
  .ite (.next (.pvcfgWrite h)) (.next h)

/-! ### Damage in the fabric -/

theorem State.Canonical.hopFails {e : Emit} (h : s.Canonical) : (s.hopFails e).Canonical := by
  unfold State.hopFails
  dsimp only
  split
  · exact .markStripe h
  · exact .markMx h
  · exact .markStripe h
  · split <;> exact h
  · exact h

theorem execHopCheckFail_canonical {hop : Nat} (h : s.Canonical) : AnswersCanonical (execHopCheckFail hop s) := by
  unfold Machine.execHopCheckFail
  split
  · exact .next h
  · exact .ite (.next (.hopFails h)) (.next h)

theorem execMisrouteResendTimeout_canonical {hop : Nat} (h : s.Canonical) : AnswersCanonical (execMisrouteResendTimeout hop s) := by
  unfold Machine.execMisrouteResendTimeout
  split
  · exact .next h
  · exact .ite (.next (.hopFails h)) (.next h)

theorem State.Canonical.countResent {d : Dest} (h : s.Canonical) : (s.countResent d).Canonical := by
  unfold State.countResent
  split
  · exact .ite (.markMx h) h
  · exact h
  · exact .ite (.markStripe h) h

theorem execHopResend_canonical {hop : Nat} (h : s.Canonical) : AnswersCanonical (execHopResend hop s) := by
  unfold Machine.execHopResend
  split
  · exact .next h
  · split
    · exact .next h
    · exact .ite (.ite (.next (.countResent h)) (.next h)) (.next h)

theorem State.Canonical.markPart {el : Nat} (h : s.Canonical) : (s.markPart el).Canonical := .ite (.markStripe h) (.markMx h)
theorem State.Canonical.takeBack {el : Nat} (h : s.Canonical) : (s.takeBack el).Canonical := .foldl h fun hu => hu
theorem execResultRetry_canonical {el : Nat} {twice : Bool} (h : s.Canonical) : AnswersCanonical (execResultRetry el twice s) :=
  .ite (.next h) (.ite (.next (.markPart (.elFaultAt (.setElem (.takeBack h))))) (.ite (.next (.setElem (.foldl h fun hu => hu))) (.next (.setMx (.foldl h fun hu => hu)))))
theorem State.Canonical.corrected {st : Nat} (h : s.Canonical) : (s.corrected st).Canonical := .ite (.markStripe h) h
theorem State.Canonical.correctedMx {el : Nat} (h : s.Canonical) : (s.correctedMx el).Canonical := .ite (.markMx h) h

theorem State.Canonical.damaged {d : Damage} {double : Bool} (h : s.Canonical) : (s.damaged d double).Canonical := by
  unfold State.damaged
  dsimp only
  split
  · exact .ite h (.ite h h)
  · exact .ite h h
  · exact .ite h (.ite h (.corrected h))
  · exact .ite h (.ite h (.correctedMx h))
  · exact .ite h (.ite h h)
  · exact .ite h (.ite h (.corrected h))
  · exact .ite h (.ite h (.corrected h))
  · exact .ite h (.corrected h)
  · split
    · exact h
    · exact .ite h (.corrected h)
  · split
    · exact h
    · exact .ite h h
  · exact h

theorem execPlaneRefill_canonical {st p : Nat} (h : s.Canonical) : AnswersCanonical (execPlaneRefill st p s) := by
  unfold Machine.execPlaneRefill
  dsimp only
  split
  · exact .next h
  · exact .ite (.next (.corrected h)) (.next h)

/-! ### Redundant Figures -/

theorem State.Canonical.joinPoint {fg key op : Nat} {p : Point} (h : s.Canonical) : (s.joinPoint fg key op p).Canonical := by
  unfold State.joinPoint
  dsimp only
  split
  · split
    · exact h
    · exact .ite h h
  · exact h

theorem State.Canonical.pointEffect {op key : Nat} {gs : List Nat} (h : s.Canonical) : (s.pointEffect op key gs).Canonical := by
  unfold State.pointEffect
  split
  · exact h
  · split
    · exact .finishWait h
    · exact .finishWait h
    · exact .foldl h fun hu => .retireNow hu
    · exact h

theorem State.Canonical.setLate {lead key : Nat} {c : Option Nat} (h : s.Canonical) : (s.setLate lead key c).Canonical := h

theorem State.Canonical.agree {lead key w : Nat} {p : Point} {others : List (Nat × Point)} (h : s.Canonical) :
    (s.agree lead key w p others).Canonical :=
  .pointEffect (.setLate (.setLate (.foldl h fun hu => .joinPoint hu)))

theorem State.Canonical.outvote {fg key : Nat} (h : s.Canonical) : (s.outvote fg key).Canonical := .count (.foldl h fun hu => .markStripe hu)
theorem State.Canonical.disagree {lead key : Nat} {code : BitVec 16} (h : s.Canonical) : (s.disagree lead key code).Canonical :=
  .detect (.ite (.ite h h) (.count (.ite h h)))

theorem State.Canonical.catchUp {fg key op : Nat} {p : Point} (h : s.Canonical) : (s.catchUp fg key op p).Canonical := by
  unfold State.catchUp
  dsimp only
  split
  · split
    · exact .retireNow (.update (by
        split
        · split
          · exact .tellTwin (.joinPoint h)
          · exact .joinPoint h
        · exact .forget (by
            split
            · exact .tellTwin (.joinPoint h)
            · exact .joinPoint h)))
    · exact .update (by
        split
        · split
          · exact .tellTwin (.joinPoint h)
          · exact .joinPoint h
        · exact .forget (by
            split
            · exact .tellTwin (.joinPoint h)
            · exact .joinPoint h))
  · exact .update (by
      split
      · split
        · exact .tellTwin (.joinPoint h)
        · exact .joinPoint h
      · exact .forget (by
          split
          · exact .tellTwin (.joinPoint h)
          · exact .joinPoint h))

theorem execComparePoint_canonical {fg key : Nat} (h : s.Canonical) : AnswersCanonical (execComparePoint fg key s) := by
  unfold Machine.execComparePoint
  dsimp only
  split
  · exact .next h
  · split
    · exact .next (.catchUp h)
    · split
      · exact .ite (.next h) (.next h)
      · split
        · split
          · exact .ite (.next (.agree h)) (.next (.disagree h))
          · exact .next h
        · split
          · exact .next (.foldl (.agree h) fun hu => .outvote hu)
          · exact .next (.disagree h)

theorem execRedundantTimeout_canonical {fg key : Nat} (h : s.Canonical) : AnswersCanonical (execRedundantTimeout fg key s) := by
  unfold Machine.execRedundantTimeout
  dsimp only
  split
  · exact .next h
  · split
    · exact .next h
    · split
      · exact .next h
      · split
        · exact .next (.agree (.foldl h fun hu => .outvote hu))
        · exact .next (.disagree h)

/-! ### Spares -/

theorem State.Canonical.evict {pk : Nat} {gs : List Nat} (h : s.Canonical) : (s.evict pk gs).Canonical := by
  refine .foldl h fun {u g} hu => ?_
  split
  next heq => exact .haltGroup (.of_giveRecords hu heq)
  next => exact hu

theorem State.Canonical.copyClean {pa n : Nat} (h : s.Canonical) : (s.copyClean pa n).Canonical := h
theorem State.Canonical.unpend {pk : Nat} {x : Nat × Nat} (h : s.Canonical) : (s.unpend pk x).Canonical := .ite h h

theorem State.Canonical.replacePart {pk : Nat} {x : Nat × Nat} (h : s.Canonical) : (s.replacePart pk x).Canonical := by
  unfold State.replacePart
  split
  · exact .ite (.syncRing (.withdrawStripe (.unpend h))) (.syncRing (.setStripe (.count (.setReg (.bareStripe (.unpend h))))))
  · exact .count (.setReg (.unpend h))
  · exact .ite (.syncRing (.setReg (.unpend h))) (.syncRing (.count (.setReg (.copyClean (.unpend h)))))
  · exact .ite (.syncScratch (.withdrawBank (.unpend h))) (.syncScratch (.count (.setReg (.copyClean (.unpend h)))))
  · exact .syncRows (.count (.setReg (.update (.foldl (.unpend h) fun hu => hu))))
  · exact .ite (.unpend h) (.count (.setReg (.unpend h)))
  · exact .unpend h

theorem execSpareReplacement_canonical {pk : Nat} (h : s.Canonical) : AnswersCanonical (execSpareReplacement pk s) := by
  unfold Machine.execSpareReplacement
  split
  · exact .next h
  · split
    · exact .next (.replacePart h)
    · exact .next (.foldl h fun hu => .evict hu)

theorem State.Canonical.sprnowWrite {pk : Nat} {v : W64} (h : s.Canonical) : (s.sprnowWrite pk v).Canonical := .windowWrite h (.ite (.ite h h) h)
theorem execSprnowGo_canonical {pk : Nat} {v : W64} (h : s.Canonical) : AnswersCanonical (execSprnowGo pk v s) := .next (.sprnowWrite h)

/-! ### Rollback -/

theorem State.Canonical.postNow {pk : Nat} {r : FaultRec} (h : s.Canonical) : (s.postNow pk r).Canonical := .queueRec h
theorem State.Canonical.setMember {pk : Nat} {m : Member} (h : s.Canonical) : (s.setMember pk m).Canonical := h
theorem State.Canonical.nextStep {pk : Nat} (h : s.Canonical) : (s.nextStep pk).Canonical := h
theorem execRollbackStart_canonical {pk : Nat} (h : s.Canonical) : AnswersCanonical (execRollbackStart pk s) :=
  .ite (.next (.foldl h fun hu => hu)) (.next h)
theorem State.Canonical.discardFig {fg : Nat} (h : s.Canonical) : (s.discardFig fg).Canonical :=
  .reapFig (.endFig (.setFig (.ite (.foldl h fun hu => .queueRec hu) h)))
theorem State.Canonical.discardWork {pk : Nat} (h : s.Canonical) : (s.discardWork pk).Canonical :=
  .update (.setSched (.foldl (.foldl h fun hu => .discardFig hu) fun hu => hu))
theorem execRollbackHold_canonical {pk : Nat} (h : s.Canonical) : AnswersCanonical (execRollbackHold pk s) :=
  .ite (.next (.nextStep (.setStaged (.discardWork h)))) (.next h)
theorem execRollbackQuiet_canonical {pk : Nat} (h : s.Canonical) : AnswersCanonical (execRollbackQuiet pk s) := .ite (.next h) (.next h)
theorem State.Canonical.repaired {line : Nat} (h : s.Canonical) : (s.repaired line).Canonical := .ite (.ite (.setPoison h) h) h
theorem State.Canonical.putLine {line : Nat} {bs : List Byte} (h : s.Canonical) : (s.putLine line bs).Canonical := .repaired (.writeBytes h)
theorem State.Canonical.applyUndo {pk sk p : Nat} (h : s.Canonical) : (s.applyUndo pk sk p).Canonical :=
  .ite (.count (.postNow (.damageLine h))) (.setLtag (.putLine (.correct h)))
theorem State.Canonical.applyStack {pk : Nat} {t : W32} {sk : Nat} (h : s.Canonical) : (s.applyStack pk t sk).Canonical :=
  .syncUsed (.setStack (.foldl h fun hu => .applyUndo hu))
theorem execRollbackApply_canonical {pk : Nat} (h : s.Canonical) : AnswersCanonical (execRollbackApply pk s) :=
  .ite (.next (.nextStep (.setPav (.setPhase (.setInstat (.update (.foldl h fun hu => .applyStack hu))))))) (.next h)
theorem State.Canonical.wipe {pk : Nat} (h : s.Canonical) : (s.wipe pk).Canonical := wipe_wf s pk (State.Canonical.discardWork h)
theorem State.Canonical.renumber {sp lp : Nat} (h : s.Canonical) :
    (s.renumber sp lp).Canonical := renumber_mem_wf s sp lp (State.Canonical.discardWork h)

theorem State.Canonical.joinGroups {ms : List Nat} {lp : Nat} (h : s.Canonical) : (s.joinGroups ms lp).Canonical := by
  unfold State.joinGroups
  exact .foldl h fun hu => by
    split <;> exact hu

theorem State.Canonical.poisonOutside {lp : Nat} (h : s.Canonical) : (s.poisonOutside lp).Canonical := .foldl h fun hu => .ite hu (.setPoison hu)

theorem State.Canonical.replaceMember {pk lp : Nat} (h : s.Canonical) : (s.replaceMember pk lp).1.Canonical := by
  have hroutes {l : List Nat} {f : State → Nat → Nat} {g : State → Nat → List Byte} : (l.foldl (fun u q => u.writeBytes (f u q) (g u q)) s).Canonical :=
    .foldl h fun hu => .writeBytes hu
  unfold State.replaceMember
  extract_lets +onlyGivenNames ms
  split
  · exact .setMember (.poisonOutside (.joinGroups (.setPav (.setInstat (.setReg (.writeBytes (.renumber hroutes)))))))
  · exact .setMember (.foldl h fun hu => .foldl hu fun hv => .ite (.setReg hv) hv)

theorem State.Canonical.rebuildLine {pk n k m : Nat} {qs fresh : List Nat} {agree : Bool} {o : Nat} (h : s.Canonical) :
    (s.rebuildLine pk n k m qs fresh agree o).Canonical :=
  .ite h (.ite (.count (.postNow (.foldl h fun hu => .setPoison hu))) (.foldl h fun hu => .putLine hu))

theorem State.Canonical.rebuildGroup {pk : Nat} {fresh : List Nat} {g : Nat × Nat} (h : s.Canonical) : (s.rebuildGroup pk fresh g).Canonical :=
  .foldl h fun hu => .rebuildLine hu
theorem State.Canonical.zeroDamaged {pk : Nat} (h : s.Canonical) : (s.zeroDamaged pk).Canonical :=
  .ite h (.foldl h fun hu => .foldl hu fun hu => .putLine hu)

theorem execRollbackRepair_canonical {pk : Nat} (h : s.Canonical) : AnswersCanonical (execRollbackRepair pk s) := by
  unfold Machine.execRollbackRepair
  refine .ite ?_ (.next h)
  split
  next heq =>
    have hs1 := State.Canonical.fst_at (.foldl_fst h .replaceMember) heq
    exact .next (.foldl (.foldl (.foldl hs1 fun hu => .rebuildGroup hu) fun hu => .count (.zeroDamaged hu)) fun hu => .setMember hu)

theorem execRollbackResume_canonical {pk : Nat} (h : s.Canonical) : AnswersCanonical (execRollbackResume pk s) :=
  .ite (.next (.foldl h fun hu => .count (.postNow hu))) (.next h)
theorem State.Canonical.declareLost {pk m : Nat} (h : s.Canonical) : (s.declareLost pk m).Canonical := .foldl h fun hu => .askRollback (.postNow hu)
theorem execMemberLost_canonical {pk m : Nat} (h : s.Canonical) : AnswersCanonical (execMemberLost pk m s) := .ite (.next (.declareLost h)) (.next h)
theorem execLeaderTakeover_canonical {pk : Nat} (h : s.Canonical) : AnswersCanonical (execLeaderTakeover pk s) :=
  .ite (.next (.declareLost (.foldl h fun hu => hu))) (.next h)

/-! ### Links -/

theorem State.Canonical.setLnk {pk port : Nat} {v : W64} (h : s.Canonical) : (s.setLnk pk port v).Canonical := h
theorem State.Canonical.setPortUp {pk port : Nat} {up : Bool} (h : s.Canonical) : (s.setPortUp pk port up).Canonical := .ite h h
theorem execLinkFlitError_canonical {pk port : Nat} (h : s.Canonical) : AnswersCanonical (execLinkFlitError pk port s) := .ite (.next h) (.next h)
theorem execLinkReplay_canonical {pk port : Nat} (h : s.Canonical) : AnswersCanonical (execLinkReplay pk port s) :=
  .ite (.next (.count (.update (.ite h h)))) (.next h)
theorem State.Canonical.downPort {pk port : Nat} (h : s.Canonical) : (s.downPort pk port).Canonical :=
  .ite (.update (.setPortUp h)) (.detect (.foldl (.update (.setPortUp h)) fun hu => .ite hu hu))
theorem execPortDown_canonical {pk port : Nat} (h : s.Canonical) : AnswersCanonical (execPortDown pk port s) := .ite (.next (.downPort h)) (.next h)
theorem State.Canonical.narrow {pk port lane : Nat} (h : s.Canonical) : (s.narrow pk port lane).Canonical := .ite h (.downPort h)

theorem execLaneFailing_canonical {pk port lane : Nat} {lockLost : Bool} (h : s.Canonical) :
    AnswersCanonical (execLaneFailing pk port lane lockLost s) :=
  .ite (.next h) (.ite (.ite (.next (.count (.setLnk (.ite (.unpend h) h)))) (.next (.narrow h))) (.ite (.next (.ite h h)) (.next h)))

theorem State.Canonical.trainPort {pk port : Nat} (h : s.Canonical) : (s.trainPort pk port).Canonical := .ite (.setPortUp (.setLnk (.ite h h))) h
theorem State.Canonical.lnkcfgWrite {pk : Nat} {v : W64} (h : s.Canonical) : (s.lnkcfgWrite pk v).Canonical := .windowWrite h (.ite (.trainPort h) h)
theorem execLnkcfgRetrain_canonical {pk : Nat} {v : W64} (h : s.Canonical) : AnswersCanonical (execLnkcfgRetrain pk v s) := .next (.lnkcfgWrite h)

theorem execUnreachableTimeout_canonical {ac : Nat} (h : s.Canonical) : AnswersCanonical (execUnreachableTimeout ac s) := by
  unfold Machine.execUnreachableTimeout
  dsimp only
  split
  · split
    · split
      · exact .next (.withdraw (.streamFault h))
      · exact .next h
    · exact .next h
  · split
    · exact .ite (.next (.endReq h)) (.next h)
    · exact .next h
  · exact .next h

theorem State.Canonical.setHostDown {pk : Nat} {b : Bool} (h : s.Canonical) : (s.setHostDown pk b).Canonical := h
theorem execHostLinkDown_canonical {pk : Nat} (h : s.Canonical) : AnswersCanonical (execHostLinkDown pk s) := .ite (.next h) (.next (.hosterr h))
theorem execHostLinkUp_canonical {pk : Nat} (h : s.Canonical) : AnswersCanonical (execHostLinkUp pk s) := .next h
theorem execHotReset_canonical {pk : Nat} (h : s.Canonical) : AnswersCanonical (execHotReset pk s) := .next h

theorem execHostCompletionError_canonical {ac : Nat} (h : s.Canonical) : AnswersCanonical (execHostCompletionError ac s) := by
  unfold Machine.execHostCompletionError
  split
  · exact .ite (.next (.homeFault (.hosterr h))) (.next h)
  · split
    · exact .next h
    · split
      · exact .next (.endReq (.foldl h fun hu => .hosterr hu))
      · exact .next h
  · exact .next h

/-! ### Boot -/

theorem State.Canonical.bootStep {pk n : Nat} (h : s.Canonical) : (s.bootStep pk n).Canonical := h
theorem State.Canonical.bootFail {pk step : Nat} {c : Nat × Nat} (h : s.Canonical) : (s.bootFail pk step c).Canonical := h
theorem State.Canonical.train (h : s.Canonical) : s.train.2.Canonical := h
theorem State.Canonical.clearHbm {pk : Nat} (h : s.Canonical) : (s.clearHbm pk).Canonical := clearHbm_wf s pk h

theorem State.Canonical.loadRings {ts : List Nat} (h : s.Canonical) : (loadRings ts s).2.Canonical := by
  induction ts generalizing s with
  | nil => exact h
  | cons t ts ih =>
    unfold Machine.loadRings
    split
    · exact ih (.train h)
    · exact h

theorem State.Canonical.trainPorts {pk : Nat} (h : s.Canonical) : (s.trainPorts pk).Canonical := .foldl h fun hu => .trainPort hu

theorem State.Canonical.bootLate {pk : Nat} {hd : List Byte} (h : s.Canonical) : (s.bootLate pk hd).Canonical := by
  unfold State.bootLate
  refine .ite (.bootFail (.train h)) ?_
  split
  next heq => exact .bootFail (.snd_at (.loadRings (.clearHbm (.train h))) heq)
  next heq =>
    have hs2 := State.Canonical.snd_at (.loadRings (.clearHbm (.train h))) heq
    exact .ite (.bootFail (.train hs2)) (.update (.bootStep (.ite (.trainPorts (.train hs2)) hs2)))

theorem State.Canonical.bootWrite {pk : Nat} {v : W64} (h : s.Canonical) : (s.bootWrite pk v).Canonical := by
  refine .windowWrite h (.ite h ?_)
  extract_lets +onlyGivenNames src hd
  split
  · exact .bootFail h
  · split
    · exact .bootFail h
    · exact .ite (.bootLate h) (.ite h (.bootLate (.renumber h)))

theorem execBootctlGo_canonical {pk : Nat} {v : W64} (h : s.Canonical) : AnswersCanonical (execBootctlGo pk v s) := .next (.bootWrite h)
theorem State.Canonical.attWrite {pk : Nat} {v : W64} (h : s.Canonical) : (s.attWrite pk v).Canonical := .windowWrite h (.ite (.poke h) h)
theorem execAttctlGo_canonical {pk : Nat} {v : W64} (h : s.Canonical) : AnswersCanonical (execAttctlGo pk v s) := .next (.attWrite h)
theorem execPowerGate_canonical {ring : Nat} (h : s.Canonical) : AnswersCanonical (execPowerGate ring s) := .ite (.next h) (.next h)
theorem execColdReset_canonical {pk : Nat} (h : s.Canonical) : AnswersCanonical (execColdReset pk s) := .next (.bootStep (.setHostDown (.wipe h)))
theorem State.Canonical.resetStrm {rs : Nat} (h : s.Canonical) : (s.resetStrm rs).Canonical := .setStrm (.withdraw h)
theorem execMemoryPortDomainReset_canonical {mp : Nat} (h : s.Canonical) : AnswersCanonical (execMemoryPortDomainReset mp s) :=
  .next (.update (.foldl (.foldl (.foldl (.foldl h fun hu => hu) fun hu => .ite (.downPort hu) hu) fun hu => .resetStrm hu) fun hu => hu))
theorem execFabricDieReset_canonical {pk die : Nat} (h : s.Canonical) : AnswersCanonical (execFabricDieReset pk die s) :=
  .next (.foldl h fun hu => hu)

/-! ### Register writes -/

theorem State.Canonical.bspWrite {pk off : Nat} {v : W64} (h : s.Canonical) : (s.bspWrite pk off v).Canonical := .windowWrite h h

theorem State.Canonical.regWrite {pk off : Nat} {v : W64} (h : s.Canonical) : (s.regWrite pk off v).Canonical := by
  unfold State.regWrite
  split
  · exact .ite h h
  · split
    · exact .bootWrite h
    · exact .ite (.windowWrite h h) h
    · exact .attWrite h
    · exact .tlbivWrite h
    · exact .pvcfgWrite h
    · exact .sppWrite h
    · exact .mvfWrite h
    · exact .psnclrWrite h
    · exact .fltstatWrite h
    · exact .fltctlWrite h
    · exact .resWrite h
    · exact .resWrite h
    · exact .sprnowWrite h
    · exact .lnkcfgWrite h
    · exact .windowWrite h h
    · exact .windowWrite h h
    · exact .windowWrite h h
    · exact .bspWrite h
    · exact .windowWrite h h

theorem execRegisterWrite_canonical {pk off size : Nat} {v : W64} (h : s.Canonical) : AnswersCanonical (execRegisterWrite pk off size v s) := by
  unfold Machine.execRegisterWrite
  dsimp only
  split
  · exact .next h
  · split
    · exact .next h
    · split
      · exact .next (.regWrite h)
      · split
        · exact .next h
        · exact .ite (.next (.regWrite h)) (.ite (.next (.ite h h)) (.next (.regWrite h)))

end Sys2Proof.Machine
end

section
/-! CERTIFICATE. Every step keeps memory in its canonical form (R106, R126). -/
namespace Sys2Proof.Machine
open Sys2Proof

section
variable {s : State}

/-! ### Instructions -/

theorem eq_mk_of_slot? {i : Instr} {op : SlotOp} {f : Slot} (h : i.slot? = some (op, f)) : i = op.mk f := by
  cases i <;> cases h <;> rfl
theorem exec_canonical {i : Instr} (h : s.Canonical) : AnswersCanonical (exec i s) := by
  cases hslot : i.slot? with
  | some p =>
    rw [eq_mk_of_slot? hslot]
    exact execSlot_canonical h
  | none =>
    cases i with
    | bqBlockEmit => exact execBqBlockEmit_canonical h
    | slotIndexIssue => exact execSlotIndexIssue_canonical h
    | iterationLastDelivery => exact execIterationLastDelivery_canonical h
    | eventHandlerStart => exact execEventHandlerStart_canonical h
    | wavefrontPassage => exact execWavefrontPassage_canonical h
    | passRegisterTransfer => exact execPassRegisterTransfer_canonical h
    | streamTokenDelivery => exact execStreamTokenDelivery_canonical h
    | boundLoadStreamIssue => exact execBoundLoadStreamIssue_canonical h
    | boundStoreStreamAccess => exact execBoundStoreStreamAccess_canonical h
    | virtualStripeYield => exact execVirtualStripeYield_canonical h
    | statefulSave => exact execStatefulSave_canonical h
    | scrollSwap => exact execScrollSwap_canonical h
    | statefulRestore => exact execStatefulRestore_canonical h
    | parkRead => exact execParkRead_canonical h
    | planeFill => exact execPlaneFill_canonical h
    | loadBound => exact execLoadBound_canonical h
    | storePerformed => exact execStorePerformed_canonical h
    | atomicAtHome => exact execAtomicAtHome_canonical h
    | fenceConditionMet => exact execFenceConditionMet_canonical h
    | sbarRelease => exact execSbarRelease_canonical h
    | xreqPacketAccepted => exact execXreqPacketAccepted_canonical h
    | publishPerformed => exact execPublishPerformed_canonical h
    | cbputPlacement => exact execCbputPlacement_canonical h
    | cbputRetry => exact execCbputRetry_canonical h
    | cbgetDelivery => exact execCbgetDelivery_canonical h
    | secwCountReached => exact execSecwCountReached_canonical h
    | crdRecordArrival => exact execCrdRecordArrival_canonical h
    | sealreqRecorded => exact execSealreqRecorded_canonical h
    | msendAccepted => exact execMsendAccepted_canonical h
    | streamAccessIssue => exact execStreamAccessIssue_canonical h
    | pageWalkComplete => exact execPageWalkComplete_canonical h
    | movedReplyReissue => exact execMovedReplyReissue_canonical h
    | accessAtHome => exact execAccessAtHome_canonical h
    | parityDeltaArrival => exact execParityDeltaArrival_canonical h
    | parityDeltaTimeout => exact execParityDeltaTimeout_canonical h
    | irrevocableWriteAccept => exact execIrrevocableWriteAccept_canonical h
    | stagingRelease => exact execStagingRelease_canonical h
    | hostMessageDelivery => exact execHostMessageDelivery_canonical h
    | hostReadCompletion => exact execHostReadCompletion_canonical h
    | sppWrite => exact execSppWrite_canonical h
    | partitionEntryRelease => exact execPartitionEntryRelease_canonical h
    | tlbivGo => exact execTlbivGo_canonical h
    | invalidationComplete => exact execInvalidationComplete_canonical h
    | mvfGo => exact execMvfGo_canonical h
    | migrationCopyDone => exact execMigrationCopyDone_canonical h
    | hbmRefresh => exact execHbmRefresh_canonical h
    | rowActivationRefresh => exact execRowActivationRefresh_canonical h
    | patrolScrub => exact execPatrolScrub_canonical h
    | ltagSweep => exact execLtagSweep_canonical h
    | mwld => exact execMwld_canonical h
    | mwldt => exact execMwldt_canonical h
    | mzero w => exact execMzero_canonical (_w := w) h
    | mma => exact execMma_canonical h
    | mmasc => exact execMmasc_canonical h
    | mpromo w => exact execMpromo_canonical (_w := w) h
    | mdrain => exact execMdrain_canonical h
    | mpass => exact execMpass_canonical h
    | systolicBeat => exact execSystolicBeat_canonical h
    | bgmv => exact execBgmv_canonical h
    | bred => exact execBred_canonical h
    | baseNodeStreamDelivery => exact execBaseNodeStreamDelivery_canonical h
    | stripe => exact execStripe_canonical h
    | plane => exact execPlane_canonical h
    | swap => exact execSwap_canonical h
    | swapAll => exact execSwapAll_canonical h
    | swapWave => exact execSwapWave_canonical h
    | dwell => exact execDwell_canonical h
    | loop => exact execLoop_canonical h
    | endl => exact execEndl_canonical h
    | brp => exact execBrp_canonical h
    | jmp => exact execJmp_canonical h
    | call => exact execCall_canonical h
    | ret => exact execRet_canonical h
    | arm => exact execArm_canonical h
    | armMx => exact execArmMx_canonical h
    | waitbBar => exact execWaitbBar_canonical h
    | waitbLc => exact execWaitbLc_canonical h
    | waitbMx => exact execWaitbMx_canonical h
    | save => exact execSave_canonical h
    | rest => exact execRest_canonical h
    | lds => exact execLds_canonical h
    | sts => exact execSts_canonical h
    | addi => exact execAddi_canonical h
    | movs => exact execMovs_canonical h
    | cmpj => exact execCmpj_canonical h
    | seqw => exact execSeqw_canonical h
    | msgr => exact execMsgr_canonical h
    | yld => exact execYld_canonical h
    | hlt => exact execHlt_canonical h
    | transferRequestStart => exact execTransferRequestStart_canonical h
    | transferCopy xh => exact execTransferCopy_canonical (xh := xh) h
    | tensorLoad xh => exact execTensorLoad_canonical (xh := xh) h
    | tensorStore xh => exact execTensorStore_canonical (xh := xh) h
    | gather xh => exact execGather_canonical (xh := xh) h
    | scatter xh => exact execScatter_canonical (xh := xh) h
    | fill xh => exact execFill_canonical (xh := xh) h
    | remoteCopy xh => exact execRemoteCopy_canonical (xh := xh) h
    | setRemoteFlag xh => exact execSetRemoteFlag_canonical (xh := xh) h
    | shadowCopy xh => exact execShadowCopy_canonical (xh := xh) h
    | reduceCopy xh => exact execReduceCopy_canonical (xh := xh) h
    | transferCompletion => exact execTransferCompletion_canonical h
    | sectorCounterIncrement => exact execSectorCounterIncrement_canonical h
    | lm64Write => exact execLm64Write_canonical h
    | lm64Take => exact execLm64Take_canonical h
    | walkStart => exact execWalkStart_canonical h
    | nodeEnd g => exact execNodeEnd_canonical (_g := g) h
    | nodeKernel => exact execNodeKernel_canonical h
    | nodeCopy => exact execNodeCopy_canonical h
    | nodeCond => exact execNodeCond_canonical h
    | nodeLoop => exact execNodeLoop_canonical h
    | nodeWait => exact execNodeWait_canonical h
    | nodeSignal => exact execNodeSignal_canonical h
    | nodeSeal => exact execNodeSeal_canonical h
    | nodeMsg => exact execNodeMsg_canonical h
    | nodeSub => exact execNodeSub_canonical h
    | waitCounterReread => exact execWaitCounterReread_canonical h
    | taskAging => exact execTaskAging_canonical h
    | taskDispatch => exact execTaskDispatch_canonical h
    | kernelTaskComplete => exact execKernelTaskComplete_canonical h
    | preemptCommit => exact execPreemptCommit_canonical h
    | regionHalted => exact execRegionHalted_canonical h
    | figureSave => exact execFigureSave_canonical h
    | stripeRelease => exact execStripeRelease_canonical h
    | resumption => exact execResumption_canonical h
    | sealPeriodExpiry => exact execSealPeriodExpiry_canonical h
    | sealRequest => exact execSealRequest_canonical h
    | pavaneClose => exact execPavaneClose_canonical h
    | pavaneDrain => exact execPavaneDrain_canonical h
    | pavaneVote => exact execPavaneVote_canonical h
    | pavaneSeal => exact execPavaneSeal_canonical h
    | intervalEnable => exact execIntervalEnable_canonical h
    | disableRequest => exact execDisableRequest_canonical h
    | registerWrite => exact execRegisterWrite_canonical h
    | coldReset => exact execColdReset_canonical h
    | bootctlGo => exact execBootctlGo_canonical h
    | attctlGo => exact execAttctlGo_canonical h
    | hmconsWrite => exact execHmconsWrite_canonical h
    | bar4Load => exact execBar4Load_canonical h
    | bar4Store => exact execBar4Store_canonical h
    | powerGate => exact execPowerGate_canonical h
    | hopCheckFail => exact execHopCheckFail_canonical h
    | hopResend => exact execHopResend_canonical h
    | misrouteResendTimeout => exact execMisrouteResendTimeout_canonical h
    | resultRetry => exact execResultRetry_canonical h
    | planeRefill => exact execPlaneRefill_canonical h
    | comparePoint => exact execComparePoint_canonical h
    | redundantTimeout => exact execRedundantTimeout_canonical h
    | spareReplacement => exact execSpareReplacement_canonical h
    | sprnowGo => exact execSprnowGo_canonical h
    | faultRecordDispatch => exact execFaultRecordDispatch_canonical h
    | faultRecordPost => exact execFaultRecordPost_canonical h
    | fltconsWrite => exact execFltconsWrite_canonical h
    | fltctlKeepClear => exact execFltctlKeepClear_canonical h
    | ecntWrite => exact execEcntWrite_canonical h
    | fltstatWrite => exact execFltstatWrite_canonical h
    | hosterrWrite => exact execHosterrWrite_canonical h
    | lnkstWrite => exact execLnkstWrite_canonical h
    | sucfgLinkDisable => exact execSucfgLinkDisable_canonical h
    | psnclrGo => exact execPsnclrGo_canonical h
    | pgfresResume => exact execPgfresResume_canonical h
    | pgfresEnd => exact execPgfresEnd_canonical h
    | dbgresResume => exact execDbgresResume_canonical h
    | dbgresEnd => exact execDbgresEnd_canonical h
    | dbgresStep => exact execDbgresStep_canonical h
    | rollbackStart => exact execRollbackStart_canonical h
    | rollbackHold => exact execRollbackHold_canonical h
    | rollbackQuiet => exact execRollbackQuiet_canonical h
    | rollbackApply => exact execRollbackApply_canonical h
    | rollbackRepair => dsimp only [Machine.exec]; exact execRollbackRepair_canonical h
    | rollbackResume => exact execRollbackResume_canonical h
    | memberLost => exact execMemberLost_canonical h
    | leaderTakeover => exact execLeaderTakeover_canonical h
    | linkFlitError => exact execLinkFlitError_canonical h
    | linkReplay => exact execLinkReplay_canonical h
    | laneFailing => exact execLaneFailing_canonical h
    | portDown => exact execPortDown_canonical h
    | lnkcfgRetrain => exact execLnkcfgRetrain_canonical h
    | unreachableTimeout => exact execUnreachableTimeout_canonical h
    | hostLinkDown => exact execHostLinkDown_canonical h
    | hostLinkUp => exact execHostLinkUp_canonical h
    | hotReset => exact execHotReset_canonical h
    | poisonedHostWrite => exact execPoisonedHostWrite_canonical h
    | hostCompletionError => exact execHostCompletionError_canonical h
    | memoryPortDomainReset => exact execMemoryPortDomainReset_canonical h
    | fabricDieReset => exact execFabricDieReset_canonical h
    | _ => cases hslot

/-! ### Agents -/

theorem State.Canonical.choose (h : s.Canonical) : s.choose.2.Canonical := by
  unfold State.choose
  split <;> exact h

theorem Fetched.Canonical.of {r : Except Reject Instr} (h : s.Canonical) : (Fetched.of s r).Canonical := by
  cases r <;> exact h
theorem Fetched.Canonical.fetch {a : Agent} (h : s.Canonical) : (s.fetch a).Canonical := by
  unfold State.fetch
  split
  case h_1 =>
    split
    · exact h
    · exact .of h
  case h_2 =>
    refine .ite (State.Canonical.reelPast h) ?_
    split
    · exact .ite h h
    · exact h
  case h_3 => exact .ite (State.Canonical.mxEmpty h) (.of h)
  case h_4 => exact .ite h (.of h)
  case h_5 =>
    split
    · exact h
    · exact .of h
  case h_6 =>
    split
    next heq => exact NodeAt.Canonical.at (.nodeAt h) heq
    next t v heq =>
      have ht : t.Canonical := NodeAt.Canonical.at (.nodeAt h) heq
      split
      · exact ht
      · exact State.Canonical.badNode ht

/-! ### Steps -/

theorem step_canonical (h : s.Canonical) : AnswersCanonical (step s) := by
  have htick {dt : Nat} : (s.choose.2.tick dt).Canonical := .tick (.choose h)
  unfold Machine.step
  extract_lets c t
  split
  · exact .ite (exec_canonical htick) (.next htick)
  · exact .next (.damaged htick)
  · split
    next heq => exact .next (Fetched.Canonical.at (.fetch htick) heq)
    next heq => exact exec_canonical (Fetched.Canonical.at (.fetch htick) heq)
end

/-! ### The obligation -/

/-- Settles O58: what a step takes up, the instruction that it performs, and the damage that it does all keep memory canonical. -/
theorem memoryStaysCanonical : Obligations.MemoryStaysCanonical := by
  unfold Obligations.MemoryStaysCanonical
  intro s t hs hstep
  have hstays : AnswersCanonical (step s) := step_canonical hs
  rwa [hstep] at hstays

end Sys2Proof.Machine
end

section
/-! CERTIFICATE. Circular-buffer slots: puts and gets open, a put's words are written, a get's words are read (R120 to R123, R269, R270). -/
namespace Sys2Proof.Machine
open Sys2Proof

/-! ### Reads of storage that bears no mark -/

theorem State.correct_of_unmarked {s : State} {pa n : Nat} (h : ∀ u ∈ unitsOf pa n, s.ms.errs.get none u = none) : s.correct pa n = s :=
  List.foldlRecOn (motive := fun t => t = s) _ _ rfl fun t ht u hu => by
    subst ht
    exact if_neg (by simp [h u hu])

theorem State.readBytes_of_unmarked {s : State} {pa n : Nat} (h : ∀ u ∈ unitsOf pa n, s.ms.errs.get none u = none) :
    s.readBytes pa n = (s, s.peeks pa n, false) := by
  have hsound : s.damagedIn pa n = false := by
    have hnone : (unitsOf pa n).any (fun u => (s.ms.errs.get none u).isSome) = false :=
      List.any_eq_false.2 fun u hu => by simp [h u hu]
    simp [State.damagedIn, hnone]
  rw [State.readBytes_of_sound hsound, State.correct_of_unmarked h]

section
variable {s : State} {f : Slot} {o : Opn} {ps : List (BitVec 2)} (hplain : s.Plain o)
include hplain

/-! ### Puts -/

theorem exec_cbputOpen (hf : s.Fires .cbputOpen f o ps) :
    ∃ u, exec (.cbputOpen f) s = .next (s.gives f o u 1 [])
      ∧ (u.elem s.act.el).put = some { wait := s.fl.next, desc := s.descOf (f.mod.getLsbD 3) o.a, scr := f.mod.getLsbD 3, len := o.b.toNat, done := 0, addr := 0, need := 16 + 16 * ((o.b.toNat + 15) / 16), placed := false }
      ∧ (u.wait s.fl.next).map Wait.kind = some (.cbput (s.descOf (f.mod.getLsbD 3) o.a) (f.mod.getLsbD 3) o.b.toNat o.x s.act.el) := by
  refine ⟨_, slotExec_plain hf hplain (by rw [slotQuiet_plain hplain]; rfl), ?_, ?_⟩
  · simp
  · simp

section
variable (hf : s.Fires .cbputWord f o ps) {p : OpenBuf} (hno : ((s.popped .cbputWord f o ps).elem s.act.el).noPut = none)
  (hput : ((s.popped .cbputWord f o ps).elem s.act.el).put = some p)
include hf hno hput

theorem exec_cbputWord_more (hmore : p.done + 1 < (p.len + 3) / 4) :
    let u := (s.popped .cbputWord f o ps).writeBytes (p.addr + 4 * p.done) ((wordBytes o.a).take (p.len - 4 * p.done))
    exec (.cbputWord f) s = .next (s.gives f o (u.setElem s.act.el { u.elem s.act.el with put := some { p with done := p.done + 1 } }) 1 []) := by
  refine slotExec_plain hf hplain ?_
  simp [hno, hput, slotQuiet_plain hplain, hmore]

/-- The last word pads the message to its place and finishes the put, whose TAIL waits (R122, R269). -/
theorem exec_cbputWord_last (hlast : (p.len + 3) / 4 ≤ p.done + 1) :
    let u := (s.popped .cbputWord f o ps).writeBytes (p.addr + 4 * p.done) ((wordBytes o.a).take (p.len - 4 * p.done))
    let v := (u.setElem s.act.el { u.elem s.act.el with put := none }).writeBytes (p.addr + p.len) (List.replicate (p.need - 16 - p.len) 0)
    exec (.cbputWord f) s = .next (s.gives f o ((v.addWait .cbputWord f o (.cbtail p.desc p.wait)).finishPut p.desc p.wait) 1 []) := by
  refine slotExec_plain hf hplain ?_
  simp [hno, hput, slotQuiet_plain hplain, hlast]
end

/-! ### Gets -/

omit hplain in
theorem kind_wait_addWait {op : SlotOp} {t : State} {k : WKind} {n : Nat} (hn : t.fl.next = n) : ((t.addWait op f o k).wait n).map Wait.kind = some k :=
  hn ▸ congrArg (Option.map Wait.kind) (State.wait_addWait t k)

theorem exec_cbgetOpen (hf : s.Fires .cbgetOpen f o ps) :
    ∃ u, exec (.cbgetOpen f) s = .next (s.gives f o u 1 [])
      ∧ (u.wait s.fl.next).map Wait.kind = some (.cbget (s.descOf (f.mod.getLsbD 3) o.a) (f.mod.getLsbD 3) s.act.el)
      ∧ (u.elem s.act.el).get.map OpenBuf.wait = some s.fl.next := by
  refine ⟨_, slotExec_plain hf hplain (by rw [slotQuiet_plain hplain]; rfl), ?_, ?_⟩
  · refine (kind_wait_addWait ?_).trans ?_
    · simp
    · simp
  · simp

theorem exec_cbgetWord_more (hf : s.Fires .cbgetWord f o ps) {g : OpenBuf} (hget : ((s.popped .cbgetWord f o ps).elem s.act.el).get = some g)
    (hmore : g.done + 1 < (g.len + 3) / 4) (hgood : ∀ u ∈ unitsOf (g.addr + 4 * g.done) 4, s.ms.errs.get none u = none) :
    exec (.cbgetWord f) s = .next (s.gives f o ((s.popped .cbgetWord f o ps).setElem s.act.el
      { (s.popped .cbgetWord f o ps).elem s.act.el with get := some { g with done := g.done + 1 } }) 1 (s.result (s.read32 (g.addr + 4 * g.done)))) := by
  have hread : (s.popped .cbgetWord f o ps).readBytes (g.addr + 4 * g.done) 4
      = (s.popped .cbgetWord f o ps, (s.popped .cbgetWord f o ps).peeks (g.addr + 4 * g.done) 4, false) :=
    State.readBytes_of_unmarked (by simpa using hgood)
  have hword : BitVec.ofNat 32 (leNat ((s.popped .cbgetWord f o ps).peeks (g.addr + 4 * g.done) 4)) = s.read32 (g.addr + 4 * g.done) :=
    read32_popped s .cbgetWord f o ps (g.addr + 4 * g.done)
  refine slotExec_plain hf hplain ?_
  simp [hget, hread, hword, slotQuiet_plain hplain, hmore, State.result, dataTok]
end

/-! ### The obligation -/

/-- Settles O7, instruction by instruction. -/
theorem bufferSlots : Obligations.BufferSlots := by
  unfold Obligations.BufferSlots
  intro s f o ps
  exact ⟨fun hf hplain => exec_cbputOpen hplain hf, fun _ hf hplain => exec_cbputWord_more hplain hf, fun _ hf hplain => exec_cbputWord_last hplain hf,
    fun hf hplain => exec_cbgetOpen hplain hf, fun _ hf hplain => exec_cbgetWord_more hplain hf⟩

end Sys2Proof.Machine
end

section
/-! CERTIFICATE. Circular buffers place, retry and deliver messages (R121 to R123). -/
namespace Sys2Proof.Machine
open Sys2Proof

/-! ### Puts -/

/-- The space of a put or get of a message of `len` bytes: its header and the message padded to 16 bytes (R121). -/
def cbNeed (len : Nat) : Nat := 16 + 16 * ((len + 15) / 16)

/-- The tail behind the puts that are placed, finished or not (R122). -/
def State.cbTail (s : State) (desc : Nat) : Nat := ((s.read32 (desc + 12)).toNat + amounts (s.bufs.get {} desc).puts) % 2 ^ 32

/-- The state once a put stands at `at_`, its header written (R121, R122). -/
def State.putAt (s : State) (w desc len : Nat) (tag : W32) (el at_ : Nat) : State :=
  let b := s.bufs.get {} desc
  let s1 := s.writeBytes at_ (leBytes 4 len ++ wordBytes tag ++ zeros 8)
  let s2 := { s1 with bufs := s1.bufs.put {} desc { b with puts := b.puts ++ [(w, cbNeed len, false)] } }
  let e := s2.elem el
  (s2.setElem el { e with put := e.put.map fun p => if p.wait = w then { p with placed := true, addr := at_ + 16, need := cbNeed len } else p }).delWait w

section
variable {s : State} {w desc len el : Nat} {tag : W32} {x : Wait}

theorem State.placePut_fits (hok : s.cbOk desc el x.rg = true) (hpos : 0 < len) (hlen : len < 65536) (hhalf : len ≤ s.cbSize desc / 2 - 16)
    (hend : cbNeed len ≤ s.cbSize desc - s.cbTail desc % s.cbSize desc)
    (hfree : cbNeed len ≤ s.cbSize desc - (s.cbTail desc + 2 ^ 32 - (s.read32 (desc + 8)).toNat) % 2 ^ 32) :
    s.placePut w x desc len tag el = s.putAt w desc len tag el (cbSpace desc + (s.read32 desc).toNat + s.cbTail desc % s.cbSize desc) := by
  have hsize : ¬(len = 0 ∨ 65536 ≤ len ∨ s.cbSize desc / 2 - 16 < len) := by omega
  rw [State.placePut, if_neg (by simp [hok]), if_neg hsize]
  exact if_pos ⟨hend, hfree⟩

theorem State.wait_putAt (s : State) (w desc len : Nat) (tag : W32) (el at_ : Nat) : (s.putAt w desc len tag el at_).wait w = none := by
  rw [State.putAt, State.wait_delWait, if_pos rfl]

theorem State.bufs_putAt (s : State) (w desc len : Nat) (tag : W32) (el at_ : Nat) :
    (s.putAt w desc len tag el at_).bufs.get {} desc
      = { s.bufs.get {} desc with puts := (s.bufs.get {} desc).puts ++ [(w, cbNeed len, false)] } := by
  simp [State.putAt]

theorem State.mem_putAt (s : State) (w desc len : Nat) (tag : W32) (el at_ : Nat) :
    (s.putAt w desc len tag el at_).mem = (s.writeBytes at_ (leBytes 4 len ++ wordBytes tag ++ zeros 8)).mem := by
  rw [State.putAt, State.delWait_mem, State.setElem_mem]

/-- A put that is placed writes its header, 16 bytes, and nothing else in memory. -/
theorem State.header_putAt (s : State) (w desc len : Nat) (tag : W32) (el at_ : Nat) :
    (s.putAt w desc len tag el at_).peeks at_ 16 = leBytes 4 len ++ wordBytes tag ++ zeros 8
      ∧ SameMemExcept s (s.putAt w desc len tag el at_) at_ 16 := by
  have hlen : (leBytes 4 len ++ wordBytes tag ++ zeros 8).length = 16 := by simp [leBytes_length, wordBytes_length, zeros]
  have hpeek (a : Nat) : (s.putAt w desc len tag el at_).peek a = (s.writeBytes at_ (leBytes 4 len ++ wordBytes tag ++ zeros 8)).peek a := by
    simp only [State.peek, State.mem_putAt]
  constructor
  · simp only [State.peeks, hpeek]
    exact s.peeks_writeBytes at_ 16 _ hlen
  · intro a ha
    rw [hpeek]
    exact s.writeBytes_sameMemExcept at_ 16 _ hlen a ha

/-- A put tries first at its placement, and once held at its retry (R122, R123). -/
theorem exec_cbput (hwait : s.wait w = some x) {scr : Bool} (hkind : x.kind = .cbput desc scr len tag el) (hfirst : s.cbBefore w x desc true = false) :
    exec (if x.held then .cbputRetry w else .cbputPlacement w) s = .next (s.placePut w x desc len tag el) := by
  cases hheld : x.held with
  | false =>
    show execCbputPlacement w s = _
    simp only [execCbputPlacement, hwait, hkind]
    exact if_neg (by simp [hheld, hfirst])
  | true =>
    show execCbputRetry w s = _
    simp only [execCbputRetry, hwait, hkind]
    exact if_neg (by simp [hheld, hfirst])
end

/-! ### Gets -/

/-- A put that is placed, faults or waits leaves the gets of every buffer. -/
theorem State.gets_placePut (s : State) (w : Nat) (x : Wait) (desc len : Nat) (tag : W32) (el d : Nat) :
    ((s.placePut w x desc len tag el).bufs.get {} d).gets = (s.bufs.get {} d).gets := by
  let gets (u : State) : List (Nat × Nat × Bool) := (u.bufs.get {} d).gets
  have hput (b : FMap CBuf) (puts : List (Nat × Nat × Bool)) :
      ((b.put {} desc { b.get {} desc with puts := puts }).get {} d).gets = (b.get {} d).gets := by
    rw [FMap.get_put]
    split
    next h => rw [h]
    next => rfl
  refine keeps_ite (p := gets) rfl (keeps_ite (p := gets) rfl (keeps_ite (p := gets) ?_ (keeps_ite (p := gets) ?_ rfl)))
  · simpa [gets] using hput s.bufs _
  · simpa [gets] using hput s.bufs _

theorem State.gets_retryPuts (s : State) (desc n d : Nat) : ((s.retryPuts desc n).bufs.get {} d).gets = (s.bufs.get {} d).gets := by
  induction n generalizing s with
  | zero => rfl
  | succ n ih =>
    unfold State.retryPuts
    split
    · rfl
    · dsimp only
      split
      · exact s.gets_placePut ..
      · exact (ih _).trans (s.gets_placePut ..)

/-- The gets that are still open stay, those finished at the front go (R123). -/
theorem State.gets_advanceHead (s : State) (desc : Nat) (gets : List (Nat × Nat × Bool)) :
    ((s.advanceHead desc gets).bufs.get {} desc).gets = (drainDone gets).2 := by
  have hwritten (u : State) (bs : List Byte) (b : CBuf) :
      ((({ u with bufs := u.bufs.put {} desc { b with gets := (drainDone gets).2 } }).writeBytes (desc + 8) bs).bufs.get ({} : CBuf) desc).gets
        = (drainDone gets).2 := by
    simp
  unfold State.advanceHead
  dsimp only
  split
  · exact hwritten ..
  · exact (State.gets_retryPuts ..).trans (hwritten ..)

/-- The head behind the gets that are delivered, finished or not (R123). -/
def State.cbHead (s : State) (desc : Nat) : Nat := ((s.read32 (desc + 8)).toNat + amounts (s.bufs.get {} desc).gets) % 2 ^ 32

/-- A message at the head is delivered: its get stands behind the others, and its length and tag leave (R122, R123). -/
theorem exec_cbgetDelivery_message {s : State} {w : Nat} {x : Wait} (hwait : s.wait w = some x) {desc el : Nat} {scr : Bool} (hkind : x.kind = .cbget desc scr el)
    (hfirst : s.cbBefore w x desc false = false) (hok : s.cbOk desc el x.rg = true) (hsome : s.cbHead desc ≠ (s.read32 (desc + 12)).toNat)
    {at_ : Nat} (hat : at_ = cbSpace desc + (s.read32 desc).toNat + s.cbHead desc % s.cbSize desc) (hplace : (s.read32 at_).getLsbD 16 = false) :
    let len := (s.read32 at_).toNat % 65536
    let t := s.advanceHead desc ((s.bufs.get {} desc).gets ++ [(w, cbNeed len, false)])
    ∃ e, exec (.cbgetDelivery w) s = .next ((t.setElem el e).finishWait w { x.ret with squash := false }
      [{ which := 1, tok := dataTok (BitVec.ofNat 32 len) x.ret.seq }, { which := 2, tok := dataTok (s.read32 (at_ + 4)) x.ret.seq }]) := by
  subst hat
  have hexec : exec (.cbgetDelivery w) s = execCbgetDelivery w s := rfl
  simp only [State.cbHead] at hsome hplace ⊢
  simp only [hexec, execCbgetDelivery, hwait, hkind, hfirst, hok, hsome, hplace, Bool.false_eq_true, Bool.true_eq_false, if_false, List.append_nil]
  exact ⟨_, rfl⟩

/-! ### The obligation -/

/-- Settles O27: a put that fits, and a get at the head. -/
theorem buffersPlaceAndDeliver : Obligations.BuffersPlaceAndDeliver := by
  unfold Obligations.BuffersPlaceAndDeliver
  intro s w x hwait
  refine ⟨?puts, ?gets⟩
  case puts =>
    intro desc scr len tag el hkind hfirst hok hpos hlen hhalf b need tail used pos at_ hend hfree
    obtain ⟨hheader, hrest⟩ := s.header_putAt w desc len tag el at_
    refine ⟨s.putAt w desc len tag el at_, ?_, hheader, hrest, s.bufs_putAt .., s.wait_putAt ..⟩
    rw [exec_cbput hwait hkind hfirst, State.placePut_fits hok hpos hlen hhalf hend hfree]
    rfl
  case gets =>
    intro desc scr el hkind hfirst hok hplain b head at_ len hsome hplace
    obtain ⟨e, hexec⟩ := exec_cbgetDelivery_message hwait hkind hfirst hok hsome rfl hplace
    exact ⟨_, hexec, s.gets_advanceHead desc _⟩

end Sys2Proof.Machine
end

section
/-! CERTIFICATE. Walks resume their streams, and accesses that met a moved frame are sent to the new one (R108, R109, R146). -/
namespace Sys2Proof.Machine
open Sys2Proof

/-! ### Walks -/

/-- A value that is not the default is listed under its key. -/
theorem FMap.mem_of_get_ne {α : Type} {d : α} {m : FMap α} {k : Nat} (h : m.get d k ≠ d) : (k, m.get d k) ∈ m := by
  induction m with
  | nil => exact absurd rfl h
  | cons p m ih =>
    obtain ⟨l, v⟩ := p
    simp only [FMap.get] at h ⊢
    split_ifs at h ⊢ with heq hlt
    · exact heq ▸ List.mem_cons_self
    · exact absurd rfl h
    · exact List.mem_cons_of_mem _ (ih h)

/-- The address space of the access at the head of a stream. -/
def State.headAsid (s : State) (rs : Nat) : BitVec 12 :=
  match (s.strm rs).headAcc with
  | some (_, _, rg, _) => (s.fig (figOf rg)).asid
  | none => 0

/-- The streams of the die that wait for a page walk, as stream `rs` does (R109). -/
def State.joined (s : State) (rs page : Nat) : List Nat :=
  (s.fab.strms.filter fun p => decide ((unitOf p.1).1 = (unitOf rs).1 ∧ p.2.parked = some page) && decide (s.headAsid p.1 = s.headAsid rs)).map Prod.fst

/-- A walk has ended for a stream: its translation is kept and the stream goes on. -/
def State.resumed (x : Xlat) (s : State) (rs : Nat) : State := (s.keepXlat rs x).setStrm rs { (s.keepXlat rs x).strm rs with parked := none }

theorem State.strm_keepXlat (s : State) (rs : Nat) (x : Xlat) (r : Nat) : ((s.keepXlat rs x).strm r).parked = (s.strm r).parked := by
  show ((State.setStrm _ rs { s.strm rs with kept := some x }).strm r).parked = _
  rw [State.strm_setStrm]
  split
  next h => rw [← h]
  next => rfl

theorem State.parked_resumed (x : Xlat) (s : State) (rs r : Nat) :
    ((s.resumed x rs).strm r).parked = if rs = r then none else (s.strm r).parked := by
  rw [State.resumed, State.strm_setStrm]
  split
  · rfl
  · exact s.strm_keepXlat rs x r

theorem exec_pageWalkComplete_found {s : State} {rs page : Nat} {x : Xlat} (hparked : (s.strm rs).parked = some page) :
    let mp := (unitOf rs).1
    let read := (s.walkReads (mp / 16) (s.headAsid rs) (page * 4096)).foldl (fun u a => u.correct a 8) s
    read.walkBad (mp / 16) (s.headAsid rs) (page * 4096) = none → read.walkPage (mp / 16) (s.headAsid rs) (page * 4096) = .ok x →
    exec (.pageWalkComplete rs) s = .next ((s.joined rs page).foldl (State.resumed x) read) := by
  intro mp read hgood hpage
  show execPageWalkComplete rs s = _
  simp only [execPageWalkComplete, hparked]
  split
  next hbad => exact absurd (hgood.symm.trans hbad) (Option.some_ne_none _).symm
  next hfound =>
    cases hpage.symm.trans hfound
    rfl
  next hmiss => cases hpage.symm.trans hmiss

theorem State.parked_of_joined {s u : State} {x : Xlat} {rs page r : Nat} (hdie : (unitOf r).1 = (unitOf rs).1)
    (hparked : (s.strm r).parked = some page) (hasid : s.headAsid r = s.headAsid rs) :
    (((s.joined rs page).foldl (State.resumed x) u).strm r).parked = none := by
  have hmem : r ∈ s.joined rs page := by
    have hlisted : (r, s.strm r) ∈ s.fab.strms := FMap.mem_of_get_ne fun h => by
      rw [State.strm, h] at hparked
      cases hparked
    exact List.mem_map.2 ⟨_, List.mem_filter.2 ⟨hlisted, by simp [hdie, hparked, hasid]⟩, rfl⟩
  refine foldl_reaches (fun u : State => (u.strm r).parked = none) _ hmem (fun u => ?_) (fun u k hu => ?_) u
  · rw [State.parked_resumed, if_pos rfl]
  · rw [State.parked_resumed, hu, ite_self]

/-! ### Accesses that met a moved frame -/

/-- The state without the translations that cover an access of a moved frame (R146). -/
def State.dropXlats (s : State) (rs : Nat) (a : Access) : State :=
  let (mp, u) := unitOf rs
  let keep (l : List Xlat) : List Xlat := l.filter fun x => !(x.covers a.asid a.va.toNat)
  let s1 := { s with ms := { s.ms with
    tlb1 := s.ms.tlb1.put [] (mp * 16 + u) (keep (s.ms.tlb1.get [] (mp * 16 + u)))
    tlb2 := s.ms.tlb2.put [] mp (keep (s.ms.tlb2.get [] mp)) } }
  s1.setStrm rs { s1.strm rs with kept := ((s1.strm rs).kept).filter fun x => !(x.covers a.asid a.va.toNat) }

section
variable {s : State} {ac rs : Nat} {a : Access} {x : Xlat}

theorem State.walkPage_dropXlats (pk : Nat) (asid : BitVec 12) (va : Nat) : (s.dropXlats rs a).walkPage pk asid va = s.walkPage pk asid va := rfl
theorem State.retarget_dropXlats : (s.dropXlats rs a).retarget rs a x = s.retarget rs a x := rfl

theorem State.retarget_ok (hpermits : x.permits a.kind = true) (hspare : (s.members.get {} (paPkg (x.phys a.va.toNat))).noSpare = false)
    (hreach : s.badPA ((unitOf rs).1 / 16) (x.phys a.va.toNat) = false)
    (hclean : paPkg (x.phys a.va.toNat) = (unitOf rs).1 / 16 → s.poisoned (x.phys a.va.toNat) = false) :
    s.retarget rs a x = .ok { a with
      pa := x.phys a.va.toNat, prot := x.prot, irv := x.irv, pgrp := x.pgrp, log2 := x.log2
      via := viaDie (unitOf rs).1 (x.phys a.va.toNat), home := homeDie (x.phys a.va.toNat)
      tag := s.tagFor ((unitOf rs).1 / 16) (x.phys a.va.toNat) a.kind x.irv, phase := .sent, link := none } := by
  have hpoison : ¬(paPkg (x.phys a.va.toNat) = (unitOf rs).1 / 16 ∧ s.poisoned (x.phys a.va.toNat) = true) := fun ⟨hpk, hp⟩ => by
    rw [hclean hpk] at hp
    cases hp
  simp only [State.retarget, hpermits, hspare, hreach, Bool.true_eq_false, Bool.false_eq_true, if_false, if_neg hpoison]

theorem exec_movedReplyReissue_found (hacc : s.acc ac = some a) (hmoved : a.phase = .moved) (hrs : a.rs = some rs)
    (hpage : s.walkPage ((unitOf rs).1 / 16) a.asid a.va.toNat = .ok x) {b : Access} (htarget : s.retarget rs a x = .ok b) :
    exec (.movedReplyReissue ac) s = .next (((((s.dropXlats rs a).keepXlat rs x).setAcc ac b).noteTag a.rg b.tag)) := by
  rw [← State.walkPage_dropXlats (rs := rs) (a := a)] at hpage
  rw [← State.retarget_dropXlats] at htarget
  show execMovedReplyReissue ac s = _
  simp only [execMovedReplyReissue, hacc, hmoved, hrs]
  unfold State.dropXlats at *
  dsimp only at *
  rw [hpage]
  dsimp only
  rw [htarget]

theorem State.acc_noteTag (rg : Nat) (t : Option W32) (n : Nat) : (s.noteTag rg t).acc n = s.acc n := by
  unfold State.noteTag
  dsimp only
  split
  · rfl
  · split
    · exact keeps_ite (p := fun u : State => u.acc n) rfl rfl
    · rfl
end

/-! ### The obligation -/

/-- Settles O21: walks, accesses of streams, and accesses of base nodes. -/
theorem walksResumeTheirStreams : Obligations.WalksResumeTheirStreams := by
  unfold Obligations.WalksResumeTheirStreams
  intro s
  refine ⟨?walks, ?moved, fun ac a hacc hmoved hrs => ?_⟩
  case walks =>
    intro rs page x mp asidOf read hparked hgood hpage
    exact ⟨_, exec_pageWalkComplete_found hparked hgood hpage, fun r _ hdie hr hasid => State.parked_of_joined hdie hr hasid⟩
  case moved =>
    intro ac a rs x pk pa tag hacc hmoved hrs hpage hpermits hspare hreach hclean
    refine ⟨_, exec_movedReplyReissue_found hacc hmoved hrs hpage (State.retarget_ok hpermits hspare hreach hclean), ?_⟩
    rw [State.acc_noteTag, State.acc_setAcc, if_pos rfl]
  · show execMovedReplyReissue ac s = _
    simp only [execMovedReplyReissue, hacc, hmoved, hrs]

end Sys2Proof.Machine
end

section
/-! CERTIFICATE. The head of a stream issues at BASE plus its offset (R109, R129, R271, R272, R274). -/
namespace Sys2Proof.Machine
open Sys2Proof

/-! ### A configuration write leaves the bound run alone -/

/-- A write of an AGEN register does not count down a bound run (R79, R271). -/
@[simp] theorem Strm.left_write (t : Strm) (m : BitVec 4) (v : W32) : (t.write m v).left = t.left := by
  unfold Strm.write
  split <;> rfl

/-- A write of an AGEN register does not mark the end of a bound run (R79, R271). -/
@[simp] theorem Strm.eos_write (t : Strm) (m : BitVec 4) (v : W32) : (t.write m v).eos = t.eos := by
  unfold Strm.write
  split <;> rfl

/-! ### The head of the order -/

section
variable {s : State} {rs : Nat}

/-- What a configuration write of element `el` that leaves the stream at `t` comes to, by the program that it is the first to name (R271, R394). -/
def State.afterCfg (s : State) (rs el : Nat) (t : Strm) : Option (State × Bool) → Host.Outcome State Fault Refusal
  | none => .next (s.setStrm rs t)
  | some (u, ok) => .next (if ok then u.setStrm rs t else u.streamFault rs { el := el } ((s.strm rs).rg.getD 0) t.base 0x100A false)

/-- A stream that runs, whose order has a configuration write at its head, makes that write (R271). -/
theorem execStreamAccessIssue_cfg {m : BitVec 4} {v : W32} {f el : Nat} {q : List SOp} {named : Option (State × Bool)}
    (hfault : (s.strm rs).fault = false) (hparked : (s.strm rs).parked = none) (hup : s.ringUp (rs / 32) = true)
    (hq : (s.strm rs).q = .cfg m v f el :: q) (hport : (s.strm rs).port = none) (hf : f < s.cyc)
    (hnamed : (if m = 8 then s.namedBase rs { (s.strm rs).write m v with q := q } else none) = named) :
    execStreamAccessIssue rs s = s.afterCfg rs el { (s.strm rs).write m v with q := q } named := by
  have hrun : { (s.strm rs).write m v with q := q, left := (s.strm rs).left, eos := (s.strm rs).eos }
      = { (s.strm rs).write m v with q := q } := by rw [← Strm.left_write (s.strm rs) m v, ← Strm.eos_write (s.strm rs) m v]
  simp only [execStreamAccessIssue, hfault, hparked, hup, hq, hport, hnamed, Nat.not_le.2 hf, hrun, Option.isSome_none, Bool.and_false,
    Bool.false_and, Bool.false_eq_true, Bool.true_eq_false, or_self, if_false]
  obtain _ | ⟨u, _ | _⟩ := named
  · rfl
  · rfl
  · rfl

/-- What the issue of the access `i` at the head of a stream comes to, before the rest `q` of its order (R109, R271, R274). -/
def State.afterIssue (s : State) (rs : Nat) (i : Issue) (q : List SOp) : W64 × Issued → Host.Outcome State Fault Refusal
  | (_, .gone s1) =>
    let out := match (s1.acc i.id).bind (·.scr) with | some (mp, n, a, _) => (s.sppCause mp n a).isSome | none => false
    let s2 := s1.setStrm rs { s1.strm rs with issued := s.cyc + 1 }
    if i.kind = .pfg then .next (s2.pfgDone rs i out) else .next (s2.setStrm rs { s2.strm rs with q := q })
  | (va, .miss) => .next (s.setStrm rs { s.strm rs with parked := some (va.toNat % 2 ^ 57 / 4096) })
  | (va, .fault c keep) =>
    if i.kind = .pfg ∧ c ≠ 0x4005 then .next (s.pfgDone rs i true) else .next (s.streamFault rs i.ret i.rg va c keep)
  | (_, .wait) => .next s
  | (va, .reject s1) => .next (s1.streamFault rs i.ret i.rg va 0x100A false)

/-- A stream that runs, whose order has an access at its head that may go, issues it (R129, R274). -/
theorem execStreamAccessIssue_acc {id : Nat} {kind : AKind} {scope : BitVec 3} {word : W32} {idx : Option W32} {data : List W32} {cmp : W32}
    {ret : Ret} {f rg : Nat} {q : List SOp} {i : Issue} {r : W64 × Issued}
    (hfault : (s.strm rs).fault = false) (hparked : (s.strm rs).parked = none) (hup : s.ringUp (rs / 32) = true)
    (hq : (s.strm rs).q = .acc id kind scope word idx data cmp ret f rg :: q)
    (hmay : s.mayPerform rg id = true) (hf : f < s.cyc) (hissued : (s.strm rs).issued ≤ s.cyc)
    (hi : i = { id := id, kind := kind, scope := scope, word := word, data := data, cmp := cmp, ret := ret, f := f, rg := rg })
    (hhead : s.issueHead rs i idx = r) : execStreamAccessIssue rs s = s.afterIssue rs i q r := by
  subst hi
  simp only [execStreamAccessIssue, hfault, hparked, hup, hq, hmay, hhead, Nat.not_le.2 hf, Nat.not_lt.2 hissued, Option.isSome_none,
    Bool.false_eq_true, Bool.true_eq_false, or_self, if_false]
  obtain ⟨va, out⟩ := r
  cases out with
  | miss => simp only [State.afterIssue, hfault, hq]
  | gone _ | fault _ _ | reject _ | wait => rfl

end

/-! ### The obligation -/

/-- Settles O20: the head of the order is taken by its kind, and an access by what its issue comes to; the offset advances dimension 0
and carries into the others. -/
theorem streamsIssueInOrder : Obligations.StreamsIssueInOrder := by
  unfold Obligations.StreamsIssueInOrder
  refine ⟨?_, fun t x => ⟨rfl, rfl, rfl, fun h0 => ⟨?_, fun h1 => ?_⟩, fun h0 h1 => ⟨?_, ?_⟩, fun h0 h1 => ⟨?_, ?_⟩⟩⟩
  intro s rs t hfault hparked hup
  refine ⟨?_, ?_⟩
  · intro m v f el q hq hport hf t1
    exact ⟨fun hbase => execStreamAccessIssue_cfg (named := none) hfault hparked hup hq hport hf (ite_eq_right_iff.2 hbase),
      fun u ok hm hbase => execStreamAccessIssue_cfg (named := some (u, ok)) hfault hparked hup hq hport hf ((if_pos hm).trans hbase)⟩
  · intro id kind scope word idx data cmp ret f rg q hq hmay hf hissued i noted
    have hexec {r : W64 × Issued} (hhead : s.issueHead rs i idx = r) :=
      execStreamAccessIssue_acc hfault hparked hup hq hmay hf hissued rfl hhead
    refine ⟨fun va u hkind hhead => (hexec hhead).trans (if_neg hkind), fun va hhead => hexec hhead,
      fun va c keep hkind hhead => (hexec hhead).trans (if_neg fun h => hkind h.1), fun va u hkind hhead hscr => ?_⟩
    refine (hexec hhead).trans ((if_pos hkind).trans ?_)
    rw [hscr]
  · simp only [Strm.offset, if_neg h0]
  · simp only [Strm.offset, if_neg h0, if_neg h1]
  · simp only [Strm.offset, if_pos h0]
  · simp only [Strm.offset, if_pos h0, if_neg h1]
  · simp only [Strm.offset, if_pos h0]
  · simp only [Strm.offset, if_pos h0, if_pos h1]

end Sys2Proof.Machine
end

section
/-! CERTIFICATE. Accesses reach their home (R106, R116, R126, R371). -/
namespace Sys2Proof.Machine
open Sys2Proof

/-! ### Addresses and records -/

/-- With no new record there is none to give an owner. -/
theorem State.blame_of_det {s t : State} (h : t.det = s.det) (rg : Nat) : t.blame s.det.length rg = t := by
  simp [State.blame, ← h]

/-- A write makes no record. -/
theorem State.det_writeBytes (s : State) (pa : Nat) (bs : List Byte) : (s.writeBytes pa bs).det = s.det := by
  rw [State.writeBytes_eq]

/-- A load is not staged (R163). -/
theorem Access.irrevocable_of_load {a : Access} {sx : Bool} (h : a.kind = .load sx) : a.irrevocable = false := by
  simp [Access.irrevocable, h]

/-- A store to memory that is neither the host's nor irrevocable is not staged (R163). -/
theorem Access.irrevocable_of_device {a : Access} (hhost : paSpace a.pa ≠ 1) (hirv : a.irv = false) : a.irrevocable = false := by
  simp [Access.irrevocable, hhost, hirv]

section
variable {s : State} {ac : Nat} {a : Access}

/-! ### At an HBM stack -/

/-- A frame that does not migrate takes an access as it comes (R145). -/
theorem State.atFrame_of_still (h : s.migState (s.backing a.pa false) = 0) : s.atFrame ac a = none := by
  simp [State.atFrame, h]

section
variable (hstill : s.migState (s.backing a.pa false) = 0) (harea : s.inArea (s.backing a.pa false) a.size = false)
  (hsound : s.poisoned (s.backing a.pa false) = false) (hprot : a.prot = false)
include hstill harea hsound hprot

theorem State.atHbm_load {sx : Bool} (hkind : a.kind = .load sx) : s.atHbm ac a = s.reach ac a := by
  simp [State.atHbm, State.atFrame_of_still hstill, harea, hsound, hprot, hkind]

theorem State.atHbm_store {dl : Bool} (hkind : a.kind = .store dl) (hplain : a.irrevocable = false) : s.atHbm ac a = s.storeAtHome ac a := by
  simp [State.atHbm, State.atFrame_of_still hstill, harea, hsound, hprot, hkind, hplain]
end

/-- A store whose write is performed counts as performed. -/
theorem State.storeAtHome_of_ok {t : State} (hirv : a.irv = false) (hprot : a.prot = false)
    (hwrite : s.homeWrite (s.backing a.pa false) (.set a.data) a.tag false none ac (figOf a.rg) = .ok t) :
    s.storeAtHome ac a = (t.setAcc ac { a with phase := .performed }).blame s.det.length a.rg := by
  have hgrp : a.grp = none := by rw [Access.grp, hprot]; rfl
  simp only [State.storeAtHome, hirv, hgrp, hwrite, State.afterWrite]

/-! ### The step -/

/-- An access of this package, or over a link, does not leave. -/
theorem Access.not_leaves (hthere : paPkg a.pa = (s.region a.rg).pk ∨ a.link.isSome = true) :
    ¬(a.scr.isNone = true ∧ paPkg a.pa ≠ (s.region a.rg).pk ∧ a.link.isNone = true) := by
  rintro ⟨-, haway, hnone⟩
  obtain hown | hlink := hthere
  · exact haway hown
  · rw [Option.isNone_iff_eq_none.1 hnone] at hlink
    cases hlink

section
variable (hacc : s.acc ac = some a) (hsent : a.phase = .sent) (hback : s.heldBack a = false)
include hacc hsent hback

theorem exec_accessAtHome_leaves (hscr : a.scr = none) (haway : paPkg a.pa ≠ (s.region a.rg).pk) (hlink : a.link = none) :
    exec (.accessAtHome ac) s = .next (s.leave ac a) := by
  show execAccessAtHome ac s = _
  simp [execAccessAtHome, hacc, hsent, hback, hscr, haway, hlink]

/-- A scratchpad access in place stands at its bank (R116). -/
theorem exec_accessAtHome_scratchpad {mp n addr : Nat} {ip : Bool} (hscr : a.scr = some (mp, n, addr, ip))
    (hpart : s.ms.parts.get none (mp * 8 + n) = none) (hplace : s.sppCause mp n addr = none) :
    let m := sppMap (s.spp mp n) addr
    exec (.accessAtHome ac) s = .next (s.reach ac { a with pa := scrPA (mp / 16) (mp % 16 * 2 ^ 26 + m.1 * 2 ^ 20 + m.2) }) := by
  intro m
  show execAccessAtHome ac s = _
  simp [execAccessAtHome, hacc, hsent, hback, hscr, State.atPartition, hpart, hplace, m]

section
variable (hscr : a.scr = none) (hbase : a.base = none) (hthere : paPkg a.pa = (s.region a.rg).pk ∨ a.link.isSome = true)
include hscr hbase hthere

theorem exec_accessAtHome_hbm (hspace : paSpace a.pa = 0) : exec (.accessAtHome ac) s = .next (s.atHbm ac a) := by
  show execAccessAtHome ac s = _
  simp only [execAccessAtHome, hacc, hsent, hback, Bool.false_eq_true, if_false]
  rw [if_neg (Access.not_leaves hthere)]
  simp only [hscr, hbase, hspace, if_true]

theorem exec_accessAtHome_load {sx : Bool} (hkind : a.kind = .load sx) (hspace : 2 ≤ paSpace a.pa) (hprot : a.prot = false) :
    exec (.accessAtHome ac) s = .next (s.reach ac a) := by
  have hhbm : paSpace a.pa ≠ 0 := by omega
  have hhost : paSpace a.pa ≠ 1 := by omega
  show execAccessAtHome ac s = _
  simp only [execAccessAtHome, hacc, hsent, hback, Bool.false_eq_true, if_false]
  rw [if_neg (Access.not_leaves hthere)]
  simp [hscr, hbase, hhbm, hhost, hprot, hkind, Access.irrevocable_of_load hkind]

theorem exec_accessAtHome_store {dl : Bool} (hkind : a.kind = .store dl) (hspace : 2 ≤ paSpace a.pa) (hirv : a.irv = false)
    (hprot : a.prot = false) :
    exec (.accessAtHome ac) s = .next ((s.writeBytes a.pa a.data).setAcc ac { a with phase := .performed }) := by
  have hhbm : paSpace a.pa ≠ 0 := by omega
  have hhost : paSpace a.pa ≠ 1 := by omega
  show execAccessAtHome ac s = _
  simp only [execAccessAtHome, hacc, hsent, hback, Bool.false_eq_true, if_false]
  rw [if_neg (Access.not_leaves hthere)]
  simp [hscr, hbase, hhbm, hhost, hprot, hkind, State.hostWaits, Access.irrevocable_of_device hhost hirv]
end
end
end

/-! ### The obligation -/

/-- Settles O22: an access leaves, or comes to its memory outside HBM, to its stack, or to its bank. -/
theorem accessesReachTheirHome : Obligations.AccessesReachTheirHome := by
  unfold Obligations.AccessesReachTheirHome
  intro s ac a hacc hsent hback
  refine ⟨exec_accessAtHome_leaves hacc hsent hback, fun hscr hbase hthere => ?memory,
    fun mp n addr ip hscr hpart hplace => exec_accessAtHome_scratchpad hacc hsent hback hscr hpart hplace⟩
  case memory =>
    intro pa
    refine ⟨fun sx => exec_accessAtHome_load hacc hsent hback hscr hbase hthere,
      fun dl => exec_accessAtHome_store hacc hsent hback hscr hbase hthere, fun hspace hstill harea hsound hprot => ?hbm⟩
    have hexec := exec_accessAtHome_hbm hacc hsent hback hscr hbase hthere hspace
    have hstores {dl : Bool} (hkind : a.kind = .store dl) (hirv : a.irv = false) : s.atHbm ac a = s.storeAtHome ac a :=
      State.atHbm_store hstill harea hsound hprot hkind (Access.irrevocable_of_device (by omega) hirv)
    refine ⟨fun sx hkind => ?_, fun dl hkind hirv htag hlines => ?_, fun dl t hkind hirv hwrite => ?_⟩
    · rw [hexec, State.atHbm_load hstill harea hsound hprot hkind]
    · have hwrite := State.homeWrite_untagged (u := .set a.data) false ac (figOf a.rg) hlines
      rw [hexec, hstores hkind hirv, State.storeAtHome_of_ok hirv hprot (htag ▸ hwrite)]
      refine congrArg _ (State.blame_of_det (s := s) ?_ a.rg)
      exact State.det_writeBytes s pa a.data
    · rw [hexec, hstores hkind hirv, State.storeAtHome_of_ok hirv hprot hwrite]

end Sys2Proof.Machine
end

section
/-! CERTIFICATE. Translations, partitions, migrated frames and stacks are maintained (R110, R115, R117, R145, R154, R436, R441). -/
namespace Sys2Proof.Machine
open Sys2Proof

/-! ### Partitions (R117) -/

section
variable {s : State} {mp n : Nat}

/-- A write of SPPn that changes the mapping takes the entry until the accesses before it have left its banks. -/
theorem exec_sppWrite {v : W64} {k : Nat} (hidle : s.ms.parts.get none (mp * 8 + n) = none)
    (h : s.Accepts (mp / 16) (0x41000 + 64 * (mp % 16) + 8 * n) v .spp k) (hchange : s.spp mp n ≠ v) :
    ∃ t, exec (.sppWrite mp n v) s = .next t ∧ t.spp mp n = v ∧ (t.ms.parts.get none (mp * 8 + n)).isSome = true ∧ SameMem s t := by
  have htaken : RKind.spp.accept (s.spp mp n) v = v := by
    rw [RKind.accept, show RKind.spp.ro = 0#64 from rfl, BitVec.and_zero, BitVec.zero_or, BitVec.not_zero, BitVec.and_allOnes]
  let u := s.setReg (mp / 16) (0x41000 + 64 * (mp % 16) + 8 * n) v
  let covered := (if (s.spp mp n).getLsbD 11 then [sppBanks (s.spp mp n)] else []) ++ (if v.getLsbD 11 then [sppBanks v] else [])
  refine ⟨({ u with ms := { u.ms with parts := u.ms.parts.put none (mp * 8 + n) (some (covered, u.fl.next)) } }).bump,
    ?step, ?reads, ?taken, fun _ => rfl⟩
  case step =>
    show Host.Outcome.next (s.sppWrite mp n v) = _
    rw [State.sppWrite, if_neg (by simp [hidle]), State.windowWrite_accepted _ _ _ _ _ _ _ h.on h.reg h.rsv h.good h.free]
    dsimp only
    rw [show RKind.spp.accept (s.reg (mp / 16) (0x41000 + 64 * (mp % 16) + 8 * n)) v = v from htaken]
    exact congrArg _ (if_neg (Ne.symm hchange))
  case reads => exact State.reg_setReg_same s _ _ v (by omega)
  case taken => exact (congrArg Option.isSome (FMap.get_put ..)).trans (by simp)

theorem exec_partitionEntryRelease {banks : List (Nat × Nat)} {op : Nat} (htaken : s.ms.parts.get none (mp * 8 + n) = some (banks, op))
    (hleft : ∀ a ∈ s.fl.accs, a.1 < op → a.2.phase = .home → a.2.scr = none) :
    exec (.partitionEntryRelease mp n) s = .next { s with ms := { s.ms with parts := s.ms.parts.put none (mp * 8 + n) none } } := by
  show execPartitionEntryRelease mp n s = _
  simp only [execPartitionEntryRelease, htaken]
  refine if_neg fun hany => ?_
  obtain ⟨a, ha, h⟩ := List.any_eq_true.1 hany
  obtain ⟨hbefore, hbank⟩ := Bool.and_eq_true_iff.1 h
  obtain ⟨hop, hhome⟩ := of_decide_eq_true hbefore
  rw [hleft a ha hop hhome] at hbank
  cases hbank
end

/-! ### Invalidation (R110) -/

section
variable {s : State} {pk : Nat}

theorem exec_tlbivGo {v : W64} (hidle : (s.reg pk 0x10000).getLsbD 15 = false) (hgo : v.getLsbD 14 = true) (hon : s.windowOn pk = true)
    (hrsv : v &&& RKind.tlbiv.rsv = 0) (hgood : RKind.tlbiv.bad (s.reg pk 0x10000) v = false)
    (hfree : s.writeAllowed pk .tlbiv 0 0x10000 v = true) :
    ∃ t, exec (.tlbivGo pk v) s = .next t ∧ (t.reg pk 0x10000).getLsbD 15 = true ∧ (t.ms.inval.get none pk).isSome = true := by
  let w := RKind.tlbiv.accept (s.reg pk 0x10000) v
  let u := s.setReg pk 0x10000 (w ||| 0x8000)
  refine ⟨{ u with ms := { u.ms with inval := u.ms.inval.put none pk (some ((u.reg pk 0x10008).toNat % 2 ^ 57)) } }, ?step, ?busy, ?taken⟩
  case step =>
    show Host.Outcome.next (s.tlbivWrite pk v) = _
    rw [State.tlbivWrite, if_neg (Bool.eq_false_iff.1 hidle), State.windowWrite_accepted s pk 0x10000 v _ .tlbiv 0 hon rfl hrsv hgood hfree]
    exact congrArg _ (if_pos hgo)
  case busy =>
    show (u.reg pk 0x10000).getLsbD 15 = true
    rw [State.reg_setReg_same s pk _ _ (by decide), BitVec.getLsbD_or]
    exact Bool.or_true _
  case taken => exact (congrArg Option.isSome (FMap.get_put ..)).trans (by simp)

/-- The translations of a package that an invalidation leaves in its caches (R110). -/
theorem mem_cleaned {m : FMap (List Xlat)} {per : Nat} {hit : Xlat → Bool} {l : Nat × List Xlat}
    (hl : l ∈ (m.map fun p => if p.1 / per / 16 = pk then (p.1, p.2.filter fun x => !hit x) else p).filter fun p => !p.2.isEmpty)
    (hpk : l.1 / per / 16 = pk) : ∀ x ∈ l.2, hit x = false := by
  obtain ⟨p, -, rfl⟩ := List.mem_map.1 (List.mem_filter.1 hl).1
  by_cases hp : p.1 / per / 16 = pk
  · rw [if_pos hp]
    exact fun x hx => by simpa using (List.mem_filter.1 hx).2
  · rw [if_neg hp] at hpk
    exact absurd hpk hp

theorem exec_invalidationComplete {va : Nat} (hinval : s.ms.inval.get none pk = some va) :
    let r := s.reg pk 0x10000
    ∃ t, exec (.invalidationComplete pk) s = .next t ∧ t.reg pk 0x10000 = r &&& ~~~(0x8000 : W64) ∧ t.ms.inval.get none pk = none
      ∧ ∀ l ∈ t.ms.tlb2, l.1 / 16 = pk → ∀ x ∈ l.2, x.hit (r.toNat % 4) (field r 2 12) va = false := by
  intro r
  have hstep : ∃ u : State, exec (.invalidationComplete pk) s = .next (u.setReg pk 0x10000 (r &&& ~~~(0x8000 : W64)))
      ∧ u.ms.inval = s.ms.inval.put none pk none
      ∧ u.ms.tlb2 = (s.ms.tlb2.map fun p => if p.1 / 1 / 16 = pk then (p.1, p.2.filter fun x => !(x.hit (r.toNat % 4) (field r 2 12) va)) else p).filter
        fun p => !p.2.isEmpty := by
    show ∃ u : State, execInvalidationComplete pk s = _ ∧ _
    simp only [execInvalidationComplete, hinval]
    refine ⟨_, rfl, ?_, ?_⟩
    · exact foldl_keeps (fun u : State => u.ms.inval) _ _ _ fun u p => keeps_ite (p := fun u => u.ms.inval) rfl rfl
    · exact foldl_keeps (fun u : State => u.ms.tlb2) _ _ _ fun u p => keeps_ite (p := fun u => u.ms.tlb2) rfl rfl
  obtain ⟨u, hexec, hover, htlb⟩ := hstep
  refine ⟨_, hexec, State.reg_setReg_same u pk _ _ (by decide), ?_, fun l hl hpk => ?_⟩
  · show u.ms.inval.get none pk = none
    rw [hover, FMap.get_put, if_pos rfl]
  · refine mem_cleaned (pk := pk) (per := 1) (m := s.ms.tlb2) (l := l) ?_ (by rwa [Nat.div_one])
    exact htlb ▸ hl
end

/-! ### Migration (R145) -/

section
variable {s : State} {pk n : Nat}

/-- Bits 2:1 of a register as a number. -/
theorem bits_two_one_eq_extract (v : W64) : v.toNat / 2 % 4 = (v.extractLsb' 1 2).toNat := by
  simp [BitVec.extractLsb'_toNat, Nat.shiftRight_eq_div_pow]

/-- STATE of MVFn is read-only: a write leaves it (Table 15.6). -/
theorem mvf_state_accept (old v : W64) : (RKind.mvf.accept old v).toNat / 2 % 4 = old.toNat / 2 % 4 := by
  rw [bits_two_one_eq_extract, bits_two_one_eq_extract]
  refine congrArg BitVec.toNat ?_
  ext i hi
  have hro : RKind.mvf.ro.getLsbD (1 + i) = true := by
    obtain rfl | rfl : i = 0 ∨ i = 1 := by omega
    · decide
    · decide
  simp [RKind.accept, hro]

/-- A write of MVFn sets V. -/
theorem mvf_valid_accept {old v : W64} (h : v.getLsbD 0 = true) : (RKind.mvf.accept old v).getLsbD 0 = true := by
  rw [RKind.accept, BitVec.getLsbD_or, BitVec.getLsbD_and, BitVec.getLsbD_and, BitVec.getLsbD_not, h, show RKind.mvf.ro.getLsbD 0 = false by decide]
  simp

theorem exec_mvfGo {v : W64} (h : s.Accepts pk (0x21000 + 16 * n) v .mvf n) (hvalid : v.getLsbD 0 = true) (hgo : v.getLsbD 5 = true)
    (hidle : (s.reg pk (0x21000 + 16 * n)).toNat / 2 % 4 = 0) :
    exec (.mvfGo pk n v) s
      = .next (s.setReg pk (0x21000 + 16 * n) (((s.reg pk (0x21000 + 16 * n) &&& RKind.mvf.ro) ||| (v &&& ~~~RKind.mvf.ro)) ||| 2)) := by
  have hstill := (mvf_state_accept (s.reg pk (0x21000 + 16 * n)) v).trans hidle
  show Host.Outcome.next (s.mvfWrite pk n v) = _
  rw [State.mvfWrite, State.windowWrite_accepted s pk _ v _ _ _ h.on h.reg h.rsv h.good h.free]
  dsimp only
  rw [if_neg (by simp [mvf_valid_accept hvalid]), if_pos ⟨hgo, decide_eq_true hstill⟩]
  rfl

theorem exec_migrationCopyDone {t u : State} {bs : List Byte} :
    let v := s.reg pk (0x21000 + 16 * n)
    let sz := 2 ^ ([12, 16, 21, 12].getD (v.toNat / 8 % 4) 12)
    let dst := pageOf (s.reg pk (0x21000 + 16 * n + 8))
    let key := 2 * (16 * pk + n)
    v.getLsbD 0 = true → v.toNat / 2 % 4 = 1 → s.mayGo pk key = true → s.readBytes (pageOf v / sz * sz) sz = (t, bs, false) →
    t.homeWrite dst (.set bs) (s.tagOr pk dst (keptTag (s.ms.kept.get none key))) false (t.groupAt dst) t.fl.next 0 = .ok u →
    exec (.migrationCopyDone pk n) s = .next ((u.setReg pk (0x21000 + 16 * n) ((v &&& ~~~(6 : W64)) ||| 4)).setKept key none) := by
  intro v sz dst key hvalid hcopying hgo hread hwrite
  show execMigrationCopyDone pk n s = _
  unfold execMigrationCopyDone
  extract_lets
  rw [if_pos ⟨hvalid, hcopying, hgo⟩, show s.readBytes _ _ = _ from hread]
  dsimp only
  rw [if_neg Bool.false_ne_true, show t.homeWrite _ _ _ _ _ _ _ = _ from hwrite]
end

/-! ### Stacks (R115, R154, R436, R441) -/

section
variable {s : State} {sk : Nat}

theorem State.stack_setStack_same (s : State) (sk : Nat) (x : Stack) : (s.setStack sk x).stack sk = x := by
  rw [State.stack_setStack, if_pos rfl]

/-- A refresh is pulled forward within the allowance, or pays one back (R441). -/
theorem exec_hbmRefresh (bank : Nat) :
    let v := s.reg (sk / 16) (0x40000 + 8 * (sk % 16))
    let n := (s.stack sk).pulled.get 0 bank
    let most := v.toNat / 2 % 16
    let owes := (s.stack sk).repay.get false bank
    ∃ t, exec (.hbmRefresh sk bank) s = .next t
      ∧ (t.stack sk).pulled.get 0 bank = (if v.getLsbD 0 = true ∧ v.getLsbD 5 = true ∧ n < most ∧ owes = false then n + 1 else n - 1)
      ∧ (0 < n - 1 → owes = true → (t.stack sk).repay.get false bank = true) ∧ SameMem s t := by
  intro v n most owes
  refine ⟨_, rfl, ?_, fun hleft howes => ?_, fun _ => rfl⟩
  · rw [State.stack_setStack_same, FMap.get_put, if_pos rfl]
  · rw [State.stack_setStack_same, FMap.get_put, if_pos rfl, if_neg fun h => absurd (howes.symm.trans h.2.2.2) (by decide)]
    exact Bool.and_eq_true_iff.2 ⟨decide_eq_true hleft, Bool.or_eq_true_iff.2 (.inr howes)⟩

/-- A row's activations count to its threshold (R436). -/
theorem exec_rowActivationRefresh {bank row : Nat} :
    let k := bank % 1024 * 65536 + row % 65536
    let n := ((s.stack sk).rows.get 0 k).toNat
    let thr := (s.reg (sk / 16) (0x40080 + 8 * (sk % 16))).toNat % 4096
    n + 1 < 4095 ∨ thr = 4095 → s.ms.errs.get none (2 ^ 62 + sk * 2 ^ 26 + k) = none →
    ∃ t, exec (.rowActivationRefresh sk bank row) s = .next t ∧ ((t.stack sk).rows.get 0 k).toNat = (if thr ≤ n + 1 then 0 else n + 1) := by
  intro k n thr hcount hmark
  have hn : n < 4096 := BitVec.isLt _
  show ∃ t, execRowActivationRefresh sk bank row s = _ ∧ _
  unfold execRowActivationRefresh
  extract_lets +onlyGivenNames mark u x off v m corrupt
  have hu : u = s := if_neg (by rw [show s.ms.errs.get none mark = none from hmark]; decide)
  clear_value u
  subst hu
  have hplain : ¬((m = 4095 ∧ v.toNat % 4096 ≠ 4095) ∨ corrupt = true) := by
    rintro (⟨hmost, hthr⟩ | hcorrupt)
    · have : min 4095 (n + 1) = 4095 := hmost
      have : thr ≠ 4095 := hthr
      omega
    · have := of_decide_eq_true hcorrupt
      rw [show u.ms.errs.get none mark = none from hmark] at this
      cases this
  rw [if_neg hplain]
  by_cases hthr : thr ≤ n + 1
  · have hfull : v.toNat % 4096 ≤ m := show thr ≤ min 4095 (n + 1) by omega
    refine ⟨_, if_pos hfull, ?_⟩
    rw [State.stack_setStack_same, FMap.get_put, if_pos rfl, if_pos hthr]
    rfl
  · have hbelow : ¬v.toNat % 4096 ≤ m := show ¬thr ≤ min 4095 (n + 1) by omega
    refine ⟨_, if_neg hbelow, ?_⟩
    have hm : m = n + 1 := show min 4095 (n + 1) = n + 1 by omega
    rw [State.stack_setStack_same, FMap.get_put, if_pos rfl, if_neg hthr, hm, BitVec.toNat_ofNat]
    omega

/-- A line that bears no mark is as it is. -/
theorem State.scrubLine_of_unmarked {line : Nat} (h : ∀ u ∈ unitsOf line 64, s.ms.errs.get none u = none) : s.scrubLine line = s := by
  have hsound : s.damagedIn line 64 = false := by
    have hnone : (unitsOf line 64).any (fun u => (s.ms.errs.get none u).isSome) = false := List.any_eq_false.2 fun u hu => by simp [h u hu]
    rw [State.damagedIn, hnone, Bool.false_and]
  simp only [State.scrubLine, State.correct_of_unmarked h, hsound]
  exact if_neg Bool.false_ne_true

/-- The sweep forgets every tag where it finds the stack marked, else those of intervals long closed (R154). -/
theorem exec_ltagSweep :
    ∃ t, exec (.ltagSweep sk) s = .next t ∧ (t.stack sk).sweep = false ∧ ((s.stack sk).sweep = true → (t.stack sk).ltag = []) ∧ SameMem s t := by
  show ∃ t, execLtagSweep sk s = _ ∧ _
  unfold execLtagSweep
  by_cases hsweep : (s.stack sk).sweep = true
  · refine ⟨_, if_pos hsweep, ?_, fun _ => ?_, fun _ => rfl⟩
    · rw [State.stack_setStack_same]
    · rw [State.stack_setStack_same]
  · refine ⟨_, if_neg hsweep, ?_, fun h => absurd h hsweep, fun _ => rfl⟩
    rw [State.sweepTags, State.stack_setStack_same]
    exact Bool.eq_false_iff.2 hsweep
end

/-! ### The obligation -/

/-- Settles O29, step by step. -/
theorem mappingsAndStacksAreMaintained : Obligations.MappingsAndStacksAreMaintained := by
  unfold Obligations.MappingsAndStacksAreMaintained
  refine ⟨fun s => ⟨fun mp n v k hidle _ h hchange => exec_sppWrite hidle h hchange, fun mp n v hbusy => congrArg _ (if_pos hbusy),
    fun mp n banks op htaken hleft => exec_partitionEntryRelease htaken hleft, fun pk v hidle hgo hon hrsv hgood hfree =>
      exec_tlbivGo hidle hgo hon hrsv hgood hfree, fun pk v hbusy => congrArg _ (if_pos hbusy), fun pk va hinval =>
      exec_invalidationComplete hinval, fun pk n v h hvalid hgo hidle => exec_mvfGo h hvalid hgo hidle,
    fun pk n t bs u hvalid hcopying hopen hkept => ?copied, fun dst bs op hlines => State.homeWrite_untagged (u := .set bs) false op 0 hlines⟩,
    fun s sk => ⟨fun bank => exec_hbmRefresh bank, fun bank row => exec_rowActivationRefresh, fun line => rfl,
      fun line => State.scrubLine_of_unmarked, exec_ltagSweep⟩⟩
  case copied => exact exec_migrationCopyDone hvalid hcopying (by simp [State.mayGo, hkept, hopen])

end Sys2Proof.Machine
end

section
/-! CERTIFICATE. Base-slice programs multiply and deliver (R118, R314 to R316). -/
namespace Sys2Proof.Machine
open Sys2Proof

section
variable {s : State} {w : MWord}

/-! ### Dots of blocks (R314, R315) -/

/-- A vector that is short of its row takes the activation word at the head of the operand input. -/
theorem exec_bgmv_takes {t : Token} {ts : List Token} (hruns : s.multRuns s.act.el = true)
    (hshort : (s.mult s.act.el).buf.length < 32 * (s.bmd (s.act.el / 64) (w.opx.toNat % 64)).2.1)
    (hopq : (s.mx (128 * multStripe s.act.el + 64)).opq = t :: ts) :
    let m := s.act.el
    let el := 128 * multStripe m + 64
    let b := (s.mult m).buf ++ [(t.payload, t.et)]
    exec (.bgmv w) s = .next ((s.setMx el { s.mx el with opq := ts }).setMult m { s.mult m with
      buf := b, full := if b.length = 32 * (s.bmd (m / 64) (w.opx.toNat % 64)).2.1 then s.cyc else (s.mult m).full }) := by
  intro m el b
  show execBgmv w s = _
  simp only [execBgmv, hruns, Bool.true_eq_false, if_false, if_pos hshort, hopq]
  rfl

/-- The address of the block that a multiplier works on (R315). -/
def State.blockAt (s : State) (w : MWord) : Nat :=
  let m := s.act.el
  let x := s.mult m
  let d := s.bmd (m / 64) (w.opx.toNat % 64)
  d.1 + 128 * (x.row * d.2.1 + x.blk)

/-- The bytes of the block stand where the stack's page has gone (R145, R440). -/
def State.blockRow (s : State) (w : MWord) : Nat := s.movedTo (s.backing (stackPA (s.act.el / 64) (s.blockAt w)) false)

/-- The dot of a block whose bytes are `v`, and its taint. -/
def State.dotOf (s : State) (w : MWord) (v : List Byte) (bad : Bool) : W32 × Bool :=
  let x := s.mult s.act.el
  let act := (x.buf.drop (32 * x.blk)).take 32
  (blockDot w.fmt.toNat (act.map Prod.fst) (blockWords v), bad || act.any Prod.snd)

/-- A multiplier can make its next dot: its row is full and 96 cycles old, and the block is in the stack, whole, sound and at rest. -/
structure State.DotReady (s : State) (w : MWord) (u : State) (v : List Byte) (bad : Bool) : Prop where
  runs : s.multRuns s.act.el = true
  full : 32 * (s.bmd (s.act.el / 64) (w.opx.toNat % 64)).2.1 ≤ (s.mult s.act.el).buf.length
  inside : s.blockAt w + 128 ≤ 2 ^ 36
  outside : s.inArea (stackPA (s.act.el / 64) (s.blockAt w)) 128 = false
  old : (s.mult s.act.el).full + 96 ≤ s.cyc
  still : s.migState (s.backing (stackPA (s.act.el / 64) (s.blockAt w)) false) ≠ 1
  sound : s.poisoned (s.blockRow w) = false
  read : s.readBytes (s.blockRow w) 128 = (u, v, bad)

section
variable {u : State} {v : List Byte} {bad : Bool} (h : s.DotReady w u v bad)
include h

/-- What a multiplier does with its next dot. -/
theorem State.DotReady.exec_bgmv :
    let m := s.act.el
    let x := s.mult m
    let el := 128 * multStripe m + 64
    let d := s.bmd (m / 64) (w.opx.toNat % 64)
    let dot := s.dotOf w v bad
    exec (.bgmv w) s =
      if decide ((s.multRec m).words.get 0 1 ≠ 0) = false ∧ mxRoom s el (s.destOf el w.dtgt) = false then .next s
      else if decide ((s.multRec m).words.get 0 1 ≠ 0) then
        .next (u.setMult m { x with blk := x.blk + 1, parts := x.parts ++ [dot], wpos := if x.blk + 1 = d.2.1 then 1 else 0 })
      else .next ((multEmit u m w 0 dot.1 dot.2).setMult m
        (if x.blk + 1 = d.2.1 then ({ x with blk := x.blk + 1 } : Mult).nextRow d.2.2 w.cnt.toNat else { x with blk := x.blk + 1 })) := by
  intro m x el d dot
  have hinside : ¬(2 ^ 36 < s.blockAt w + 128 ∨ s.inArea (stackPA (s.act.el / 64) (s.blockAt w)) 128 = true) := by
    rintro (hout | hparity)
    · exact Nat.not_lt.2 h.inside hout
    · exact absurd (h.outside.symm.trans hparity) (by decide)
  have hnow : ¬(s.cyc < x.full + 96 ∨ s.migState (s.backing (stackPA (s.act.el / 64) (s.blockAt w)) false) = 1) := by
    rintro (hyoung | hcopying)
    · exact Nat.not_lt.2 h.old hyoung
    · exact h.still hcopying
  show execBgmv w s = _
  unfold execBgmv
  dsimp only
  rw [show s.bmd (s.act.el / 64) (w.opx.toNat % 64) = (d.1, d.2.1, d.2.2) from rfl]
  dsimp only
  rw [if_neg (by simp [h.runs]), if_neg (Nat.not_lt.2 h.full)]
  refine (if_neg hinside).trans ((if_neg hnow).trans ((if_neg (Bool.eq_false_iff.1 h.sound)).trans ?_))
  rw [show s.readBytes (s.movedTo (s.backing (stackPA (s.act.el / 64) (d.1 + 128 * ((s.mult s.act.el).row * d.2.1 + (s.mult s.act.el).blk)))
    false)) 128 = (u, v, bad) from h.read]
  rfl

/-- With a second word in the program a dot joins the row's partials (R315). -/
theorem State.DotReady.exec_bgmv_keeps (hred : (s.multRec s.act.el).words.get 0 1 ≠ 0) :
    let m := s.act.el
    let x := s.mult m
    exec (.bgmv w) s = .next (u.setMult m { x with
      blk := x.blk + 1, parts := x.parts ++ [s.dotOf w v bad], wpos := if x.blk + 1 = (s.bmd (m / 64) (w.opx.toNat % 64)).2.1 then 1 else 0 }) := by
  intro m x
  rw [h.exec_bgmv, if_neg (fun hwait => absurd hred (of_decide_eq_false hwait.1)), if_pos (decide_eq_true hred)]

/-- Without one it leaves at once (R315). -/
theorem State.DotReady.exec_bgmv_emits (hred : (s.multRec s.act.el).words.get 0 1 = 0)
    (hroom : mxRoom s (128 * multStripe s.act.el + 64) (s.destOf (128 * multStripe s.act.el + 64) w.dtgt) = true) :
    let m := s.act.el
    let x := s.mult m
    let d := s.bmd (m / 64) (w.opx.toNat % 64)
    exec (.bgmv w) s = .next ((multEmit u m w 0 (s.dotOf w v bad).1 (s.dotOf w v bad).2).setMult m
      (if x.blk + 1 = d.2.1 then ({ x with blk := x.blk + 1 } : Mult).nextRow d.2.2 w.cnt.toNat else { x with blk := x.blk + 1 })) := by
  intro m x d
  rw [h.exec_bgmv, if_neg (fun hwait => absurd (hroom.symm.trans hwait.2) (by decide)), if_neg fun hkeeps => absurd hred (of_decide_eq_true hkeeps)]
end

/-! ### Partials of a row (R316) -/

/-- The partials of a row leave as the roots of their trees, and the multiplier goes on to its next row behind the last. -/
theorem exec_bred {op : MOp} {g : MWord} (hruns : s.multRuns s.act.el = true)
    (hword : mwordOf ((s.multRec s.act.el).words.get 0 0) = some (op, g)) (hpos : (s.mult s.act.el).wpos = 1)
    (hroom : mxRoom s (128 * multStripe s.act.el + 64) (s.destOf (128 * multStripe s.act.el + 64) w.dtgt) = true) :
    let m := s.act.el
    let x := s.mult m
    let k := w.opx.toNat % 32
    let seg := x.parts.take (2 ^ k)
    let rest := x.parts.drop (2 ^ k)
    let root := treeOf (if w.fmt = 4 then fun a b => a + b else combine 0 0) k (seg.map Prod.fst)
    exec (.bred w) s = .next ((multEmit s m w 1 root (seg.any Prod.snd)).setMult m
      (if rest.isEmpty then x.nextRow (s.bmd (m / 64) (g.opx.toNat % 64)).2.2 g.cnt.toNat else { x with parts := rest })) := by
  intro m x k seg rest root
  show execBred w s = _
  have hgo : ¬(s.multRuns s.act.el = false ∨ (s.mult s.act.el).wpos ≠ 1
      ∨ mxRoom s (128 * multStripe s.act.el + 64) (s.destOf (128 * multStripe s.act.el + 64) w.dtgt) = false) := by
    simp [hruns, hpos, hroom]
  simp only [execBred, hword, if_neg hgo]
  rfl

/-! ### Delivery (R118) -/

/-- The output of a program reaches the load that it serves. -/
theorem exec_baseNodeStreamDelivery {rs id sk n : Nat} {a : Access} {tok : Token} {rest : List Token} (haccs : s.fl.accs = [(id, a)])
    (hrs : a.rs = some rs) (hbase : a.base = some (sk, n)) (hkind : a.kind = .load false)
    (hfifo : (s.port (16 * (baseRing + 64 * sk + n))).fifo = tok :: rest) (hhome : a.phase = .home) (hfirst : a.emitted = 0)
    (hcycle : a.minAt ≤ s.cyc) :
    let p := 16 * (baseRing + 64 * sk + n)
    exec (.baseNodeStreamDelivery rs) s = .next ((s.setPort p { s.port p with fifo := rest }).emitLoad id
      { a with phase := .performed, value := a.value ++ leBytes (min 4 a.size) tok.payload.toNat, ret := { a.ret with taint := a.ret.taint || tok.et } }) := by
  intro p
  show execBaseNodeStreamDelivery rs s = _
  -- the only load in flight is the oldest, and its first token has its place reserved, at a port or at its targets
  cases hport : a.toPort <;> simp [execBaseNodeStreamDelivery, haccs, hrs, hbase, hkind, hfifo, hhome, hfirst, hcycle, hport, p]
end

/-! ### The obligation -/

/-- Settles O32: a word taken, a dot made, a row's partials combined, an output delivered. -/
theorem baseSlicesMultiply : Obligations.BaseSlicesMultiply := by
  unfold Obligations.BaseSlicesMultiply
  intro s w m x el d hruns
  refine ⟨fun t ts hshort hopq => exec_bgmv_takes hruns hshort hopq, ?dot, fun op g hword hpos hroom => exec_bred hruns hword hpos hroom,
    fun rs id a sk n tok rest haccs hrs hbase hkind hfifo hhome hfirst hcycle =>
      exec_baseNodeStreamDelivery haccs hrs hbase hkind hfifo hhome hfirst hcycle⟩
  case dot =>
    intro u v bad a pa row act dot hfull hinside harea hold hstill hsound hread
    have hready : s.DotReady w u v bad := ⟨hruns, hfull, hinside, harea, hold, hstill, hsound, hread⟩
    exact ⟨hready.exec_bgmv_keeps, hready.exec_bgmv_emits⟩

end Sys2Proof.Machine
end
